-- ==== Sys2Proof/Word.lean ====
section
/-! DEFINITION. The word types of the N256 and its sparse tables' representation (R6, R80, R82). -/
namespace Sys2Proof

/-- One byte. -/
abbrev Byte := BitVec 8
/-- A general register, a system register or a memory-mapped register (R80, R7). -/
abbrev Word64 := BitVec 64
/-- A vector register, a segment descriptor or a window (R80, R222, R69). -/
abbrev Word128 := BitVec 128
/-- A physical address (R23). -/
abbrev PAddr := BitVec 52
/-- A physical line number, address bits [51:6] (R245). -/
abbrev LineNo := BitVec 46
/-- A tenant domain number (R59). -/
abbrev Tdid := BitVec 12
/-- A logical core number (R15). -/
abbrev Logical := BitVec 8
/-- An interrupt source ID (R342). -/
abbrev SrcId := BitVec 13

/-- A sparse table: entries with keys strictly rising; a key that is not listed holds the table's default.
`Machine/Tables.lean` has the read, the write and the canonical form. -/
abbrev Tbl (α : Type) := List (Nat × α)

end Sys2Proof
end

