-- ==== Sys2Proof/Config.lean ====
section
/-! DEFINITION. What a part fixes (fuses, keys, analogue conversions) and the values that the spec leaves open:
constants without a body, so that nothing in the model can see what they are. -/
namespace Sys2Proof.Config

/-- A FREE VALUE: a fresh number for each choice that the spec leaves open, applied to `State.free` (log entry 3):
pseudo-LRU victims (R238, R250), the backoff draw r (R275). -/
opaque freeNat : Nat → Nat

/-- FREE VALUE: the raw fuse value of calibrated quantity i before the bounds of R518 (log entry 4). -/
opaque fuseRaw : Nat → Int

/-- FREE VALUE: PATCH_STAGED.FLOOR, the fused patch floor of R218 (log entry 4). -/
opaque patchFloor : BitVec 32

/-- FREE VALUE: the fused firmware rollback floor of R427 and R488 (log entry 4). -/
opaque fwFloor : BitVec 32

/-- FREE VALUE: the fused unique identifier of R427 (log entry 4). -/
opaque uid : BitVec 64

/-- FREE VALUE: whether the ECDSA P-384 signature of a patch image verifies against the Liymet patch key (R218, check 2;
the key's digest is held in fuses and is never readable) (log entry 5). -/
opaque patchSigOk : List Byte → Bool

/-- FREE VALUE: whether TAG verifies under the fused patch decryption key (R218, check 4) (log entry 5). -/
opaque patchTagOk : List Byte → Bool

/-- FREE VALUE: the plaintext byte i of a patch image's BODY under the fused decryption key (R216, R217) (log entry 5). -/
opaque patchPlain : List Byte → Nat → Byte

/-- FREE VALUE: whether a microword breaks a check of R214 that turns on its OP, whose codes R210 does not give: a device-capable
read without COMMIT, or a nonzero field that the operation does not use (log entry 5). -/
opaque microBad : BitVec 64 → Bool

/-- FREE VALUE: the fixed ROM entry address of micro-routine k of R208 (0 to 3 the block-repeat operations, 4 a split access, 5
LSEG, 6 entry in mode 1, 7 RFE with SEG = 1), which R209 does not give (log entry 130). -/
opaque romEntry : Nat → BitVec 14

/-- FREE VALUE: whether SIG of a boot image verifies against the Liymet boot key (R488, check 3) (log entry 5). -/
opaque bootSigOk : List Byte → Bool

/-- FREE VALUE: the bytes of PMB_MAP and the VCORE setpoint that the boot firmware's Keystone body holds (R457, R487: the
body's own layout is not given) (log entry 6). -/
opaque pmbMapOf : List Byte → Nat → BitVec 16

/-- The microcode ROM revision reads 0x01 on every B1 part (R518). -/
def romRev : BitVec 8 := 1

/-- DEVICE_ID (the register description under R30): vendor, part, stepping, package. -/
def deviceId : BitVec 64 := 0x00004C590256B101

end Sys2Proof.Config
end

