-- ==== Sys2Proof/Syntax.lean ====
section
/-! DEFINITION. The commands of the N256, one constructor of `Instr` per row of the opcode table, and the operands they
carry: syllables (R88), stores to control registers (R29), mortar messages (R22, R257), interrupt offers (R345), device
traffic (R388, R392) and the readings that only the outside of the model can supply. -/
namespace Sys2Proof

/-- A syllable that names no operation of the tables (R89, R90, R100): a reserved unit code, an X syllable that follows no
operation syllable it could extend, or a reserved OP value of a unit. -/
inductive OddSyl where
  | unit (u : BitVec 3)
  | x
  | op (u : BitVec 3) (op : BitVec 6)
  deriving DecidableEq, Repr

/-- One operation syllable with its X syllable, if one follows it (R88): `n` is the logical core whose word it is part of,
`a1` selects unit A1 for an integer operation (R89), `s` is the stop bit of its last syllable. A syllable that names no operation
comes under the name NOP with `odd` telling what it is (log entry 77). -/
structure Syl where
  n  : Logical
  a1 : Bool := false
  d  : BitVec 6 := 0
  a  : BitVec 6 := 0
  b  : BitVec 6 := 0
  q  : BitVec 4 := 0
  x  : Option (BitVec 28) := none
  s  : Bool := true
  odd : Option OddSyl := none
  deriving DecidableEq, Repr

/-- A store of a core as it reaches a control block: offset from CTL,
width in bytes, value, the tags of R22, and the store's causal stamp (R29, R30). -/
structure CtlStore where
  n     : Logical
  off   : BitVec 40
  width : Nat := 8
  val   : Word64
  tdid  : Tdid := 0
  epoch : BitVec 8 := 0
  stamp : Nat := 0
  deriving DecidableEq, Repr

/-- Line data with the poison mark of each 8-byte word (R252). Byte i of the line is bits [8i + 7 : 8i]. -/
structure LineData where
  bits   : BitVec 512 := 0
  poison : BitVec 8 := 0
  deriving DecidableEq, Repr

/-- The atomic operations of R123. -/
inductive AtomicOp where
  | swap | add | min | max | minu | maxu
  deriving DecidableEq, Repr

/-- The operand of an HAT: operation, bytes (4 or 8), byte offset in the line, data (R123, R265). -/
structure AtomicReq where
  op   : AtomicOp
  wid  : Nat
  off  : BitVec 6
  opnd : Word64
  deriving DecidableEq, Repr

/-- The coherence messages of R257 (and the answers of R21 and R283). -/
inductive MsgKind where
  | rdS | rdO | upg | hrd | hwr | hat | hlr | hsc | flushReq | cleanReq | invReq
  | fwdS | fwdO | inv | binv | flush | clean | setScrub | setScrubAck
  | dataS | dataE | dataO | dataNf | grant | fwdAck | wbPending | invAck | binvAck
  | wb | vic | evn | wbAck | hDone | retry | agentDown
  deriving DecidableEq, Repr

/-- What a request is made for (R255, R257, R273). -/
inductive ReqUse where
  | load | lr | fetch | walk | pref | store | atomic | sc | maint | device
  deriving DecidableEq, Repr

/-- A mortar message: the header of R22 and the fields of R257. `core` and `idx` name the requesting core's access. -/
structure Msg where
  kind    : MsgKind
  src     : BitVec 7
  dst     : BitVec 7
  tdid    : Tdid := 0
  epoch   : BitVec 8 := 0
  short   : BitVec 24 := 0
  line    : LineNo
  req     : BitVec 7 := 0
  core    : Option Logical := none
  idx     : Nat := 0
  use     : ReqUse := .load
  data    : Option LineData := none
  dirty   : Bool := false
  mask    : BitVec 64 := 0
  atomic  : Option AtomicReq := none
  aclass  : BitVec 4 := 0
  retries : Nat := 0
  claim   : Bool := false
  origin  : MsgKind := .rdS
  set     : BitVec 13 := 0
  ok      : Bool := true
  deriving DecidableEq, Repr

/-- An interrupt delivery as the hub offers it (R345, R196). -/
structure Offer where
  id    : SrcId
  epoch : BitVec 8
  tdid  : Tdid
  prio  : BitVec 8
  clsF  : Bool := false
  deriving DecidableEq, Repr

/-- What a core answers to an offer (R348), and an entry's interrupt handed back to the hub (R190, R200). -/
inductive Answer where
  | accept | refuse | stale | handback
  deriving DecidableEq, Repr

/-- The units of R76 whose rebinding may be waiting for its 8 µs. -/
inductive RebindUnit where
  | core (n : Logical)
  | context (k : BitVec 12)
  | channel (c : BitVec 10)
  | account (t : Tdid)
  deriving DecidableEq, Repr

/-- The scope of a TLB invalidation (R243). `guestOnly` holds for a TLBI made at S. -/
inductive InvScope where
  | page (tag : Tdid) (guestOnly : Bool) (lin : BitVec 48)
  | domain (tag : Tdid)
  | all
  deriving DecidableEq, Repr

/-- A TLBI, TLBID or TLBIA broadcast of core `from_` (R242), with the tags and the short stamp of R22. -/
structure TlbInv where
  from_ : Logical
  scope : InvScope
  tdid  : Tdid := 0
  epoch : BitVec 8 := 0
  short : BitVec 24 := 0
  deriving DecidableEq, Repr

/-- A usage report (R296): the amount of resource r (0 tokens, 1 DRAM bytes, 2 I/O bytes, 3 µJ) with its stamp. -/
structure UsageRep where
  agent  : BitVec 7
  tdid   : Tdid
  r      : BitVec 2
  amount : Nat
  stamp  : Nat
  deriving DecidableEq, Repr

/-- The arbitration points of R309. -/
inductive Arb where
  | mc (m : BitVec 4)
  | rp (p : BitVec 3)
  | dma (e : BitVec 3)
  deriving DecidableEq, Repr

/-- A request to a memory controller (R256, R362), tagged as R286 lays down, with the header of R22; `ovh` marks overhead. -/
structure MemReq where
  id    : Nat
  line  : LineNo
  write : Bool := false
  data  : LineData := {}
  mask  : BitVec 64 := 0
  tdid  : Tdid := 0
  ovh   : Bool := false
  src   : BitVec 7
  epoch : BitVec 8 := 0
  short : BitVec 24 := 0
  deriving DecidableEq, Repr

/-- A memory controller's answer to a home slice (R256): read data, or the acceptance of a write (`none`), with the header of
R22: the controller, and the tags of the request. -/
structure MemAns where
  id    : Nat
  line  : LineNo
  data  : Option LineData := none
  src   : BitVec 7 := 64
  tdid  : Tdid := 0
  epoch : BitVec 8 := 0
  short : BitVec 24 := 0
  deriving DecidableEq, Repr

/-- A symbol error met by a DRAM read: codeword j of the line, position k of R519, and the bits that differ. -/
structure SymErr where
  word : BitVec 3
  pos  : BitVec 4
  xor  : Byte
  deriving DecidableEq, Repr

/-- The kinds of inbound TLP that check 3 of R392 tells apart. -/
inductive TlpKind where
  | read | write | other
  deriving DecidableEq, Repr

/-- An inbound TLP at a root port (R392). -/
structure Tlp where
  kind  : TlpKind
  rid   : BitVec 16
  at_   : BitVec 2 := 0
  pasid : Bool := false
  addr  : Word64
  len   : BitVec 13
  data  : List Byte := []
  ep    : Bool := false
  tag   : Nat := 0
  deriving DecidableEq, Repr

/-- The kinds of outbound request (R387, R129). -/
inductive OutKind where
  | load | store | lr | sc | peerRead | peerWrite
  deriving DecidableEq, Repr

/-- A core access, or a peer request, at a root port's window (R387, R397). -/
structure OutReq where
  kind  : OutKind
  n     : Logical := 0
  idx   : Nat := 0
  pa    : PAddr
  len   : BitVec 7
  data  : List Byte := []
  ep    : Bool := false
  tdid  : Tdid := 0
  epoch : BitVec 8 := 0
  /-- A peer request: the function context it came through; `n` is then the root port it entered and `idx` its tag (R397). -/
  ctx   : Option (BitVec 12) := none
  /-- The agent that sent it, and its short stamp (R22). -/
  src   : BitVec 7 := 0
  short : BitVec 24 := 0
  deriving DecidableEq, Repr

/-- A completion of an outbound non-posted request (R388). -/
structure Cpl where
  idx  : Nat
  ok   : Bool := true
  ep   : Bool := false
  data : List Byte := []
  deriving DecidableEq, Repr

/-- What the Keystone reads of one channel's DIMMs, and how its training went (R357, R358, R366): the ranks that failed each of
the two attempts, 0xFF for the channel. -/
structure ChanSpd where
  supported : Bool := true
  dimms     : BitVec 2 := 1
  x8        : Bool := false
  density   : BitVec 2 := 0
  stack     : BitVec 2 := 0
  ranks     : BitVec 5 := 1
  speed     : BitVec 2 := 2
  failed1   : List (BitVec 8) := []
  failed2   : List (BitVec 8) := []
  deriving DecidableEq, Repr

/-- One regulator's answer to a PMBus poll (R457, R458). -/
structure RegRead where
  tempC  : BitVec 8
  voutMv : BitVec 16
  iout10 : BitVec 16
  status : BitVec 16
  deriving DecidableEq, Repr

/-- The counter banks of R479. -/
inductive Bank where
  | core (n : Logical)
  | course (c : BitVec 5)
  | slice (s : BitVec 5)
  | channel (m : BitVec 4)
  | port (p : BitVec 3)
  deriving DecidableEq, Repr

/-- The commands, one constructor per row of the opcode table, in the table's order. -/
inductive Instr where
  /-- NOP (R112): A0 or A1 operation that does nothing. -/
  | nop (y : Syl)
  /-- ADD (R112): Writes a + b modulo 2^w to G[D]. -/
  | add (y : Syl)
  /-- SUB (R112): Writes a − b modulo 2^w to G[D]. -/
  | sub (y : Syl)
  /-- AND (R112): Writes the bitwise AND of a and b to G[D]. -/
  | and (y : Syl)
  /-- OR (R112): Writes the bitwise OR of a and b to G[D]. -/
  | or (y : Syl)
  /-- XOR (R112): Writes the bitwise XOR of a and b to G[D]. -/
  | xor (y : Syl)
  /-- ANDN (R112): Writes a AND NOT b to G[D]. -/
  | andn (y : Syl)
  /-- SHL (R112): Writes a shifted left by the count to G[D]. -/
  | shl (y : Syl)
  /-- SHR (R112): Writes a shifted right logically by the count to G[D]. -/
  | shr (y : Syl)
  /-- SAR (R112): Writes a shifted right arithmetically by the count to G[D]. -/
  | sar (y : Syl)
  /-- ROR (R112): Writes a rotated right by the count within w bits to G[D]. -/
  | ror (y : Syl)
  /-- CMPEQ (R112): Writes 1 to G[D] if a equals b, otherwise 0. -/
  | cmpeq (y : Syl)
  /-- CMPLT (R112): Writes 1 to G[D] if a is below b signed, otherwise 0. -/
  | cmplt (y : Syl)
  /-- CMPLTU (R112): Writes 1 to G[D] if a is below b unsigned, otherwise 0. -/
  | cmpltu (y : Syl)
  /-- MIN (R112): Writes the signed minimum of a and b to G[D]. -/
  | min (y : Syl)
  /-- MAX (R112): Writes the signed maximum of a and b to G[D]. -/
  | max (y : Syl)
  /-- MINU (R112): Writes the unsigned minimum of a and b to G[D]. -/
  | minu (y : Syl)
  /-- MAXU (R112): Writes the unsigned maximum of a and b to G[D]. -/
  | maxu (y : Syl)
  /-- CLZ (R112): Writes the count of leading zeros of a to G[D]. -/
  | clz (y : Syl)
  /-- CTZ (R112): Writes the count of trailing zeros of a to G[D]. -/
  | ctz (y : Syl)
  /-- POPC (R112): Writes the count of ones in a to G[D]. -/
  | popc (y : Syl)
  /-- LDI (R112): Writes the sign-extended immediate to G[D]. -/
  | ldi (y : Syl)
  /-- LDHI (R112): Writes the immediate into bits 63:30 above a[29:0] to G[D]. -/
  | ldhi (y : Syl)
  /-- MUL (R112): Writes the low w bits of a × b to G[D]. -/
  | mul (y : Syl)
  /-- MULH (R112): Writes the high w bits of the signed product to G[D]. -/
  | mulh (y : Syl)
  /-- MULHU (R112): Writes the high w bits of the unsigned product to G[D]. -/
  | mulhu (y : Syl)
  /-- DIV (R114): Writes the signed quotient truncated toward zero to G[D]. -/
  | div (y : Syl)
  /-- DIVU (R114): Writes the unsigned quotient to G[D]. -/
  | divu (y : Syl)
  /-- REM (R114): Writes the signed remainder to G[D]. -/
  | rem (y : Syl)
  /-- REMU (R114): Writes the unsigned remainder to G[D]. -/
  | remu (y : Syl)
  /-- LD8S (R118): Loads one byte sign-extended into G[D]. -/
  | ld8s (y : Syl)
  /-- LD8U (R118): Loads one byte zero-extended into G[D]. -/
  | ld8u (y : Syl)
  /-- LD16S (R118): Loads two bytes sign-extended into G[D]. -/
  | ld16s (y : Syl)
  /-- LD16U (R118): Loads two bytes zero-extended into G[D]. -/
  | ld16u (y : Syl)
  /-- LD32S (R118): Loads four bytes sign-extended into G[D]. -/
  | ld32s (y : Syl)
  /-- LD32U (R118): Loads four bytes zero-extended into G[D]. -/
  | ld32u (y : Syl)
  /-- LD64 (R118): Loads eight bytes into G[D]. -/
  | ld64 (y : Syl)
  /-- LDV (R118): Loads sixteen bytes into V[D]. -/
  | ldv (y : Syl)
  /-- ST8 (R118): Places a one-byte store of G[D] in the store buffer. -/
  | st8 (y : Syl)
  /-- ST16 (R118): Places a two-byte store of G[D] in the store buffer. -/
  | st16 (y : Syl)
  /-- ST32 (R118): Places a four-byte store of G[D] in the store buffer. -/
  | st32 (y : Syl)
  /-- ST64 (R118): Places an eight-byte store of G[D] in the store buffer. -/
  | st64 (y : Syl)
  /-- STV (R118): Places a sixteen-byte store of V[D] in the store buffer. -/
  | stv (y : Syl)
  /-- ASWAP (R123): Atomically swaps 8 bytes and returns the old value. -/
  | aswap (y : Syl)
  /-- AADD (R123): Atomically adds to 8 bytes and returns the old value. -/
  | aadd (y : Syl)
  /-- AMIN (R123): Atomic signed minimum on 8 bytes, returning the old value. -/
  | amin (y : Syl)
  /-- AMAX (R123): Atomic signed maximum on 8 bytes, returning the old value. -/
  | amax (y : Syl)
  /-- AMINU (R123): Atomic unsigned minimum on 8 bytes, returning the old value. -/
  | aminu (y : Syl)
  /-- AMAXU (R123): Atomic unsigned maximum on 8 bytes, returning the old value. -/
  | amaxu (y : Syl)
  /-- ASWAPW (R123): Atomically swaps 4 bytes and returns the old value sign-extended. -/
  | aswapw (y : Syl)
  /-- AADDW (R123): Atomically adds to 4 bytes and returns the old value sign-extended. -/
  | aaddw (y : Syl)
  /-- AMINW (R123): Atomic signed minimum on 4 bytes. -/
  | aminw (y : Syl)
  /-- AMAXW (R123): Atomic signed maximum on 4 bytes. -/
  | amaxw (y : Syl)
  /-- AMINUW (R123): Atomic unsigned minimum on 4 bytes, old value zero-extended. -/
  | aminuw (y : Syl)
  /-- AMAXUW (R123): Atomic unsigned maximum on 4 bytes, old value zero-extended. -/
  | amaxuw (y : Syl)
  /-- LR (R126): Loads 8 bytes and sets the core's reservation, or opens a locked sequence in a PCIe window. -/
  | lr (y : Syl)
  /-- SC (R126): Stores 8 bytes only if the reservation holds and reports success or failure in G[D]. -/
  | sc (y : Syl)
  /-- FENCE (R122): Orders older accesses of the selected kinds before younger ones. -/
  | fence (y : Syl)
  /-- MOVB (R130): Starts a block copy of G4 elements from the G5 region to the G6 region. -/
  | movb (y : Syl)
  /-- SETB (R130): Starts a block fill of the G6 region with G7. -/
  | setb (y : Syl)
  /-- CMPB (R130): Starts a block compare of the G5 and G6 regions. -/
  | cmpb (y : Syl)
  /-- SCANB (R130): Starts a block scan of the G5 region for G7. -/
  | scanb (y : Syl)
  /-- BLOCK_CHUNK (R131): One chunk of a block-repeat operation is checked, read and committed once its lines are available. -/
  | blockChunk (n : BitVec 8) (parityErr : Bool)
  /-- CFLUSH (R135): Writes back and invalidates the line in every cache of the coherent domain. -/
  | cflush (y : Syl)
  /-- CCLEAN (R135): Writes a dirty copy of the line to memory, leaving copies valid. -/
  | cclean (y : Syl)
  /-- CINV (R135): Invalidates every copy of the line, discarding dirty data. -/
  | cinv (y : Syl)
  /-- PREF (R135): Reads the line into the course L2, or is dropped. -/
  | pref (y : Syl)
  /-- ICINV (R135): Invalidates the line in every in-service L1I and discards words fetched beyond it. -/
  | icinv (y : Syl)
  /-- TLBI (R242): Broadcasts removal of TLB and walk cache entries for a linear page. -/
  | tlbi (y : Syl)
  /-- TLBID (R242): Broadcasts removal of every TLB and walk cache entry of a TDID tag. -/
  | tlbid (y : Syl)
  /-- TLBIA (R242): Broadcasts removal of every TLB and walk cache entry. -/
  | tlbia (y : Syl)
  /-- TLBLK (R240): Translates an address and installs the entry locked in the core's L2 TLB. -/
  | tlblk (y : Syl)
  /-- TLBULK (R137): Clears the lock on the core's entries for a linear page. -/
  | tlbulk (y : Syl)
  /-- LSEG (R223): Loads a segment register from a 16-byte descriptor after checking it. -/
  | lseg (y : Syl)
  /-- VADD (R140): Adds vector elements modulo 2^e. -/
  | vadd (y : Syl)
  /-- VSUB (R140): Subtracts vector elements modulo 2^e. -/
  | vsub (y : Syl)
  /-- VAND (R140): Bitwise AND on 128 bits. -/
  | vand (y : Syl)
  /-- VOR (R140): Bitwise OR on 128 bits. -/
  | vor (y : Syl)
  /-- VXOR (R140): Bitwise XOR on 128 bits. -/
  | vxor (y : Syl)
  /-- VSHL (R140): Shifts each element left by its own count. -/
  | vshl (y : Syl)
  /-- VSHR (R140): Shifts each element right logically by its own count. -/
  | vshr (y : Syl)
  /-- VMIN (R140): Signed element-wise minimum. -/
  | vmin (y : Syl)
  /-- VMAX (R140): Signed element-wise maximum. -/
  | vmax (y : Syl)
  /-- VCMPEQ (R140): Element mask of equality. -/
  | vcmpeq (y : Syl)
  /-- VCMPGT (R140): Element mask of signed greater-than. -/
  | vcmpgt (y : Syl)
  /-- FADD (R141): IEEE 754 element addition rounded by RM. -/
  | fadd (y : Syl)
  /-- FSUB (R141): IEEE 754 element subtraction rounded by RM. -/
  | fsub (y : Syl)
  /-- FMUL (R141): IEEE 754 element multiplication rounded by RM. -/
  | fmul (y : Syl)
  /-- FDIV (R141): IEEE 754 element division on the unpipelined divider. -/
  | fdiv (y : Syl)
  /-- FSQRT (R141): IEEE 754 element square root on the unpipelined divider. -/
  | fsqrt (y : Syl)
  /-- FMA (R141): Fused multiply-add V[D] + V[A] × V[B], rounded once. -/
  | fma (y : Syl)
  /-- FMS (R141): Fused multiply-subtract V[D] − V[A] × V[B], rounded once. -/
  | fms (y : Syl)
  /-- FMIN (R141): Floating-point minimum with the NaN and signed-zero rules. -/
  | fmin (y : Syl)
  /-- FMAX (R141): Floating-point maximum with the NaN and signed-zero rules. -/
  | fmax (y : Syl)
  /-- FCMPEQ (R140): Element mask of floating-point equality. -/
  | fcmpeq (y : Syl)
  /-- FCMPLT (R140): Element mask of floating-point less-than. -/
  | fcmplt (y : Syl)
  /-- FCVTIF (R140): Converts signed integers to floats of the same width. -/
  | fcvtif (y : Syl)
  /-- FCVTFI (R141): Converts floats to signed integers with saturation and NaN to 0. -/
  | fcvtfi (y : Syl)
  /-- VMOV (R140): Copies V[A] to V[D]. -/
  | vmov (y : Syl)
  /-- VINSG (R140): Inserts G[A] into element B of V[D]. -/
  | vinsg (y : Syl)
  /-- VEXTG (R140): Extracts element B of V[A] sign-extended into G[D]. -/
  | vextg (y : Syl)
  /-- VSPLAT (R140): Broadcasts G[A] to every element of V[D]. -/
  | vsplat (y : Syl)
  /-- VSHUF (R140): Selects bytes of V[A] by the bytes of V[B]. -/
  | vshuf (y : Syl)
  /-- BR (R142): Conditional or unconditional branch by displacement. -/
  | br (y : Syl)
  /-- JR (R142): Transfers to the address in G[A]. -/
  | jr (y : Syl)
  /-- CALL (R142): Writes the link, pushes the return stack and branches by displacement. -/
  | call (y : Syl)
  /-- CALLR (R142): Writes the link, pushes the return stack and transfers to G[B]. -/
  | callr (y : Syl)
  /-- RET (R142): Transfers to G[A] and pops the return stack. -/
  | ret (y : Syl)
  /-- SYSCALL (R142): Traps with cause 0x30 and TRAPPC at the next word. -/
  | syscall (y : Syl)
  /-- HYPERCALL (R142): Traps to H with cause 0x31 and TRAPPC at the next word. -/
  | hypercall (y : Syl)
  /-- BREAK (R142): Traps with cause 0x38 and TRAPPC at this word. -/
  | brk (y : Syl)
  /-- RFE (R205): Returns from a trap, restoring level and IE and clearing the busy bit. -/
  | rfe (y : Syl)
  /-- RFE_FRAME_COMMIT (R206): The entry frame read by an RFE with SEG = 1 arrives, is checked and the return commits. -/
  | rfeFrameCommit (n : BitVec 8)
  /-- MFS (R143): Reads a system register into G[D]. -/
  | mfs (y : Syl)
  /-- MTS (R143): Writes a system register that has no row of its own once older words commit. -/
  | mts (y : Syl)
  /-- MTS_TDID (R62): Rebinds the core to a domain and virtual core, incrementing EPOCH.CORE and reporting to the hub. -/
  | mtsTdid (y : Syl)
  /-- REBIND_DELAY_EXPIRY (R76): A rebinding held for 8 µs since the previous one proceeds. -/
  | rebindDelayExpiry (u : RebindUnit)
  /-- MTS_REIN (R39): Writes REIN.PACE and PL and drives the course sequencer to adjust EFF and voltage. -/
  | mtsRein (y : Syl)
  /-- MTS_LOCKHELD (R301): Writes LOCKHELD.HELD; a zero ends any grace in progress. -/
  | mtsLockheld (y : Syl)
  /-- MTS_TMODE (R201): Writes TMODE, TENTRY or TDESC of level S, clears FREADY and starts a class F entry buffer fill. -/
  | mtsTmode (y : Syl)
  /-- CLASS_F_FILL_DONE (R201): The class F entry buffer fill completes, setting FREADY or FFAIL. -/
  | classFFillDone (n : BitVec 8)
  /-- MTS_PCTL (R177): Writes PCTL and refetches the words beyond it under the new mode. -/
  | mtsPctl (y : Syl)
  /-- MTS_EVMASK (R355): Writes event group membership, held by the hub when the MTS commits. -/
  | mtsEvmask (y : Syl)
  /-- S_THRESHOLD (R350): An MTS to THRESH with no operation sets the S threshold at the hub. -/
  | sThreshold (y : Syl)
  /-- S_CLAIM (R351): An MTS to THRESH with OP claim claims the most recent unclaimed S interrupt. -/
  | sClaim (y : Syl)
  /-- S_EOI (R352): An MTS to THRESH with OP end of interrupt ends the named S source. -/
  | sEoi (y : Syl)
  /-- WFE (R146): Consumes the event flag or waits for it or an interrupt wake. -/
  | wfe (y : Syl)
  /-- SEV (R145): Sends one event to a virtual core or event group of the sender's domain. -/
  | sev (y : Syl)
  /-- WAITT (R147): Waits until a plumb deadline, an event or an interrupt wake and reports the reason. -/
  | waitt (y : Syl)
  /-- WAITT_DEADLINE (R147): The course replica reaches a waiting WAITT's deadline and the WAITT completes with 0. -/
  | waittDeadline (n : BitVec 8)
  /-- NAP (R148): Places the core in the nap state until an interrupt wake. -/
  | nap (y : Syl)
  /-- RDTIME (R142): Reads plumb time from the course replica into G[D]. -/
  | rdtime (y : Syl)
  /-- PFLUSH (R142): Discards branch predictor state and words fetched beyond it. -/
  | pflush (y : Syl)
  /-- PBAR (R171): Sets or clears PBARRED and refetches under the new mode. -/
  | pbar (y : Syl)
  /-- WARM_UP_END (R167): WARM_LEFT reaches 0 and the core leaves warm-up plain mode. -/
  | warmUpEnd (n : BitVec 8)
  /-- L1I_MISS_FILL (R159): An instruction fetch line arrives from the course L2 and fetch continues. -/
  | l1iMissFill (n : BitVec 8)
  /-- LOAD_DATA_RETURN (R152): The data of an outstanding load, atomic, LR or SC arrives and its result is written with its poison mark. -/
  | loadDataReturn (n : BitVec 8) (i : Nat)
  /-- RESULT_WRITE (R152): A long-latency unit finishes and writes its result, clearing the scoreboard bit. -/
  | resultWrite (n : BitVec 8) (i : Nat)
  /-- STORE_DRAIN (R156): The oldest committed store buffer entry is performed at the course L2. -/
  | storeDrain (n : BitVec 8)
  /-- WALK_ENTRY_READ (R236): A table entry read of a walk returns and the walk descends, installs or faults. -/
  | walkEntryRead (n : BitVec 8)
  /-- EXCEPTION_ENTRY (R188): A faulting or trapping word reaches CM and trap entry begins toward the chosen level. -/
  | exceptionEntry (n : BitVec 8)
  /-- TRAP_ENTRY_COMMIT (R188): The trap descriptor and frame check complete and entry commits, or an entry fault is taken. -/
  | trapEntryCommit (n : BitVec 8)
  /-- INTERRUPT_OFFER (R348): A delivery from the hub reaches the core and is held for judgement, replacing an earlier offer. -/
  | interruptOffer (n : BitVec 8) (o : Offer)
  /-- CLASS_P_ENTRY (R199): At its acceptance point the core judges a class P offer and enters or refuses it. -/
  | classPEntry (n : BitVec 8)
  /-- CLASS_F_ENTRY (R203): When R202 conditions hold the core accepts a class F offer and enters in 28 tokens. -/
  | classFEntry (n : BitVec 8)
  /-- EVENT_ARRIVAL (R144): An SEV event from the hub reaches a core and sets its event flag or is refused. -/
  | eventArrival (n : BitVec 8) (epoch : BitVec 8) (sender : BitVec 12)
  /-- PACE_GENERATOR_TICK (R41): Each plumb nanosecond the pace generator adds tokens to the bank. -/
  | paceGeneratorTick (n : BitVec 8)
  /-- RESERVATION_HOLD_EXPIRY (R128): 64 ns after an LR the course L2 serves a forward it held back. -/
  | reservationHoldExpiry (n : BitVec 8)
  /-- RD_S (R260): A home receives a read for a shared copy and serves it from L3, memory or the owner. -/
  | rdS (m : Msg)
  /-- RD_O (R261): A home receives a read for ownership and gathers the line exclusively for the requester. -/
  | rdO (m : Msg)
  /-- UPG (R262): A home receives an upgrade from S and invalidates other sharers. -/
  | upg (m : Msg)
  /-- HRD (R265): A home performs a read for a requester that keeps no copy. -/
  | hrd (m : Msg)
  /-- HWR (R265): A home performs a masked write for a requester that keeps no copy. -/
  | hwr (m : Msg)
  /-- HAT (R265): A home performs an atomic and returns the old value. -/
  | hat (m : Msg)
  /-- HLR (R266): A home performs a reservation load for a logical core. -/
  | hlr (m : Msg)
  /-- HSC (R266): A home performs a conditional store against its held reservation. -/
  | hsc (m : Msg)
  /-- FLUSH_REQ (R267): A home carries out a CFLUSH across every course and its L3. -/
  | flushReq (m : Msg)
  /-- CLEAN_REQ (R267): A home carries out a CCLEAN through the owner and its L3. -/
  | cleanReq (m : Msg)
  /-- INV_REQ (R267): A home carries out a CINV across every course, discarding dirty data. -/
  | invReq (m : Msg)
  /-- FWD_S (R261): An owner sends data to the requester and keeps the line in S. -/
  | fwdS (m : Msg)
  /-- FWD_O (R261): An owner sends data with its dirty flag to the requester and goes to I. -/
  | fwdO (m : Msg)
  /-- INV (R262): A sharer removes its copy and answers INV_ACK. -/
  | inv (m : Msg)
  /-- BINV (R274): A holder removes a line whose directory entry is evicted and returns dirty data. -/
  | binv (m : Msg)
  /-- FLUSH (R267): A course writes back and invalidates a line for a CFLUSH. -/
  | flush (m : Msg)
  /-- CLEAN (R267): An owner writes back a dirty line and keeps it clean. -/
  | clean (m : Msg)
  /-- SET_SCRUB (R283): A course clears every L2 line that can map to a named directory set. -/
  | setScrub (m : Msg)
  /-- SET_SCRUB_ACK (R283): A course's acknowledgement of a set scrub reaches the slice, which clears the set after the last. -/
  | setScrubAck (m : Msg)
  /-- DATA_S (R260): A requesting course installs a line in S and completes its access. -/
  | dataS (m : Msg)
  /-- DATA_E (R260): A requesting course installs a line in E and completes its access. -/
  | dataE (m : Msg)
  /-- DATA_O (R261): A requesting course installs a line owned, in M when dirty. -/
  | dataO (m : Msg)
  /-- DATA_NF (R273): A course uses the data for one access only and completes writes at the home. -/
  | dataNf (m : Msg)
  /-- GRANT (R262): A course's upgrade is granted and its line goes to E or M. -/
  | grant (m : Msg)
  /-- FWD_ACK (R261): A home receives an owner's forward answer and completes the transaction. -/
  | fwdAck (m : Msg)
  /-- WB_PENDING (R270): A home serves a forward from the writeback data it holds and sends WB_ACK. -/
  | wbPending (m : Msg)
  /-- INV_ACK (R262): A home counts a sharer's invalidation acknowledgement. -/
  | invAck (m : Msg)
  /-- BINV_ACK (R274): A home counts a back-invalidation acknowledgement and places dirty data in L3. -/
  | binvAck (m : Msg)
  /-- WB (R264): A home accepts a dirty eviction into a landing entry and places it in L3. -/
  | wb (m : Msg)
  /-- VIC (R264): A home accepts a clean eviction from E into L3. -/
  | vic (m : Msg)
  /-- EVN (R264): A home removes the course from HOLDERS for an S eviction. -/
  | evn (m : Msg)
  /-- WB_ACK (R264): A course frees its writeback buffer entry. -/
  | wbAck (m : Msg)
  /-- H_DONE (R265): A requester completes a home-performed access with any returned data. -/
  | hDone (m : Msg)
  /-- RETRY (R275): A requester not admitted by a home starts its backoff wait. -/
  | retry (m : Msg)
  /-- RETRY_BACKOFF_EXPIRY (R275): A requester's backoff ends and it reissues the request, with a claim if due. -/
  | retryBackoffExpiry (agent : Nat) (line : BitVec 46)
  /-- CLAIM_EXPIRY (R276): A set claim lapses 10 µs after it was recorded. -/
  | claimExpiry (slice : BitVec 5) (set : BitVec 13)
  /-- MESSAGE_TO_DOWN_AGENT (R21): A stop answers a message for an off or dead agent with AGENT_DOWN. -/
  | messageToDownAgent (m : Msg)
  /-- AGENT_DOWN (R21): A sender receives AGENT_DOWN and acts as its chapter defines. -/
  | agentDown (m : Msg)
  /-- DEAD_AGENT_TIMEOUT (R277): A home waits DEAD_TO for an answer and reports the agent to the Keystone, which declares it dead. -/
  | deadAgentTimeout (slice : BitVec 5) (line : BitVec 46) (agent : Nat)
  /-- DEAD_AGENT_NOTICE (R278): A slice told of a dead agent reclaims every entry naming it. -/
  | deadAgentNotice (slice : BitVec 5) (agent : Nat)
  /-- HOME_STALL (R282): A course request waiting DEAD_TO at a home sets HOME_STALL and is journaled. -/
  | homeStall (course : BitVec 5) (line : BitVec 46)
  /-- TLB_INVALIDATION (R242): A core receives a TLB invalidation broadcast, removes entries and acknowledges once dependent accesses perform. -/
  | tlbInvalidation (n : BitVec 8) (i : TlbInv)
  /-- TLB_INV_ACK (R242): An invalidation acknowledgement reaches the executing core, which commits after the last. -/
  | tlbInvAck (n : BitVec 8) (from_ : BitVec 8)
  /-- ICINV_BROADCAST (R135): A course invalidates the line in its cores' L1I and acknowledges. -/
  | icinvBroadcast (course : BitVec 5) (n : BitVec 8) (line : BitVec 46)
  /-- WINDOW_LOWER_WRITE (R69): A store to the lower half of WINDOW applies it and any held upper half and sends it to every holder. -/
  | windowLowerWrite (st : CtlStore)
  /-- WINDOW_UPPER_WRITE (R69): A store to the upper half of WINDOW is held until the next lower-half store. -/
  | windowUpperWrite (st : CtlStore)
  /-- WINDOW_HOLDER_UPDATE (R69): A course, root port or DMA slice takes a new window value between two checks. -/
  | windowHolderUpdate (holder : Nat) (t : BitVec 12) (w : BitVec 4)
  /-- PMASK_WRITE (R71): Writes a partition way mask, refusing a zero field. -/
  | pmaskWrite (st : CtlStore)
  /-- DOM_PAUSE (R74): Setting DOM_CTL.PAUSED holds the domain's cores and DMA channels. -/
  | domPause (st : CtlStore)
  /-- DOM_UNPAUSE (R74): Clearing DOM_CTL.PAUSED resumes the domain's work. -/
  | domUnpause (st : CtlStore)
  /-- DOM_RT_WRITE (R73): A write of DOM_CTL.RT is applied subject to the limit of 12 and class F sources. -/
  | domRtWrite (st : CtlStore)
  /-- CTL_WRITE (R30): A store to a control register with no row of its own, applied with collision and refusal rules. -/
  | ctlWrite (st : CtlStore)
  /-- HUB_SETPEND (R343): Sets an edge source pending. -/
  | hubSetpend (st : CtlStore)
  /-- HUB_CLRPEND (R356): Clears an edge source pending and withdraws an unclaimed acceptance. -/
  | hubClrpend (st : CtlStore)
  /-- SRC_WRITE (R349): Writes a source entry's target, class and priority, refusing class F to a non-real-time domain. -/
  | srcWrite (st : CtlStore)
  /-- H_THRESHOLD (R350): A store to HCLAIM with no operation sets the H threshold of a logical core. -/
  | hThreshold (st : CtlStore)
  /-- H_CLAIM (R351): A store to HCLAIM with OP claim claims the most recent unclaimed H interrupt. -/
  | hClaim (st : CtlStore)
  /-- H_EOI (R352): A store to HCLAIM with OP end of interrupt ends the named H source. -/
  | hEoi (st : CtlStore)
  /-- MSI_MESSAGE (R353): The hub maps an interrupt message of a function context to a source and sets it pending or drops it. -/
  | msiMessage (k : BitVec 12) (epoch : BitVec 8) (data : BitVec 32)
  /-- LEVEL_LINE_CHANGE (R343): A level source's line changes and the hub re-evaluates its target. -/
  | levelLineChange (id : BitVec 13)
  /-- OFFER_ANSWER (R348): A core's acknowledgement or refusal reaches the hub, which sets INSERV and RUNPRI or keeps the source pending. -/
  | offerAnswer (n : BitVec 8) (id : BitVec 13) (a : Answer)
  /-- BINDING_REPORT (R65): The hub receives a core's new binding, updates its map and acknowledges. -/
  | bindingReport (n : BitVec 8)
  /-- CORE_STATE_REPORT (R197): The hub receives a change of a core's level, IE, busy bits, epoch or threshold and re-evaluates. -/
  | coreStateReport (n : BitVec 8)
  /-- SEV_MESSAGE (R355): The hub resolves an SEV and sends one event to each target core, or drops it. -/
  | sevMessage (tdid : BitVec 12) (group : Bool) (target : BitVec 8)
  /-- PLUMB_LOCK (R44): The plumb master locks to PLUMB_REFCLK and counts from 0. -/
  | plumbLock
  /-- PLUMB_SYNC (R45): Every 1 µs the master synchronises every replica. -/
  | plumbSync (devs : List (BitVec 7 × Int))
  /-- PPS_EDGE (R49): An accepted PPS_IN edge is latched and steps, slews or is only recorded by mode. -/
  | ppsEdge (rising : Bool)
  /-- PPS_LOST (R52): No PPS edge for 1.5 s in SLEW mode stops slewing and raises the alert. -/
  | ppsLost
  /-- REF_LOST (R53): PLUMB_REFCLK absent for 100 ns enters holdover. -/
  | refLost
  /-- REF_RETURN (R53): PLUMB_REFCLK returns, the master relocks and clears HOLD. -/
  | refReturn
  /-- SET_STAMP_HOLD_END (R516): 1 ms after a set, agents again raise recv_hi from received messages. -/
  | setStampHoldEnd (agent : Nat)
  /-- SET_MARK (R516): An agent's set mark reaches the journal engine. -/
  | setMark (agent : Nat)
  /-- JRN_SET_HOLD_EXPIRY (R516): 2 ms after a set the journal engine writes held post-set records. -/
  | jrnSetHoldExpiry
  /-- JOURNAL_RECORD (R325): A record reaches the journal engine and is given a slot, dropped or overwrites the oldest. -/
  | journalRecord (agent : Nat)
  /-- RING_WRITE_DONE (R324): A record's ring write is performed and JRN_HEAD advances. -/
  | ringWriteDone
  /-- JRN_CTL_WRITE (R327): Writes JRN_CTL; setting EN resets HEAD and TAIL and writes held records. -/
  | jrnCtlWrite (st : CtlStore)
  /-- JRN_TAIL_WRITE (R326): Advances JRN_TAIL, judged after any engine advance. -/
  | jrnTailWrite (st : CtlStore)
  /-- MINUTE_BOUNDARY (R330): An agent's replica reaches a minute boundary; it switches banks and sends its final report. -/
  | minuteBoundary (agent : Nat)
  /-- FINAL_REPORT (R330): A final minute report reaches the journal engine, or is added to the next minute when late. -/
  | finalReport (agent : Nat) (minute : Nat)
  /-- MINUTE_CLOSE (R340): The engine closes a minute when every report is in or 2 ms after the boundary and builds, attributes and seals records. -/
  | minuteClose (railUJ : Option Nat)
  /-- MINUTE_SEALED (R340): The last write of the minute's slot is performed; LAST is set and the minute journaled. -/
  | minuteSealed
  /-- L3_OCC_SAMPLE (R331): Every 1 ms a slice adds each domain's placed L3 lines to its occupancy count. -/
  | l3OccSample (slice : BitVec 5)
  /-- LEASE_LOW (R293): A core's lease falls to 1,024 tokens and it sends a draw. -/
  | leaseLow (n : BitVec 8)
  /-- LEASE_DRAW (R293): The budget block debits a draw from the token balance or refuses it and sets DRY. -/
  | leaseDraw (n : BitVec 8)
  /-- LEASE_GRANT (R294): A granted lease reaches the core, which resumes if stalled. -/
  | leaseGrant (n : BitVec 8)
  /-- LEASE_EXHAUSTED (R294): A core uses up its lease without a new one and stalls or takes grace. -/
  | leaseExhausted (n : BitVec 8)
  /-- GRACE_OUT (R301): A core's grace tokens run out while HELD is nonzero. -/
  | graceOut (n : BitVec 8)
  /-- LEASE_RETURN (R295): The unused lease of a rebinding core is returned to the old domain's balance. -/
  | leaseReturn (n : BitVec 8)
  /-- USAGE_REPORT_DUE (R296): A counting agent's 1 µs or amount threshold expires and it sends a usage report. -/
  | usageReportDue (agent : Nat) (t : BitVec 12)
  /-- USAGE_REPORT (R296): The budget block subtracts reported usage and sends DRY when a balance reaches zero. -/
  | usageReport (r : UsageRep)
  /-- DRY_NOTICE (R297): A stall point receives DRY and holds the domain's next requests. -/
  | dryNotice (point : Nat) (t : BitVec 12) (r : BitVec 2) (period : Nat)
  /-- RELEASE_NOTICE (R297): A stall point receives RELEASE and releases held requests in order. -/
  | releaseNotice (point : Nat) (t : BitVec 12) (r : BitVec 2) (period : Nat)
  /-- PERIOD_BOUNDARY (R289): At each budget period boundary every open domain's balances are refilled. -/
  | periodBoundary
  /-- REFILL (R290): A refill of a plan reaches the budget block and is applied or refused STALE_ROLE. -/
  | refill (t : BitVec 12) (epoch : BitVec 8) (credits : List (BitVec 64))
  /-- ENERGY_PLAN (R304): The Keystone runs the planner, splitting energy credit and choosing course voltages. -/
  | energyPlan (leakMW : List Nat)
  /-- ARB_WINDOW_REFILL (R311): Every WIN × 100 ns each arbiter refills its domain counters. -/
  | arbWindowRefill (arb : Arb)
  /-- ARB_PHASE (R310): An arbiter samples pending requests and grants the next transfer. -/
  | arbPhase (arb : Arb)
  /-- GRANT_REVOKE (R315): A held grant reaches the hold limit and the root port revokes it with RETRY. -/
  | grantRevoke (port : BitVec 3) (line : BitVec 46)
  /-- MEMORY_REQUEST (R362): A memory controller accepts a read or write into its queues and answers writes at once. -/
  | memoryRequest (ch : BitVec 4) (r : MemReq)
  /-- DRAM_READ_DONE (R372): A DRAM read returns, is decoded and sent corrected, poisoned or uncorrectable. -/
  | dramReadDone (ch : BitVec 4) (id : Nat) (errs : List SymErr)
  /-- REFRESH_DUE (R364): A rank's refresh falls due and is issued or postponed within the bound. -/
  | refreshDue (ch : BitVec 4) (rank : BitVec 4)
  /-- DIMM_TEMP_POLL (R364): Every 32 ms the controller reads each DIMM's temperature status. -/
  | dimmTempPoll (ch : BitVec 4) (temps : List Nat)
  /-- RETRAIN_STEP (R367): A scheduled retraining step of one rank runs and keeps or replaces its settings. -/
  | retrainStep (ch : BitVec 4) (rank : BitVec 4) (step : BitVec 2) (pass : Bool)
  /-- PANIC_START (R365): The oldest real-time request reaches the panic threshold and lower work stops. -/
  | panicStart (ch : BitVec 4)
  /-- SCRUB_LINE (R378): The scrubber reads its next line at its rate and writes back a corrected one. -/
  | scrubLine (ch : BitVec 4) (errs : List SymErr)
  /-- SPARE_STATE_DONE (R379): A spare entry completes FILL, COPY or SWITCH and moves to its next state. -/
  | spareStateDone (ch : BitVec 4)
  /-- INBOUND_TLP (R392): A root port checks, translates and forwards an inbound request, or fails it. -/
  | inboundTlp (port : BitVec 3) (t : Tlp)
  /-- OUTBOUND_COMPLETION (R388): A completion for an outbound non-posted request returns data, poison or all ones. -/
  | outboundCompletion (port : BitVec 3) (n : BitVec 8) (c : Cpl)
  /-- CPL_TIMEOUT (R388): An outbound request gets no completion within CPLTO and ends with poisoned all ones. -/
  | cplTimeout (port : BitVec 3) (n : BitVec 8)
  /-- LINK_DOWN (R399): A link leaves DL_Active unrequested; its contexts halt and the port may be declared dead. -/
  | linkDown (port : BitVec 3) (link : BitVec 2) (surprise : Bool)
  /-- LINK_UP (R399): A link returns to DL_Active and HPCHG is set. -/
  | linkUp (port : BitVec 3) (link : BitVec 2) (rate : BitVec 3) (width : Nat)
  /-- PRESENCE_CHANGE (R400): Presence detect of a link changes and HPCHG is set. -/
  | presenceChange (port : BitVec 3) (link : BitVec 2) (present : Bool)
  /-- PERST_RELEASE (R505): PE_PERST_N of an existing link is released and the link trains. -/
  | perstRelease (port : BitVec 3) (link : BitVec 2)
  /-- CTX_BIND (R391): A CTX_CTL write that sets EN or changes TDID, RID or PORT rebinds the context. -/
  | ctxBind (st : CtlStore)
  /-- CTX_RESUME (R398): A write of RESUME = 1 clears HALTED unless the link is down. -/
  | ctxResume (st : CtlStore)
  /-- IOINV_PAGE (R396): IOINV scope 1 invalidates one page of a context or channel. -/
  | ioinvPage (st : CtlStore)
  /-- IOINV_UNIT (R396): IOINV scope 2 invalidates every translation of a context or channel. -/
  | ioinvUnit (st : CtlStore)
  /-- IOINV_DOMAIN (R396): IOINV scope 3 invalidates every I/O translation of a domain. -/
  | ioinvDomain (st : CtlStore)
  /-- IOINV_ALL (R396): IOINV scope 4 invalidates every I/O translation. -/
  | ioinvAll (st : CtlStore)
  /-- IOINV_DONE (R396): Every access using a removed I/O entry has been performed and DONE sets. -/
  | ioinvDone
  /-- CH_ENABLE (R403): A write of CH_CTL.EN = 1 starts or restarts descriptor processing. -/
  | chEnable (st : CtlStore)
  /-- CH_DISABLE (R403): A write of CH_CTL.EN = 0 stops the channel at the next descriptor boundary. -/
  | chDisable (st : CtlStore)
  /-- CH_TDID_WRITE (R406): A change of CH_CTL.TDID rebinds an idle or halted channel. -/
  | chTdidWrite (st : CtlStore)
  /-- CH_TAIL_WRITE (R402): A write of CH_PTR.TAIL makes descriptors ready. -/
  | chTailWrite (st : CtlStore)
  /-- DMA_CHUNK (R403): A channel checks, reads and writes one 64-byte chunk, or halts on failure. -/
  | dmaChunk (ch : BitVec 10)
  /-- DMA_COMPLETION (R404): A queued completion reaches issue and writes STATUS and the interrupt, or is discarded stale. -/
  | dmaCompletion (ch : BitVec 10)
  /-- KSP_WRITE (R412): A WRITE transaction on the serial port delivers a command packet, or is discarded. -/
  | kspWrite (bytes : List (BitVec 8))
  /-- KSP_READ (R412): A READ transaction clocks out the waiting reply. -/
  | kspRead (clocked : Nat)
  /-- KSP_STATUS (R411): A STATUS transaction returns the status byte. -/
  | kspStatus
  /-- MB_GO (R413): A write of MB_CTL.GO submits the mailbox packet to the Keystone. -/
  | mbGo (st : CtlStore)
  /-- MB_READY_RELEASE (R413): Writing 1 to MB_STATUS.READY releases the mailbox reply. -/
  | mbReadyRelease (st : CtlStore)
  /-- GET_STATE (R426): Returns state, phase, BOOTST, DEGR, plumb time, last minute and patch level. -/
  | getState
  /-- IDENTIFY (R427): Returns device identity, firmware version and rollback floors. -/
  | identify
  /-- GET_CORES (R428): Returns the state of a range of physical cores. -/
  | getCores
  /-- ALERTS (R429): Returns, clears and masks alert bits. -/
  | alerts
  /-- READ_MINUTE (R430): Returns a minute's trailer or records from its slot. -/
  | readMinute
  /-- ACK_MINUTE (R430): Writes LED_ACK.MINUTE. -/
  | ackMinute
  /-- SET_PLUMB (R431): Sets master plumb time in FILLING as a set. -/
  | setPlumb
  /-- SET_PPS (R431): Writes the PPS mode and edge. -/
  | setPps
  /-- SET_TRIM (R476): Writes a user trim and returns the effective value. -/
  | setTrim
  /-- SET_MEMCFG (R431): Sets the highest memory rate and whether a spare rank is held. -/
  | setMemcfg
  /-- SET_PCIE (R431): Sets a root port's bifurcation and maximum rate. -/
  | setPcie
  /-- START_FILL (R489): Starts training, fill and initialisation; replies ACCEPTED. -/
  | startFill
  /-- SERVE (R432): Moves BOOTING to SERVING or DEGRADED. -/
  | serve
  /-- RESET (R432): Replies, waits for the reply to be read or 10 ms, then enters COLD. -/
  | reset
  /-- MBOX_ALLOW (R432): Writes the mailbox opcode groups. -/
  | mboxAllow
  /-- DOM_OPEN (R433): Opens a closed domain with its ceilings, weights and a new account epoch. -/
  | domOpen
  /-- DOM_CLOSE (R433): Closes a domain with no bound units or class F sources. -/
  | domClose
  /-- DOM_BUDGET (R433): Rewrites an open domain's ceilings, weights and flags. -/
  | domBudget
  /-- SET_POWER (R435): Writes the power cap, reserve and budget period. -/
  | setPower
  /-- GET_POWER (R435): Returns cap, reserve, period and regulator readings. -/
  | getPower
  /-- CORE_ROTATE (R461): Moves a logical core onto its course's spare. -/
  | coreRotate (readback : Bool × Bool)
  /-- ROTATION_SWITCH (R461): Once the outgoing core has stopped and drained, its state is saved into the spare and the number remapped. -/
  | rotationSwitch (n : BitVec 8)
  /-- AUTO_ROTATION (R464): The Keystone declares a stopped core dead and places its logical number on a spare. -/
  | autoRotation (n : BitVec 8) (readback : Bool × Bool)
  /-- CORE_RETURN (R465): Self-tests a dead or off core and makes it the course's spare. -/
  | coreReturn
  /-- CORE_START (R436): Starts a logical core at H in domain 0 at a given offset. -/
  | coreStart (readback : Bool × Bool)
  /-- AGENT_DEAD (R277): Declares a course or root port dead by command. -/
  | agentDead
  /-- AGENT_RETURN (R467): Starts returning a dead course or root port to service; replies ACCEPTED. -/
  | agentReturn
  /-- AGENT_RETURN_DONE (R467): A course or root port return ends, placing logical numbers and clearing COH_DEAD, or fails. -/
  | agentReturnDone (pass : Bool) (cores : BitVec 9)
  /-- SPARE_START (R379): Starts spare rank entry in one or every channel; replies ACCEPTED. -/
  | spareStart
  /-- SPARE_ACK (R379): Returns a channel's spare entry from DONE to IDLE. -/
  | spareAck
  /-- DEV_MARK (R373): Sets or clears a device mark in a rank and subchannel. -/
  | devMark
  /-- KTEST (R436): Writes PCTL.KTEST of a logical core with a refetch. -/
  | ktest
  /-- PATCH_STAGE (R218): Checks and stages a microcode patch image. -/
  | patchStage
  /-- SEAL_KEY (R339): Installs the ledger seal key and optional chain seed. -/
  | sealKey
  /-- LEDGER_CFG (R438): Writes LED_CTL enable, slot count and base. -/
  | ledgerCfg
  /-- RESET_RELEASE (R503): The device leaves its internal reset and the Keystone runs its boot ROM in COLD. -/
  | resetRelease
  /-- BOOT_IMAGE_CHECKED (R488): The boot ROM finishes reading and checking a flash copy and sets BOOTST. -/
  | bootImageChecked (primary : List (BitVec 8)) (secondary : Option (List (BitVec 8)))
  /-- ENTER_FILLING (R489): With the image verified and the plumb locked the device enters FILLING and stages the carried patch. -/
  | enterFilling
  /-- PWR_OK_CHANGE (R508): A PWR_OK input rises, advancing start-up, or falls, entering COLD. -/
  | pwrOkChange (group : BitVec 2) (high : Bool)
  /-- TRAINING_DONE (R489): SPD checks and channel training complete and fill begins, or start-up fails. -/
  | trainingDone (spd : List ChanSpd)
  /-- FILL_DONE (R376): Memory fill completes and INIT begins. -/
  | fillDone (ok : Bool)
  /-- INIT_DONE (R489): Caches are cleared, cores tested and logical numbers assigned, and the host image copy begins. -/
  | initDone (failing : List Nat)
  /-- CORE0_RELEASE (R489): After the host image copy, logical core 0 is released at H and the device enters BOOTING. -/
  | core0Release (readbacks : List (Bool × Bool))
  /-- RESET_N_ASSERT (R503): RESET_N low for 1 µs enters COLD and switches every domain off. -/
  | resetNAssert
  /-- SENSOR_READING (R456): A junction sensor reading sets warn or critical status and journals limit crossings. -/
  | sensorReading (sensor : Nat) (raw : Int)
  /-- THERMTRIP (R456): A raw reading of 135 °C held 10 µs asserts THERMTRIP_N and enters COLD. -/
  | thermtrip (sensor : Nat) (raw : Int)
  /-- THROTTLE_TICK (R455): Every 100 µs the sequencer adjusts each course's throttle cap. -/
  | throttleTick (chipUW : Nat)
  /-- SEQ_SAMPLE (R452): Every 10 µs the sequencer reads temperature and NAT and re-evaluates its target. -/
  | seqSample (course : BitVec 5) (nat : List (BitVec 8 × BitVec 10))
  /-- VOLTAGE_STEP (R452): Each µs the regulator moves the course voltage one 10 mV step toward its target. -/
  | voltageStep (course : BitVec 5)
  /-- VOLTAGE_SETTLED (R453): 2 µs after the last rising step the course has settled and EFF is raised. -/
  | voltageSettled (course : BitVec 5)
  /-- PMBUS_POLL (R458): Each ms the Keystone reads each regulator and reports faults or loss. -/
  | pmbusPoll (answers : List (Option RegRead))
  /-- VOTE_CHANGE (R446): A power domain vote is withdrawn or returns, starting entry to off or abandoning it. -/
  | voteChange (d : BitVec 9)
  /-- POWER_OFF_ENTRY (R445): After its drain a domain saves state, clamps and switches off. -/
  | powerOffEntry (d : BitVec 9)
  /-- POWER_UP (R447): A domain powers up, restores state and for a core loads its patch. -/
  | powerUp (d : BitVec 9) (readback : Bool × Bool)
  /-- NAP_OFF_DELAY_EXPIRY (R443): A nap lasting OFFDLY with NAPOFF set withdraws the core's hardware vote. -/
  | napOffDelayExpiry (n : BitVec 8)
  /-- FREEZE_WRITE (R482): A change of PM_GLOBAL.FREEZE schedules a freeze or resume at T. -/
  | freezeWrite (st : CtlStore)
  /-- SNAP_WRITE (R483): A write of PM_GLOBAL.SNAP schedules a snapshot at T. -/
  | snapWrite (st : CtlStore)
  /-- COUNTER_INSTANT (R483): A replica reaches T and the counters freeze, resume or are copied. -/
  | counterInstant (bank : Bank)
  /-- BW_WINDOW_BOUNDARY (R481): At each window boundary the byte counts are copied to BW_A and BW_B. -/
  | bwWindowBoundary (bank : Bank)
  /-- TAP_IDCODE (R506): The test access port selects the IDCODE register. -/
  | tapIdcode
  /-- TAP_BYPASS (R506): The test access port selects bypass. -/
  | tapBypass
  /-- TAP_SAMPLE_PRELOAD (R506): The test access port samples pin states without disturbing operation. -/
  | tapSamplePreload (cells : List Bool)
  /-- TAP_EXTEST (R506): Drives pins from the boundary register only while RESET_N is low. -/
  | tapExtest
  /-- TAP_EXTEST_PULSE (R506): IEEE 1149.6 pulse test of AC-coupled lanes while RESET_N is low. -/
  | tapExtestPulse
  /-- TAP_EXTEST_TRAIN (R506): IEEE 1149.6 train test of AC-coupled lanes while RESET_N is low. -/
  | tapExtestTrain
  /-- PLUMB_LOCK_TIMEOUT (R493): If the plumb has not locked within 100 ms of step 1, BOOTST becomes 5 and the device is held in COLD with FAULT_N low. -/
  | plumbLockTimeout
  /-- PWR_OK_TIMEOUT (R494): A PWR_OK group that has not risen within 20 ms of START_FILL sets phase FAILED with BOOTST 0x10. -/
  | pwrOkTimeout
  /-- RESET_WAIT_EXPIRY (R432): 10 ms after a RESET reply is sent without being read, the device enters COLD. -/
  | resetWaitExpiry
  /-- CORE_TEST_DONE (R465): The self-test of CORE_RETURN ends up to 20 ms after it began; the core becomes spare, stays off or stays dead, and the reply is sent. -/
  | coreTestDone (pass : Bool)
  /-- ICINV_ACK (R135): A course's acknowledgement of an ICINV reaches the executing core, which completes the ICINV after the last. -/
  | icinvAck (n : BitVec 8) (course : BitVec 5)
  /-- OUTBOUND_REQUEST (R387): A root port receives a core access or a peer request to its PCIe window, sends it on its link, and grants, holds or releases locked sequences. -/
  | outboundRequest (port : BitVec 3) (r : OutReq)
  /-- MEMORY_ANSWER (R256): A memory controller's read data or write acceptance reaches the home slice, which continues or closes its tracker. -/
  | memoryAnswer (slice : BitVec 5) (a : MemAns)
  /-- KSP_BAD_TRANSACTION_CODE (R411): A serial port transaction whose first byte is not 0x01, 0x02 or 0x03 is ignored, sets RXERR and makes a KS_RXERR record. -/
  | kspBadTransactionCode (code : BitVec 8)
  /-- SPARE_COPY_STEP (R380): At the rate MC_SPARE.BW the controller fills or copies the next line of a spare entry as one step against requests to that line. -/
  | spareCopyStep (ch : BitVec 4) (errs : List SymErr)
  deriving DecidableEq, Repr

end Sys2Proof
end

