-- ==== Sys2Proof/Decode.lean ====
section
/-! DEFINITION. What spells a command: no row of the opcode table has bits, so no word of the table's does; a 32-bit syllable
of a core's code spells one of the core commands (R88, R89, R105 to R108). -/
namespace Sys2Proof

/-- The command that a word spells by the bits of the opcode table: none, for no row of the table gives bits. -/
def decodeTableWord (_nbits _w : Nat) : Option Instr := none

/-- The integer operations by OP (R105). -/
def intRow (op : Nat) (y : Syl) : Option Instr :=
  match op with
  | 0x00 => some (.nop y)
  | 0x02 => some (.add y)
  | 0x03 => some (.sub y)
  | 0x04 => some (.and y)
  | 0x05 => some (.or y)
  | 0x06 => some (.xor y)
  | 0x07 => some (.andn y)
  | 0x08 => some (.shl y)
  | 0x09 => some (.shr y)
  | 0x0A => some (.sar y)
  | 0x0B => some (.ror y)
  | 0x0C => some (.cmpeq y)
  | 0x0D => some (.cmplt y)
  | 0x0E => some (.cmpltu y)
  | 0x10 => some (.min y)
  | 0x11 => some (.max y)
  | 0x12 => some (.minu y)
  | 0x13 => some (.maxu y)
  | 0x14 => some (.clz y)
  | 0x15 => some (.ctz y)
  | 0x16 => some (.popc y)
  | 0x18 => some (.ldi y)
  | 0x19 => some (.ldhi y)
  | 0x20 => some (.mul y)
  | 0x21 => some (.mulh y)
  | 0x22 => some (.mulhu y)
  | 0x23 => some (.div y)
  | 0x24 => some (.divu y)
  | 0x25 => some (.rem y)
  | 0x26 => some (.remu y)
  | _ => none

/-- The M operations by OP (R106). -/
def memRow (op : Nat) (y : Syl) : Option Instr :=
  match op with
  | 0x00 => some (.ld8s y)
  | 0x01 => some (.ld8u y)
  | 0x02 => some (.ld16s y)
  | 0x03 => some (.ld16u y)
  | 0x04 => some (.ld32s y)
  | 0x05 => some (.ld32u y)
  | 0x06 => some (.ld64 y)
  | 0x07 => some (.ldv y)
  | 0x08 => some (.st8 y)
  | 0x09 => some (.st16 y)
  | 0x0A => some (.st32 y)
  | 0x0B => some (.st64 y)
  | 0x0C => some (.stv y)
  | 0x10 => some (.aswap y)
  | 0x11 => some (.aadd y)
  | 0x12 => some (.amin y)
  | 0x13 => some (.amax y)
  | 0x14 => some (.aminu y)
  | 0x15 => some (.amaxu y)
  | 0x18 => some (.aswapw y)
  | 0x19 => some (.aaddw y)
  | 0x1A => some (.aminw y)
  | 0x1B => some (.amaxw y)
  | 0x1C => some (.aminuw y)
  | 0x1D => some (.amaxuw y)
  | 0x1E => some (.lr y)
  | 0x1F => some (.sc y)
  | 0x20 => some (.fence y)
  | 0x28 => some (.movb y)
  | 0x29 => some (.setb y)
  | 0x2A => some (.cmpb y)
  | 0x2B => some (.scanb y)
  | 0x30 => some (.cflush y)
  | 0x31 => some (.cclean y)
  | 0x32 => some (.cinv y)
  | 0x33 => some (.pref y)
  | 0x34 => some (.icinv y)
  | 0x38 => some (.tlbi y)
  | 0x39 => some (.tlbid y)
  | 0x3A => some (.tlbia y)
  | 0x3B => some (.tlblk y)
  | 0x3C => some (.tlbulk y)
  | 0x3E => some (.lseg y)
  | _ => none

/-- The F operations by OP (R107). -/
def vecRow (op : Nat) (y : Syl) : Option Instr :=
  match op with
  | 0x00 => some (.vadd y)
  | 0x01 => some (.vsub y)
  | 0x02 => some (.vand y)
  | 0x03 => some (.vor y)
  | 0x04 => some (.vxor y)
  | 0x05 => some (.vshl y)
  | 0x06 => some (.vshr y)
  | 0x07 => some (.vmin y)
  | 0x08 => some (.vmax y)
  | 0x09 => some (.vcmpeq y)
  | 0x0A => some (.vcmpgt y)
  | 0x10 => some (.fadd y)
  | 0x11 => some (.fsub y)
  | 0x12 => some (.fmul y)
  | 0x13 => some (.fdiv y)
  | 0x14 => some (.fsqrt y)
  | 0x15 => some (.fma y)
  | 0x16 => some (.fms y)
  | 0x17 => some (.fmin y)
  | 0x18 => some (.fmax y)
  | 0x19 => some (.fcmpeq y)
  | 0x1A => some (.fcmplt y)
  | 0x1B => some (.fcvtif y)
  | 0x1C => some (.fcvtfi y)
  | 0x20 => some (.vmov y)
  | 0x21 => some (.vinsg y)
  | 0x22 => some (.vextg y)
  | 0x23 => some (.vsplat y)
  | 0x24 => some (.vshuf y)
  | _ => none

/-- The row of the table for an MTS, by the register number of its fields A and B (R86, R108). -/
def mtsRow (y : Syl) : Instr :=
  match y.a.toNat * 64 + y.b.toNat with
  | 0x011 | 0x015 | 0x019 => .mtsTmode y
  | 0x030 => .mtsLockheld y
  | 0x040 => .mtsEvmask y
  | 0x060 => .mtsPctl y
  | 0x090 => .mtsTdid y
  | 0x0A0 => .mtsRein y
  | _ => .mts y

/-- The B operations by OP (R108). -/
def brRow (op : Nat) (y : Syl) : Option Instr :=
  match op with
  | 0x00 => some (.br y)
  | 0x01 => some (.jr y)
  | 0x02 => some (.call y)
  | 0x03 => some (.callr y)
  | 0x04 => some (.ret y)
  | 0x08 => some (.syscall y)
  | 0x09 => some (.hypercall y)
  | 0x0A => some (.brk y)
  | 0x0B => some (.rfe y)
  | 0x10 => some (.mfs y)
  | 0x11 => some (mtsRow y)
  | 0x18 => some (.wfe y)
  | 0x19 => some (.sev y)
  | 0x1A => some (.waitt y)
  | 0x1B => some (.nap y)
  | 0x1C => some (.rdtime y)
  | 0x20 => some (.pflush y)
  | 0x21 => some (.pbar y)
  | _ => none

/-- The operation of a unit by OP (R89, R105 to R108): none for a reserved OP value. -/
def opRow (u op : Nat) (y : Syl) : Option Instr :=
  match u with
  | 0 => intRow op y
  | 1 => intRow op { y with a1 := true }
  | 2 => memRow op y
  | 3 => vecRow op y
  | 4 => brRow op y
  | _ => none

/-- The unit code of a syllable (R88). -/
def sylU (w : BitVec 32) : BitVec 3 := w.extractLsb' 28 3

/-- The command that a syllable of core `n` spells, with the X syllable behind it if there is one (R88, R89): the fields in
their places; a reserved unit code, a free-standing X and a reserved OP value come as NOP with `odd` set. -/
def decodeSyl (n : Logical) (w : BitVec 32) (x : Option (BitVec 32)) : Instr :=
  let u := sylU w
  let op := w.extractLsb' 22 6
  let y : Syl := { n := n, d := w.extractLsb' 16 6, a := w.extractLsb' 10 6, b := w.extractLsb' 4 6, q := w.extractLsb' 0 4,
                   x := x.map (fun v => v.extractLsb' 0 28),
                   s := (match x with | some v => v.getLsbD 31 | none => w.getLsbD 31) }
  if u = 7 then .nop { n := n, s := w.getLsbD 31, odd := some .x }
  else if u = 5 || u = 6 then .nop { n := n, s := w.getLsbD 31, odd := some (.unit u) }
  else match opRow u.toNat op.toNat y with
    | some i => i
    | none => .nop { n := n, x := y.x, s := y.s, odd := some (.op u op) }

/-- The syllables of core `n`'s code in order, each X syllable behind an operation syllable read with it (R88, R90). -/
def decodeSyls (n : Logical) : List (BitVec 32) → List Instr
  | [] => []
  | [w] => [decodeSyl n w none]
  | w :: x :: r =>
    if (sylU w).toNat < 5 && !w.getLsbD 31 && sylU x == 7 then decodeSyl n w (some x) :: decodeSyls n r
    else decodeSyl n w none :: decodeSyls n (x :: r)

end Sys2Proof
end

