-- ==== Sys2Proof/Machine/State.lean ====
section
/-! DEFINITION. The state of the N256: plain data, one field for each piece of state the spec gives the device. Each field's
comment reads: what it is | width | rule and file of spec/ | value at reset. Registers whose layout the spec gives are held as
their 64-bit words, so that reserved bits read as the spec says; a keyed table (`Tbl`) lists only entries that differ from
the default that `Machine/Tables.lean` and the accessors of `Machine/Ops.lean` name. -/
namespace Sys2Proof.Machine

/-- A general register with its poison mark (R80, R193). -/
structure Reg where
  v : Word64 := 0
  p : Bool := false
  deriving DecidableEq, Repr

/-- A vector register with its poison mark (R80, R193). -/
structure VReg where
  v : Word128 := 0
  p : Bool := false
  deriving DecidableEq, Repr

/-- A byte with the poison mark of its 8-byte word (R252). -/
structure PByte where
  b : Byte
  p : Bool := false
  deriving DecidableEq, Repr

/-- The levels of R178: U = 0, S = 1, H = 3. -/
inductive Level where
  | u | s | h
  deriving DecidableEq, Repr

/-- CAUSE, TRAPPC, TRAPST and TADDR of one shadow bank (R83, R180). -/
structure TrapBank where
  /-- CAUSE | 64 | R180 07 | 0 -/
  cause  : Word64 := 0
  /-- TRAPPC | 64 | R180 07 | 0 -/
  trapPc : Word64 := 0
  /-- TRAPST | 64 | R180 07 | 0 -/
  trapSt : Word64 := 0
  /-- TADDR | 64 | R180 07 | 0 -/
  tAddr  : Word64 := 0
  deriving DecidableEq, Repr

/-- Where a result goes (R94); a G register with the bank it was named in (R83, R153: 0 base, 1 supervisor, 3 hypervisor). -/
inductive Dst where
  | none | g (r : BitVec 6) (bank : Nat) | v (r : BitVec 5) | sg (r : BitVec 3)
  deriving DecidableEq, Repr

/-- A register named as an operand, for hazards (R98), write conflicts (R94) and poison (R194). A register of G0 to G55 has
bank 0. -/
inductive RegRef where
  | g (r : BitVec 6) (bank : Nat) | v (r : BitVec 5) | sg (r : BitVec 3) | sys (num : Nat)
  deriving DecidableEq, Repr

/-- The memory types of R119. -/
inductive MemType where
  | cached | uncached | device
  deriving DecidableEq, Repr

/-- The access kinds of the checks (R67, R115, R234); an SC is of kind W, but its leaf must grant R and W (R126, R234). -/
inductive Kind where
  | read | write | atomic | sc | fetch | none
  deriving DecidableEq, Repr

/-- One part of an access that lies in one line (R117); `data` is there once it has been read. -/
structure Part where
  pa   : PAddr
  len  : Nat
  mt   : MemType := .cached
  data : Option (List PByte) := Option.none
  /-- Its request has been sent. -/
  sent : Bool := false
  deriving DecidableEq, Repr

/-- What an outstanding access does (R118, R123, R126). -/
inductive AccKind where
  | load | atomic (op : AtomicOp) | lr | sc
  deriving DecidableEq, Repr

/-- An outstanding load, atomic, LR or SC (R152, R154, R157): `signed` governs the extension, `wait` counts the oldest
store buffer entries that must drain before it reads (R119, R157), `atH` tells that it was made at H (R287). -/
structure OutAcc where
  idx    : Nat
  kind   : AccKind
  dst    : Dst
  parts  : List Part
  width  : Nat
  signed : Bool := false
  opnd   : Word64 := 0
  lin    : BitVec 48 := 0
  wait   : Nat := 0
  tdid   : Tdid := 0
  epoch  : BitVec 8 := 0
  atH    : Bool := false
  /-- SC: whether it succeeded, once performed (R126). -/
  scOk   : Option Bool := Option.none
  deriving DecidableEq, Repr

/-- A result of a long-latency unit not yet written (R152). -/
structure PendRes where
  idx : Nat
  dst : Dst
  g   : Word64 := 0
  v   : Word128 := 0
  deriving DecidableEq, Repr

/-- A store buffer entry (R155): at most 16 bytes within one line, with memory type and the tags of R22. -/
structure SbEntry where
  pa    : PAddr
  bytes : List PByte
  mt    : MemType := .cached
  tdid  : Tdid := 0
  epoch : BitVec 8 := 0
  /-- Its request has been sent and not answered. -/
  sent  : Bool := false
  /-- The bytes of the whole access where it lies on two lines, else 0 (R29, R117). -/
  whole : Nat := 0
  /-- The second half of an access whose first half lies in the control region too, and which is judged there as a whole (R29). -/
  cont  : Bool := false
  deriving DecidableEq, Repr

/-- The core's reservation (R126): line, linear address, where it is held, and the end of the 64 ns of R128. -/
inductive ResvAt where
  | l2 | home | port
  deriving DecidableEq, Repr

structure Resv where
  pa    : PAddr
  lin   : BitVec 48
  at_   : ResvAt
  until_ : Nat
  deriving DecidableEq, Repr

/-- A TLB entry (R238): regime, tag, ASN, level of the leaf, page number, leaf fields and lock bit. -/
structure TlbEnt where
  guest : Bool
  tag   : Tdid
  asn   : BitVec 8
  lvl   : Nat
  vpn   : Nat
  pte   : Word64
  lock  : Bool := false
  deriving DecidableEq, Repr

/-- A walk cache entry: a pointer found at level 4, 3 or 2 (R238). -/
structure WalkEnt where
  guest : Bool
  tag   : Tdid
  asn   : BitVec 8
  lvl   : Nat
  vpn   : Nat
  ppn   : BitVec 40
  deriving DecidableEq, Repr

/-- What a walk was started for (R201, R235, R237, R240). -/
inductive WalkFor where
  | data | fetch | pref | lock | fill
  deriving DecidableEq, Repr

/-- A walk in progress (R236). -/
structure Walk where
  why   : WalkFor
  kind  : Kind
  lin   : BitVec 48
  guest : Bool
  tag   : Tdid
  asn   : BitVec 8
  lvl   : Nat
  table : BitVec 40
  /-- The level of the access. -/
  at_   : Level
  deriving DecidableEq, Repr

/-- A trap of a word or of an entry: cause code, TADDR, TRAPPC (R180, R181). -/
structure Trap where
  code : BitVec 8
  addr : Word64
  pc   : Word64
  deriving DecidableEq, Repr

/-- The classes of entry (R189, R199, R203). -/
inductive EntryKind where
  | exception | classP | classF
  deriving DecidableEq, Repr

/-- An entry that has begun and has not committed (R188): the trap or the accepted offer, and its target. -/
structure Entry where
  kind  : EntryKind
  trap  : Trap
  offer : Option Offer := Option.none
  lvl   : Level
  redir : Bool := false
  /-- TRAPST.ENTRYF and ORIG of an entry fault's own entry (R190). -/
  entryf : Bool := false
  orig  : BitVec 8 := 0
  aband : Bool := false
  deriving DecidableEq, Repr

/-- The class F entry buffer (R201): what its fill captured. -/
structure FBuf where
  handler : Word64
  seg     : Bool
  base    : Word64
  limit   : Word64
  framePa : PAddr
  line    : LineNo
  data    : LineData
  /-- The linear addresses whose translations the fill used, with the level of each leaf, and the tag (R201). -/
  pages   : List (BitVec 48 × Nat)
  tag     : Tdid
  /-- The linear address of the handler's first line, and the memory types of that line and of the frame. -/
  lin     : BitVec 48
  lineMt  : MemType
  frameMt : MemType
  deriving DecidableEq, Repr

/-- The block-repeat operations (R130). -/
inductive BlkOp where
  | movb | setb | cmpb | scanb
  deriving DecidableEq, Repr

/-- A block-repeat operation in progress (R130, R131): element bytes and the segments of its two regions; whether it stands at a
chunk commit at which a held delivery is judged (R132, R198); the lines in use by its current chunk (R250). -/
structure Blk where
  op   : BlkOp
  esz  : Nat
  seg5 : BitVec 3
  seg6 : BitVec 3
  stop : Bool := false
  lines : List LineNo := []
  deriving DecidableEq, Repr

/-- The kinds of transfer that the target buffer tells apart (R162). -/
inductive XferKind where
  | cond | direct | indirect | ret
  deriving DecidableEq, Repr

/-- What holds the issue of further words after a committed operation (R62, R135, R242). -/
inductive Busy where
  | none
  /-- An MTS to TDID waiting for the hub's acknowledgement (R62). -/
  | bind
  /-- The word at DE holds an MTS to TDID that waits for its 8 µs (R76). -/
  | bindWait
  /-- TLBI, TLBID or TLBIA waiting for the cores whose bit is set (R242). -/
  | tlb (wait : BitVec 256)
  /-- ICINV waiting for the courses whose bit is set (R135). -/
  | icinv (wait : BitVec 32)
  /-- CFLUSH, CCLEAN or CINV waiting for H_DONE (R135, R267). -/
  | maint (line : LineNo)
  /-- RFE with SEG = 1 waiting for its frame (R206). -/
  | rfe
  deriving DecidableEq, Repr

/-- Whether a logical core runs, waits or stands (R428, R449). -/
inductive Run where
  | notStarted | run | wfe | waitt (r : BitVec 6) (deadline : Word64) | nap | off | stopped | halted | unhoused
  deriving DecidableEq, Repr

/-- A target buffer entry (R162). -/
structure BtbEnt where
  tag    : Nat
  target : Nat
  kind   : XferKind
  age    : Nat := 0
  deriving DecidableEq, Repr

/-- A tagged table entry (R163). -/
structure TagEnt where
  tag    : Nat := 0
  ctr    : Nat := 0
  useful : Nat := 0
  deriving DecidableEq, Repr

/-- Branch prediction state (R162 to R164). -/
structure Pred where
  /-- Target buffer, key 4 × set + way | 110 × 4,096 | R162 06 | empty -/
  btb  : Tbl BtbEnt := []
  /-- Base table of 2-bit counters | 2 × 8,192 | R163 06 | 0, DESIGN CHOICE (log 7) -/
  base : Tbl Nat := []
  /-- Tagged tables T1 to T5, key 1,024 × k + index | 16 × 5,120 | R163 06 | empty, DESIGN CHOICE (log 7) -/
  tagd : Tbl TagEnt := []
  /-- Global history, newest first | 160 | R163 06 | empty -/
  hist : List Bool := []
  /-- Return stack, top first | 64 × 32 | R164 06 | empty -/
  ras  : List Word64 := []
  deriving DecidableEq, Repr

/-- One logical core (R80, R83, R86): its architectural state and what its pipeline holds. -/
structure Core where
  /-- G0 to G63, base bank for G56 to G63, with poison marks | 64 × 65 | R80, R83, R193 04 07 | 0, DESIGN CHOICE (log 8) -/
  g       : Tbl Reg := []
  /-- G56 to G63 of the supervisor bank (SBANK) | 8 × 65 | R83, R84 04 | 0 -/
  gS      : Tbl Reg := []
  /-- G56 to G63 of the hypervisor bank | 8 × 65 | R83 04 | 0, DESIGN CHOICE (log 8) -/
  gH      : Tbl Reg := []
  /-- V0 to V31 with poison marks | 32 × 129 | R80 04 | 0, DESIGN CHOICE (log 8) -/
  v       : Tbl VReg := []
  /-- SG0 to SG7 | 8 × 128 | R80, R222, R225 04 09 | R225 -/
  sg      : Tbl Word128 := []
  /-- PC | 64 | R80 04 | 0, DESIGN CHOICE (log 8) -/
  pc      : Word64 := 0
  /-- STATUS.LEVEL | 2 | R178 07 | H -/
  level   : Level := .h
  /-- STATUS.IE | 1 | R178 07 | 0 -/
  ie      : Bool := false
  /-- STATUS.SBUSY | 1 | R178 07 | 0 -/
  sbusy   : Bool := false
  /-- STATUS.HBUSY | 1 | R178 07 | 0 -/
  hbusy   : Bool := false
  /-- trap registers of the supervisor bank | 4 × 64 | R83, R180 04 07 | 0 -/
  trapS   : TrapBank := {}
  /-- trap registers of the hypervisor bank | 4 × 64 | R83, R180 04 07 | 0 -/
  trapH   : TrapBank := {}
  /-- TMODE[1].MODE | 1 | R183 07 | 0 -/
  mode1   : Bool := false
  /-- TMODE[3].MODE | 1 | R183 07 | 0 -/
  mode3   : Bool := false
  /-- TMODE[1].FREADY | 1 | R201 07 | 0 -/
  fready  : Bool := false
  /-- TMODE[1].FFAIL | 1 | R201 07 | 0 -/
  ffail   : Bool := false
  /-- a class F entry buffer fill is in progress | 1 | R201 07 | 0 -/
  ffill   : Bool := false
  /-- class F entry buffer | - | R201 07 | empty -/
  fbuf    : Option FBuf := Option.none
  /-- TENTRY[1] | 64 | R183 07 | 0 -/
  tentry1 : Word64 := 0
  /-- TENTRY[3] | 64 | R183 07 | 0 -/
  tentry3 : Word64 := 0
  /-- TDESC[1] | 64 | R184 07 | 0 -/
  tdesc1  : Word64 := 0
  /-- TDESC[3] | 64 | R184 07 | 0 -/
  tdesc3  : Word64 := 0
  /-- TROUTE | 64 | R182 07 | 0x8103_0003_031F_073E -/
  troute  : Word64 := 0x81030003031F073E
  /-- PTBASE | 64 | R228 09 | 0 -/
  ptbase  : Word64 := 0
  /-- LOCKHELD.HELD | 16 | R300 11 | 0 -/
  held    : BitVec 16 := 0
  /-- LOCKHELD.INGRACE | 1 | R300 11 | 0 -/
  ingrace : Bool := false
  /-- LOCKHELD.GRACE_LEFT | 16 | R300 11 | 0 -/
  graceLeft : Nat := 0
  /-- a grace has been taken in this period | 1 | R301 11 | 0 -/
  graced  : Bool := false
  /-- EVMASK | 64 | R355 13 | 0 -/
  evmask  : Word64 := 0
  /-- event flag | 1 | R144 05 | 0 -/
  evflag  : Bool := false
  /-- THRESH.TH | 8 | R350 13 | 0 -/
  th      : BitVec 8 := 0
  /-- PCTL: the RW and KO bits TAG_OFF, RAS_OFF, WPL, FPLAIN, PBARRED, KTEST [6:0] without WARM | 8 | R177 06 | 0 -/
  pctl    : BitVec 8 := 0
  /-- PCTL.WARM | 1 | R167 06 | 0 -/
  warm    : Bool := false
  /-- PCTL.WARM_LEFT | 16 | R167 06 | 0 -/
  warmLeft : Nat := 0
  /-- TDID.DOMAIN | 12 | R62 03 | 0 -/
  dom     : Tdid := 0
  /-- TDID.VCORE | 8 | R62 03 | logical core number -/
  vcore   : BitVec 8 := 0
  /-- EPOCH.CORE | 8 | R62, R75 03 | 0 -/
  epoch   : BitVec 8 := 0
  /-- EPOCH.ACCT | 8 | R62 03 | 0 -/
  acct    : BitVec 8 := 0
  /-- plumb time of the last rebinding, if any | 64 | R76 03 | none -/
  lastBind : Option Nat := Option.none
  /-- causal stamp of the last binding report | 64 | R62, R65 03 | 0 -/
  bindStamp : Nat := 0
  /-- REIN.PACE | 10 | R37, R39 02 | 0 -/
  pace    : BitVec 10 := 0
  /-- REIN.PL | 1 | R40 02 | 0 -/
  pl      : Bool := false
  /-- REIN.EFF | 10 | R38 02 | 0 -/
  eff     : BitVec 10 := 0
  /-- REIN.NAT | 10 | R34 02 | 0 -/
  nat     : BitVec 10 := 0
  /-- REIN.SLIP | 1 | R43 02 | 0 -/
  slip    : Bool := false
  /-- a slip episode is in progress | 1 | R43 02 | 0 -/
  slipEp  : Bool := false
  /-- PL in force: that of the last word issue | 1 | R40 02 | 0 -/
  plNow   : Bool := false
  /-- the EFF that the generator counts with, until its next token | 10 | R40 02 | 0 -/
  effGen  : BitVec 10 := 0
  /-- ns of the replica up to which the generator has advanced | 64 | R41 02 | 0 (the MODEL's bookkeeping) -/
  paceAt  : Nat := 0
  /-- plumb time, in ps, before which the limiter of EFF ≠ 0 and PL = 0 supplies no further token | - | R38 02 | 0, DESIGN CHOICE (log 129) -/
  limAt   : Nat := 0
  /-- issue opportunities of the natural rate not yet used, in thousandths | - | R33, R37 02 | 0 (the MODEL's bookkeeping) -/
  opp     : Nat := 0
  /-- tokens consumed since the last ns | - | R37 02 | 0 (the MODEL's bookkeeping) -/
  used    : Nat := 0
  /-- registers whose results need more handoffs before they can be read, with how many | - | R109, R153 05 06 | empty -/
  pend    : List (RegRef × Nat) := []
  /-- pace generator acc | 12 | R41 02 | 0, DESIGN CHOICE (log 8) -/
  acc     : Nat := 0
  /-- pace generator bank | 4 | R41, R42 02 | 0 -/
  bank    : Nat := 0
  /-- run, wait or stop state | - | R449 17 | not started -/
  run     : Run := .notStarted
  /-- stalled on a budget: the resources' bits | 4 | R294, R296 11 | 0 -/
  stall   : BitVec 4 := 0
  /-- the core has stopped: the code of the trap that it could not take (0: a parity error) | 8 | R192, R221 07 08 | none -/
  dead    : Option (BitVec 8) := Option.none
  /-- tokens left in the lease | 64 | R293 11 | 0 -/
  lease   : Nat := 0
  /-- a draw is on its way | 1 | R293 11 | 0 -/
  drawing : Bool := false
  /-- the last draw was refused and RELEASE has not arrived | 1 | R294 11 | 0 -/
  drawOff : Bool := false
  /-- a lease that has been granted and has not arrived | 64 | R293 11 | none -/
  granted : Option Nat := Option.none
  /-- short stamps of the draw and of the lease on their way | 2 × 24 | R22, R55 01 02 | 0 -/
  drawShort : BitVec 24 := 0
  grantShort : BitVec 24 := 0
  /-- reservation | - | R126 05 | none -/
  resv    : Option Resv := Option.none
  /-- store buffer, oldest first | 24 entries | R155 06 | empty -/
  sb      : List SbEntry := []
  /-- outstanding accesses, oldest first | 16 entries | R154 06 | empty -/
  accs    : List OutAcc := []
  /-- results of long operations not yet written | - | R152, R153 06 | empty -/
  results : List PendRes := []
  /-- number of the next access or result | - | R152 06 | 1 (the MODEL's numbering) -/
  nextIdx : Nat := 1
  /-- operation syllables fetched and not issued: the word at DE and the fetch queue of 4 words behind it, oldest first | - | R90, R149, R159 04 06 | empty -/
  word    : List Instr := []
  /-- what holds issue after the last committed word | - | R161 06 | none -/
  busy    : Busy := .none
  /-- fault recorded by the word in the pipeline | - | R151 06 | none -/
  trap    : Option Trap := Option.none
  /-- trap entry in progress | - | R188 07 | none -/
  entry   : Option Entry := Option.none
  /-- delivery held for judgement | - | R348 13 | none -/
  offer   : Option Offer := Option.none
  /-- issue opportunities that the core still has to lose: of a transfer (R160) or of a class F entry (R203) | - | R160, R203 06 07 | 0 -/
  owe     : Nat := 0
  /-- class P entry that has committed and whose handler has not issued, with SG0 and SG7 as they were | - | R200 07 | none -/
  fresh   : Option (Offer × Word128 × Word128) := Option.none
  /-- issue is stopped for a rotation | 1 | R461 18 | 0 -/
  rot     : Bool := false
  /-- the number lost its core before it was started | 1 | R219, R464 08 18 | 0 -/
  unst    : Bool := false
  /-- acknowledgements of TLB invalidations owed: to which core, accesses, store buffer entries, and lines asked for, still to be performed | - | R242 09 | empty -/
  ackWait : List (Logical × List Nat × Nat × List LineNo) := []
  /-- the word at DE has issued and waits at X2 for a walk or for the reads of its micro-routine | 1 | R151, R198, R208 06 07 08 | 0 -/
  atX2    : Bool := false
  /-- linear address of the line passed from the class F entry buffer, until the first handler word issues | 48 | R203 07 | none -/
  fcode   : Option (BitVec 48) := Option.none
  /-- a WAITT that the deadline or an interrupt ended: its result register and the ns, while an event of that ns still wins | - | R147 05 | none -/
  tie     : Option (BitVec 6 × Nat) := Option.none
  /-- microaddress last fetched by the micro-routine in progress | 14 | R209, R215 08 | none -/
  uaddr   : Option (BitVec 14) := Option.none
  /-- data for one read only of a micro-routine, a walk or a fetch: of a DATA_NF, or of an uncached or device read | - | R208, R227, R273 08 09 10 | empty -/
  nf      : List (LineNo × LineData) := []
  /-- number that the requests of those reads carry; a new one whenever what asked for them is discarded | - | R208 08 | 0 (the MODEL's numbering) -/
  gen     : Nat := 0
  /-- lines of normal uncached pages fetched for the words at DE | - | R119, R227 05 09 | empty -/
  ulines  : List (LineNo × LineData) := []
  /-- block-repeat operation in progress | - | R130 05 | none -/
  blk     : Option Blk := Option.none
  /-- walk in progress | - | R236 09 | none -/
  walk    : Option Walk := Option.none
  /-- instruction TLB, most recent first | 64 entries | R238 09 | empty -/
  itlb    : List TlbEnt := []
  /-- data TLB, most recent first | 64 entries | R238 09 | empty -/
  dtlb    : List TlbEnt := []
  /-- L2 TLB, most recent first | 3,072 entries | R238, R240 09 | empty -/
  l2tlb   : List TlbEnt := []
  /-- walk cache, most recent first | 64 entries | R238 09 | empty -/
  wcache  : List WalkEnt := []
  /-- L1D lines, most recent first | 64 KiB | R245 10 | empty -/
  l1d     : List LineNo := []
  /-- L1I lines with the words they hold, most recent first | 64 KiB | R245 10 | empty -/
  l1i     : List (LineNo × LineData) := []
  /-- lines of L1D and of L1I whose parity bits do not agree with their cells | - | R245, R251 10 | none -/
  l1dBad  : List LineNo := []
  l1iBad  : List LineNo := []
  /-- an instruction line requested from the course L2, with its memory type | 46 | R159 06 | none -/
  fetching : Option (LineNo × MemType) := Option.none
  /-- branch prediction state | - | R162 06 | empty -/
  pred    : Pred := {}
  /-- PMC[n] and PMSNAP[n] and EVSEL[n], PMCTL, PMFDOM, PMFALO, PMFAHI by number − 0x100 | 64 | R479 19 | 0; EVSEL.LVL 0b111 -/
  pm      : Tbl Word64 := []
  /-- freeze state of this core's counters | 1 | R482 19 | 0 -/
  frozen  : Bool := false
  /-- UPATCH[n] | 64 | R219 08 | 0; ROMREV fuse -/
  upatch  : Word64 := 0x01000000
  /-- CORE_PWR[n] | 64 | R449 17 | OFFDLY 0x03E8 -/
  corePwr : Word64 := 0x03E80000
  /-- plumb time at which the nap began | 64 | R443 17 | 0 -/
  napAt   : Nat := 0
  deriving DecidableEq, Repr

/-- The states of R428. -/
inductive CState where
  | spare | ready | running | halted | dead | off
  deriving DecidableEq, Repr

/-- A physical core (R15, R428). -/
structure PhysCore where
  /-- CSTATE of R428 | 3 | R428 16 | off, DESIGN CHOICE (log 8) -/
  st      : CState := .off
  /-- logical number held | 8 | R15 01 | none -/
  logical : Option Logical := Option.none
  /-- ROMREV, PFLAGS and LEVEL as UPATCH | 64 | R428 16 | as UPATCH -/
  upatch  : Word64 := 0x01000000
  /-- patch memory: microwords 0 to 511 | 512 × 64 | R209, R219 08 | 0, DESIGN CHOICE (log 130) -/
  patch   : Tbl Word64 := []
  /-- match registers | 32 × 64 | R215, R217 08 | 0 (every one disabled) -/
  matchR  : Tbl Word64 := []
  /-- words of patch memory (0 to 511) and match registers (512 to 543) whose parity bits do not agree with their cells | 4 each | R209, R221 08 | none -/
  patchBad : List Nat := []
  /-- it passed its test while its course had a spare, and stays off until that spare is used | 1 | R465 18 | 0 -/
  reserve : Bool := false
  deriving DecidableEq, Repr

/-- The states of an L2 line (R248). -/
inductive L2St where
  | i | s | e | m
  deriving DecidableEq, Repr

/-- A line of a course L2 (R245, R248, R250, R252): `ce` and `ue` are the 8-byte words whose SECDED bits show a single-bit or an
uncorrectable error (R251); `data` holds a single-bit error as corrected. -/
structure L2Line where
  st     : L2St := .i
  line   : LineNo := 0
  data   : LineData := {}
  aclass : BitVec 4 := 0
  ce     : BitVec 8 := 0
  ue     : BitVec 8 := 0
  deriving DecidableEq, Repr

/-- A writeback buffer entry or an eviction notice in flight (R258, R264). -/
structure WbEnt where
  line  : LineNo
  data  : LineData
  dirty : Bool
  deriving DecidableEq, Repr

/-- A request of a course that is open on a line (R250, R268). -/
structure OpenReq where
  msg     : Msg
  /-- RETRY answers so far, and those for a full set (R275, R276). -/
  retries : Nat := 0
  full    : Nat := 0
  /-- Plumb time at which the backoff ends, while it waits (R275). -/
  backoff : Option Nat := Option.none
  deriving DecidableEq, Repr

/-- A course: its L2, its requests and its voltage sequencer (R245, R452). -/
structure Course where
  /-- L2 lines, key 16 × set + way | 8 MiB | R245 10 | invalid -/
  l2      : Tbl L2Line := []
  /-- writeback buffer | 16 entries | R258 10 | empty -/
  wb      : List WbEnt := []
  /-- open requests | - | R268 10 | empty -/
  reqs    : List OpenReq := []
  /-- forwards held under R128 and R268 | - | R128, R268 10 | empty -/
  heldFwd : List Msg := []
  /-- L2_ERR[c] | 64 | R251 10 | 0 -/
  err     : Word64 := 0
  /-- VCOURSE[c] | 64 | R305 11 | VNOW 0x19, VSET 0x19 -/
  vcourse : Word64 := 0x0000000000190019
  /-- planner's target vt[c], in 10 mV steps above 0.55 V | 8 | R305 11 | 0x19, DESIGN CHOICE (log 8) -/
  vplan   : Nat := 25
  /-- throttle cap CAP_T(c), in the same steps | 8 | R455 17 | 40 (none) -/
  capT    : Nat := 40
  /-- sequencer: target in force, in the same steps | 8 | R452 17 | 0x19 -/
  vtarget : Nat := 25
  /-- sequencer: waiting for the settle time since this plumb time | 64 | R453 17 | none -/
  settle  : Option Nat := Option.none
  /-- last sensor reading of the course, in 1/8 °C | 16 | R455 17 | 0, DESIGN CHOICE (log 8) -/
  temp8   : Int := 0
  /-- VNOW at the last reading of the natural rates | 8 | R305, R452 11 17 | 0x19 -/
  natV    : Nat := 25
  /-- completion margin in force, % | 6 | R478 19 | fuse -/
  margin  : Option Int := Option.none
  /-- save store: saved copies of the course's cores by logical number | - | R451 17 | empty -/
  saved   : List Logical := []
  deriving DecidableEq, Repr

/-- Directory states (R253). -/
inductive DirSt where
  | invalid | shared | owned | lost
  deriving DecidableEq, Repr

/-- A directory entry (R253), whose TAG is held as the whole line number: `ce` and `ue` tell that its SECDED bits show a single-bit
or an uncorrectable error (R251). -/
structure DirEnt where
  st      : DirSt := .invalid
  line    : LineNo := 0
  aclass  : BitVec 4 := 0
  holders : BitVec 32 := 0
  ce      : Bool := false
  ue      : Bool := false
  deriving DecidableEq, Repr

/-- An L3 line (R249, R252, R331), with the words whose SECDED bits show an error as in `L2Line` (R251). -/
structure L3Line where
  valid  : Bool := false
  dirty  : Bool := false
  line   : LineNo := 0
  data   : LineData := {}
  aclass : BitVec 4 := 0
  tdid   : Tdid := 0
  ce     : BitVec 8 := 0
  ue     : BitVec 8 := 0
  deriving DecidableEq, Repr

/-- What an open tracker waits for (R260 to R274); `lost`: the poison pattern of a LOST line to be accepted by memory (R278). -/
inductive TrkWait where
  | mem | memWrite | fwd | inv | binv | maint | ready | lost
  deriving DecidableEq, Repr

/-- An open tracker (R271): its request and what it has gathered. -/
structure Tracker where
  msg    : Msg
  wait   : TrkWait
  /-- Courses whose answers are outstanding. -/
  from_  : BitVec 32 := 0
  data   : Option LineData := Option.none
  dirty  : Bool := false
  memId  : Nat := 0
  /-- It holds its requester's reserved tracker (R271). -/
  resvd  : Bool := false
  /-- For a back-invalidation: the request that waits for the entry (R274). -/
  next   : Option Msg := Option.none
  /-- Plumb time at which the request took the tracker (R282), and at which its forwards were sent (R277). -/
  opened : Nat := 0
  fwdAt  : Nat := 0
  /-- The dead-agent timeouts in force when those began, in ns (R284). -/
  openTo : Nat := 0
  fwdTo  : Nat := 0
  /-- For `lost`: what it waited for before (R278). -/
  was    : TrkWait := .ready
  deriving DecidableEq, Repr

/-- A claim on a directory set (R276). -/
structure Claim where
  agent : BitVec 7
  since : Nat
  deriving DecidableEq, Repr

/-- A set scrub in progress (R283): whether SET_SCRUB has been sent, and the courses that have not answered it. -/
structure Scrub where
  set  : BitVec 13
  wait : BitVec 32 := 0
  sent : Bool := false
  deriving DecidableEq, Repr

/-- A system slice: directory, L3, trackers (R245, R253, R271). -/
structure Slice where
  /-- directory, key 20 × set + way | 74 × 163,840 | R253 10 | invalid -/
  dir     : Tbl DirEnt := []
  /-- LRU order of each directory set, most recent first | - | R253 10 | empty -/
  dirLru  : Tbl (List Nat) := []
  /-- L3 lines, key 16 × set + way | 4 MiB | R245 10 | invalid -/
  l3      : Tbl L3Line := []
  /-- open trackers | 768 | R271 10 | empty -/
  trk     : List Tracker := []
  /-- requests that wait for a tracker open on their line, or for a reservation's 64 ns | - | R128, R259, R266 05 10 | empty -/
  queue   : List Tracker := []
  /-- writeback landing entries that wait for a tracker | 512 | R258, R270 10 | empty -/
  landing : List Msg := []
  /-- claims by set | - | R276 10 | none -/
  claims  : Tbl (Option Claim) := []
  /-- reservations of logical cores held at the home (line + 1; 0 none) | - | R266 10 | none -/
  resv    : Tbl Nat := []
  /-- plumb time at which the 64 ns of each such reservation end | 64 | R128, R266 05 10 | 0 -/
  resvEnd : Tbl Nat := []
  /-- set scrubs in progress | - | R283 10 | none -/
  scrubs  : List Scrub := []
  /-- number of the next request to a memory controller | - | R256 10 | 0 (the MODEL's numbering) -/
  nextMem : Nat := 0
  /-- SLICE_ERR[s] | 64 | R251 10 | 0 -/
  err     : Word64 := 0
  /-- SLICE_TRK[s]: RETRY_SET, RETRY_TRK and TRK_PEAK | 64 | R284 10 | 0 -/
  trkReg  : Word64 := 0
  deriving DecidableEq, Repr

/-- A queued memory request with the plumb time of its acceptance (R363, R364). -/
structure QReq where
  req : MemReq
  at_ : Nat
  deriving DecidableEq, Repr

/-- A memory controller (R357 to R383). -/
structure Mc where
  /-- MC_CFG | 64 | R358 14 | SPARE 0x1F -/
  cfg     : Word64 := 0x00000000003E0000
  /-- MC_CTL | 64 | R367 14 | RETRAIN 0x032, RT_PANIC 0x032, MARK_TH 0x40, RT_EN 1 -/
  ctl     : Word64 := 0x0000320000324001
  /-- SCRUB_CTL | 64 | R377 14 | EN 1, RATE 4, PASS 24 -/
  scrub   : Word64 := 0x8000000400000018
  /-- SCRUB_STATUS | 64 | R378 14 | 0 -/
  scrubSt : Word64 := 0
  /-- MC_STATUS | 64 | R381 14 | 0 -/
  status  : Word64 := 0
  /-- MC_ERRCNT | 64 | R372 14 | 0 -/
  errcnt  : Word64 := 0
  /-- MC_ERRADDR | 64 | R372 14 | 0 -/
  errAddr : Word64 := 0
  /-- MC_RANK[r] | 16 × 64 | R373 14 | 0 -/
  rank    : Tbl Word64 := []
  /-- MC_SPARE | 64 | R379 14 | DST 0x1F, BW 8 -/
  spare   : Word64 := 0x00001F0800000000
  /-- MC_RANKMAP | 64 | R361 14 | identity -/
  rankmap : Word64 := 0xFEDCBA9876543210
  /-- main queue, oldest first | 256 | R363 14 | empty -/
  mainQ   : List QReq := []
  /-- real-time port, oldest first | 32 | R363 14 | empty -/
  rtQ     : List QReq := []
  /-- start of the panic in progress | 64 | R365 14 | none -/
  panicAt : Option Nat := Option.none
  /-- requests served in the panic | 32 | R365 14 | 0 -/
  panicN  : Nat := 0
  /-- a scrub read waits at the controller's arbiter | 1 | R309, R377 11 14 | 0 -/
  scrubWait : Bool := false
  /-- corrections in this pass by (rank × 2 + subchannel) × 16 + device | - | R373 14 | 0 -/
  corr    : Tbl Nat := []
  /-- corrections and uncorrectable lines of this pass | - | R378 14 | 0 -/
  passCe  : Nat := 0
  passUe  : Nat := 0
  /-- refresh commands postponed by rank | - | R364 14 | 0 -/
  postponed : Tbl Nat := []
  /-- temperature status of each DIMM last read | - | R364 14 | 0, DESIGN CHOICE (log 8) -/
  dimmTemp : List Nat := []
  /-- plumb time of the last retraining step | 64 | R367 14 | none -/
  lastStep : Option Nat := Option.none
  /-- lines of the spare copied with failing words (line, mask) | - | R379 14 | empty -/
  sparePoison : List (LineNo × BitVec 8) := []
  /-- lines done in the present state of a spare entry | - | R379 14 | 0 -/
  spareAt : Nat := 0
  deriving DecidableEq, Repr

/-- A held grant of a locked sequence (R129, R315). -/
structure Grant where
  n     : Logical
  line  : LineNo
  until_ : Nat
  deriving DecidableEq, Repr

/-- An I/O TLB entry: context number, or 4,096 + channel number, its domain and epoch, page, leaf (R395). -/
structure IoTlb where
  unit  : Nat
  tdid  : Tdid
  epoch : BitVec 8
  lvl   : Nat
  vpn   : Nat
  pte   : Word64
  deriving DecidableEq, Repr

/-- A root port (R385 to R408). -/
structure Rp where
  /-- RP_CFG | 64 | R385 15 | CPLTO 0x32, MAXRATE 5 -/
  cfg     : Word64 := 0x0000000000320500
  /-- RP_STATUS | 64 | R400 15 | 0 -/
  status  : Word64 := 0
  /-- width of each link in DL_Active | - | R385 15 | 0 -/
  width   : Tbl Nat := []
  /-- held grants | - | R129 05 | none -/
  grants  : List Grant := []
  /-- requests that wait for a grant on their line | - | R129 05 | empty -/
  waiting : List OutReq := []
  /-- outbound non-posted requests without a completion, with the time sent | - | R388 15 | empty -/
  outst   : List (OutReq × Nat) := []
  /-- requests sent on the links (posted ones too), newest first | - | R387 15 | empty -/
  sent    : List OutReq := []
  /-- inbound requests held for a dry domain, in order, with their context and its epoch | - | R391, R393 15 | empty -/
  held    : List (BitVec 12 × BitVec 8 × Tlp) := []
  /-- inbound requests that wait at the port's arbiter, in order | - | R309, R310 11 | empty -/
  inq     : List (BitVec 12 × BitVec 8 × Tlp) := []
  /-- I/O TLB | 512 entries | R395 15 | empty -/
  iotlb   : List IoTlb := []
  /-- PE_PERST_N of links 0 to 3 released | 4 | R505 21 | 0 -/
  perst   : BitVec 4 := 0
  /-- completions returned to devices: tag, data, EP, UR | - | R392, R394 15 | empty -/
  cpls    : List (Nat × List Byte × Bool × Bool) := []
  deriving DecidableEq, Repr

/-- A function context (R390). -/
structure Ctx where
  /-- CTX_CTL | 64 | R390 15 | 0 -/
  ctl    : Word64 := 0
  /-- CTX_IO | 64 | R395 15 | 0 -/
  io     : Word64 := 0
  /-- CTX_BAR | 64 | R397 15 | 0 -/
  bar    : Word64 := 0
  /-- CTX_STATUS | 64 | R392 15 | 0 -/
  status : Word64 := 0
  /-- first refusal since the last halt has been journaled | 1 | R392 15 | 0 -/
  hrep   : Bool := false
  /-- plumb time of the last rebinding | 64 | R76 03 | none -/
  lastBind : Option Nat := Option.none
  /-- CTX_CTL writes held for the 8 µs, oldest first | - | R76 03 | empty -/
  heldW  : List CtlStore := []
  deriving DecidableEq, Repr

/-- A queued completion of a channel (R404): epoch tag, descriptor address, STATUS, whether it signals. -/
structure ChCpl where
  epoch  : BitVec 8
  desc   : Word64
  status : Byte
  irq    : Bool
  deriving DecidableEq, Repr

/-- A DMA copy channel (R401 to R406). -/
structure Chan where
  /-- CH_CTL | 64 | R403 15 | 0 -/
  ctl    : Word64 := 0
  /-- CH_IO | 64 | R402 15 | 0 -/
  io     : Word64 := 0
  /-- CH_RING | 64 | R402 15 | LOG2N 1 -/
  ring   : Word64 := 1
  /-- CH_PTR | 64 | R402 15 | 0 -/
  ptr    : Word64 := 0
  /-- CH_STATUS | 64 | R405 15 | 0 -/
  status : Word64 := 0
  /-- descriptor being processed | 256 | R402, R403 15 | none -/
  desc   : Option (List Byte) := Option.none
  /-- bytes of the current descriptor copied | 32 | R403 15 | 0 -/
  done   : Nat := 0
  /-- queued completions | - | R404 15 | empty -/
  cpls   : List ChCpl := []
  /-- plumb time of the last rebinding | 64 | R76 03 | none -/
  lastBind : Option Nat := Option.none
  /-- CH_CTL writes held for the 8 µs, oldest first | - | R76 03 | empty -/
  heldW  : List CtlStore := []
  deriving DecidableEq, Repr

/-- A tenant domain's descriptor (R59). -/
structure Dom where
  /-- DOM_CTL | 64 | R59 03 | 0; VALID 1 for domain 0 -/
  ctl    : Word64 := 0
  /-- DOM_STATUS.SEV_DROP and IRQ_STALE | 2 × 16 | R59 03 | 0 -/
  status : Word64 := 0
  /-- WINDOW[n] | 16 × 128 | R67 03 | 0 -/
  win    : Tbl Word128 := []
  /-- upper halves held until the next lower-half store | 16 × 65 | R69 03 | none -/
  winHi  : Tbl (Option Word64) := []
  /-- minute of the last close | 32 | R60 03 | none -/
  closed : Option Nat := Option.none
  /-- in the current minute: PAUSED was 1, opened, closed, grace taken | 4 × 1 | R334 12 | 0 -/
  mPaused : Bool := false
  mOpened : Bool := false
  mClosed : Bool := false
  mGrace  : Bool := false
  /-- plumb time of the last rebinding of the ledger account | 64 | R76 03 | none -/
  lastBind : Option Nat := Option.none
  deriving DecidableEq, Repr

/-- A domain's budget registers (R289 to R316). -/
structure Bud where
  /-- BCEIL[0] to BCEIL[3] | 4 × 64 | R289 11 | UNL 1 -/
  c0     : Word64 := 0x8000000000000000
  c1     : Word64 := 0x8000000000000000
  c2     : Word64 := 0x8000000000000000
  c3     : Word64 := 0x8000000000000000
  /-- BWT | 64 | R309 11 | PCL 1, weights 16 -/
  wt     : Word64 := 0x0000000110101000
  /-- BSTAT | 64 | R294 11 | 0 -/
  stat   : Word64 := 0
  /-- ECRED | 64 | R304 11 | 0 -/
  ecred  : Word64 := 0
  /-- BPOOL[0] to BPOOL[3] | 4 × 64 | R289 11 | 0 -/
  pool   : Tbl Int := []
  /-- resources whose balance stands for an unlimited ceiling | 4 | R289 11 | 0 -/
  unl    : BitVec 4 := 0
  /-- a DRY of the current period has been counted in DRYCNT | 1 | R296 11 | 0 -/
  dried  : Bool := false
  /-- the domain was opened since the latest plan | 1 | R304 11 | 0 -/
  unplanned : Bool := false
  deriving DecidableEq, Repr

/-- An arbiter's counters (R311). -/
structure ArbSt where
  /-- cnt[d], with the reset weight where nothing is listed | 8 each | R311 11 | 16, DESIGN CHOICE (log 8) -/
  cnt  : Tbl Nat := []
  /-- ptr | 12 | R311 11 | 0, DESIGN CHOICE (log 8) -/
  ptr  : Nat := 0
  /-- last[k] | - | R311 11 | 0, DESIGN CHOICE (log 8) -/
  last : Tbl Nat := []
  /-- requester granted by the last phase (0–4,095 domains; 4,096 + agent for device agents) | - | R310 11 | none -/
  grant : Option Nat := Option.none
  deriving DecidableEq, Repr

/-- A source entry's state in the hub (R342, R351). -/
structure Src where
  /-- SRC[id] writable fields VCORE, TDID, CLASS, PRIO in place | 64 | R342 13 | 0 -/
  w      : Word64 := 0
  /-- PEND of an edge source | 1 | R343 13 | 0 -/
  pend   : Bool := false
  /-- LINE of a level source | 1 | R342 13 | 0 -/
  line   : Bool := false
  /-- accepted and not ended: core, level, priority at acceptance | - | R348 13 | none -/
  inserv : Option (Logical × Level × BitVec 8) := Option.none
  /-- withdrawn by HUB_CLRPEND since its acceptance | 1 | R351 13 | 0 -/
  clr    : Bool := false
  /-- claimed since its acceptance | 1 | R351 13 | 0 -/
  claimed : Bool := false
  deriving DecidableEq, Repr

/-- What the hub holds for one logical core (R197, R345, R348, R350). -/
structure HubCore where
  /-- reported binding and epoch | 12 + 8 + 8 | R62 03 | domain 0, logical number, 0 -/
  dom    : Tdid := 0
  vcore  : BitVec 8 := 0
  epoch  : BitVec 8 := 0
  /-- causal stamp of that report | 64 | R65 03 | 0 -/
  stamp  : Nat := 0
  /-- reported LEVEL, IE and busy bits | 5 | R197 07 | H, 0, 0, 0 -/
  level  : Level := .h
  ie     : Bool := false
  sbusy  : Bool := false
  hbusy  : Bool := false
  /-- EVMASK held by the hub | 64 | R355 13 | 0 -/
  evmask : Word64 := 0
  /-- THRESH.TH and ID | 8 + 13 | R350 13 | 0, 0x1FFF -/
  thS    : BitVec 8 := 0
  idS    : SrcId := 0x1FFF
  /-- HCLAIM[n].TH and ID | 8 + 13 | R350 13 | 0, 0x1FFF -/
  thH    : BitVec 8 := 0
  idH    : SrcId := 0x1FFF
  /-- offer outstanding | - | R348 13 | none -/
  offer  : Option Offer := Option.none
  /-- short stamp of the offer's message | 24 | R22, R55 01 02 | 0 -/
  offerShort : BitVec 24 := 0
  /-- offers replaced while they may be on their way to the core, oldest first | - | R348 13 | empty -/
  replaced : List Offer := []
  /-- acceptances at S and at H not yet claimed, most recent first | - | R351 13 | empty -/
  unclS  : List SrcId := []
  unclH  : List SrcId := []
  /-- sources offered and refused since the last evaluation for another reason | - | R346 13 | empty -/
  refused : List SrcId := []
  deriving DecidableEq, Repr

/-- A journal record (R317). -/
structure JRec where
  stamp   : Nat
  agent   : BitVec 7
  cls     : Byte
  tdid    : Tdid
  seq     : Nat
  payload : List Byte
  deriving DecidableEq, Repr

/-- Stamping state and journal queue of an agent (R55, R322). -/
structure Agent where
  /-- recv_hi | 64 | R55 02 | 0 -/
  recvHi : Nat := 0
  /-- last | 64 | R55 02 | 0 -/
  last   : Nat := 0
  /-- seq | 32 | R55, R320 02 12 | 0 -/
  seq    : Nat := 0
  /-- records not yet sent, oldest first | 32 records | R322 12 | empty -/
  queue  : List JRec := []
  /-- recv_hi is not raised for 1 ms after a set | 1 | R516 02 | 0 -/
  noRecv : Bool := false
  /-- set marks not yet sent, each by the number of queued records before it | - | R516 02 | empty -/
  marks  : List Nat := []
  deriving DecidableEq, Repr

/-- A set of plumb time whose records the journal engine still holds apart (R516): T_set on the count in force, the agents whose mark has
arrived, and the records held behind it. -/
structure SetHold where
  at_   : Nat
  marks : List (BitVec 7) := []
  post  : List JRec := []
  deriving DecidableEq, Repr

/-- The journal engine (R317 to R327). -/
structure Jrn where
  /-- JRN_CTL | 64 | R327 12 | ALERT 0xC, LOG2SZ 0x14 -/
  ctl     : Word64 := 0x00C0000000000014
  /-- JRN_HEAD | 64 | R324 12 | 0 -/
  head    : Nat := 0
  /-- JRN_TAIL | 64 | R326 12 | 0 -/
  tail    : Nat := 0
  /-- records given a slot since EN was set (N) | 64 | R325 12 | 0 -/
  n       : Nat := 0
  /-- records whose ring writes are in flight: number and record, oldest first | - | R324 12 | empty -/
  flight  : List (Nat × JRec) := []
  /-- JRN_STATUS.RINGDROP and QDROP | 32 + 16 | R325 12 | 0 -/
  ringDrop : Nat := 0
  qDrop   : Nat := 0
  /-- dropped records not yet reported by a JRN_GAP: count and first stamp | - | R325 12 | 0 -/
  gap     : Nat := 0
  gapAt   : Nat := 0
  /-- records held while EN is 0 | 1,024 records | R327 12 | empty -/
  held    : List JRec := []
  /-- sets of plumb time in progress, the earlier first | - | R516 02 | none -/
  sets    : List SetHold := []
  deriving DecidableEq, Repr

/-- The ledger counts of one agent, or of all agents, for one domain in one minute (R331). -/
structure Counts where
  tokens : Nat := 0
  drd    : Nat := 0
  dwr    : Nat := 0
  iob    : Nat := 0
  occ    : Nat := 0
  /-- event energy, in pJ / 6,400,000,000 -/
  pj     : Nat := 0
  deriving DecidableEq, Repr

/-- A minute that has closed and is being written (R340): its index, records and trailer as bytes, and its TFLAGS. -/
structure Closing where
  minute : Nat
  /-- the records, sealed -/
  recs   : List (List Byte)
  /-- trailer bytes 0 to 39 -/
  head   : List Byte
  tflags : Byte
  key    : Option (List Byte)
  kgen   : BitVec 8
  prev   : List Byte
  slot   : Option Nat
  deriving DecidableEq, Repr

/-- The minute ledger (R328 to R341). -/
structure Ledger where
  /-- LED_CTL | 64 | R336 12 | NSLOT 0x03C -/
  ctl     : Word64 := 0x000000000000003C
  /-- LED_STATUS.SEALED, OVERRUN, NOKEY, KEYGEN, LAST | 64 | R340 12 | NOKEY 1 -/
  status  : Word64 := 0x2000000000000000
  /-- LED_ACK | 64 | R341 12 | 0 -/
  ack     : Word64 := 0
  /-- counts by agent: key (agent × 2 + bank) × 8,192 + TDID (4,096: overhead) | - | R329 12 | 0 -/
  agent   : Tbl Counts := []
  /-- minute that each agent counts in, whose lowest bit is its bank | 32 | R329 12 | 0 -/
  bank    : Tbl Nat := []
  /-- final counts gathered for the minute being closed, by TDID (4,096: overhead) | - | R330 12 | 0 -/
  sum     : Tbl Counts := []
  /-- final reports on their way: agent and minute | - | R330 12 | empty -/
  due     : List (BitVec 7 × Nat) := []
  /-- agents whose final report for the minute being closed has arrived | 88 | R330 12 | empty -/
  final   : List (BitVec 7) := []
  /-- minute being gathered | 32 | R328 12 | 0 -/
  minute  : Nat := 0
  /-- domains with a late count in this minute | - | R330 12 | empty -/
  partial_ : List Nat := []
  /-- close in progress | - | R340 12 | none -/
  closing : Option Closing := Option.none
  /-- seal key | 256 | R339 12 | none -/
  key     : Option (List Byte) := Option.none
  /-- key and seed to take effect after the close in progress, and the generation that the close uses | 256 + 384 + 8 | R339 12 | none -/
  nextKey : Option (List Byte × Option (List Byte) × BitVec 8) := Option.none
  /-- chain seed installed and not yet used | 384 | R338 12 | none -/
  seed    : Option (List Byte) := Option.none
  /-- CHAIN of the last sealed minute, when the next does not start a chain | 384 | R338 12 | none -/
  chain   : Option (List Byte) := Option.none
  /-- minute last written to each slot, plus 1 | 32 each | R430 16 | 0 -/
  slots   : Tbl Nat := []
  /-- flags of the minute being closed, by TDID: FLAGS byte and EPOCH captured at the boundary | 2 × 8 | R334 12 | none -/
  flags   : Tbl (Option (BitVec 8 × BitVec 8)) := []
  deriving DecidableEq, Repr

/-- The plumb master and its replicas (R44 to R53). -/
structure Plumb where
  /-- the master has locked or holds over, so it counts | 1 | R44 02 | 0 -/
  counting : Bool := false
  /-- master count, ns | 64 | R44 02 | 0 -/
  now      : Nat := 0
  /-- replica of each stop minus the master, ns | 90 × - | R45 02 | 0 -/
  off      : Tbl Int := []
  /-- replicas found ahead and held | 90 | R45 02 | none -/
  held     : List (BitVec 7) := []
  /-- PLUMB_CTL | 64 | R49 02 | 0 -/
  ctl      : Word64 := 0
  /-- PLUMB_STATUS | 64 | R49 02 | LOCK 1 on leaving COLD; 0 in COLD before the lock -/
  status   : Word64 := 0
  /-- PLUMB_PPS | 64 | R49 02 | 0 -/
  pps      : Nat := 0
  /-- a PPS edge has been accepted | 1 | R49 02 | 0 -/
  seen     : Bool := false
  /-- ns still to remove by slewing | - | R49 02 | 0 -/
  slew     : Int := 0
  /-- ticks since the last slew correction | 16 | R49 02 | 0 -/
  slewCnt  : Nat := 0
  /-- plumb time of the last accepted edge, carried over a set | 64 | R515 21 | none -/
  lastEdge : Option Int := Option.none
  /-- time of the last accepted edge or of the change to SLEW, for PPS_LOST | 64 | R52 02 | 0 -/
  edgeAt   : Nat := 0
  /-- plumb time at the last set, T_set on the new count | 64 | R516 02 | 0 -/
  setAt    : Nat := 0
  deriving DecidableEq, Repr

/-- The device states of R418. -/
inductive DevState where
  | cold | filling | booting | serving | degraded
  deriving DecidableEq, Repr

/-- The FILLING phases of R423. -/
inductive Phase where
  | config | training | fill | init | failed
  deriving DecidableEq, Repr

/-- The two paths to the Keystone (R409). -/
inductive KPath where
  | serial | mailbox
  deriving DecidableEq, Repr

/-- A command packet that has been accepted and not executed (R410). -/
structure Packet where
  path    : KPath
  seq     : BitVec 16
  opcode  : BitVec 16
  payload : List Byte
  crc     : BitVec 32
  deriving DecidableEq, Repr

/-- A path's sequence state and reply buffer (R412, R413, R417). -/
structure PathSt where
  /-- SEQ, CRC and reply of the last executed packet | 16 + 32 + reply | R417 16 | none -/
  last    : Option (BitVec 16 × BitVec 32 × List Byte) := Option.none
  /-- reply waiting to be read | - | R412 16 | none -/
  reply   : Option (List Byte) := Option.none
  /-- BUSY, RXERR and OVERRUN | 3 × 1 | R411 16 | 0 -/
  busy    : Bool := false
  rxerr   : Bool := false
  overrun : Bool := false
  deriving DecidableEq, Repr

/-- A rotation in progress (R461). -/
structure Rotation where
  n       : Logical
  from_   : Nat
  to_     : Nat
  reason  : BitVec 8
  packet  : Option Packet
  started : Nat
  deriving DecidableEq, Repr

/-- The staged microcode patch (R216 to R218): level, plaintext CRC, and the 4,352 plaintext bytes. -/
structure Staging where
  level : BitVec 32
  crc   : BitVec 32
  body  : List Byte
  deriving DecidableEq, Repr

/-- The boot firmware image that verified (R487). -/
structure Boot where
  version : BitVec 32
  patch   : List Byte
  host    : List Byte
  load    : BitVec 64
  entry   : Word64
  ks      : List Byte
  deriving DecidableEq, Repr

/-- The Keystone (R409 to R440, R486 to R496). -/
structure Ks where
  /-- device state | 3 | R418 16 | COLD -/
  st      : DevState := .cold
  /-- FILLING phase | 3 | R423 16 | CONFIG -/
  phase   : Phase := .config
  /-- BOOTST | 8 | R426 16 | 0 -/
  bootst  : BitVec 8 := 0
  /-- internal reset held, before the boot ROM runs | 1 | R503 21 | 1 -/
  inReset : Bool := true
  /-- the serial port's path | - | R412 16 | empty -/
  serial  : PathSt := {}
  /-- the mailbox path | - | R413 16 | empty -/
  mailbox : PathSt := {}
  /-- accepted packets in the order of arrival, but for the one in execution | - | R410 16 | empty -/
  queue   : List Packet := []
  /-- a packet is in execution and has not been answered | 1 | R410 16 | 0 -/
  running : Bool := false
  /-- bytes that the last transaction clocked out on KSP_MISO | - | R411 16 | empty -/
  miso    : List Byte := []
  /-- alert PENDING | 32 | R439 16 | 0 -/
  pending : BitVec 32 := 0
  /-- alert MASK | 32 | R439 16 | all ones -/
  mask    : BitVec 32 := 0xFFFFFFFF
  /-- MB_ALLOW.GROUPS | 7 | R409 16 | 0b000_1001 -/
  allow   : BitVec 8 := 0x09
  /-- MB_CTL.LEN | 13 | R413 16 | 0 -/
  mbLen   : BitVec 13 := 0
  /-- mailbox command buffer | 8,192 bytes | R413 16 | 0, DESIGN CHOICE (log 8) -/
  mbCmd   : Tbl Byte := []
  /-- mailbox reply buffer | 8,192 bytes | R413 16 | 0, DESIGN CHOICE (log 8) -/
  mbReply : Tbl Byte := []
  /-- the verified image | - | R487 20 | none -/
  boot    : Option Boot := Option.none
  /-- SET_MEMCFG values | 2 + 1 | R431 16 | highest, no spare -/
  maxSpeed : BitVec 8 := 2
  wantSpare : Bool := false
  /-- the START_FILL packet in progress | - | R439 16 | none -/
  filling : Option Packet := Option.none
  /-- plumb time of START_FILL | 64 | R494 20 | 0 -/
  fillAt  : Nat := 0
  /-- rotations in progress | - | R461 18 | empty -/
  rots    : List Rotation := []
  /-- CORE_RETURN in progress: physical core and packet | - | R465 18 | none -/
  coreRet : Option (Nat × Packet) := Option.none
  /-- AGENT_RETURN in progress: agents and packets | - | R467 18 | empty -/
  agentRet : List (BitVec 7 × Packet) := []
  /-- SPARE_START in progress: channels and packet | - | R379 14 | empty -/
  spares  : List (BitVec 4 × Packet) := []
  /-- RESET executed and waiting for its reply to be read: time of the reply | 64 | R432 16 | none -/
  resetAt : Option Nat := Option.none
  /-- staged patch | - | R218 08 | none -/
  staged  : Option Staging := Option.none
  /-- THERMTRIP_N driven low | 1 | R456, R502 17 21 | 0 -/
  tripped : Bool := false
  /-- a DOM_OPEN held for its 8 µs | - | R76 03 | none -/
  heldOpen : Option Packet := Option.none
  deriving DecidableEq, Repr

/-- The test access port (R506). -/
inductive TapIr where
  | idcode | bypass | sample | extest | extestPulse | extestTrain
  deriving DecidableEq, Repr

/-- Why an engine's or a root port's access to a line cannot be made yet (R128, R259, R271): its line is busy, or its home slice
has no tracker for the agent. -/
inductive EngHold where
  | busy | full (h a : Nat)
  deriving DecidableEq, Repr

/-- The pins of R499 as the model sees them. -/
structure Pins where
  /-- RESET_N | 1 | R503 21 | 1 -/
  resetN  : Bool := true
  /-- PWR_OK_AON, _CORE, _MEM, _PCIE | 4 × 1 | R508 21 | AON 1, others 0, DESIGN CHOICE (log 8) -/
  pwrOk   : BitVec 4 := 1
  /-- the switched groups are sampled | 1 | R508 21 | 0 -/
  sampled : Bool := false
  /-- TESTEN | 1 | R499, R506 21 | 0 (must be tied to VSS) -/
  testen  : Bool := false
  /-- PLUMB_REFCLK runs | 1 | R513 21 | 1, DESIGN CHOICE (log 8) -/
  refclk  : Bool := true
  /-- instruction of the test access port | - | R506 21 | IDCODE, PRESUMED (IEEE 1149.1) (log 9) -/
  tap     : TapIr := .idcode
  /-- boundary register | - | R506 21 | empty, DESIGN CHOICE (log 8) -/
  bound   : List Bool := []
  /-- pin values driven by an EXTEST while RESET_N is low | - | R506 21 | none -/
  driven  : Option (List Bool) := Option.none
  /-- boot flash pins driven by the Keystone | 1 | R504 21 | 0 -/
  flash   : Bool := false
  deriving DecidableEq, Repr

/-- The device. -/
structure State where
  /-- the commands that are waiting, first in, first out (the MODEL's own queue) | - | - | empty -/
  pending : List Instr := []
  /-- the counter that the free values read and advance (the MODEL's own field, log 3) | - | - | 0, DESIGN CHOICE -/
  free    : Nat := 0
  /-- DRAM contents: (address, byte) pairs; an unlisted byte reads zero | 8 TiB | R23, R376 01 14 | zero, DESIGN CHOICE before the fill (log 10) -/
  mem     : List Host.Cell := []
  /-- DRAM words (address / 8) stored as the poison pattern | 1 each | R374 14 | none -/
  memPoison : Tbl Bool := []
  /-- DRAM_TOP | 64 | R31 01 | 0 -/
  dramTop : Word64 := 0
  /-- logical cores 0 to 255 | - | R15, R80 01 04 | `Core` -/
  cores   : Tbl Core := []
  /-- physical cores 0 to 287 | - | R15 01 | off -/
  phys    : Tbl PhysCore := []
  /-- courses 0 to 31 | - | R15 01 | `Course` -/
  courses : Tbl Course := []
  /-- slices 0 to 31 | - | R26 01 | `Slice` -/
  slices  : Tbl Slice := []
  /-- memory controllers 0 to 15 | - | R357 14 | `Mc` -/
  mcs     : Tbl Mc := []
  /-- root ports 0 to 5 | - | R384 15 | `Rp` -/
  rps     : Tbl Rp := []
  /-- function contexts 0 to 4,095 | - | R390 15 | `Ctx` -/
  ctxs    : Tbl Ctx := []
  /-- DMA copy channels 0 to 1,023 | - | R401 15 | `Chan` -/
  chans   : Tbl Chan := []
  /-- I/O TLBs of the DMA engines | 8 × 256 entries | R395 15 | empty -/
  dmaTlb  : Tbl (List IoTlb) := []
  /-- IOINV.DONE, the writes waiting for it, and the accesses it waits for | 1 | R396 15 | 1 -/
  ioDone  : Bool := true
  ioWait  : List CtlStore := []
  ioPend  : List OutReq := []
  /-- configuration space words that software has written (offset / 4) | 32 each | R386 15 | all ones read where nothing claims -/
  cfgSpace : Tbl (Option (BitVec 32)) := []
  /-- domains 0 to 4,095 | - | R59 03 | `Dom`; VALID for 0 -/
  doms    : Tbl Dom := []
  /-- windows as each holder (agent) has them: key holder × 65,536 + t × 16 + n | 128 | R69 03 | 0 -/
  winHeld : Tbl Word128 := []
  /-- window values on their way to holders: holder, key of t and n, value, storing core, CTL offset stored to, short stamp | - | R22, R69 01 03 | empty -/
  winMsgs : List (Nat × Nat × Word128 × Logical × Nat × BitVec 24) := []
  /-- PMASK[n] | 16 × 64 | R71 03 | 0xFFFF_FFFF -/
  pmask   : Tbl Word64 := []
  /-- budgets of domains 0 to 4,095 | - | R289 11 | `Bud` -/
  buds    : Tbl Bud := []
  /-- BUD_CTL | 64 | R288 11 | PERIOD_NOW 0x00A, GRACE 0x1000, LEASE 0x040, PERIOD 0x00A -/
  budCtl  : Word64 := 0x000A10000040000A
  /-- PLAN_CTL | 64 | R304 11 | EOPEN 2, UNL_RATE 0x28A, RESERVE 60, CAP 180 -/
  planCtl : Word64 := 0x0002028A003C00B4
  /-- PLAN_STATUS | 64 | R304 11 | RES_EFF 60 -/
  planSt  : Word64 := 0x00000000003C0000
  /-- a plan is complete and waits for its boundary: refills of each domain | - | R304, R307 11 | none -/
  plan    : Option (List (Tdid × BitVec 8 × List Word64)) := Option.none
  /-- refills that have reached the budget block and wait for the boundary | - | R289, R290 11 | empty -/
  refills : List (Tdid × BitVec 8 × List Word64) := []
  /-- course voltages of the latest plan, whose reductions wait for its boundary | 32 × 8 | R306 11 | empty -/
  planV   : List Nat := []
  /-- a boundary at which a plan was due has passed without one | 1 | R307 11 | 0 -/
  planLate : Bool := false
  /-- plumb time of the last boundary applied | 64 | R289, R292 11 | 0 -/
  budAt   : Nat := 0
  /-- overhead energy of the period, in the unit of `energy` | - | R304 11 | 0 -/
  ovhE    : Nat := 0
  /-- usage reports on their way | - | R296 11 | empty -/
  reports : List UsageRep := []
  /-- ARB_CTL | 64 | R311 11 | HOLD 10, WIN 10 -/
  arbCtl  : Word64 := 0x0000000A0000000A
  /-- arbiters: key channel; 16 + port; 32 + engine | - | R309 11 | `ArbSt` -/
  arbs    : Tbl ArbSt := []
  /-- usage not yet reported: key (agent × 4,096 + TDID) × 4 + r | - | R296 11 | 0 -/
  usage   : Tbl Nat := []
  /-- sub-µJ remainders of energy, in pJ / 6,400,000,000: key agent × 4,096 + TDID | - | R302 11 | 0 -/
  energy  : Tbl Nat := []
  /-- stall points' latest notice: key (point × 4,096 + TDID) × 4 + r → 2 × period + dry, plus 2 | - | R298 11 | none -/
  dry     : Tbl Nat := []
  /-- notices on their way: point, TDID, resource, period, dry, short stamp | - | R22, R296 01 11 | empty -/
  notices : List (Nat × Tdid × BitVec 2 × Nat × Bool × BitVec 24) := []
  /-- leases returned by rebinding cores and not yet credited: core, TDID, tokens, short stamp | - | R22, R295 01 11 | empty -/
  returns : List (Logical × Tdid × Nat × BitVec 24) := []
  /-- hub: source entries | 8,191 × 64 | R342 13 | `Src` -/
  srcs    : Tbl Src := []
  /-- hub: per logical core | - | R345 13 | `HubCore` -/
  hubs    : Tbl HubCore := []
  /-- hub: map of (TDID, VCORE) pairs, key TDID × 256 + VCORE → logical core + 1 | 9 | R65, R345 03 13 | (0, n) to n by rule; others none -/
  pairs   : Tbl Nat := []
  /-- HUB_STATUS | 64 | R353 13 | 0 -/
  hubSt   : Word64 := 0
  /-- MSIMAP[k] | 4,096 × 64 | R353 13 | 0 -/
  msimap  : Tbl Word64 := []
  /-- SEV messages on their way to the hub: domain, whether to a group, target, short stamp | - | R62, R197, R355 | empty -/
  sevs    : List (Tdid × Bool × BitVec 8 × BitVec 24) := []
  /-- events sent to cores and not arrived: core, epoch, sending domain, short stamp | - | R355 13 | empty -/
  events  : List (Logical × BitVec 8 × Tdid × BitVec 24) := []
  /-- answers of cores to offers on their way to the hub, with their short stamps | - | R348 13 | empty -/
  answers : List (Logical × SrcId × Answer × BitVec 24) := []
  /-- mortar messages in flight | - | R22, R257 01 10 | empty -/
  net     : List Msg := []
  /-- requests to memory controllers and their answers in flight | - | R256 10 | empty -/
  memNet  : List (BitVec 4 × MemReq) := []
  memAns  : List (BitVec 5 × MemAns) := []
  /-- interrupt messages of contexts on their way to the hub: context, its epoch, data, short stamp | - | R353 13 | empty -/
  msis    : List (BitVec 12 × BitVec 8 × BitVec 32 × BitVec 24) := []
  /-- stores to control registers, and requests to root ports, in flight | - | R121 05 | empty -/
  ctlNet  : List CtlStore := []
  outNet  : List (BitVec 3 × OutReq) := []
  /-- last writes to reach control registers for R30: offset → arrival, stamp, whether the Keystone's, core | - | R30 01 | none -/
  ctlLast : Tbl (Option (Nat × Nat × Bool × Logical)) := []
  /-- TLB invalidations in flight, by the core they go to | - | R242 09 | empty -/
  invNet  : List (Logical × TlbInv) := []
  /-- ICINV broadcasts in flight: executing core, course they go to, line, short stamp | - | R135 05 | empty -/
  icNet   : List (Logical × BitVec 5 × LineNo × BitVec 24) := []
  /-- agents' stamping state and journal queues, 0 to 89 | - | R55 02 | 0 -/
  agents  : Tbl Agent := []
  /-- journal engine | - | R317 12 | `Jrn` -/
  jrn     : Jrn := {}
  /-- ledger | - | R328 12 | `Ledger` -/
  led     : Ledger := {}
  /-- plumb | - | R44 02 | `Plumb` -/
  plumb   : Plumb := {}
  /-- Keystone | - | R409 16 | `Ks` -/
  ks      : Ks := {}
  /-- pins | - | R499 21 | `Pins` -/
  pins    : Pins := {}
  /-- GLOBAL_STATUS | 64 | R459 17 | 0 -/
  gstat   : Word64 := 0
  /-- THERM_CTL | 64 | R459 17 | CRIT 0x7A, THROT 0x76, WARN 0x6E, HYST 5 -/
  thermCtl : Word64 := 0x000000007A766E05
  /-- THERM_STATUS.THROTTLED, TMAX and TSRC | 64 | R455 17 | 0 -/
  thermSt : Word64 := 0
  /-- last reading of each sensor, in 1/8 °C, plus 2,000 | - | R456 17 | none -/
  temps   : Tbl Nat := []
  /-- sensors whose warn (bit 0) and critical (bit 1) crossing has been reported | 2 each | R456 17 | 0 -/
  crossed : Tbl Nat := []
  /-- raw readings of 135 °C or above: since when, plus 1 | - | R456 17 | none -/
  hot     : Tbl Nat := []
  /-- FAULT_CTL | 64 | R471 18 | 0x2F -/
  faultCtl : Word64 := 0x2F
  /-- FAULT_STATUS W1C bits | 64 | R471 18 | 0 -/
  faultSt : Word64 := 0
  /-- RO bits of FAULT_STATUS as last journaled | 8 | R473 18 | 0 -/
  faultWas : Word64 := 0
  /-- COH_CTL | 64 | R284 10 | DEAD_TO 200, RETRY_BASE 64, RETRY_CAP 6, CLAIM_N 4 -/
  cohCtl  : Word64 := 0x000000C800400604
  /-- COH_DEAD | 64 | R277 10 | 0 -/
  cohDead : Word64 := 0
  /-- HPTB[n] | 256 × 64 | R228 09 | 0 -/
  hptb    : Tbl Word64 := []
  /-- PMB_MAP[i] | 8 × 64 | R457 17 | 0 -/
  pmbMap  : Tbl Word64 := []
  /-- regulator readings last polled, and unanswered polls | - | R435, R458 16 17 | none -/
  regs    : Tbl (Option RegRead) := []
  noAns   : Tbl Nat := []
  /-- PWR_VOTE[d]: STATE, LASTAB, ABORTS, KS, SW | 375 × 64 | R443 17 | 0; SW 1 for root ports -/
  votes   : Tbl Word64 := []
  /-- step of an entry to off: 0 none, 1 before A, 2 A to B, 3 B to C, 4 at or after C | 3 | R445 17 | 0 -/
  offStep : Tbl Nat := []
  /-- user trims | 21 each | R474 19 | 0 -/
  trims   : Tbl Int := []
  /-- RAIL_E[r] | 4 × 64 | R475 19 | 0 -/
  railE   : Tbl Nat := []
  /-- bank counters: key (bank × 32 + word offset / 8) | 64 | R479 19 | 0; CLS 0xF, WIN 0x3E8 -/
  banks   : Tbl Word64 := []
  /-- banks frozen | - | R482 19 | none -/
  bankFrozen : Tbl Bool := []
  /-- bytes counted in the current bandwidth window: key bank × 2 + (0 A, 1 B) | 48 | R481 19 | 0 -/
  bwNow   : Tbl Nat := []
  /-- plumb time of the last window boundary of a bank | 64 | R481 19 | 0 -/
  bwAt    : Tbl Nat := []
  /-- PM_GLOBAL.SNAP, FREEZE, LATE | 64 | R482 19 | 0 -/
  pmGlobal : Word64 := 0
  /-- PM_SNAPT and PM_FRZT | 2 × 64 | R482 19 | 0 -/
  snapT   : Nat := 0
  frzT    : Nat := 0
  /-- banks that have not reached the pending snapshot or freeze | - | R483 19 | empty -/
  snapWait : List Nat := []
  frzWait : List Nat := []
  lateBanks : Nat := 0
  /-- the access that the command in execution could not make: its line is busy, or its home has no tracker (none between commands) | - | R259, R271 10 | none (the MODEL's bookkeeping) -/
  engHold : Option EngHold := Option.none
  /-- RETRY answers in a row to an engine or a root port, and the plumb time at which its wait ends: key agent | - | R271, R275 10 | 0 -/
  engTry  : Tbl (Nat × Nat) := []
  /-- requests of agents other than courses that were answered RETRY | - | R275 10 | empty -/
  engReqs : List OpenReq := []
  deriving DecidableEq, Repr

/-- Why the machine stops with a fault. -/
inductive Fault where
  /-- RESET_RELEASE with TESTEN high: R506 guarantees no behaviour described in the manual. Safe: nothing is claimed after it. -/
  | testMode
  deriving DecidableEq, Repr

/-- Why a command has no meaning. -/
inductive Refusal where
  /-- Raised by an arm of `exec` whose command has no meaning in the model yet. Safe: nothing is claimed of it. -/
  | notModelled (mnemonic : String)
  deriving DecidableEq, Repr

/-- The device right after reset: COLD, with its internal reset still held (R418, R503), every register at its Reset
column value (R11), no core running and no command waiting. -/
def State.reset : State := {}

end Sys2Proof.Machine
end

