-- ==== Sys2Proof/Machine/Bytes.lean ====
section
/-! DEFINITION. Bytes, fields and lines: little-endian packing (R82, R317), register fields (R7, R8), and line data with its
poison marks (R252). -/
namespace Sys2Proof.Machine

/-- Bits [lo + n − 1 : lo] of a word as a number. -/
def fld {w : Nat} (x : BitVec w) (lo n : Nat) : Nat := (x.extractLsb' lo n).toNat

/-- The word with bits [lo + n − 1 : lo] replaced by the low `n` bits of `v`. -/
def fldSet (x : Word64) (lo n v : Nat) : Word64 :=
  let m : Word64 := BitVec.ofNat 64 ((2 ^ n - 1) <<< lo)
  (x &&& ~~~m) ||| (BitVec.ofNat 64 ((v % 2 ^ n) <<< lo))

/-- The word with the bits of `mask` taken from `v` and the others kept. -/
def maskIn (old v mask : Word64) : Word64 := (old &&& ~~~mask) ||| (v &&& mask)

/-- 1 for true. -/
def b2n (b : Bool) : Nat := if b then 1 else 0

/-- The sum held at `2 ^ n − 1` (the saturating counters of the register descriptions). -/
def satAdd (n a b : Nat) : Nat := Nat.min (2 ^ n - 1) (a + b)

/-- Adds to a saturating counter field. -/
def fldSat (x : Word64) (lo n k : Nat) : Word64 := fldSet x lo n (satAdd n (fld x lo n) k)

/-- The `n` little-endian bytes of a number (R82). -/
def bytesOf : Nat → Nat → List Byte
  | 0, _ => []
  | n + 1, v => BitVec.ofNat 8 v :: bytesOf n (v / 256)

/-- The number that little-endian bytes spell (R82). -/
def natOf : List Byte → Nat
  | [] => 0
  | b :: r => b.toNat + 256 * natOf r

/-- `n` bytes of a list from `off`, missing ones read as zero. -/
def sub (l : List Byte) (off n : Nat) : List Byte := (List.range n).map (fun i => l.getD (off + i) 0)

/-- A little-endian field of `n` bytes at `off`. -/
def le (l : List Byte) (off n : Nat) : Nat := natOf (sub l off n)

/-- Two's complement of `v` in `n` bits, as a number. -/
def ofInt (n : Nat) (v : Int) : Nat := (v % (2 ^ n : Int)).toNat

/-- The signed value of the low `n` bits of a number. -/
def toSigned (n v : Nat) : Int :=
  let m := v % 2 ^ n
  if 2 ^ (n - 1) ≤ m then (m : Int) - (2 ^ n : Int) else (m : Int)

/-- A value held between two bounds. -/
def clampI (lo hi v : Int) : Int := if v < lo then lo else if hi < v then hi else v

/-- Byte `i` of a line. -/
def lineByte (l : LineData) (i : Nat) : Byte := l.bits.extractLsb' (8 * i) 8

/-- Byte `i` of a line with the mark of its 8-byte word (R252). -/
def linePByte (l : LineData) (i : Nat) : PByte := { b := lineByte l i, p := l.poison.getLsbD (i / 8) }

/-- `n` bytes of a line from `off`. -/
def lineRead (l : LineData) (off n : Nat) : List PByte := (List.range n).map (fun i => linePByte l (off + i))

/-- The line with one byte replaced; marks unchanged. -/
def linePut (l : LineData) (i : Nat) (b : Byte) : LineData :=
  let m : BitVec 512 := BitVec.ofNat 512 (255 <<< (8 * i))
  { l with bits := (l.bits &&& ~~~m) ||| BitVec.ofNat 512 (b.toNat <<< (8 * i)) }

/-- The bytes of a line replaced from `off`, in order. -/
def linePuts (l : LineData) (off : Nat) : List PByte → LineData
  | [] => l
  | b :: r => linePuts (linePut l off b.b) (off + 1) r

/-- The mark of word `w` after a store of `bs` at `off` (R252): poisoned data sets it, 8 bytes of sound data clear it,
part of a word leaves it. -/
def markAfter (l : LineData) (off : Nat) (bs : List PByte) (w : Nat) : Bool :=
  let here := (List.range bs.length).filter (fun i => (off + i) / 8 == w)
  if here.any (fun i => (bs.getD i { b := 0 }).p) then true
  else if here.length == 8 then false else l.poison.getLsbD w

/-- A store of `bs` into a line at `off` (R252). -/
def lineWrite (l : LineData) (off : Nat) (bs : List PByte) : LineData :=
  let d := linePuts l off bs
  { d with poison := BitVec.ofNat 8 ((List.range 8).foldl (fun a w => a + b2n (markAfter l off bs w) * 2 ^ w) 0) }

/-- The bytes of `new` under a byte mask merged into `old` (R265), marks as R252. -/
def lineMerge (old new : LineData) (mask : BitVec 64) : LineData :=
  let d := (List.range 64).foldl (fun a i => if mask.getLsbD i then linePut a i (lineByte new i) else a) old
  let mk := fun w =>
    let here := (List.range 8).filter (fun i => mask.getLsbD (8 * w + i))
    if here.isEmpty then old.poison.getLsbD w
    else if new.poison.getLsbD w then true
    else if here.length == 8 then false else old.poison.getLsbD w
  { d with poison := BitVec.ofNat 8 ((List.range 8).foldl (fun a w => a + b2n (mk w) * 2 ^ w) 0) }

/-- A line that holds `bs` from `off` and zeros elsewhere, with the byte mask of what it holds. -/
def lineOf (off : Nat) (bs : List PByte) : LineData × BitVec 64 :=
  let d := lineWrite {} off bs
  let pz := (List.range 8).foldl (fun a w =>
    a + b2n ((List.range bs.length).any (fun i => (off + i) / 8 == w && (bs.getD i { b := 0 }).p)) * 2 ^ w) 0
  ({ d with poison := BitVec.ofNat 8 pz }, BitVec.ofNat 64 ((2 ^ bs.length - 1) <<< off))

/-- The value of little-endian bytes with marks. -/
def pnat : List PByte → Nat
  | [] => 0
  | b :: r => b.b.toNat + 256 * pnat r

/-- Any marked byte (R252). -/
def pany (l : List PByte) : Bool := l.any (·.p)

/-- Little-endian bytes of a number, all marked or none. -/
def pbytes (n v : Nat) (p : Bool) : List PByte := (bytesOf n v).map (fun b => { b := b, p := p })

/-- The line number of a physical address (R245). -/
def lineOfPa (a : PAddr) : LineNo := a.extractLsb' 6 46

/-- The first physical address of a line. -/
def paOfLine (l : LineNo) : PAddr := BitVec.ofNat 52 (l.toNat * 64)

end Sys2Proof.Machine
end

