-- ==== Sys2Proof/Machine/Tables.lean ====
section
/-! DEFINITION. Sparse tables in one canonical form: keys strictly rising, no entry equal to the table's default. -/
namespace Sys2Proof.Machine

/-- The entry of key `k`: what the table lists, or the default `d k`. -/
def tget {α : Type} (d : Nat → α) : Tbl α → Nat → α
  | [], k => d k
  | e :: r, k => if e.1 = k then e.2 else tget d r k

/-- Insertion before the first greater key. -/
def tins {α : Type} (k : Nat) (v : α) : Tbl α → Tbl α
  | [] => [(k, v)]
  | e :: r => if k < e.1 then (k, v) :: e :: r else e :: tins k v r

/-- The table without key `k`. -/
def tdel {α : Type} (k : Nat) : Tbl α → Tbl α
  | [] => []
  | e :: r => if e.1 = k then tdel k r else e :: tdel k r

/-- The table with `v` at key `k`; writing the default removes the entry. -/
def tset {α : Type} [DecidableEq α] (d : Nat → α) (t : Tbl α) (k : Nat) (v : α) : Tbl α :=
  if v = d k then tdel k t else tins k v (tdel k t)

/-- Every key of the table is greater than `k`. -/
def tabove {α : Type} (k : Nat) : Tbl α → Bool
  | [] => true
  | e :: r => decide (k < e.1) && tabove k r

/-- The canonical form: keys strictly rising and no entry equal to the default. -/
def twf {α : Type} [DecidableEq α] (d : Nat → α) : Tbl α → Bool
  | [] => true
  | e :: r => tabove e.1 r && decide (e.2 ≠ d e.1) && twf d r

end Sys2Proof.Machine
end

