-- ==== Sys2Proof/Machine/Ops.lean ====
section
/-! DEFINITION. The named operations over the device's state: access to each table, the address map (R23 to R28), the agents
and their stamps (R17, R18, R54, R55), journal records (R317 to R322), messages (R22), charges (R285, R302) and the
events that clear a reservation (R127). -/
namespace Sys2Proof.Machine

/-! ### Access to the tables -/

/-- Logical core `n` before anything has changed it (R62: VCORE resets to the logical core number). -/
def coreInit (n : Nat) : Core := { vcore := BitVec.ofNat 8 n }
def getCore (s : State) (n : Nat) : Core := tget coreInit s.cores n
def setCore (s : State) (n : Nat) (c : Core) : State := { s with cores := tset coreInit s.cores n c }
def modCore (s : State) (n : Nat) (f : Core → Core) : State := setCore s n (f (getCore s n))

def getPhys (s : State) (p : Nat) : PhysCore := tget (fun _ => {}) s.phys p
def setPhys (s : State) (p : Nat) (x : PhysCore) : State := { s with phys := tset (fun _ => {}) s.phys p x }

def getCourse (s : State) (c : Nat) : Course := tget (fun _ => {}) s.courses c
def setCourse (s : State) (c : Nat) (x : Course) : State := { s with courses := tset (fun _ => {}) s.courses c x }
def modCourse (s : State) (c : Nat) (f : Course → Course) : State := setCourse s c (f (getCourse s c))

def getSlice (s : State) (c : Nat) : Slice := tget (fun _ => {}) s.slices c
def setSlice (s : State) (c : Nat) (x : Slice) : State := { s with slices := tset (fun _ => {}) s.slices c x }
def modSlice (s : State) (c : Nat) (f : Slice → Slice) : State := setSlice s c (f (getSlice s c))

def getMc (s : State) (c : Nat) : Mc := tget (fun _ => {}) s.mcs c
def setMc (s : State) (c : Nat) (x : Mc) : State := { s with mcs := tset (fun _ => {}) s.mcs c x }
def modMc (s : State) (c : Nat) (f : Mc → Mc) : State := setMc s c (f (getMc s c))

def getRp (s : State) (c : Nat) : Rp := tget (fun _ => {}) s.rps c
def setRp (s : State) (c : Nat) (x : Rp) : State := { s with rps := tset (fun _ => {}) s.rps c x }
def modRp (s : State) (c : Nat) (f : Rp → Rp) : State := setRp s c (f (getRp s c))

def getCtx (s : State) (k : Nat) : Ctx := tget (fun _ => {}) s.ctxs k
def setCtx (s : State) (k : Nat) (x : Ctx) : State := { s with ctxs := tset (fun _ => {}) s.ctxs k x }

def getChan (s : State) (k : Nat) : Chan := tget (fun _ => {}) s.chans k
def setChan (s : State) (k : Nat) (x : Chan) : State := { s with chans := tset (fun _ => {}) s.chans k x }

/-- Domain `t` before anything has changed it: domain 0 is VALID (R59). -/
def domInit (t : Nat) : Dom := if t = 0 then { ctl := 0x8000000000000000 } else {}
def getDom (s : State) (t : Nat) : Dom := tget domInit s.doms t
def setDom (s : State) (t : Nat) (x : Dom) : State := { s with doms := tset domInit s.doms t x }
def modDom (s : State) (t : Nat) (f : Dom → Dom) : State := setDom s t (f (getDom s t))

def getBud (s : State) (t : Nat) : Bud := tget (fun _ => {}) s.buds t
def setBud (s : State) (t : Nat) (x : Bud) : State := { s with buds := tset (fun _ => {}) s.buds t x }
def modBud (s : State) (t : Nat) (f : Bud → Bud) : State := setBud s t (f (getBud s t))

def getSrc (s : State) (k : Nat) : Src := tget (fun _ => {}) s.srcs k
def setSrc (s : State) (k : Nat) (x : Src) : State := { s with srcs := tset (fun _ => {}) s.srcs k x }
def modSrc (s : State) (k : Nat) (f : Src → Src) : State := setSrc s k (f (getSrc s k))

/-- What the hub holds for core `n` before its first report (R62). -/
def hubInit (n : Nat) : HubCore := { vcore := BitVec.ofNat 8 n }
def getHub (s : State) (n : Nat) : HubCore := tget hubInit s.hubs n
def setHub (s : State) (n : Nat) (x : HubCore) : State := { s with hubs := tset hubInit s.hubs n x }
def modHub (s : State) (n : Nat) (f : HubCore → HubCore) : State := setHub s n (f (getHub s n))

def getAgent (s : State) (a : Nat) : Agent := tget (fun _ => {}) s.agents a
def setAgent (s : State) (a : Nat) (x : Agent) : State := { s with agents := tset (fun _ => {}) s.agents a x }

def getArb (s : State) (a : Nat) : ArbSt := tget (fun _ => {}) s.arbs a
def setArb (s : State) (a : Nat) (x : ArbSt) : State := { s with arbs := tset (fun _ => {}) s.arbs a x }

/-- PWR_VOTE of a domain before anything has changed it: the SW votes of the root ports' domains are given (R443). -/
def voteInit (d : Nat) : Word64 := if 368 ≤ d && d < 374 then 1 else 0

/-- Every entry of a table rewritten. -/
def tmapv {α : Type} [DecidableEq α] (d : Nat → α) (t : Tbl α) (f : Nat → α → α) : Tbl α :=
  t.foldl (fun a e => tset d a e.1 (f e.1 (tget d a e.1))) t

/-- Every core that is listed rewritten. -/
def mapCores (s : State) (f : Nat → Core → Core) : State := { s with cores := tmapv coreInit s.cores f }

/-- The next FREE VALUE and the state with the counter advanced (log entry 3). -/
def free (s : State) : Nat × State := (Config.freeNat s.free, { s with free := s.free + 1 })

/-! ### Physical cores, courses and stops (R15 to R18) -/

/-- The physical core that holds logical number `n` (R15). -/
def physOf (s : State) (n : Nat) : Option Nat :=
  (s.phys.find? (fun e => e.2.logical == some (BitVec.ofNat 8 n))).map (·.1)

/-- The course of logical core `n` (R15); a number that no physical core holds is placed by the order of R491. -/
def courseOf (s : State) (n : Nat) : Nat := (match physOf s n with | some p => p | none => n / 8 * 9 + n % 8) / 9

/-- The logical cores of a course, of those that hold physical cores (R15). -/
def coresOf (s : State) (c : Nat) : List Nat :=
  s.phys.filterMap (fun e => if e.1 / 9 = c then e.2.logical.map (·.toNat) else none)

/-- The stop of an agent (R18); the hub uses that of stop 0 (R55). -/
def stopOf (a : Nat) : Nat :=
  let course := fun c => let r := c % 9; let g := c / 9
    if r < 5 then 10 * (1 + 2 * g) + 2 * r else 10 * (2 + 2 * g) + 1 + 2 * (r - 5)
  if a < 32 then course a
  else if a < 64 then course (a - 32) + 1
  else if a < 72 then a - 63
  else if a < 80 then 80 + (a - 71)
  else if a < 83 then 20 + 20 * (a - 80)
  else if a < 86 then 29 + 20 * (a - 83)
  else if a = 87 then 9 else 0

/-- The home slice of a physical address (R26). -/
def homeOf (pa : Nat) : Nat :=
  let g := fun k => (pa >>> (6 + 5 * k)) % 32
  (((((((((g 0 ^^^ g 1) ^^^ g 2) ^^^ g 3) ^^^ g 4) ^^^ g 5) ^^^ g 6) ^^^ g 7) ^^^ g 8) ^^^ ((pa >>> 51) % 2))

/-- The home slice of a line (R26). -/
def homeOfLine (l : LineNo) : Nat := homeOf (l.toNat * 64)

/-! ### The physical address map (R23 to R28) -/

inductive Region where
  | dram | port (p : Nat) | ctl | none
  deriving DecidableEq, Repr

/-- The base of the control region (R27). -/
def ctlBase : Nat := 0xFFF0000000000

/-- The base of the PCIe windows (R23). -/
def portBase : Nat := 0xFF00000000000

/-- The region of a physical address (R23). -/
def region (s : State) (pa : Nat) : Region :=
  if pa < s.dramTop.toNat then .dram
  else if pa < portBase then .none
  else if pa < portBase + 6 * 0x20000000000 then .port ((pa - portBase) / 0x20000000000)
  else if pa < ctlBase then .none else .ctl

/-! ### Plumb time and stamps (R45, R55) -/

/-- The replica of a stop (R45). -/
def plumbAt (s : State) (stop : Nat) : Nat := ((s.plumb.now : Int) + tget (fun _ => 0) s.plumb.off stop).toNat

/-- plumb_local() of an agent (R55): its stop's replica; the plumb master's own count. -/
def plumbOf (s : State) (a : Nat) : Nat := if a = 89 then s.plumb.now else plumbAt s (stopOf a)

/-- Plumb time as logical core `n` reads it (R47). -/
def coreTime (s : State) (n : Nat) : Nat := plumbOf s (courseOf s n)

/-- The stamp that agent `a` gives next (R55). -/
def stampOf (s : State) (a : Nat) : Nat :=
  Nat.max (plumbOf s a) (Nat.max ((getAgent s a).recvHi + 1) (getAgent s a).last)

/-- A stamp is given (R55). -/
def stamped (s : State) (a : Nat) : State :=
  let x := getAgent s a
  setAgent s a { x with last := stampOf s a }

/-- expand() of R55. -/
def expand (short now : Nat) : Nat :=
  let c := now - now % 2 ^ 24 + short
  if now + 2 ^ 23 < c then c - 2 ^ 24 else if c + 2 ^ 23 ≤ now then c + 2 ^ 24 else c

/-- recv_hi on a received message (R55), not for 1 ms after a set of plumb time (R516). -/
def received (s : State) (a : Nat) (short : BitVec 24) : State :=
  let x := getAgent s a
  let f := expand short.toNat (plumbOf s a)
  if x.noRecv then s else if x.recvHi < f then setAgent s a { x with recvHi := f } else s

/-! ### Journal records (R317 to R322) -/

/-- A payload in parts of 16 bytes, padded with zeros (R318). -/
def parts16 : Nat → List Byte → List (List Byte)
  | 0, _ => []
  | f + 1, l => sub l 0 16 :: (if l.length ≤ 16 then [] else parts16 f (l.drop 16))

/-- Saturating addition to JRN_STATUS.QDROP (R322). -/
def qdrop (s : State) : State := { s with jrn := { s.jrn with qDrop := satAdd 16 s.jrn.qDrop 1 } }

/-- One record is queued at its agent, or dropped when 32 wait there (R320, R322). -/
def putRec (s : State) (a stamp cls : Nat) (t : Tdid) (p : List Byte) : State :=
  let x := getAgent s a
  let r : JRec := { stamp := stamp, agent := BitVec.ofNat 7 a, cls := BitVec.ofNat 8 cls, tdid := t, seq := x.seq + 1, payload := p }
  if x.queue.length < 32 then setAgent s a { x with seq := x.seq + 1, queue := x.queue ++ [r] }
  else qdrop (setAgent s a { x with seq := x.seq + 1 })

/-- Agent `a` makes a journal record, with CONT records for a payload of more than 16 bytes (R54, R318). -/
def jrn (s : State) (a cls : Nat) (t : Tdid) (payload : List Byte) : State :=
  let st := stampOf s a
  match parts16 600 payload with
  | [] => s
  | p :: rest => rest.foldl (fun s q => putRec s a st 1 t q) (putRec (stamped s a) a st cls t p)

/-- The journal engine and the Keystone as makers of records (R17). -/
def agKs : Nat := 86
def agJrn : Nat := 87
def agHub : Nat := 88
def agPlumb : Nat := 89

/-! ### Global status and alerts -/

/-- GLOBAL_STATUS.CTL_ERR is set (R29 and the rules that name it). -/
def ctlErr (s : State) : State := { s with gstat := s.gstat ||| 1 }

/-- A Keystone alert bit becomes pending (R439). -/
def alert (s : State) (b : Nat) : State := { s with ks := { s.ks with pending := s.ks.pending ||| BitVec.ofNat 32 (2 ^ b) } }

/-! ### Messages (R22) -/

/-- A message is stamped by its sender and put on the mortar (R54, R55). -/
def send (s : State) (m : Msg) : State :=
  let a := m.src.toNat
  let st := stampOf s a
  let s := stamped s a
  { s with net := s.net ++ [{ m with short := BitVec.ofNat 24 st }] }

/-- The class code of a message (R256). -/
def msgClass (k : MsgKind) : Nat :=
  match k with
  | .rdS | .rdO | .upg | .hrd | .hwr | .hat | .hlr | .hsc | .flushReq | .cleanReq | .invReq => 0
  | .fwdS | .fwdO | .inv | .binv | .flush | .clean | .setScrub => 1
  | _ => 2

/-- A message of the same class between the same pair of agents was sent before `m` and has not arrived: `m` cannot arrive before
it (R19). -/
def overtakes (s : State) (m : Msg) : Bool :=
  (s.net.takeWhile (fun x => x != m)).any (fun x => msgClass x.kind == msgClass m.kind && x.src == m.src && x.dst == m.dst)

/-- A message is taken off the mortar by its receiver; one that no agent of the model sent comes from outside it (log entry 2). -/
def take (s : State) (m : Msg) : State :=
  let s := { s with net := s.net.erase m }
  received s m.dst.toNat m.short

/-- The short stamp of a message that agent `a` sends now (R22, R54, R55), and the state with the stamp given. -/
def shortStamp (s : State) (a : Nat) : BitVec 24 × State := (BitVec.ofNat 24 (stampOf s a), stamped s a)

/-! ### Memory (R23, R252, R374) -/

/-- What a byte of DRAM that nothing has written reads as (log entry 10). -/
def memDefault (_ : Nat) : Byte := 0

/-- The byte at a DRAM address. -/
def memRead (s : State) (a : Nat) : Byte := tget memDefault s.mem a

/-- The DRAM byte at an address replaced. -/
def memWrite (s : State) (a : Nat) (b : Byte) : State := { s with mem := tset memDefault s.mem a b }

/-- The canonical form of memory: addresses rising, no listed byte equal to what an unlisted one reads as. -/
def Memory.wf (m : List Host.Cell) : Bool := twf memDefault m

/-- A line of DRAM with its poison marks (R374). -/
def memLine (s : State) (l : LineNo) : LineData :=
  let a := l.toNat * 64
  { bits := BitVec.ofNat 512 (natOf ((List.range 64).map (fun i => memRead s (a + i))))
    poison := BitVec.ofNat 8 ((List.range 8).foldl (fun x w => x + b2n (tget (fun _ => false) s.memPoison (a / 8 + w)) * 2 ^ w) 0) }

/-- A line of DRAM written whole, marked words as the poison pattern (R252, R374). -/
def memSetLine (s : State) (l : LineNo) (d : LineData) : State :=
  let a := l.toNat * 64
  let s := (List.range 64).foldl (fun s i => memWrite s (a + i) (lineByte d i)) s
  { s with memPoison := (List.range 8).foldl (fun t w => tset (fun _ => false) t (a / 8 + w) (d.poison.getLsbD w)) s.memPoison }

/-! ### Calibrated quantities (R474, R518) -/

/-- MIN and MAX of a calibrated quantity (R474). -/
def calRange (i : Nat) : Option (Int × Int) :=
  if i ≤ 0x55 then some (-128, 128)
  else if 0x60 ≤ i && i ≤ 0x63 then some (-50000, 50000)
  else if 0x64 ≤ i && i ≤ 0x67 then some (-500, 500)
  else if 0x68 ≤ i && i ≤ 0x6F then some (-200000, 200000)
  else if i = 0x70 then some (-10000, 10000)
  else if 0x80 ≤ i && i ≤ 0x8F then some (-32, 32)
  else if 0x90 ≤ i && i ≤ 0x95 then some (-24, 24)
  else if 0xA0 ≤ i && i ≤ 0xBF then some (4, 31) else none

/-- The bounds of the fuse value of a calibrated quantity (R518). -/
def fuseRange (i : Nat) : Int × Int :=
  if i ≤ 0x55 then (-40, 40)
  else if i ≤ 0x63 then (-20000, 20000)
  else if i ≤ 0x67 then (-100, 100)
  else if i ≤ 0x6F then (-50000, 50000)
  else if i = 0x70 then (1, 8)
  else if i ≤ 0x8F then (-8, 8)
  else if i ≤ 0x95 then (-8, 8) else (6, 16)

/-- FUSE of CAL[i]: per part, within the bounds of R518 (log entry 4). -/
def calFuse (i : Nat) : Int := clampI (fuseRange i).1 (fuseRange i).2 (Config.fuseRaw i)

/-- TRIM of CAL[i] (R474). -/
def calTrim (s : State) (i : Nat) : Int := tget (fun _ => 0) s.trims i

/-- The effective value of a calibrated quantity (R474). -/
def calEff (s : State) (i : Nat) : Int :=
  match calRange i with
  | some (lo, hi) => clampI lo hi (calFuse i + calTrim s i)
  | none => 0

/-! ### Charges (R285, R302, R331) -/

/-- The course voltage in force in units of 10 mV (VCOURSE.VNOW). -/
def vnow (s : State) (c : Nat) : Nat := 55 + fld (getCourse s c).vcourse 16 8

/-- The factory charge of row k of the table in R302, in pJ. -/
def chargePj (k : Nat) : Nat :=
  match k with
  | 0 => 260 | 1 => 90 | 2 => 180 | 3 => 140 | 4 => 350 | 5 => 1100 | 6 => 2300 | _ => 0

/-- The effective charge of row k in pJ / 6,400,000,000: the factory charge × (1 + scale / 10^6), then (V / 0.80 V)² for the
rows that scale by voltage (R302, R475). -/
def evCharge (s : State) (k : Nat) (course : Option Nat) : Nat :=
  let e := chargePj k * (1000000 + calEff s (0x68 + k)).toNat
  match course with
  | some c => e * (vnow s c * vnow s c)
  | none => e * 6400

/-- One microjoule in the same unit. -/
def unitUJ : Nat := 6400000000 * 1000000

/-- The ledger key of a domain, or of overhead. -/
def ovhKey : Nat := 4096

/-- Minutes are spans of 60 s of master plumb time (R328). -/
def minuteNs : Nat := 60000000000

/-- The minute that an agent counts in, once it has taken the boundaries that have reached it (R329). -/
def minuteOf (s : State) (a : Nat) : Nat := tget (fun _ => 0) s.led.bank a

/-- The key of an agent's ledger counts for a domain in a minute, by the minute's bank (R329). -/
def ledKey (a m t : Nat) : Nat := (a * 2 + m % 2) * 8192 + t

/-- An agent's ledger counts changed by an event whose stamp is `at_`: one stamped at or after the boundary belongs to the next
minute (R329, R331). -/
def countLedAt (s : State) (a t at_ : Nat) (f : Counts → Counts) : State :=
  let m := minuteOf s a
  let k := ledKey a (if (m + 1) * minuteNs ≤ at_ then m + 1 else m) t
  { s with led := { s.led with agent := tset (fun _ => {}) s.led.agent k (f (tget (fun _ => {}) s.led.agent k)) } }

/-- An agent's ledger counts changed by an event that completes now (R329, R331). -/
def countLed (s : State) (a t : Nat) (f : Counts → Counts) : State := countLedAt s a t (stampOf s a) f

/-- The key of a usage counter not yet reported (R296). -/
def useKey (a t r : Nat) : Nat := (a * 4096 + t) * 4 + r

/-- Usage that an agent has counted and not reported (R296). -/
def addUse (s : State) (a t r k : Nat) : State :=
  { s with usage := tset (fun _ => 0) s.usage (useKey a t r) (tget (fun _ => 0) s.usage (useKey a t r) + k) }

/-- An event charge of `e` units to a domain, or to overhead: remainders are kept and whole microjoules become usage (R302). -/
def charge (s : State) (a t e : Nat) : State :=
  let s := countLed s a t (fun c => { c with pj := c.pj + e })
  if t = ovhKey then { s with ovhE := s.ovhE + e } else
  let k := a * 4096 + t
  let sum := tget (fun _ => 0) s.energy k + e
  let s := { s with energy := tset (fun _ => 0) s.energy k (sum % unitUJ) }
  addUse s a t 3 (sum / unitUJ)

/-! ### Stall points (R296 to R298) -/

/-- The key of a stall point's latest notice. -/
def dryKey (p t r : Nat) : Nat := (p * 4096 + t) * 4 + r

/-- The stall point holds domain `t` for resource `r` (R296). -/
def isDry (s : State) (p t r : Nat) : Bool := tget (fun _ => 0) s.dry (dryKey p t r) % 2 == 1

/-- The stall point of a core for microjoules. -/
def corePoint (n : Nat) : Nat := 256 + n

/-! ### Levels and domains -/

/-- The level's number (R178). -/
def lvlNum : Level → Nat
  | .u => 0 | .s => 1 | .h => 3

/-- The TDID tag of a core's traffic (R66). -/
def tagOf (c : Core) : Tdid := if c.level = .h then 0 else c.dom

/-- The epoch tag of a core's traffic (R66). -/
def epochTag (c : Core) : BitVec 8 := if c.level = .h then 0 else c.epoch

/-- DOM_CTL.VALID (R59). -/
def domValid (s : State) (t : Nat) : Bool := (getDom s t).ctl.getLsbD 63
/-- DOM_CTL.RT (R59), 0 in a domain that is not VALID (R73). -/
def domRt (s : State) (t : Nat) : Bool := (getDom s t).ctl.getLsbD 62
/-- DOM_CTL.PAUSED (R59). -/
def domPaused (s : State) (t : Nat) : Bool := (getDom s t).ctl.getLsbD 61
/-- DOM_CTL.PCLASS (R59). -/
def domClass (s : State) (t : Nat) : BitVec 4 := (getDom s t).ctl.extractLsb' 56 4
/-- DOM_CTL.ACCT_EPOCH (R59). -/
def domAcct (s : State) (t : Nat) : BitVec 8 := (getDom s t).ctl.extractLsb' 40 8

/-- PMASK of a class (R71). -/
def pmask (s : State) (k : Nat) : Word64 := tget (fun _ => 0xFFFFFFFF) s.pmask k

/-! ### The window check (R67) -/

/-- A holder's copy of WINDOW[n] of domain `t` (R69). -/
def heldWin (s : State) (holder t n : Nat) : Word128 := tget (fun _ => 0) s.winHeld (holder * 65536 + t * 16 + n)

/-- One window admits one page for a kind of access (R67). -/
def winAdmits (w : Word128) (page : Nat) (k : Kind) : Bool :=
  w.getLsbD 63 && decide (fld w 12 40 ≤ page) && decide (page ≤ fld w 76 40) &&
    (match k with
     | .read => w.getLsbD 0 | .none => w.getLsbD 0 | .write | .sc => w.getLsbD 1 | .fetch => w.getLsbD 2
     | .atomic => w.getLsbD 0 && w.getLsbD 1)

/-- window_ok of R67 as the holder `holder` judges it; a walk is of kind read. -/
def windowOk (s : State) (holder : Nat) (t : Nat) (pa : Nat) (k : Kind) : Bool :=
  t == 0 || (List.range 16).any (fun n => winAdmits (heldWin s holder t n) (pa / 4096) k)

/-! ### Reservations (R127, R266) -/

/-- The reservations at the L2 on a line cleared for the cores that `p` selects (R127). -/
def clearResv (s : State) (l : LineNo) (p : Nat → Bool) : State :=
  mapCores s (fun n c => match c.resv with
    | some r => if r.at_ = .l2 && lineOfPa r.pa = l && p n then { c with resv := none } else c
    | none => c)

/-- The reservations at the home on a line cleared for the cores that `p` selects (R266). -/
def clearHomeResv (s : State) (l : LineNo) (p : Nat → Bool) : State :=
  let h := homeOfLine l
  let sl := getSlice s h
  let hit := fun n => tget (fun _ => 0) sl.resv n == l.toNat + 1 && p n
  let s := setSlice s h { sl with resv := tmapv (fun _ => 0) sl.resv (fun n v => if hit n then 0 else v) }
  mapCores s (fun n c => match c.resv with
    | some r => if r.at_ = .home && lineOfPa r.pa = l && p n && hit n then { c with resv := none } else c
    | none => c)

/-- Core `n`'s held grant on a line at a root port ends (R129): the requests that waited for it come again. -/
def releaseGrant (s : State) (p n : Nat) (l : LineNo) : State :=
  let x := getRp s p
  if x.grants.any (fun g => g.n.toNat == n && g.line == l) then
    let w := x.waiting.filter (fun r => lineOfPa r.pa == l)
    let s := setRp s p { x with grants := x.grants.filter (fun g => !(g.n.toNat == n && g.line == l))
                                waiting := x.waiting.filter (fun r => lineOfPa r.pa != l) }
    { s with outNet := w.map (fun r => (BitVec.ofNat 3 p, r)) ++ s.outNet }
  else s

/-- A core's reservation dropped by an event of its own (R127); a held grant at a port is released with it (R129). -/
def dropResv (s : State) (n : Nat) : State :=
  match (getCore s n).resv with
  | none => s
  | some r =>
    let s := modCore s n (fun c => { c with resv := none })
    match r.at_ with
    | .l2 => s
    | .home =>
      let h := homeOf r.pa.toNat
      modSlice s h (fun sl => { sl with resv := tset (fun _ => 0) sl.resv n 0 })
    | .port =>
      match region s r.pa.toNat with
      | .port p => releaseGrant s p n (lineOfPa r.pa)
      | _ => s

/-- L1D copies of a line removed in a course, but for the cores that `keep` selects (R246, R247). -/
def dropL1d (s : State) (c : Nat) (l : LineNo) (keep : Nat → Bool) : State :=
  (coresOf s c).foldl (fun s n => if keep n then s else modCore s n (fun x => { x with l1d := x.l1d.erase l })) s

/-! ### Course L2 lines (R245, R248) -/

/-- The set of a line in a course L2 (R245). -/
def l2Set (l : LineNo) : Nat := l.toNat % 8192

/-- The way of a course L2 that holds a line (R250: a lookup hits in any way). -/
def l2Find (x : Course) (l : LineNo) : Option (Nat × L2Line) :=
  ((List.range 16).map (fun w => (16 * l2Set l + w, tget (fun _ => {}) x.l2 (16 * l2Set l + w)))).find?
    (fun e => e.2.st ≠ .i && e.2.line == l)

/-- An L2 way rewritten. -/
def setL2 (s : State) (c k : Nat) (v : L2Line) : State :=
  modCourse s c (fun x => { x with l2 := tset (fun _ => {}) x.l2 k v })

/-- A line leaves a course L2: L1D copies go first (R246), and the reservations it held (R127). -/
def l2Drop (s : State) (c : Nat) (l : LineNo) : State :=
  match l2Find (getCourse s c) l with
  | none => s
  | some (k, _) =>
    let s := dropL1d s c l (fun _ => false)
    let s := clearResv s l (fun n => (coresOf s c).contains n)
    setL2 s c k {}

/-- The set of a line in its slice's L3 (R245). -/
def l3Set (l : LineNo) : Nat := l.toNat / 32 % 4096

/-- The way of a slice's L3 that holds a line. -/
def l3Find (x : Slice) (l : LineNo) : Option (Nat × L3Line) :=
  ((List.range 16).map (fun w => (16 * l3Set l + w, tget (fun _ => {}) x.l3 (16 * l3Set l + w)))).find?
    (fun e => e.2.valid && e.2.line == l)

/-- An L3 way rewritten. -/
def setL3 (s : State) (c k : Nat) (v : L3Line) : State :=
  modSlice s c (fun x => { x with l3 := tset (fun _ => {}) x.l3 k v })

/-- The directory set of a line (R245). -/
def dirSet (l : LineNo) : Nat := l.toNat / 32 % 8192

/-- The directory entry of a line in its home slice (R253). -/
def dirFind (x : Slice) (l : LineNo) : Option (Nat × DirEnt) :=
  ((List.range 20).map (fun w => (20 * dirSet l + w, tget (fun _ => {}) x.dir (20 * dirSet l + w)))).find?
    (fun e => e.2.st ≠ .invalid && e.2.line == l)

/-- A directory way rewritten and made the most recent of its set (R253). -/
def setDir (s : State) (h k : Nat) (v : DirEnt) : State :=
  modSlice s h (fun x =>
    let o := tget (fun _ => []) x.dirLru (k / 20)
    { x with dir := tset (fun _ => {}) x.dir k v, dirLru := tset (fun _ => []) x.dirLru (k / 20) (k % 20 :: o.erase (k % 20)) })

/-- The entry of a line freed (R253). -/
def dirFree (s : State) (h : Nat) (l : LineNo) : State :=
  match dirFind (getSlice s h) l with
  | some (k, _) => modSlice s h (fun x => { x with dir := tset (fun _ => {}) x.dir k {} })
  | none => s

/-- The home copy of a line (R254): the L3 copy if there is one, otherwise memory. -/
def homeCopy (s : State) (l : LineNo) : LineData :=
  match l3Find (getSlice s (homeOfLine l)) l with
  | some (_, e) => e.data
  | none => memLine s l

/-! ### Trackers and retries (R271, R275) -/

/-- A tracker of slice `h` for a request of agent `a` that has been retried `n` times (R271): a general one (false), or its reserved
one (true); none where it is answered RETRY. -/
def trackerFor (s : State) (h : Nat) (a : BitVec 7) (n : Nat) : Option Bool :=
  let x := getSlice s h
  let all := x.trk ++ x.queue
  let k := fld s.cohCtl 0 4
  if (all.filter (fun t => !t.resvd)).length < 720 then some false
  else if k ≠ 0 && k ≤ n && !all.any (fun t => t.resvd && t.msg.req == a) then some true
  else none

/-- The wait of R275 after `n` RETRY answers, with the draw `r`. -/
def backoffOf (s : State) (n r : Nat) : Nat := fld s.cohCtl 16 8 * 2 ^ Nat.min (n - 1) (fld s.cohCtl 8 4) + r % 64

/-! ### Coherent accesses of an engine or a root port (R259, R265)

Each is a request that the home performs with no copy kept. It waits while another transaction is open on its line, then takes a
tracker for no plumb time: FWD_S, FWD_O or INV, their answers and H_DONE are one step. -/

/-- A transaction is open on a line (R259): a tracker, a request or writeback that waits, a message of it in flight, or a scrub of its
directory set (R283). -/
def lineBusy (s : State) (l : LineNo) : Bool :=
  let x := getSlice s (homeOfLine l)
  (x.trk ++ x.queue).any (fun t => t.msg.line == l) || x.landing.any (fun m => m.line == l) || s.net.any (fun m => m.line == l) ||
    s.memNet.any (fun e => e.2.line == l) || x.scrubs.any (fun b => b.set.toNat == dirSet l)

/-- A reservation on a line within its 64 ns holds back what would clear it (R128, R266). -/
def resvHeld (s : State) (l : LineNo) : Bool :=
  let x := getSlice s (homeOfLine l)
  s.cores.any (fun e => match e.2.resv with
    | some r => r.at_ == .l2 && lineOfPa r.pa == l && decide (coreTime s e.1 < r.until_)
    | none => false) ||
    x.resv.any (fun e => e.2 == l.toNat + 1 && decide (plumbOf s (32 + homeOfLine l) < tget (fun _ => 0) x.resvEnd e.1))

/-- Why an access of agent `a` to a line cannot be made now, if it cannot (R128, R259, R271, R275). -/
def engBlocked (s : State) (l : LineNo) (a : Nat) (write : Bool) : Option EngHold :=
  let (n, t) := tget (fun _ => (0, 0)) s.engTry a
  if lineBusy s l || (write && resvHeld s l) || (n ≠ 0 && plumbOf s a < t) then some .busy
  else match trackerFor s (homeOfLine l) (BitVec.ofNat 7 a) n with
    | none => some (.full (homeOfLine l) a)
    | some _ => none

/-- The access has its tracker: its agent's RETRY answers are behind it. -/
def engServed (s : State) (a : Nat) : State := { s with engTry := tset (fun _ => (0, 0)) s.engTry a (0, 0) }

/-- The course that holds a line in E or M. -/
def ownerOf (s : State) (l : LineNo) : Option Nat :=
  (List.range 32).find? (fun c => match l2Find (getCourse s c) l with
    | some (_, e) => e.st == .m || e.st == .e | none => false)

/-- The latest value of a line on which no transaction is open (R259). -/
def lineNow (s : State) (l : LineNo) : LineData :=
  match ownerOf s l with
  | some c => (match l2Find (getCourse s c) l with | some (_, e) => e.data | none => homeCopy s l)
  | none => homeCopy s l

/-- A line is read coherently by agent `a`, which keeps no copy (HRD, R265): an owner's dirty data is written to memory and the owner
goes to S. -/
def cohRead (s : State) (l : LineNo) (a : Nat) : LineData × State :=
  match engBlocked s l a false with
  | some why => ({}, { s with engHold := some why })
  | none =>
    let s := engServed s a
    let v := lineNow s l
    match ownerOf s l with
    | none => (v, s)
    | some c =>
      match l2Find (getCourse s c) l with
      | none => (v, s)
      | some (k, e) =>
        let s := setL2 s c k { e with st := .s }
        let s := if e.st = .m then memSetLine s l e.data else s
        let s := match dirFind (getSlice s (homeOfLine l)) l with
          | some (j, d) => setDir s (homeOfLine l) j { d with st := .shared, holders := BitVec.ofNat 32 (2 ^ c) }
          | none => s
        (v, s)

/-- A value becomes the home copy (R254, R265): the L3 copy if there is one, otherwise memory. -/
def homeSet (s : State) (l : LineNo) (v : LineData) : State :=
  match l3Find (getSlice s (homeOfLine l)) l with
  | some (k, e) => setL3 s (homeOfLine l) k { e with data := v, dirty := true }
  | none => memSetLine s l v

/-- A masked write of a line by agent `a`, which keeps no copy (HWR, R265): every course copy goes, the entry is freed, and the result
is in the L3 copy if any, otherwise in memory. -/
def cohWrite (s : State) (l : LineNo) (d : LineData) (mask : BitVec 64) (a : Nat) : State :=
  match engBlocked s l a true with
  | some why => { s with engHold := some why }
  | none =>
    let s := engServed s a
    let v := lineMerge (lineNow s l) d mask
    let s := (List.range 32).foldl (fun s c => l2Drop s c l) s
    homeSet (dirFree (clearHomeResv s l (fun _ => true)) (homeOfLine l) l) l v

/-- Sound bytes with no mark. -/
def sound (l : List Byte) : List PByte := l.map (fun b => { b := b })

end Sys2Proof.Machine
end

