-- ==== Sys2Proof/Machine/Flags.lean ====
section
/-! DEFINITION. Comparison results (R104, R112), the status words STATUS and TRAPST (R178, R180) and poison marks (R193).
The N256 has no arithmetic flags and no floating-point status register (R141). -/
namespace Sys2Proof.Machine

/-- The conditions of BR by the qualifier's bits [2:0] (R104); 0b111 is reserved. -/
def condHolds (q : BitVec 3) (a b : Word64) : Bool :=
  match q.toNat with
  | 0 => a == b
  | 1 => a != b
  | 2 => a.slt b
  | 3 => !(a.slt b)
  | 4 => a.ult b
  | 5 => !(a.ult b)
  | _ => true

/-- 1 or 0 in `w` bits (R112). -/
def flagBit (w : Nat) (b : Bool) : BitVec w := if b then 1 else 0

/-- STATUS (R178). -/
def statusWord (c : Core) : Word64 :=
  BitVec.ofNat 64 (b2n c.hbusy * 128 + b2n c.sbusy * 64 + b2n c.ie * 4 + lvlNum c.level)

/-- The level that a 2-bit field names; 2 is reserved (R178). -/
def lvlOf : Nat → Option Level
  | 0 => some .u | 1 => some .s | 3 => some .h | _ => none

/-- TRAPST as an entry writes it (R180). -/
def trapStWord (orig : Nat) (fclass aband seg entryf redir ie : Bool) (l : Level) : Word64 :=
  BitVec.ofNat 64 (orig * 256 + b2n fclass * 128 + b2n aband * 64 + b2n seg * 32 + b2n entryf * 16 + b2n redir * 8
    + b2n ie * 4 + lvlNum l)

/-- The core runs in plain mode (R166). -/
def plain (c : Core) : Bool := c.warm || c.pctl.getLsbD 4 || c.pctl.getLsbD 3 || c.pctl.getLsbD 6

/-- PCTL as it reads (the register description under R177). -/
def pctlWord (c : Core) : Word64 :=
  BitVec.ofNat 64 (c.warmLeft * 2 ^ 32 + b2n (plain c) * 128 + b2n c.warm * 32 + (c.pctl &&& 0x5F).toNat)

/-- REIN as it reads (R37). -/
def reinWord (c : Core) : Word64 :=
  BitVec.ofNat 64 (b2n c.slip * 2 ^ 63 + c.nat.toNat * 2 ^ 48 + c.eff.toNat * 2 ^ 32 + b2n c.pl * 2 ^ 16 + c.pace.toNat)

/-- LOCKHELD as it reads (R300). -/
def lockheldWord (c : Core) : Word64 :=
  BitVec.ofNat 64 (b2n c.ingrace * 2 ^ 63 + (c.graceLeft % 65536) * 2 ^ 32 + c.held.toNat)

/-- TDID as it reads (R62). -/
def tdidWord (c : Core) : Word64 := BitVec.ofNat 64 (c.vcore.toNat * 65536 + c.dom.toNat)

/-- EPOCH as it reads (R62). -/
def epochWord (c : Core) : Word64 := BitVec.ofNat 64 (c.acct.toNat * 256 + c.epoch.toNat)

/-- TMODE[1] as it reads (R183). -/
def tmode1Word (c : Core) : Word64 := BitVec.ofNat 64 (b2n c.fready * 128 + b2n c.ffail * 64 + b2n c.mode1)

end Sys2Proof.Machine
end

