-- ==== Sys2Proof/Machine/HubOps.lean ====
section
/-! DEFINITION. How the hub resolves, evaluates and offers (R342 to R349), and the counting of events (R479 to R481), which
may set an overflow source pending. -/
namespace Sys2Proof.Machine

/-- A level source by its ID (R342). -/
def isLevelId (id : Nat) : Bool := id < 6 || (8 ≤ id && id < 36)

/-- A usable edge source by its ID (R342). -/
def isEdgeId (id : Nat) : Bool := 64 ≤ id && id < 8191

/-- SRC[id].PRIO, TDID, VCORE and CLASS (R342). -/
def srcPrio (x : Src) : Nat := fld x.w 0 8
def srcTdid (x : Src) : Nat := fld x.w 24 12
def srcVcore (x : Src) : Nat := fld x.w 40 8
def srcClsF (x : Src) : Bool := x.w.getLsbD 16

/-- The source is pending (R343): an edge source by PEND; a level source while LINE = 1 and INSERV = 0. -/
def srcPending (id : Nat) (x : Src) : Bool := if id < 64 then x.line && x.inserv.isNone else x.pend

/-- The logical core that a (TDID, VCORE) pair resolves to (R345). -/
def resolve (s : State) (t v : Nat) : Option Nat :=
  if t = 0 then some v else
  match tget (fun _ => 0) s.pairs (t * 256 + v) with
  | 0 => none
  | k + 1 => some k

/-- RUNPRI of a level on a core (R347): the highest priority at which an interrupt is in service there, or 0; `skip` leaves
one source out. -/
def runPriBut (s : State) (n : Nat) (l : Level) (skip : Option SrcId) : Nat :=
  s.srcs.foldl (fun a e => match e.2.inserv with
    | some (c, l', p) => if c.toNat = n ∧ l' = l ∧ skip ≠ some (BitVec.ofNat 13 e.1) then Nat.max a p.toNat else a
    | none => a) 0
def runPri (s : State) (n : Nat) (l : Level) : Nat := runPriBut s n l none

/-- The threshold test of R347 at the hub's copy of the thresholds. -/
def passesTh (s : State) (n : Nat) (l : Level) (prio : Nat) : Bool :=
  let th := if l = .h then (getHub s n).thH.toNat else (getHub s n).thS.toNat
  decide (Nat.max th (runPri s n l) < prio)

/-- A source's target level (R342: TDID 0 targets H). -/
def srcLevel (x : Src) : Level := if srcTdid x = 0 then .h else .s

/-- A source is a candidate of core `n` (R346); one aimed at a paused domain stays pending (R74). -/
def candidate (s : State) (n id : Nat) (x : Src) : Bool :=
  srcPending id x && !(srcTdid x != 0 && domPaused s (srcTdid x)) && srcPrio x != 0 && resolve s (srcTdid x) (srcVcore x) == some n &&
    !((getHub s n).refused.contains (BitVec.ofNat 13 id)) && passesTh s n (srcLevel x) (srcPrio x)

/-- Candidate `a` goes before `b` (R346): H first, then the higher priority, then the lower ID. -/
def betterSrc (a b : Nat × Src) : Bool :=
  let h := fun (x : Src) => if srcTdid x = 0 then 1 else 0
  if h a.2 ≠ h b.2 then h b.2 < h a.2
  else if srcPrio a.2 ≠ srcPrio b.2 then srcPrio b.2 < srcPrio a.2 else a.1 < b.1

/-- The hub's choice for core `n` (R346). -/
def bestSrc (s : State) (n : Nat) : Option (Nat × Src) :=
  s.srcs.foldl (fun a e => if candidate s n e.1 e.2 then
    (match a with | none => some e | some b => if betterSrc e b then some e else a) else a) none

/-- The delivery for a source to core `n` (R345). -/
def deliveryOf (s : State) (n : Nat) (e : Nat × Src) : Offer :=
  { id := BitVec.ofNat 13 e.1, epoch := (getHub s n).epoch, tdid := BitVec.ofNat 12 (srcTdid e.2),
    prio := BitVec.ofNat 8 (srcPrio e.2), clsF := srcClsF e.2 }

/-- The hub chooses and offers (R346, R348): a candidate other than the source on offer replaces the offer. -/
def hubChoose (s : State) (n : Nat) : State :=
  match bestSrc s n with
  | none => s
  | some e =>
    match (getHub s n).offer with
    | some o => if o.id.toNat = e.1 then s
      else modHub (stamped s agKs) n (fun h => { h with offer := some (deliveryOf s n e), replaced := h.replaced ++ [o], offerShort := BitVec.ofNat 24 (stampOf s agKs) })
    | none => modHub (stamped s agKs) n (fun h => { h with offer := some (deliveryOf s n e), offerShort := BitVec.ofNat 24 (stampOf s agKs) })

/-- The hub evaluates core `n` for a reason other than a refusal (R346). -/
def hubEval (s : State) (n : Nat) : State := hubChoose (modHub s n (fun h => { h with refused := [] })) n

/-- The hub evaluates the core that a source resolves to, if any (R346). -/
def hubEvalSrc (s : State) (id : Nat) : State :=
  match resolve s (srcTdid (getSrc s id)) (srcVcore (getSrc s id)) with
  | some n => hubEval s n
  | none => s

/-- PEND of an edge source set; other IDs are left alone (R343, HUB_SETPEND). -/
def setPend (s : State) (id : Nat) : State :=
  if isEdgeId id then hubEvalSrc (modSrc s id (fun x => { x with pend := true })) id else s

/-! ### Counting (R479 to R481) -/

/-- A counter of 48 bits advanced, and whether it wrapped (R479). -/
def bump48 (v : Word64) (k : Nat) : Word64 × Bool :=
  (BitVec.ofNat 64 ((v.toNat + k) % 2 ^ 48), decide (2 ^ 48 ≤ v.toNat + k))

/-- The reset values of the core counter registers (R479): EVSEL.LVL is 0b111. -/
def pmInit (k : Nat) : Word64 := if 16 ≤ k && k < 24 then 0x7000000000000000 else 0
/-- A core counter register by its number less 0x100. -/
def pmGet (c : Core) (k : Nat) : Word64 := tget pmInit c.pm k
def pmSet (c : Core) (k : Nat) (v : Word64) : Core := { c with pm := tset pmInit c.pm k v }

/-- Whether counter `i` of a core counts event `ev` at a level, with a tag and perhaps a line (R479). -/
def pmCounts (c : Core) (i ev : Nat) (l : Level) (t : Tdid) (line : Option LineNo) : Bool :=
  let e := pmGet c (16 + i)
  e.getLsbD 63 && fld e 0 8 == ev && !c.frozen &&
    (match l with | .u => e.getLsbD 60 | .s => e.getLsbD 61 | .h => e.getLsbD 62) &&
    (!e.getLsbD 59 || fld (pmGet c 25) 0 12 == t.toNat) &&
    (!e.getLsbD 58 || (match line with
      | none => true
      | some x => decide (fld (pmGet c 26) 6 46 ≤ x.toNat) && decide (x.toNat ≤ fld (pmGet c 27) 6 46)))

/-- Counter `i` of core `n` counts `k` (R479); a wrap sets OVF and, with OVIE, the overflow source (R480). -/
def pmBump (s : State) (n i k : Nat) : State :=
  let c := getCore s n
  let (v, o) := bump48 (pmGet c i) k
  let c := pmSet c i v
  if o then
    let c := pmSet c 24 (pmGet c 24 ||| BitVec.ofNat 64 (2 ^ (56 + i)))
    let s := setCore s n c
    if (pmGet c (16 + i)).getLsbD 57 then setPend s (fld (pmGet c 24) 0 13) else s
  else setCore s n c

/-- Event `ev` happens `k` times at core `n` at its present level and tag (R479). -/
def coreEv (s : State) (n ev k : Nat) (line : Option LineNo := none) : State :=
  let c := getCore s n
  if c.pm.isEmpty then s else
  (List.range 8).foldl (fun s i => if pmCounts c i ev c.level (tagOf c) line then pmBump s n i k else s) s

/-- Events 0x18 and 0x19, counted at H with tag 0 (R480). -/
def coreEvH (s : State) (n ev k : Nat) : State :=
  let c := getCore s n
  if c.pm.isEmpty then s else
  (List.range 8).foldl (fun s i => if pmCounts c i ev .h 0 none then pmBump s n i k else s) s

/-- The reset values of the bank registers (R479, R481): BK_SEL.CLS is 0xF and BW_CTL.WIN is 1,000. -/
def bankInit (k : Nat) : Word64 :=
  if 4 ≤ k % 32 && k % 32 < 8 then 0x0F00000000000000
  else if k % 32 = 16 && 64 ≤ k / 32 then 0x3E8 else 0
/-- Register at offset 8 × `r` of a bank; banks are numbered by agent ID. -/
def bkGet (s : State) (b r : Nat) : Word64 := tget bankInit s.banks (b * 32 + r)
def bkSet (s : State) (b r : Nat) (v : Word64) : State := { s with banks := tset bankInit s.banks (b * 32 + r) v }

/-- What an event at a bank carries for its filters (R479). -/
structure EvAttr where
  tdid : Option Nat := none
  from_ : Option Nat := none
  line : Option LineNo := none
  cls  : Option Nat := none
  deriving DecidableEq, Repr

/-- Whether bank counter `i` counts event `ev` (R479). -/
def bkCounts (s : State) (b i ev : Nat) (a : EvAttr) : Bool :=
  let e := bkGet s b (4 + i)
  let f := bkGet s b 12
  e.getLsbD 63 && fld e 0 8 == ev && !(tget (fun _ => false) s.bankFrozen b) &&
    (!e.getLsbD 62 || (match a.tdid with | none => true | some t => fld f 32 12 == t)) &&
    (!e.getLsbD 61 || (match a.from_ with | none => true | some m => fld f 0 7 == m)) &&
    (!e.getLsbD 60 || (match a.line with
      | none => true
      | some x => decide (fld (bkGet s b 13) 6 46 ≤ x.toNat) && decide (x.toNat ≤ fld (bkGet s b 14) 6 46))) &&
    (match a.cls with | none => true | some k => e.getLsbD (56 + k))

/-- Event `ev` happens `k` times at a bank (R479). -/
def bankEv (s : State) (b ev k : Nat) (a : EvAttr) : State :=
  if s.banks.isEmpty then s else
  (List.range 4).foldl (fun s i =>
    if bkCounts s b i ev a then
      let (v, o) := bump48 (bkGet s b i) k
      let s := bkSet s b i v
      if o then bkSet s b 15 (bkGet s b 15 ||| BitVec.ofNat 64 (2 ^ i)) else s
    else s) s

/-! ### Thresholds, claim and end of interrupt (R350 to R352) -/

/-- The threshold of a level on a core, held by the hub (R350). -/
def setThreshold (s : State) (n : Nat) (l : Level) (th : BitVec 8) : State :=
  let s := match l with
    | .h => modHub s n (fun h => { h with thH := th })
    | _ => modCore (modHub s n (fun h => { h with thS := th })) n (fun c => { c with th := th })
  hubEval s n

/-- The result of a claim recorded in ID (R350). -/
def setClaimId (s : State) (n : Nat) (l : Level) (id : SrcId) : State :=
  modHub s n (fun h => match l with | .h => { h with idH := id } | _ => { h with idS := id })

/-- A claim that returns 8,191 is counted in HUB_STATUS.SPURIOUS (R351). -/
def spurious (s : State) : State := { s with hubSt := fldSat s.hubSt 32 16 1 }

/-- A claim at a level on a core (R351). -/
def hubClaim (s : State) (n : Nat) (l : Level) : State :=
  let un := match l with | .h => (getHub s n).unclH | _ => (getHub s n).unclS
  match un with
  | [] => setClaimId (spurious s) n l 0x1FFF
  | id :: rest =>
    let s := modHub s n (fun h => match l with | .h => { h with unclH := rest } | _ => { h with unclS := rest })
    let k := id.toNat
    let x := getSrc s k
    let here := match x.inserv with | some (c, l', _) => c.toNat == n && l' == l | none => false
    if here && srcPrio x != 0 && !x.clr && (64 ≤ k || x.line) then
      setClaimId (setSrc s k { x with claimed := true }) n l id
    else
      let back := here && isEdgeId k && !x.clr && srcPrio x == 0
      let s := if here then setSrc s k { x with inserv := none, clr := false, claimed := false, pend := x.pend || back } else s
      hubEvalSrc (hubEval (setClaimId (spurious s) n l 0x1FFF) n) k

/-- An end of interrupt at a level on a core (R352). -/
def hubEoi (s : State) (n : Nat) (l : Level) (k : Nat) : State :=
  let x := getSrc s k
  match x.inserv with
  | some (c, l', _) =>
    if c.toNat = n ∧ l' = l ∧ k ≠ 8191 then
      hubEvalSrc (hubEval (setSrc s k { x with inserv := none, clr := false, claimed := false }) n) k
    else s
  | none => s

/-- A write of THRESH or HCLAIM[n] (R350): TH, then the operation of bits [63:62]. -/
def threshWrite (s : State) (n : Nat) (l : Level) (v : Word64) : State :=
  let s := setThreshold s n l (v.extractLsb' 0 8)
  match fld v 62 2 with
  | 1 => hubClaim s n l
  | 2 => hubEoi s n l (fld v 16 13)
  | _ => s

/-- THRESH or HCLAIM[n] as it reads (the register descriptions before R350). -/
def threshRead (s : State) (n : Nat) (l : Level) : Word64 :=
  let h := getHub s n
  let (id, th) := match l with | .h => (h.idH, h.thH) | _ => (h.idS, h.thS)
  BitVec.ofNat 64 (id.toNat * 2 ^ 48 + runPri s n l * 2 ^ 32 + th.toNat)

end Sys2Proof.Machine
end

