-- ==== Sys2Proof/Machine/Operands.lean ====
section
/-! DEFINITION. Operand forms of a syllable (R92, R101 to R104), the registers it reads and writes (R81, R83, R94), and what
its word will do when it issues. -/
namespace Sys2Proof.Machine

/-! ### Registers -/

/-- The active bank (R83): 0 base, 1 supervisor, 3 hypervisor. -/
def activeBank (c : Core) : Nat := if c.hbusy then 3 else if c.sbusy then 1 else 0

/-- A general register in a named bank (R80, R81, R83). -/
def readGb (c : Core) (r : BitVec 6) (bank : Nat) : Reg :=
  if r = 0 then {} else
  let k := r.toNat
  if k < 56 then tget (fun _ => {}) c.g k
  else match bank with
    | 0 => tget (fun _ => {}) c.g k
    | 1 => tget (fun _ => {}) c.gS k
    | _ => tget (fun _ => {}) c.gH k

/-- A general register written in a named bank; a write to G0 is discarded (R81). -/
def writeGb (c : Core) (r : BitVec 6) (bank : Nat) (x : Reg) : Core :=
  if r = 0 then c else
  let k := r.toNat
  if k < 56 then { c with g := tset (fun _ => {}) c.g k x }
  else match bank with
    | 0 => { c with g := tset (fun _ => {}) c.g k x }
    | 1 => { c with gS := tset (fun _ => {}) c.gS k x }
    | _ => { c with gH := tset (fun _ => {}) c.gH k x }

/-- A general register as a syllable reads it: through the active bank (R83). -/
def readG (c : Core) (r : BitVec 6) : Reg := readGb c r (activeBank c)

/-- A general register as a syllable writes it. -/
def writeG (c : Core) (r : BitVec 6) (x : Reg) : Core := writeGb c r (activeBank c) x

/-- A vector register (R80). -/
def readV (c : Core) (r : BitVec 5) : VReg := tget (fun _ => {}) c.v r.toNat
def writeV (c : Core) (r : BitVec 5) (x : VReg) : Core := { c with v := tset (fun _ => {}) c.v r.toNat x }

/-- The segment registers at a core's release (R225). -/
def sgInit (r : Nat) : Word128 :=
  if r = 0 then BitVec.ofNat 128 ((2 ^ 48 - 1) * 2 ^ 64 + 2 ^ 63 + 3 * 2 ^ 51 + 2 ^ 50 + 2 ^ 48)
  else BitVec.ofNat 128 ((2 ^ 48 - 1) * 2 ^ 64 + 2 ^ 63 + 3 * 2 ^ 51 + 2 ^ 49 + 2 ^ 48)
/-- A segment register (R80, R222). -/
def readSg (c : Core) (r : BitVec 3) : Word128 := tget sgInit c.sg r.toNat
def writeSg (c : Core) (r : BitVec 3) (x : Word128) : Core := { c with sg := tset sgInit c.sg r.toNat x }

/-- A general register named in the active bank. -/
def gRef (c : Core) (r : BitVec 6) : RegRef := .g r (if r.toNat < 56 then 0 else activeBank c)

/-- The mark of a register named as an operand (R193). -/
def marked (c : Core) : RegRef → Bool
  | .g r b => (readGb c r b).p
  | .v r => (readV c r).p
  | _ => false

/-- Where a load or a long operation of this core writes its G result. -/
def gDst (c : Core) (r : BitVec 6) : Dst := .g r (if r.toNat < 56 then 0 else activeBank c)

/-! ### What a syllable does when its word issues -/

/-- The TLB and cache maintenance operations of an M syllable (R135, R137). -/
inductive MaintOp where
  | cflush | cclean | cinv | pref | icinv | tlbi | tlblk | tlbulk
  deriving DecidableEq, Repr

/-- The effect of a syllable, its register operands read (R93). -/
inductive Act where
  | nop
  | wG (r : BitVec 6) (v : Word64)
  | wV (r : BitVec 5) (v : Word128)
  | longG (r : BitVec 6) (v : Word64)
  | longV (r : BitVec 5) (v : Word128)
  | load (dst : Dst) (width : Nat) (signed : Bool) (seg : BitVec 3) (off : Word64)
  | store (bytes : List PByte) (seg : BitVec 3) (off : Word64)
  | atomic (op : AtomicOp) (dst : Dst) (width : Nat) (signed : Bool) (opnd : Word64) (seg : BitVec 3) (off : Word64)
  | lr (dst : Dst) (seg : BitVec 3) (off : Word64)
  | sc (dst : Dst) (opnd : Word64) (seg : BitVec 3) (off : Word64)
  | fence (bits : BitVec 6)
  | block (b : Blk)
  | maint (op : MaintOp) (seg : BitVec 3) (off : Word64)
  | tlbid (tag : Tdid)
  | tlbia
  | lseg (r : BitVec 3) (seg : BitVec 3) (off : Word64)
  | xfer (kind : XferKind) (taken hint : Bool) (target : Word64) (link : Option (BitVec 6))
  | trapOp (code : Nat) (arg : Word64)
  | rfe
  | mfs (r : BitVec 6) (num : Nat)
  | mts (num : Nat) (v : Reg)
  | wfe
  | sev (group : Bool) (target : Word64)
  | waitt (r : BitVec 6) (deadline : Word64)
  | nap
  | rdtime (r : BitVec 6)
  | pflush
  | pbar (clear : Bool)
  deriving DecidableEq, Repr

/-- One operation syllable, decoded (R88): its unit, whether an X syllable may not follow it (R90), a reserved encoding (R100),
the lowest level (R105 to R108), the registers for hazards, poison (in the order A, B, D of R195) and write conflicts. `illegal`
marks a syllable that no word may hold in its place (Start, Unit code and Extension of R90); `lat` is the latency of its result
(R109). An X syllable after an operation without an immediate form is a formation breach even where Q.I is 1 (R100; log entry
131). -/
structure Staged where
  unit     : Nat
  illegal  : Bool := false
  lat      : Nat := 1
  len      : Nat := 1
  stop     : Bool := true
  badX     : Bool := false
  alone    : Bool := false
  reserved : Bool := false
  minLevel : Level := .u
  reads    : List RegRef := []
  consumes : List RegRef := []
  writes   : List RegRef := []
  act      : Act := .nop
  deriving DecidableEq, Repr

/-- The length of a syllable with its X syllable. -/
def sylLen (y : Syl) : Nat := if y.x.isSome then 2 else 1

/-- A syllable that names no operation (R89, R90, R100): a reserved unit code or a free-standing X breaks a formation rule, and a
reserved OP value is a reserved encoding. -/
def oddStaged (y : Syl) (o : OddSyl) : Staged :=
  match o with
  | .unit u => { unit := u.toNat, illegal := true, stop := y.s }
  | .x => { unit := 7, illegal := true, stop := y.s }
  | .op u _ => { unit := u.toNat, len := sylLen y, stop := y.s, badX := y.x.isSome, reserved := true }

/-- The immediate of a 6-bit field with or without an X syllable (R92). -/
def immOf (y : Syl) (low : BitVec 6) : Word64 :=
  match y.x with
  | none => low.signExtend 64
  | some x => BitVec.signExtend 64 (x ++ low)

/-- The segment selector and the I bit of an M qualifier (R102). -/
def qSeg (y : Syl) : BitVec 3 := y.q.extractLsb' 1 3
def qI (y : Syl) : Bool := y.q.getLsbD 0

/-- The offset of an M access (R102, R115). -/
def mOff (y : Syl) (c : Core) : Word64 := (readG c y.a).v + (if qI y then immOf y y.b else (readG c y.b).v)

/-- The registers that form an M offset (R102). -/
def mRefs (y : Syl) (c : Core) : List RegRef := if qI y then [gRef c y.a] else [gRef c y.a, gRef c y.b]

/-- An M syllable with the Addr operand form (R106). -/
def mAddr (y : Syl) (c : Core) (lvl : Level) (reads consumes writes : List RegRef) (reserved : Bool) (act : Act) : Staged :=
  { unit := 2, len := sylLen y, stop := y.s, badX := y.x.isSome && !qI y, reserved := reserved, minLevel := lvl,
    reads := mRefs y c ++ reads, consumes := mRefs y c ++ consumes, writes := writes, act := act }

/-- The written registers of a G destination: none for G0 (R81, R94). -/
def wRef (c : Core) (r : BitVec 6) : List RegRef := if r = 0 then [] else [gRef c r]

/-! ### A0 and A1 (R101, R113) -/

/-- The second operand of an integer syllable (R92, R101). -/
def opB (y : Syl) (c : Core) : Word64 := if y.q.getLsbD 3 then immOf y y.b else (readG c y.b).v

/-- A computation at the width that Q.W selects (R101, R113): 32-bit forms read bits [31:0] and extend their result. -/
def atWidth (q : BitVec 4) (f : (w : Nat) → BitVec w → BitVec w → BitVec w) (a b : Word64) : Word64 :=
  match (q.extractLsb' 0 2).toNat with
  | 1 => (f 32 (a.setWidth 32) (b.setWidth 32)).signExtend 64
  | 2 => (f 32 (a.setWidth 32) (b.setWidth 32)).setWidth 64
  | _ => f 64 a b

/-- A reserved qualifier of an integer syllable (R101). -/
def qIntBad (y : Syl) : Bool := y.q.getLsbD 2 || (y.q.extractLsb' 0 2).toNat == 3

/-- The unit of an integer syllable (R89). -/
def intUnit (y : Syl) : Nat := if y.a1 then 1 else 0

/-- The operand form D, A, B or i (R105). `a1only` marks an A1 operation; `long` a result that is written later (R110). -/
def intBin (y : Syl) (c : Core) (a1only long : Bool) (f : (w : Nat) → BitVec w → BitVec w → BitVec w) : Staged :=
  let i := y.q.getLsbD 3
  let r := if i then [gRef c y.a] else [gRef c y.a, gRef c y.b]
  let v := atWidth y.q f (readG c y.a).v (opB y c)
  { unit := intUnit y, len := sylLen y, stop := y.s, badX := y.x.isSome && !i, reserved := qIntBad y || (a1only && !y.a1),
    reads := r, consumes := r, writes := wRef c y.d, act := if long then .longG y.d v else .wG y.d v }

/-- The operand form D, A (R105): no immediate form. -/
def intUn (y : Syl) (c : Core) (f : (w : Nat) → BitVec w → BitVec w) : Staged :=
  { unit := intUnit y, len := sylLen y, stop := y.s, badX := y.x.isSome, reserved := qIntBad y || y.q.getLsbD 3 || y.b != 0,
    reads := [gRef c y.a], consumes := [gRef c y.a], writes := wRef c y.d,
    act := .wG y.d (atWidth y.q (fun w a _ => f w a) (readG c y.a).v 0) }

/-! ### F (R103) -/

/-- The element size in bits (R103). -/
def fE (y : Syl) : Nat := match (y.q.extractLsb' 2 2).toNat with | 0 => 64 | 1 => 32 | 2 => 16 | _ => 8
/-- The rounding code (R103). -/
def fRm (y : Syl) : Nat := (y.q.extractLsb' 0 2).toNat

/-- Element `i` of size `e` of a vector (R82). -/
def vElt (v : Word128) (e i : Nat) : Nat := fld v (e * i) e

/-- A vector from its elements of size `e` (R82). -/
def vOfElts (e : Nat) (f : Nat → Nat) : Word128 :=
  BitVec.ofNat 128 ((List.range (128 / e)).foldl (fun a i => a + (f i % 2 ^ e) * 2 ^ (e * i)) 0)

/-- The V register that a field names (R103). -/
def vNum (f : BitVec 6) : BitVec 5 := f.setWidth 5

/-- An F syllable. `va`, `vb`, `rd` tell whether A and B name V registers that it reads, and whether V[D] is read too. -/
def fOp (y : Syl) (c : Core) (va vb rd reserved : Bool) (act : Act) : Staged :=
  let r := (if va then [RegRef.v (vNum y.a)] else []) ++ (if vb then [RegRef.v (vNum y.b)] else []) ++
    (if rd then [RegRef.v (vNum y.d)] else [])
  { unit := 3, len := sylLen y, stop := y.s, badX := y.x.isSome,
    reserved := reserved || (va && y.a.getLsbD 5) || (vb && y.b.getLsbD 5) || y.d.getLsbD 5,
    reads := r, consumes := r, writes := [.v (vNum y.d)], act := act }

/-- The operand form D, A, B of V registers with elements combined one by one. -/
def fBin (y : Syl) (c : Core) (reserved : Bool) (f : Nat → Nat → Nat → Nat) : Staged :=
  let a := (readV c (vNum y.a)).v
  let b := (readV c (vNum y.b)).v
  let e := fE y
  fOp y c true true false reserved (.wV (vNum y.d) (vOfElts e (fun i => f e (vElt a e i) (vElt b e i))))

/-! ### B (R104) -/

/-- A B syllable other than BR and CALL: no X and Q = 0 (R104). -/
def bOp (y : Syl) (lvl : Level) (reads consumes writes : List RegRef) (reserved : Bool) (act : Act) : Staged :=
  { unit := 4, len := sylLen y, stop := y.s, badX := y.x.isSome, reserved := reserved || y.q != 0, minLevel := lvl,
    reads := reads, consumes := consumes, writes := writes, act := act }

/-- PC + 4 × displacement (R92, R142). -/
def relTarget (y : Syl) (c : Core) : Word64 := c.pc + immOf y y.d * 4

/-- The 12-bit system register number {A, B} (R108). -/
def sysNum (y : Syl) : Nat := y.a.toNat * 64 + y.b.toNat

/-- The lowest level of a system register, none for an unlisted number (R86, R87). -/
def sysLevel (num : Nat) : Option Level :=
  if num = 0x000 || (1 ≤ num && num ≤ 4) then some .s
  else if 9 ≤ num && num ≤ 0xC then some .h
  else if num = 0x11 || num = 0x15 || num = 0x19 then some .s
  else if num = 0x13 || num = 0x17 || num = 0x1B || num = 0x1C then some .h
  else if num = 0x20 then some .s
  else if num = 0x30 then some .u
  else if num = 0x40 || num = 0x50 then some .s
  else if num = 0x60 || num = 0x90 || num = 0x91 || num = 0xA0 then some .h
  else if 0xB0 ≤ num && num ≤ 0xBF then some .h
  else if 0x100 ≤ num && num ≤ 0x11F then some .s
  else none

/-- The G register and bank that SBANK[n] and UBANK[n] name (R84), none for other numbers. -/
def bankNum (num : Nat) : Option (BitVec 6 × Nat) :=
  if 0xB0 ≤ num && num < 0xB8 then some (BitVec.ofNat 6 (56 + (num - 0xB0)), 1)
  else if 0xB8 ≤ num && num < 0xC0 then some (BitVec.ofNat 6 (56 + (num - 0xB8)), 0)
  else none

/-- The register that a system register number names, for hazards and conflicts (R85, R94). -/
def sysRef (num : Nat) : RegRef :=
  match bankNum num with
  | some (r, b) => .g r b
  | none => .sys num

end Sys2Proof.Machine
end

