-- ==== Sys2Proof/Machine/Volt.lean ====
section
/-! DEFINITION. Natural rates and the course voltage sequencer (R33, R34, R39, R305, R452, R453). Voltages are steps of 10 mV
above 0.55 V, 0 to 40; temperatures are in 1/8 °C. -/
namespace Sys2Proof.Machine

/-- The six columns of R33 (steps 0, 10, 20, 25, 30, 40) at each row's temperature, in 10 M words/s. -/
def t33Row : Nat → List Int
  | 0 => [106, 177, 260, 307, 336, 389]
  | 1 => [96, 161, 235, 278, 305, 353]
  | 2 => [90, 150, 220, 260, 285, 330]
  | _ => [80, 134, 196, 231, 254, 294]

/-- One row of R33 at voltage step `v`, interpolated, times 10. -/
def t33V (row v : Nat) : Int :=
  let r := t33Row row
  let seg := fun (i w : Nat) (x : Nat) => (r.getD i 0 * ((w : Int) - x) + r.getD (i + 1) 0 * x) * (10 / (w : Int))
  if v < 10 then seg 0 10 v else if v < 20 then seg 1 10 (v - 10) else if v < 25 then seg 2 5 (v - 20)
  else if v < 30 then seg 3 5 (v - 25) else seg 4 10 (Nat.min (v - 30) 10)

/-- The table of R33 at step `v` and a temperature in 1/8 °C, interpolated linearly and extrapolated beyond its last rows, in
M words/s times 1,920; at least 1. -/
def t33 (v : Nat) (t8 : Int) : Nat :=
  let seg := fun (i : Nat) (lo hi : Int) => (t33V i v * (hi - t8) + t33V (i + 1) v * (t8 - lo)) * (1920 / (hi - lo))
  let x := if t8 < 200 then seg 0 (-440) 200 else if t8 < 680 then seg 1 200 680 else seg 2 680 1000
  Nat.max 1 x.toNat

/-- A core that is in service and started, and powered (R428, R449). -/
def inService (c : Core) : Bool :=
  match c.run with
  | .run | .wfe | .waitt _ _ | .nap | .stopped => true
  | _ => false

/-- The completion margin in force in a course (R478). -/
def marginOf (s : State) (c : Nat) : Int :=
  match (getCourse s c).margin with
  | some m => m
  | none => calFuse (0xA0 + c)

/-- VNOW of a course (R452). -/
def vNow (s : State) (c : Nat) : Nat := fld (getCourse s c).vcourse 16 8

/-- The rate of one core at step `v` as numerator and denominator, in M words/s (R305): NAT as it was last read, scaled from the
voltage it was measured at (log entry 16). A core whose NAT is still 0 is taken
at the table's rate scaled by its course's margin (R33, R478; log entry 12). -/
def rateAt (s : State) (c v : Nat) (x : Core) : Nat × Nat :=
  let t8 := (getCourse s c).temp8
  if x.nat = 0 then (t33 v t8 * (100 + calFuse (0xA0 + c)).toNat, 1920 * (100 + marginOf s c).toNat)
  else (x.nat.toNat * 4 * t33 v t8, t33 (getCourse s c).natV t8)

/-- A core that may hold translations: in service, off with its locked entries saved, or in the save store (R137, R451, R464). -/
def holdsTlb (c : Core) : Bool := inService c || c.run == .off || c.run == .unhoused

/-- The in-service cores of a course: a number that is not yet started is in service too (R491). -/
def servingCores (s : State) (c : Nat) : List Nat :=
  (coresOf s c).filter (fun n => inService (getCore s n) || (getCore s n).run == .notStarted)

/-- natrate(c, v) ≥ need / 100 (R305). -/
def natGe (s : State) (c v need100 : Nat) : Bool :=
  (servingCores s c).all (fun n => let r := rateAt s c v (getCore s n); decide (need100 * r.2 ≤ 100 * r.1))

/-- S(v) of a course, in pace units (R453). -/
def supported (s : State) (c v : Nat) : Nat :=
  (servingCores s c).foldl (fun a n => let r := rateAt s c v (getCore s n); Nat.min a (r.1 / (4 * r.2))) 1023

/-- The need of a reined core, in hundredths of M words/s (R452). -/
def paceNeed (x : Core) : Nat := if x.pl then 420 * x.pace.toNat else 400 * x.pace.toNat

/-- The lowest step that gives a need, 40 if none does (R305, R452). -/
def lowestStep (s : State) (c need100 : Nat) : Nat := ((List.range 41).find? (fun v => natGe s c v need100)).getD 40

/-- VREQ of a course, over its reined cores that `p` selects (R452, R455). -/
def vreq (s : State) (c : Nat) (p : Core → Bool) : Nat :=
  lowestStep s c ((servingCores s c).foldl (fun a n => let x := getCore s n
    if x.pace ≠ 0 && p x then Nat.max a (paceNeed x) else a) 0)

/-- VPLAN of a course: the planner's choice or VSET in manual mode, raised to VFLOOR (R308, R452). -/
def vplanOf (s : State) (c : Nat) : Nat :=
  let x := getCourse s c
  Nat.min 40 (Nat.max (if s.planCtl.getLsbD 63 then fld x.vcourse 0 8 else x.vplan) (fld x.vcourse 8 8))

/-- The sequencer's target of a course (R452). -/
def targetOf (s : State) (c : Nat) : Nat :=
  Nat.min (Nat.max (vplanOf s c) (vreq s c (fun _ => true))) (getCourse s c).capT

/-- A voltage change is in progress in a course (R39, R453). -/
def vMoving (s : State) (c : Nat) : Bool := vNow s c != (getCourse s c).vtarget || (getCourse s c).settle.isSome

/-- EFF of core `n` set (R453). -/
def setEff (s : State) (n k : Nat) : State := modCore s n (fun x => { x with eff := BitVec.ofNat 10 k })

/-- A REIN that needs more than 0.95 V (R453): VSEQ_LIM is set and the course makes a VSEQ_LIMIT record. -/
def vseqLimit (s : State) (c n k : Nat) : State :=
  let s := { s with gstat := s.gstat ||| 2 }
  jrn s c 0x7B 0 (bytesOf 1 c ++ bytesOf 1 n ++ bytesOf 2 (getCore s n).pace.toNat ++ bytesOf 2 k)

/-- EFF of every reined core raised to what the settled voltage supports, and a PACE of 0 taken over (R39, R453). -/
def effRaise (s : State) (c : Nat) : State :=
  let v := vNow s c
  (servingCores s c).foldl (fun s n =>
    let x := getCore s n
    if x.pace = 0 then setEff s n 0 else
    let k := Nat.min x.pace.toNat (supported s c v)
    let lim := !(natGe s c 40 (paceNeed x))
    let s' := if lim && (x.eff.toNat ≠ k || !s.gstat.getLsbD 1) then vseqLimit s c n k else s
    setEff s' n k) s

/-- Every EFF that exceeds S(v) lowered to it (R453). -/
def effLower (s : State) (c v : Nat) : State :=
  let k := supported s c v
  (servingCores s c).foldl (fun s n =>
    let x := getCore s n
    if x.eff ≠ 0 && k < x.eff.toNat then setEff s n k else s) s

/-- The sequencer re-evaluates its target (R452, R453): a fall lowers EFF first; with no change needed EFF follows PACE. -/
def seqEval (s : State) (c : Nat) : State :=
  let t := targetOf s c
  let s := modCourse s c (fun x => { x with vtarget := t })
  if t < vNow s c then effLower s c t
  else if t = vNow s c && (getCourse s c).settle.isNone then effRaise s c
  else s

/-- A write of REIN (R37, R39, R40, R453): a lower ceiling, or a first one, appears in EFF at once; a higher one only when the
voltage supports it; PACE = 0 at once when the course's voltage is at rest. -/
def reinWrite (s : State) (n : Nat) (v : Word64) : State :=
  let c := courseOf s n
  let x := getCore s n
  let pace : BitVec 10 := v.extractLsb' 0 10
  let s := setCore s n { x with pace := pace, pl := v.getLsbD 16, slip := x.slip && !v.getLsbD 63 }
  let s := if pace ≠ 0 && (x.eff = 0 || pace.toNat < x.eff.toNat) then
      setEff s n (Nat.min pace.toNat (supported s c (vNow s c))) else s
  let s := if pace = 0 && !vMoving s c then setEff s n 0 else s
  seqEval s c

end Sys2Proof.Machine
end

