-- ==== Sys2Proof/Machine/Status.lean ====
section
/-! DEFINITION. What status registers tell of the device: power domains, agents that do not answer, and the conditions of
FAULT_STATUS (R21, R277, R418 to R420, R443, R471). -/
namespace Sys2Proof.Machine

/-- PWR_VOTE[d].STATE (R443): 0 off, 1 entering off, 2 on, 3 powering up. -/
def pdState (s : State) (d : Nat) : Nat := fld (tget voteInit s.votes d) 61 3

/-- Entry to off has set a domain's clamps, or it is off or powering up: its stop answers AGENT_DOWN (R21, R445). -/
def pdSilent (s : State) (d : Nat) : Bool :=
  pdState s d == 0 || pdState s d == 3 || (pdState s d == 1 && 3 ≤ tget (fun _ => 0) s.offStep d)

/-- An agent is off or declared dead (R21, R277). -/
def agentDown (s : State) (a : Nat) : Bool :=
  if a < 32 then s.cohDead.getLsbD a || pdSilent s (288 + a)
  else if 80 ≤ a && a < 86 then s.cohDead.getLsbD (a - 48) || pdSilent s (288 + a)
  else false

/-- The courses that take part in maintenance forwards (R267). -/
def upCourses (s : State) : List Nat := (List.range 32).filter (fun c => !agentDown s c)

/-- The code of a device state (R418). -/
def devCode : DevState → Nat
  | .cold => 0 | .filling => 1 | .booting => 2 | .serving => 3 | .degraded => 4

/-- A logical core is in a run state, of those that hold state. -/
def anyRun (s : State) (r : Run) : Bool := s.cores.any (fun e => e.2.run == r)

/-- DEGR (R420). -/
def degr (s : State) : Nat :=
  b2n (anyRun s .halted) + 2 * b2n (anyRun s .unhoused) + 4 * b2n (s.cohDead.extractLsb' 0 32 != 0) +
    8 * b2n (s.cohDead.extractLsb' 32 6 != 0)

/-- A course in service holds no spare (FAULT_STATUS.NO_SPARE): it is on, not dead, and holds a logical number. -/
def noSpare (s : State) : Bool :=
  (List.range 32).any (fun c => !agentDown s c && !(coresOf s c).isEmpty &&
    !(s.phys.any (fun e => e.1 / 9 == c && e.2.st == .spare)))

/-- FAULT_STATUS as it reads (R471): the W1C bits held, the RO bits from their conditions. -/
def faultStatus (s : State) : Nat :=
  degr s + 16 * b2n (noSpare s) + (fld s.faultSt 5 3) * 32

/-- The links that a bifurcation gives a root port, with their lanes (R385). -/
def linkLanes (b : Nat) : List Nat :=
  match b with
  | 0 => [16] | 1 => [8, 8] | 2 => [8, 4, 4] | _ => [4, 4, 4, 4]

/-- RP_CFG.BIF (R385). -/
def bifOf (s : State) (p : Nat) : Nat := fld (getRp s p).cfg 0 2

/-- Link `l` exists at root port `p` (R385). -/
def linkExists (s : State) (p l : Nat) : Bool := decide (l < (linkLanes (bifOf s p)).length)

/-- RP_STATUS.DLUP of a link. -/
def linkUp (s : State) (p l : Nat) : Bool := (getRp s p).status.getLsbD (8 * l + 7)

/-- CTX_CTL.EN. -/
def ctxEn (x : Ctx) : Bool := x.ctl.getLsbD 63

/-- The hardware vote of a logical core's power domain by its state (R443, R449). A core that is halted or stopped keeps its
vote (log entry 17). -/
def coreVote (s : State) (n : Nat) : Bool :=
  let c := getCore s n
  match c.run with
  | .run | .wfe | .waitt _ _ | .halted | .stopped => true
  | .nap => !(c.corePwr.getLsbD 0 && decide (c.napAt + fld c.corePwr 16 16 * 1000 ≤ coreTime s n))
  | _ => false

/-- The hardware vote of a power domain (R443). -/
def hwVote (s : State) (d : Nat) : Bool :=
  if d < 288 then
    (tget voteInit s.votes d).getLsbD 2 || (match (getPhys s d).logical with | some n => coreVote s n.toNat | none => false)
  else if d < 320 then
    (List.range 9).any (fun i => pdState s ((d - 288) * 9 + i) != 0) || !(getCourse s (d - 288)).saved.isEmpty
  else if 368 ≤ d && d < 374 then
    s.ctxs.any (fun e => ctxEn e.2 && fld e.2.ctl 16 3 == d - 368) || (List.range 4).any (fun l => linkUp s (d - 368) l)
  else decide (2 ≤ devCode s.ks.st)

/-- A domain is powered while any of its votes is held (R443). -/
def votesHeld (s : State) (d : Nat) : Bool :=
  let v := tget voteInit s.votes d
  hwVote s d || v.getLsbD 1 || v.getLsbD 0

/-- CORE_PWR[n].CSTATE (the register description under R451). -/
def cstate (s : State) (n : Nat) : Nat :=
  match physOf s n with
  | some d =>
    (match pdState s d with
     | 0 => 3 | 1 => 4 | 3 => 5
     | _ => (match (getCore s n).run with | .wfe | .waitt _ _ => 1 | .nap => 2 | .off => 3 | _ => 0))
  | none => 0

/-- DOM_STATUS.CORES (R59): logical cores bound to a domain; 0 for domain 0. -/
def domCores (s : State) (t : Nat) : Nat :=
  if t = 0 then 0 else (s.cores.filter (fun e => e.2.dom.toNat == t)).length

/-- DOM_STATUS.UNITS (R390, R406). -/
def domUnits (s : State) (t : Nat) : Nat :=
  if t = 0 then 0
  else (s.ctxs.filter (fun e => ctxEn e.2 && fld e.2.ctl 32 12 == t)).length + (s.chans.filter (fun e => fld e.2.ctl 32 12 == t)).length

/-- The records that the journal ring holds (R323). -/
def ringCap (s : State) : Nat := 2 ^ (fld s.jrn.ctl 0 5) / 32

/-- JRN_STATUS.FULL (R325). -/
def ringFull (s : State) : Bool := s.jrn.n - s.jrn.tail == ringCap s

/-- JRN_STATUS.ALERT (R325): the fill level is at or above ALERT sixteenths; 0 gives no alert. -/
def ringAlert (s : State) : Bool :=
  let a := fld s.jrn.ctl 52 4
  a != 0 && decide (a * ringCap s ≤ 16 * (s.jrn.n - s.jrn.tail))

end Sys2Proof.Machine
end

