-- ==== Sys2Proof/Machine/CtlRead.lean ====
section
/-! DEFINITION. The read of a control register (R27, R29, and the register descriptions of every chapter). An offset that no
register has reads as zero. -/
namespace Sys2Proof.Machine

/-- Register `k` of a block with `n` registers of `step` bytes from `base`: the index of the one at an offset, if any. -/
def regIdx (off base step n : Nat) : Option Nat :=
  if base ≤ off ∧ off < base + n * step ∧ (off - base) % step = 0 then some ((off - base) / step) else none

/-- CAL[i] (the register description under R476). -/
def calWord (s : State) (i : Nat) : Word64 :=
  match calRange i with
  | none => 0
  | some (lo, hi) =>
    let f := calFuse i
    let t := calTrim s i
    BitVec.ofNat 64 (b2n (f + t < lo || hi < f + t) * 2 ^ 63 + ofInt 21 (calEff s i) * 2 ^ 42 + ofInt 21 f * 2 ^ 21 + ofInt 21 t)

/-- GLOBAL_STATUS as it reads: THROT tells that a course is throttled now. -/
def gstatWord (s : State) : Word64 := fldSet s.gstat 4 1 (b2n (fld s.thermSt 0 32 != 0))

/-- PWR_VOTE[d] as it reads: HW is the hardware vote of R443. -/
def voteWord (s : State) (d : Nat) : Word64 := fldSet (tget voteInit s.votes d) 2 1 (b2n (hwVote s d))

/-- SGIMG[m] in 8-byte halves (R226). -/
def sgImage (s : State) (h : Nat) : Word64 :=
  let m := h / 2
  let g := tget sgInit (getCore s (m / 8)).sg (m % 8)
  if h % 2 = 0 then g.extractLsb' 0 64 else g.extractLsb' 64 64

/-- PATCH_STAGED (R218). -/
def patchStaged (s : State) : Word64 :=
  BitVec.ofNat 64 ((match s.ks.staged with | some p => p.level.toNat | none => 0) * 2 ^ 32 + Config.patchFloor.toNat)

/-- The global control block (offsets below 64 KiB). -/
def readGlobal (s : State) (off : Nat) : Word64 :=
  if off = 0x0 then Config.deviceId
  else if off = 0x8 then s.dramTop
  else if off = 0x10 then gstatWord s
  else if off = 0x18 then s.thermCtl
  else if off = 0x20 then patchStaged s
  else if off = 0x28 then s.thermSt
  else if off = 0x30 then s.faultCtl
  else if off = 0x38 then BitVec.ofNat 64 (faultStatus s)
  else if off = 0x200 then s.cohCtl
  else if off = 0x208 then s.cohDead
  else if off = 0xE000 then s.pmGlobal
  else if off = 0xE008 then BitVec.ofNat 64 s.snapT
  else if off = 0xE010 then BitVec.ofNat 64 s.frzT
  else match regIdx off 0x40 8 8 with
  | some i => tget (fun _ => 0) s.pmbMap i
  | none => match regIdx off 0x100 8 16 with
  | some i => pmask s i
  | none => match regIdx off 0x800 8 256 with
  | some n => fldSet (getCore s n).corePwr 61 3 (cstate s n)
  | none => match regIdx off 0x1000 8 256 with
  | some n => (getCore s n).upatch
  | none => match regIdx off 0x2000 8 256 with
  | some n => tget (fun _ => 0) s.hptb n
  | none => match regIdx off 0x4000 8 4096 with
  | some h => sgImage s h
  | none => match regIdx off 0xC000 8 375 with
  | some d => voteWord s d
  | none => match regIdx off 0xD000 8 192 with
  | some i => calWord s i
  | none => match regIdx off 0xD800 8 4 with
  | some r => BitVec.ofNat 64 (tget (fun _ => 0) s.railE r)
  | none => 0

/-- MB_STATUS (R413). -/
def mbStatus (s : State) : Word64 :=
  let m := s.ks.mailbox
  BitVec.ofNat 64 (devCode s.ks.st * 2 ^ 29 + (match m.reply with | some r => r.length % 8192 | none => 0) * 2 ^ 16 +
    b2n m.overrun * 8 + b2n m.rxerr * 4 + b2n m.busy * 2 + b2n m.reply.isSome)

/-- Eight bytes of a mailbox buffer. -/
def bufWord (t : Tbl Byte) (o : Nat) : Word64 := BitVec.ofNat 64 (natOf ((List.range 8).map (fun i => tget (fun _ => 0) t (o + i))))

/-- The in-band mailbox (offsets within its 64 KiB). -/
def readMailbox (s : State) (off : Nat) : Word64 :=
  if off = 0x0 then BitVec.ofNat 64 s.ks.mbLen.toNat
  else if off = 0x8 then mbStatus s
  else if off = 0x10 then BitVec.ofNat 64 s.ks.allow.toNat
  else if 0x1000 ≤ off && off < 0x3000 then bufWord s.ks.mbCmd (off - 0x1000)
  else if 0x4000 ≤ off && off < 0x6000 then bufWord s.ks.mbReply (off - 0x4000)
  else 0

/-- The plumb registers as core `n` reads them (R47, R49). -/
def readPlumb (s : State) (n off : Nat) : Word64 :=
  if off = 0x0 then BitVec.ofNat 64 (coreTime s n)
  else if off = 0x8 then s.plumb.ctl
  else if off = 0x10 then s.plumb.status
  else if off = 0x18 then BitVec.ofNat 64 s.plumb.pps
  else 0

/-- The journal engine's registers (R324 to R341). -/
def readJournal (s : State) (off : Nat) : Word64 :=
  let j := s.jrn
  if off = 0x0 then j.ctl
  else if off = 0x8 then BitVec.ofNat 64 j.head
  else if off = 0x10 then BitVec.ofNat 64 j.tail
  else if off = 0x18 then BitVec.ofNat 64 (j.ringDrop * 2 ^ 32 + j.qDrop * 2 ^ 16 + b2n (ringAlert s) * 2 + b2n (ringFull s))
  else if off = 0x100 then s.led.ctl
  else if off = 0x108 then s.led.status
  else if off = 0x110 then s.led.ack
  else 0

/-- SRC[id] as it reads (the register description under R342). -/
def srcWord (s : State) (id : Nat) : Word64 :=
  let x := getSrc s id
  BitVec.ofNat 64 (b2n (srcPending id x) * 2 ^ 63 + b2n x.inserv.isSome * 2 ^ 62 + b2n (x.line && id < 64) * 2 ^ 61 +
    b2n (decide (id < 64)) * 2 ^ 56) ||| x.w

/-- The interrupt hub (offsets within its 1 MiB). -/
def readHub (s : State) (off : Nat) : Word64 :=
  if off = 0x20 then s.hubSt
  else match regIdx off 0x1000 8 256 with
  | some n => threshRead s n .h
  | none => match regIdx off 0x4000 8 4096 with
  | some k => tget (fun _ => 0) s.msimap k
  | none => match regIdx off 0x20000 8 8191 with
  | some id => srcWord s id
  | none => 0

/-- WINDOW[n] in halves as the domain table holds it (R69). -/
def readWindow (s : State) (t h : Nat) : Word64 :=
  let w := tget (fun _ => 0) (getDom s t).win (h / 2)
  if h % 2 = 0 then w.extractLsb' 0 64 else w.extractLsb' 64 64

/-- The tenant domain table (offsets within its 2 MiB). -/
def readDomain (s : State) (off : Nat) : Word64 :=
  let t := off / 0x200
  let o := off % 0x200
  if o = 0 then (getDom s t).ctl
  else if o = 8 then BitVec.ofNat 64 (domCores s t * 2 ^ 16 + domUnits s t % 2 ^ 16) ||| (getDom s t).status
  else match regIdx o 0x100 8 32 with
  | some h => readWindow s t h
  | none => 0

/-- BCEIL[r] of a domain. -/
def ceilOf (b : Bud) (r : Nat) : Word64 := match r with | 0 => b.c0 | 1 => b.c1 | 2 => b.c2 | _ => b.c3

/-- BPOOL[r] as it reads (R289). -/
def poolWord (b : Bud) (r : Nat) : Word64 :=
  if b.unl.getLsbD r then 0x7FFFFFFFFFFFFFFF else BitVec.ofInt 64 (tget (fun _ => 0) b.pool r)

/-- Budgets, arbiters and planner (offsets within their 1 MiB). -/
def readBudget (s : State) (off : Nat) : Word64 :=
  if off = 0x0 then s.budCtl
  else if off = 0x8 then s.planCtl
  else if off = 0x10 then s.planSt
  else if off = 0x18 then s.arbCtl
  else match regIdx off 0x100 8 32 with
  | some c => (getCourse s c).vcourse
  | none =>
    if 0x10000 ≤ off && off < 0x10000 + 4096 * 0x80 then
      let b := getBud s ((off - 0x10000) / 0x80)
      let o := (off - 0x10000) % 0x80
      if o < 0x20 then ceilOf b (o / 8)
      else if o = 0x20 then b.wt
      else if o = 0x28 then b.stat
      else if o = 0x30 then b.ecred
      else if 0x40 ≤ o && o < 0x60 then poolWord b ((o - 0x40) / 8)
      else 0
    else 0

/-- The registers of a counter bank (R479, R481): 16, and 19 for channels and root ports. -/
def readBank (s : State) (b off : Nat) : Word64 :=
  match regIdx off 0 8 (if 64 ≤ b then 19 else 16) with
  | some r => bkGet s b r
  | none => 0

/-- A course's block (R251, R479). -/
def readCourse (s : State) (c off : Nat) : Word64 :=
  if off = 0x800 then (getCourse s c).err
  else if 0x900 ≤ off then readBank s c (off - 0x900) else 0

/-- SLICE_TRK with TRK_BUSY (R284). -/
def trkWord (s : State) (h : Nat) : Word64 :=
  let x := getSlice s h
  fldSet x.trkReg 0 10 (x.trk.length + x.queue.length)

/-- A DMA copy channel's registers (R402 to R406). -/
def readChan (x : Chan) (o : Nat) : Word64 :=
  match o with
  | 0x00 => x.ctl | 0x08 => x.io | 0x10 => x.ring | 0x18 => x.ptr | 0x20 => x.status | _ => 0

/-- The channel at an offset of a slice's block: engine e = slice / 4 of slices 0, 4, 8, …, 28, and its register. -/
def chanAt (sl off : Nat) : Option (Nat × Nat) :=
  if sl % 4 = 0 ∧ 0x8000 ≤ off ∧ off < 0x8000 + 128 * 0x40 then some (128 * (sl / 4) + (off - 0x8000) / 0x40, (off - 0x8000) % 0x40)
  else none

/-- A slice's block, with its DMA engine's channels. -/
def readSlice (s : State) (c off : Nat) : Word64 :=
  if off = 0x800 then (getSlice s c).err
  else if off = 0x808 then trkWord s c
  else match chanAt c off with
  | some (k, o) => readChan (getChan s k) o
  | none => if 0x900 ≤ off then readBank s (32 + c) (off - 0x900) else 0

/-- A memory controller's block (R357 to R383). -/
def readMc (s : State) (m off : Nat) : Word64 :=
  let x := getMc s m
  if off = 0x00 then x.cfg
  else if off = 0x08 then x.ctl
  else if off = 0x10 then x.scrub
  else if off = 0x18 then x.scrubSt
  else if off = 0x20 then x.status
  else if off = 0x28 then x.errcnt
  else if off = 0x30 then x.errAddr
  else if off = 0xC0 then x.spare
  else if off = 0xC8 then x.rankmap
  else match regIdx off 0x40 8 16 with
  | some r => tget (fun _ => 0) x.rank r
  | none => if 0x100 ≤ off then readBank s (64 + m) (off - 0x100) else 0

/-- The peer requests that are on their way to a root port, wait there, or have no completion yet (R391, R397). -/
def peersOut (s : State) : List OutReq :=
  ((s.outNet.map (·.2)) ++ (s.rps.flatMap (fun e => e.2.waiting ++ e.2.outst.map (·.1)))).filter (fun r => r.ctx.isSome)

/-- A function context's registers (R390 to R398); BUSY tells that a request of it is outstanding beyond its root port. -/
def readCtx (s : State) (k o : Nat) : Word64 :=
  let x := getCtx s k
  match o with
  | 0x00 => fldSet x.ctl 61 1 (b2n ((peersOut s).any (fun r => r.ctx == some (BitVec.ofNat 12 k)))) | 0x08 => x.io | 0x10 => x.bar | 0x18 => x.status | _ => 0

/-- A root port's block; the context table and IOINV lie in that of port 0. -/
def readPort (s : State) (p off : Nat) : Word64 :=
  if off = 0x0 then (getRp s p).cfg
  else if off = 0x8 then (getRp s p).status
  else if p = 0 && off = 0x100 then BitVec.ofNat 64 (b2n s.ioDone * 2 ^ 63)
  else if p = 0 && 0x80000 ≤ off && off < 0x80000 + 4096 * 0x20 then readCtx s ((off - 0x80000) / 0x20) ((off - 0x80000) % 0x20)
  else if 0x200 ≤ off then readBank s (80 + p) (off - 0x200) else 0

/-- The 8-byte register at an offset that is a multiple of 8, as core `n` reads it (R27). -/
def regRead (s : State) (n off : Nat) : Word64 :=
  if off < 0x10000 then readGlobal s off
  else if off < 0x20000 then readMailbox s (off - 0x10000)
  else if off < 0x30000 then readPlumb s n (off - 0x20000)
  else if off < 0x40000 then readJournal s (off - 0x30000)
  else if off < 0x100000 then 0
  else if off < 0x200000 then readHub s (off - 0x100000)
  else if off < 0x400000 then readDomain s (off - 0x200000)
  else if off < 0x500000 then readBudget s (off - 0x400000)
  else if off < 0x1000000 then 0
  else if off < 0x1200000 then readCourse s ((off - 0x1000000) / 0x10000) (off % 0x10000)
  else if off < 0x2000000 then 0
  else if off < 0x2200000 then readSlice s ((off - 0x2000000) / 0x10000) (off % 0x10000)
  else if off < 0x3000000 then 0
  else if off < 0x3100000 then readMc s ((off - 0x3000000) / 0x10000) (off % 0x10000)
  else if off < 0x4000000 then 0
  else if off < 0x4600000 then readPort s ((off - 0x4000000) / 0x100000) (off % 0x100000)
  else 0

/-! ### Configuration space (R386) -/

/-- The base of configuration space within the control region (R27). -/
def cfgBase : Nat := 0x10000000

/-- The configuration registers of a root port function that the rules name, with the bits software writes: bus numbers, memory
and prefetchable base and limit, upper halves (R386, R387; the layout is that of a PCI-to-PCI bridge, log entry 18). -/
def cfgMask (reg : Nat) : BitVec 32 :=
  match reg with
  | 0x18 => 0xFFFFFFFF | 0x20 => 0xFFF0FFF0 | 0x24 => 0xFFF0FFF0 | 0x28 => 0xFFFFFFFF | 0x2C => 0xFFFFFFFF | _ => 0

/-- The word of a root port function's configuration registers that software has written. -/
def cfgWord (s : State) (k : Nat) : BitVec 32 := (tget (fun _ => none) s.cfgSpace k).getD 0

/-- The root port and link of a bus 0 device number (R386). -/
def cfgPort (dev : Nat) : Nat × Nat := (dev / 4, dev % 4)

/-- A root port function claims a bus by its secondary and subordinate numbers (R386). -/
def busClaimed (s : State) (bus : Nat) : Option (Nat × Nat) :=
  ((List.range 24).find? (fun d => linkExists s (d / 4) (d % 4) &&
    (let w := cfgWord s (d * 0x2000 + 6)
     decide (0 < bus) && decide (fld w 8 8 ≤ bus) && decide (bus ≤ fld w 16 8)))).map cfgPort

/-- A load of configuration space (R386): a bus or device number that nothing claims reads all ones; a register of a root port
function that the rules name reads as software wrote it; what else a function returns is a FREE VALUE. -/
def cfgLoad (s : State) (o : Nat) : Nat × State :=
  let bus := o / 0x100000
  let dev := o / 0x8000 % 32
  let reg := o % 0x1000
  let ones := (0xFFFFFFFF, s)
  let open_ := let (v, s) := free s; (v % 2 ^ 32, s)
  if bus = 0 then
    if dev < 24 && linkExists s (dev / 4) (dev % 4) && o / 0x1000 % 8 = 0 then
      (if cfgMask reg = 0 then open_ else ((cfgWord s (o / 4)).toNat, s))
    else ones
  else match busClaimed s bus with
    | some (p, l) => if agentDown s (80 + p) || !linkUp s p l then ones else open_
    | none => ones

/-- The register at an offset stands in a course or a root port that is off or declared dead: its stop answers (R21, R444, R445). The
function contexts and IOINV, of which there is one set for all ports, stand in none (R391, R396; log entry 142). -/
def ctlDown (s : State) (off : Nat) : Bool :=
  if 0x1000000 ≤ off && off < 0x1200000 then agentDown s ((off - 0x1000000) / 0x10000)
  else if 0x4000000 ≤ off && off < 0x4600000 && off / 8 * 8 != 0x4000100 && !(0x4080000 ≤ off && off < 0x40A0000) then
    agentDown s (80 + (off - 0x4000000) / 0x100000)
  else false

/-- A load of an offset of the control region: `w` bytes, 4 or 8, naturally aligned. -/
def ctlRead (s : State) (n off w : Nat) : Nat × State :=
  if cfgBase ≤ off then (if off < cfgBase + 0x10000000 then cfgLoad s (off - cfgBase) else (0, s))
  else
    let v := regRead s n (off / 8 * 8)
    (if w = 8 then v.toNat else if off % 8 = 0 then fld v 0 32 else fld v 32 32, s)

/-- The widths and alignments that the control region takes (R29); configuration space takes only 4-byte accesses (R386). -/
def ctlWidthOk (off w : Nat) : Bool := (w == 4 || (w == 8 && !(decide (cfgBase ≤ off) && decide (off < cfgBase + 0x10000000)))) && off % w == 0

end Sys2Proof.Machine
end

