-- ==== Sys2Proof/Machine/NeverOps.lean ====
section
/-! DEFINITION. Device states, degraded conditions and FAULT_STATUS (R418 to R420, R439, R471 to R473). -/
namespace Sys2Proof.Machine

/-- A change of device state (R419): a KS_STATE record and the STATE_CHANGE alert. -/
def setDev (s : State) (d : DevState) (cause : Nat) : State :=
  if s.ks.st = d then s else
  let s := jrn s agKs 0x71 0 (bytesOf 1 (devCode s.ks.st) ++ bytesOf 1 (devCode d) ++ bytesOf 1 cause)
  alert { s with ks := { s.ks with st := d } } 1

/-- Changes of FAULT_STATUS bits are journaled (R473), and SERVING and DEGRADED follow the conditions of R420 (R419). -/
def syncFault (s : State) : State :=
  let now := faultStatus s
  let was := s.faultWas.toNat
  let s := (List.range 8).foldl (fun s b =>
    if now / 2 ^ b % 2 ≠ was / 2 ^ b % 2 then jrn s agKs 0x7F 0 (bytesOf 1 b ++ bytesOf 1 (now / 2 ^ b % 2)) else s) s
  let s := { s with faultWas := BitVec.ofNat 64 now }
  if s.ks.st = .serving && degr s ≠ 0 then setDev s .degraded 0
  else if s.ks.st = .degraded && degr s = 0 then setDev s .serving 0 else s

/-- A KS_CMD record (R440). -/
def ksCmdRecord (s : State) (p : Packet) (st : Nat) : State :=
  jrn s agKs 0x70 0 (bytesOf 1 (match p.path with | .serial => 0 | .mailbox => 1) ++ bytesOf 2 p.seq.toNat ++ bytesOf 2 p.opcode.toNat ++ bytesOf 2 st)

/-- An operation that was answered ACCEPTED has ended (R439, R440): its final status is journaled. -/
def operationDone (s : State) (p : Packet) (st : Nat) : State := alert (ksCmdRecord s p st) 2

/-- A W1C bit of FAULT_STATUS is set (R471, R472). -/
def setFault (s : State) (b : Nat) : State :=
  syncFault { s with faultSt := s.faultSt ||| BitVec.ofNat 64 (2 ^ b) }

/-- FAULT_N is driven low (R471). -/
def faultN (s : State) : Bool :=
  fld (BitVec.ofNat 64 (faultStatus s) &&& s.faultCtl) 0 8 != 0 ||
    (s.ks.st == .cold && 2 ≤ s.ks.bootst.toNat && s.ks.bootst.toNat ≤ 5) || (s.ks.st == .filling && s.ks.phase == .failed)

end Sys2Proof.Machine
end

