-- ==== Sys2Proof/Machine/Float.lean ====
section
/-! DEFINITION. IEEE 754 arithmetic in binary64, binary32 and binary16 (R103, R141), computed exactly on integers and rounded
once. Every operation takes and gives the bits of an element as a number. -/
namespace Sys2Proof.Machine

/-- A format: the widths of its exponent and fraction fields (R103). -/
structure Fmt where
  ew : Nat
  mw : Nat
  deriving DecidableEq, Repr

/-- The format of an element size (R103). -/
def fmtOf (e : Nat) : Fmt := if e = 64 then ⟨11, 52⟩ else if e = 32 then ⟨8, 23⟩ else ⟨5, 10⟩

/-- A value: a NaN, an infinity, or ± m × 2^x. -/
inductive FVal where
  | nan
  | inf (neg : Bool)
  | fin (neg : Bool) (m : Nat) (x : Int)
  deriving DecidableEq, Repr

/-- The exponent of the unit in the last place of a subnormal. -/
def Fmt.qmin (f : Fmt) : Int := 2 - (2 ^ (f.ew - 1) : Int) - f.mw

/-- The value that the bits of an element spell. -/
def fDecode (f : Fmt) (b : Nat) : FVal :=
  let neg := b / 2 ^ (f.ew + f.mw) % 2 == 1
  let e := b / 2 ^ f.mw % 2 ^ f.ew
  let m := b % 2 ^ f.mw
  if e = 2 ^ f.ew - 1 then (if m = 0 then .inf neg else .nan)
  else if e = 0 then .fin neg m f.qmin
  else .fin neg (m + 2 ^ f.mw) (f.qmin + (e - 1 : Nat))

/-- The canonical quiet NaN (R141). -/
def fNan (f : Fmt) : Nat := (2 ^ f.ew - 1) * 2 ^ f.mw + 2 ^ (f.mw - 1)

/-- The sign bit of an element. -/
def fSign (f : Fmt) (neg : Bool) : Nat := b2n neg * 2 ^ (f.ew + f.mw)

/-- An infinity. -/
def fInf (f : Fmt) (neg : Bool) : Nat := fSign f neg + (2 ^ f.ew - 1) * 2 ^ f.mw

/-- The number of significant bits of a number below 2^fuel. -/
def bitLen : Nat → Nat → Nat
  | 0, _ => 0
  | k + 1, n => if n = 0 then 0 else 1 + bitLen k (n / 2)

/-- Whether a magnitude between two neighbours goes to the upper one (R103): `half` compares the rest with one half. -/
def roundsUp (rm : Nat) (neg odd : Bool) (rest : Bool) (half : Ordering) : Bool :=
  match rm with
  | 0 => half == .gt || (half == .eq && odd)
  | 1 => false
  | 2 => !neg && rest
  | _ => neg && rest

/-- The magnitude m × 2^x, plus something less than 1 × 2^x when `sticky`, in units of 2^q, rounded. -/
def roundAt (rm : Nat) (neg : Bool) (m : Nat) (x q : Int) (sticky : Bool) : Nat :=
  if q ≤ x then m * 2 ^ (x - q).toNat
  else
    let d := (q - x).toNat
    let t := m / 2 ^ d
    let r := m % 2 ^ d
    let h := 2 ^ (d - 1)
    let half := if r < h then Ordering.lt else if h < r then Ordering.gt else if sticky then .gt else .eq
    if roundsUp rm neg (t % 2 == 1) (r != 0 || sticky) half then t + 1 else t

/-- The element nearest by the rounding mode to ± m × 2^x (R103); an overflow gives the IEEE 754 default. -/
def fRound (f : Fmt) (rm : Nat) (neg : Bool) (m : Nat) (x : Int) (sticky : Bool := false) : Nat :=
  if m = 0 && !sticky then fSign f neg else
  let n := bitLen 5000 m
  let q0 : Int := x + n - (f.mw + 1)
  let q := if q0 < f.qmin then f.qmin else q0
  let t := roundAt rm neg m x q sticky
  let (t, q) := if t = 2 ^ (f.mw + 1) then (2 ^ f.mw, q + 1) else (t, q)
  if t < 2 ^ f.mw then fSign f neg + t
  else
    let e := (q - f.qmin + 1).toNat
    if 2 ^ f.ew - 1 ≤ e then
      (if rm = 0 || (rm = 2 && !neg) || (rm = 3 && neg) then fInf f neg
       else fSign f neg + (2 ^ f.ew - 2) * 2 ^ f.mw + (2 ^ f.mw - 1))
    else fSign f neg + e * 2 ^ f.mw + (t - 2 ^ f.mw)

/-- The sum of two values, rounded once. An exact zero sum of unlike signs is −0 only toward −∞. -/
def fAddV (f : Fmt) (rm : Nat) : FVal → FVal → Nat
  | .nan, _ => fNan f
  | _, .nan => fNan f
  | .inf a, .inf b => if a = b then fInf f a else fNan f
  | .inf a, _ => fInf f a
  | _, .inf b => fInf f b
  | .fin sa ma xa, .fin sb mb xb =>
    let x := if xa < xb then xa else xb
    let ia : Int := (ma * 2 ^ (xa - x).toNat : Nat)
    let ib : Int := (mb * 2 ^ (xb - x).toNat : Nat)
    let t := (if sa then -ia else ia) + (if sb then -ib else ib)
    if t = 0 then
      fSign f (if ma = 0 && mb = 0 && sa == sb then sa else rm == 3)
    else fRound f rm (decide (t < 0)) t.natAbs x

/-- The exact product of two values. -/
def fMulV : FVal → FVal → FVal
  | .nan, _ => .nan
  | _, .nan => .nan
  | .inf a, .inf b => .inf (a != b)
  | .inf a, .fin b m _ => if m = 0 then .nan else .inf (a != b)
  | .fin a m _, .inf b => if m = 0 then .nan else .inf (a != b)
  | .fin a ma xa, .fin b mb xb => .fin (a != b) (ma * mb) (xa + xb)

/-- The value with its sign changed. -/
def fNegV : FVal → FVal
  | .nan => .nan
  | .inf a => .inf !a
  | .fin a m x => .fin (!a) m x

/-- A value rounded to an element. -/
def fPack (f : Fmt) (rm : Nat) : FVal → Nat
  | .nan => fNan f
  | .inf a => fInf f a
  | .fin a m x => fRound f rm a m x

def fAdd (e rm a b : Nat) : Nat := let f := fmtOf e; fAddV f rm (fDecode f a) (fDecode f b)
def fSub (e rm a b : Nat) : Nat := let f := fmtOf e; fAddV f rm (fDecode f a) (fNegV (fDecode f b))
def fMul (e rm a b : Nat) : Nat := let f := fmtOf e; fPack f rm (fMulV (fDecode f a) (fDecode f b))

/-- D + A × B and D − A × B, rounded once (R140). -/
def fFma (e rm d a b : Nat) : Nat := let f := fmtOf e; fAddV f rm (fDecode f d) (fMulV (fDecode f a) (fDecode f b))
def fFms (e rm d a b : Nat) : Nat := let f := fmtOf e; fAddV f rm (fDecode f d) (fNegV (fMulV (fDecode f a) (fDecode f b)))

/-- IEEE 754 division. -/
def fDiv (e rm a b : Nat) : Nat :=
  let f := fmtOf e
  match fDecode f a, fDecode f b with
  | .nan, _ => fNan f
  | _, .nan => fNan f
  | .inf _, .inf _ => fNan f
  | .inf s, .fin t _ _ => fInf f (s != t)
  | .fin s _ _, .inf t => fSign f (s != t)
  | .fin s ma xa, .fin t mb xb =>
    if mb = 0 then (if ma = 0 then fNan f else fInf f (s != t))
    else if ma = 0 then fSign f (s != t)
    else
      let k := f.mw + 4 + bitLen 5000 mb
      fRound f rm (s != t) (ma * 2 ^ k / mb) (xa - xb - k) (ma * 2 ^ k % mb != 0)

/-- The integer square root of `n` from its bits at and below `k`, added to `acc`. -/
def isqrt : Nat → Nat → Nat → Nat
  | 0, n, acc => if (acc + 1) * (acc + 1) ≤ n then acc + 1 else acc
  | k + 1, n, acc => isqrt k n (if (acc + 2 ^ (k + 1)) * (acc + 2 ^ (k + 1)) ≤ n then acc + 2 ^ (k + 1) else acc)

/-- IEEE 754 square root. -/
def fSqrt (e rm a : Nat) : Nat :=
  let f := fmtOf e
  match fDecode f a with
  | .nan => fNan f
  | .inf s => if s then fNan f else fInf f false
  | .fin s m x =>
    if m = 0 then fSign f s else if s then fNan f
    else
      let k := 2 * (f.mw + 4)
      let (m, x) := if x % 2 = 0 then (m, x) else (2 * m, x - 1)
      let n := m * 2 ^ k
      let r := isqrt (f.mw + 40) n 0
      fRound f rm false r (x / 2 - (f.mw + 4)) (r * r != n)

/-- A finite or infinite value as a fraction to compare: sign, and the order of two values; none with a NaN. -/
def fCmp (f : Fmt) (a b : Nat) : Option Ordering :=
  match fDecode f a, fDecode f b with
  | .nan, _ => none
  | _, .nan => none
  | .inf s, .inf t => some (if s = t then .eq else if s then .lt else .gt)
  | .inf s, _ => some (if s then .lt else .gt)
  | _, .inf t => some (if t then .gt else .lt)
  | .fin s ma xa, .fin t mb xb =>
    let x := if xa < xb then xa else xb
    let ia : Int := (ma * 2 ^ (xa - x).toNat : Nat)
    let ib : Int := (mb * 2 ^ (xb - x).toNat : Nat)
    some (compare (if s then -ia else ia) (if t then -ib else ib))

/-- FMIN and FMAX (R141): the other operand for one NaN, the canonical NaN for two, −0 below +0. -/
def fMinMax (isMax : Bool) (e a b : Nat) : Nat :=
  let f := fmtOf e
  match fDecode f a, fDecode f b with
  | .nan, .nan => fNan f
  | .nan, _ => b
  | _, .nan => a
  | _, _ =>
    match fCmp f a b with
    | some .lt => if isMax then b else a
    | some .gt => if isMax then a else b
    | _ => let an := a / 2 ^ (f.ew + f.mw) % 2 == 1
           if isMax then (if an then b else a) else (if an then a else b)

/-- All ones of an element for true (R140). -/
def maskE (e : Nat) (b : Bool) : Nat := if b then 2 ^ e - 1 else 0
def fCmpEq (e a b : Nat) : Nat := maskE e (fCmp (fmtOf e) a b == some .eq)
def fCmpLt (e a b : Nat) : Nat := maskE e (fCmp (fmtOf e) a b == some .lt)

/-- A signed integer of width e to the float of width e (R140). -/
def fFromInt (e rm a : Nat) : Nat :=
  let v := toSigned e a
  fRound (fmtOf e) rm (decide (v < 0)) v.natAbs 0

/-- A float of width e to a signed integer of width e: rounded by RM, saturated, a NaN gives 0 (R141). -/
def fToInt (e rm a : Nat) : Nat :=
  let f := fmtOf e
  let lo : Int := -(2 ^ (e - 1) : Int)
  let hi : Int := (2 ^ (e - 1) : Int) - 1
  match fDecode f a with
  | .nan => 0
  | .inf s => ofInt e (if s then lo else hi)
  | .fin s m x =>
    let t : Int := roundAt rm s m x 0 false
    ofInt e (clampI lo hi (if s then -t else t))

end Sys2Proof.Machine
end

