-- ==== Sys2Proof/Machine/Integer.lean ====
section
/-! DEFINITION. The integer operations of A0 and A1 (R105, R112 to R114): each syllable's operands and its result. -/
namespace Sys2Proof.Machine

/-- The number of trailing zeros of a, w for 0 (R112). -/
def ctzOf (w : Nat) (a : BitVec w) : Nat := ((List.range w).find? (fun i => a.getLsbD i)).getD w
/-- The number of ones of a (R112). -/
def popOf (w : Nat) (a : BitVec w) : Nat := ((List.range w).filter (fun i => a.getLsbD i)).length
/-- The number of leading zeros of a, w for 0 (R112). -/
def clzOf (w : Nat) (a : BitVec w) : Nat := w - bitLen w a.toNat
/-- The quotient of R114. -/
def divS (w : Nat) (a b : BitVec w) : BitVec w := if b = 0 then BitVec.allOnes w else a.sdiv b
def divU (w : Nat) (a b : BitVec w) : BitVec w := if b = 0 then BitVec.allOnes w else a / b
/-- The remainder of R114. -/
def remS (w : Nat) (a b : BitVec w) : BitVec w := if b = 0 then a else a.srem b
def remU (w : Nat) (a b : BitVec w) : BitVec w := if b = 0 then a else a % b

/-- NOP: D, A, B and the whole qualifier must be zero (R105). -/
def sylNop (y : Syl) (_ : Core) : Staged :=
  { unit := intUnit y, len := sylLen y, stop := y.s, badX := y.x.isSome, reserved := y.d != 0 || y.a != 0 || y.b != 0 || y.q != 0 }
def sylAdd (y : Syl) (c : Core) : Staged := intBin y c false false (fun _ a b => a + b)
def sylSub (y : Syl) (c : Core) : Staged := intBin y c false false (fun _ a b => a - b)
def sylAnd (y : Syl) (c : Core) : Staged := intBin y c false false (fun _ a b => a &&& b)
def sylOr (y : Syl) (c : Core) : Staged := intBin y c false false (fun _ a b => a ||| b)
def sylXor (y : Syl) (c : Core) : Staged := intBin y c false false (fun _ a b => a ^^^ b)
def sylAndn (y : Syl) (c : Core) : Staged := intBin y c false false (fun _ a b => a &&& ~~~b)
/-- The count is the low 6 or 5 bits of the second operand (R92). -/
def sylShl (y : Syl) (c : Core) : Staged := intBin y c false false (fun w a b => a <<< (b.toNat % w))
def sylShr (y : Syl) (c : Core) : Staged := intBin y c false false (fun w a b => a >>> (b.toNat % w))
def sylSar (y : Syl) (c : Core) : Staged := intBin y c false false (fun w a b => a.sshiftRight (b.toNat % w))
def sylRor (y : Syl) (c : Core) : Staged := intBin y c false false (fun w a b => a.rotateRight (b.toNat % w))
def sylCmpeq (y : Syl) (c : Core) : Staged := intBin y c false false (fun w a b => flagBit w (a == b))
def sylCmplt (y : Syl) (c : Core) : Staged := intBin y c false false (fun w a b => flagBit w (a.slt b))
def sylCmpltu (y : Syl) (c : Core) : Staged := intBin y c false false (fun w a b => flagBit w (a.ult b))
def sylMin (y : Syl) (c : Core) : Staged := intBin y c false false (fun _ a b => if a.slt b then a else b)
def sylMax (y : Syl) (c : Core) : Staged := intBin y c false false (fun _ a b => if a.slt b then b else a)
def sylMinu (y : Syl) (c : Core) : Staged := intBin y c false false (fun _ a b => if a.ult b then a else b)
def sylMaxu (y : Syl) (c : Core) : Staged := intBin y c false false (fun _ a b => if a.ult b then b else a)
def sylClz (y : Syl) (c : Core) : Staged := intUn y c (fun w a => BitVec.ofNat w (clzOf w a))
def sylCtz (y : Syl) (c : Core) : Staged := intUn y c (fun w a => BitVec.ofNat w (ctzOf w a))
def sylPopc (y : Syl) (c : Core) : Staged := intUn y c (fun w a => BitVec.ofNat w (popOf w a))
/-- LDI: I = 1, W = 0b00 and A = 0 (R101, R105). -/
def sylLdi (y : Syl) (c : Core) : Staged :=
  { unit := intUnit y, len := sylLen y, stop := y.s, badX := y.x.isSome && !y.q.getLsbD 3, reserved := y.q != 8 || y.a != 0,
    writes := wRef c y.d, act := .wG y.d (immOf y y.b) }
/-- LDHI: immediate[33:0] above a[29:0] (R92, R112). -/
def sylLdhi (y : Syl) (c : Core) : Staged :=
  { unit := intUnit y, len := sylLen y, stop := y.s, badX := y.x.isSome && !y.q.getLsbD 3, reserved := y.q != 8,
    reads := [gRef c y.a], consumes := [gRef c y.a], writes := wRef c y.d,
    act := .wG y.d (((immOf y y.b).setWidth 34 ++ ((readG c y.a).v.setWidth 30 : BitVec 30) : BitVec 64)) }
def sylMul (y : Syl) (c : Core) : Staged := intBin y c true false (fun _ a b => a * b)
def sylMulh (y : Syl) (c : Core) : Staged := intBin y c true false (fun w a b => BitVec.ofInt w (a.toInt * b.toInt / 2 ^ w))
def sylMulhu (y : Syl) (c : Core) : Staged := intBin y c true false (fun w a b => BitVec.ofNat w (a.toNat * b.toNat / 2 ^ w))
def sylDiv (y : Syl) (c : Core) : Staged := intBin y c true true divS
def sylDivu (y : Syl) (c : Core) : Staged := intBin y c true true divU
def sylRem (y : Syl) (c : Core) : Staged := intBin y c true true remS
def sylRemu (y : Syl) (c : Core) : Staged := intBin y c true true remU

end Sys2Proof.Machine
end

