-- ==== Sys2Proof/Machine/MemorySyl.lean ====
section
/-! DEFINITION. The M operations (R102, R106): each syllable's operands and what its word will access. -/
namespace Sys2Proof.Machine

/-- A load into a G register (R118). -/
def ldG (y : Syl) (c : Core) (w : Nat) (sg : Bool) : Staged :=
  mAddr y c .u [] [] (wRef c y.d) false (.load (gDst c y.d) w sg (qSeg y) (mOff y c))
def sylLd8s (y : Syl) (c : Core) : Staged := ldG y c 1 true
def sylLd8u (y : Syl) (c : Core) : Staged := ldG y c 1 false
def sylLd16s (y : Syl) (c : Core) : Staged := ldG y c 2 true
def sylLd16u (y : Syl) (c : Core) : Staged := ldG y c 2 false
def sylLd32s (y : Syl) (c : Core) : Staged := ldG y c 4 true
def sylLd32u (y : Syl) (c : Core) : Staged := ldG y c 4 false
def sylLd64 (y : Syl) (c : Core) : Staged := ldG y c 8 false
/-- LDV: D names V[D[4:0]] and D[5] is zero (R106). -/
def sylLdv (y : Syl) (c : Core) : Staged :=
  mAddr y c .u [] [] [.v (vNum y.d)] (y.d.getLsbD 5) (.load (.v (vNum y.d)) 16 false (qSeg y) (mOff y c))

/-- A store of the low bytes of G[D]; a mark on G[D] is passed on to the stored bytes (R118, R194). -/
def stG (y : Syl) (c : Core) (w : Nat) : Staged :=
  let d := readG c y.d
  mAddr y c .u [gRef c y.d] [] [] false (.store (pbytes w d.v.toNat d.p) (qSeg y) (mOff y c))
def sylSt8 (y : Syl) (c : Core) : Staged := stG y c 1
def sylSt16 (y : Syl) (c : Core) : Staged := stG y c 2
def sylSt32 (y : Syl) (c : Core) : Staged := stG y c 4
def sylSt64 (y : Syl) (c : Core) : Staged := stG y c 8
def sylStv (y : Syl) (c : Core) : Staged :=
  let d := readV c (vNum y.d)
  mAddr y c .u [.v (vNum y.d)] [] [] (y.d.getLsbD 5) (.store (pbytes 16 d.v.toNat d.p) (qSeg y) (mOff y c))

/-- Atomics, LR and SC: I = 0, the offset is G[A] alone, B names the data (R102, R123). -/
def mAtomic (y : Syl) (c : Core) (data : Bool) (act : Act) : Staged :=
  { unit := 2, len := sylLen y, stop := y.s, badX := y.x.isSome, reserved := qI y || (!data && y.b != 0),
    reads := gRef c y.a :: (if data then [gRef c y.b] else []), consumes := gRef c y.a :: (if data then [gRef c y.b] else []),
    writes := wRef c y.d, act := act }
def atomicSyl (y : Syl) (c : Core) (op : AtomicOp) (w : Nat) (sg : Bool) : Staged :=
  mAtomic y c true (.atomic op (gDst c y.d) w sg (readG c y.b).v (qSeg y) (readG c y.a).v)
def sylAswap (y : Syl) (c : Core) : Staged := atomicSyl y c .swap 8 false
def sylAadd (y : Syl) (c : Core) : Staged := atomicSyl y c .add 8 false
def sylAmin (y : Syl) (c : Core) : Staged := atomicSyl y c .min 8 false
def sylAmax (y : Syl) (c : Core) : Staged := atomicSyl y c .max 8 false
def sylAminu (y : Syl) (c : Core) : Staged := atomicSyl y c .minu 8 false
def sylAmaxu (y : Syl) (c : Core) : Staged := atomicSyl y c .maxu 8 false
/-- The 32-bit forms return the old value sign-extended, but for AMINUW and AMAXUW (R123). -/
def sylAswapw (y : Syl) (c : Core) : Staged := atomicSyl y c .swap 4 true
def sylAaddw (y : Syl) (c : Core) : Staged := atomicSyl y c .add 4 true
def sylAminw (y : Syl) (c : Core) : Staged := atomicSyl y c .min 4 true
def sylAmaxw (y : Syl) (c : Core) : Staged := atomicSyl y c .max 4 true
def sylAminuw (y : Syl) (c : Core) : Staged := atomicSyl y c .minu 4 false
def sylAmaxuw (y : Syl) (c : Core) : Staged := atomicSyl y c .maxu 4 false
def sylLr (y : Syl) (c : Core) : Staged := mAtomic y c false (.lr (gDst c y.d) (qSeg y) (readG c y.a).v)
def sylSc (y : Syl) (c : Core) : Staged := mAtomic y c true (.sc (gDst c y.d) (readG c y.b).v (qSeg y) (readG c y.a).v)

/-- FENCE: its bits are D[3:0]; all else is zero (R106, R122). -/
def sylFence (y : Syl) (_ : Core) : Staged :=
  { unit := 2, len := sylLen y, stop := y.s, badX := y.x.isSome,
    reserved := y.d.getLsbD 4 || y.d.getLsbD 5 || y.a != 0 || y.b != 0 || y.q != 0, act := .fence y.d }

/-- A block-repeat operation (R106, R130): element size B[1:0], segments Q.SEG for G5 and A[2:0] for G6; Q[0], B[5:2] and
A[5:3] are zero; an unused region's selector is zero; it stands alone in its word (R95). -/
def blockSyl (y : Syl) (c : Core) (op : BlkOp) (use5 use6 use7 : Bool) : Staged :=
  let r := [gRef c 4] ++ (if use5 then [gRef c 5] else []) ++ (if use6 then [gRef c 6] else []) ++
    (if use7 then [gRef c 7] else [])
  { unit := 2, len := sylLen y, stop := y.s, badX := y.x.isSome, alone := true,
    reserved := qI y || decide (4 ≤ y.b.toNat) || decide (8 ≤ y.a.toNat) || y.d != 0 || (!use5 && qSeg y != 0) || (!use6 && y.a != 0),
    reads := r, consumes := r, writes := [gRef c 4, gRef c 5, gRef c 6, gRef c 7],
    act := .block { op := op, esz := 2 ^ (y.b.toNat % 4), seg5 := qSeg y, seg6 := y.a.setWidth 3 } }
def sylMovb (y : Syl) (c : Core) : Staged := blockSyl y c .movb true true false
def sylSetb (y : Syl) (c : Core) : Staged := blockSyl y c .setb false true true
def sylCmpb (y : Syl) (c : Core) : Staged := blockSyl y c .cmpb true true false
def sylScanb (y : Syl) (c : Core) : Staged := blockSyl y c .scanb true false true

/-- A maintenance operation by address (R106, R135, R137): D is unused. -/
def maintSyl (y : Syl) (c : Core) (lvl : Level) (op : MaintOp) : Staged :=
  mAddr y c lvl [] [] [] (y.d != 0) (.maint op (qSeg y) (mOff y c))
def sylCflush (y : Syl) (c : Core) : Staged := maintSyl y c .u .cflush
def sylCclean (y : Syl) (c : Core) : Staged := maintSyl y c .u .cclean
def sylCinv (y : Syl) (c : Core) : Staged := maintSyl y c .h .cinv
def sylPref (y : Syl) (c : Core) : Staged := maintSyl y c .u .pref
def sylIcinv (y : Syl) (c : Core) : Staged := maintSyl y c .u .icinv
def sylTlbi (y : Syl) (c : Core) : Staged := maintSyl y c .s .tlbi
/-- TLBID: the TDID is G[A][11:0]; no other field is used (R106, R137). -/
def sylTlbid (y : Syl) (c : Core) : Staged :=
  { unit := 2, len := sylLen y, stop := y.s, badX := y.x.isSome, reserved := y.d != 0 || y.b != 0 || y.q != 0, minLevel := .h,
    reads := [gRef c y.a], consumes := [gRef c y.a], act := .tlbid ((readG c y.a).v.setWidth 12) }
def sylTlbia (y : Syl) (_ : Core) : Staged :=
  { unit := 2, len := sylLen y, stop := y.s, badX := y.x.isSome,
    reserved := y.d != 0 || y.a != 0 || y.b != 0 || y.q != 0, minLevel := .h, act := .tlbia }
def sylTlblk (y : Syl) (c : Core) : Staged := maintSyl y c .s .tlblk
def sylTlbulk (y : Syl) (c : Core) : Staged := maintSyl y c .s .tlbulk
/-- LSEG: D[2:0] names the segment register, D[5:3] = 0 (R106, R139). -/
def sylLseg (y : Syl) (c : Core) : Staged :=
  mAddr y c .s [] [] [.sg (y.d.setWidth 3)] (decide (8 ≤ y.d.toNat)) (.lseg (y.d.setWidth 3) (qSeg y) (mOff y c))

end Sys2Proof.Machine
end

