-- ==== Sys2Proof/Machine/VectorSyl.lean ====
section
/-! DEFINITION. The F operations (R103, R107, R140, R141): each syllable's operands and its result. -/
namespace Sys2Proof.Machine

/-- An integer vector operation requires RM = 0b00 (R103). -/
def rmBad (y : Syl) : Bool := fRm y != 0
/-- A floating-point operation requires E ≠ 0b11 (R103). -/
def eBad (y : Syl) : Bool := fE y == 8

def sylVadd (y : Syl) (c : Core) : Staged := fBin y c (rmBad y) (fun _ a b => a + b)
def sylVsub (y : Syl) (c : Core) : Staged := fBin y c (rmBad y) (fun e a b => a + 2 ^ e - b)

/-- An operation on 128 bits with Q = 0 (R107). -/
def fWhole (y : Syl) (c : Core) (f : Word128 → Word128 → Word128) : Staged :=
  fOp y c true true false (y.q != 0) (.wV (vNum y.d) (f (readV c (vNum y.a)).v (readV c (vNum y.b)).v))
def sylVand (y : Syl) (c : Core) : Staged := fWhole y c (fun a b => a &&& b)
def sylVor (y : Syl) (c : Core) : Staged := fWhole y c (fun a b => a ||| b)
def sylVxor (y : Syl) (c : Core) : Staged := fWhole y c (fun a b => a ^^^ b)
/-- The count is the low log2(e) bits of the element of V[B] (R140). -/
def sylVshl (y : Syl) (c : Core) : Staged := fBin y c (rmBad y) (fun e a b => a * 2 ^ (b % e))
def sylVshr (y : Syl) (c : Core) : Staged := fBin y c (rmBad y) (fun e a b => a / 2 ^ (b % e))
def sylVmin (y : Syl) (c : Core) : Staged := fBin y c (rmBad y) (fun e a b => if toSigned e a < toSigned e b then a else b)
def sylVmax (y : Syl) (c : Core) : Staged := fBin y c (rmBad y) (fun e a b => if toSigned e a < toSigned e b then b else a)
def sylVcmpeq (y : Syl) (c : Core) : Staged := fBin y c (rmBad y) (fun e a b => maskE e (a == b))
def sylVcmpgt (y : Syl) (c : Core) : Staged := fBin y c (rmBad y) (fun e a b => maskE e (decide (toSigned e b < toSigned e a)))
def sylFadd (y : Syl) (c : Core) : Staged := fBin y c (eBad y) (fun e a b => fAdd e (fRm y) a b)
def sylFsub (y : Syl) (c : Core) : Staged := fBin y c (eBad y) (fun e a b => fSub e (fRm y) a b)
def sylFmul (y : Syl) (c : Core) : Staged := fBin y c (eBad y) (fun e a b => fMul e (fRm y) a b)
/-- FDIV and FSQRT run on the unpipelined divider; their result is written later (R110, R152). -/
def sylFdiv (y : Syl) (c : Core) : Staged :=
  let a := (readV c (vNum y.a)).v
  let b := (readV c (vNum y.b)).v
  fOp y c true true false (eBad y)
    (.longV (vNum y.d) (vOfElts (fE y) (fun i => fDiv (fE y) (fRm y) (vElt a (fE y) i) (vElt b (fE y) i))))
def sylFsqrt (y : Syl) (c : Core) : Staged :=
  let a := (readV c (vNum y.a)).v
  fOp y c true false false (eBad y || y.b != 0)
    (.longV (vNum y.d) (vOfElts (fE y) (fun i => fSqrt (fE y) (fRm y) (vElt a (fE y) i))))
/-- FMA and FMS also read V[D] (R107). -/
def fmaSyl (y : Syl) (c : Core) (f : Nat → Nat → Nat → Nat → Nat → Nat) : Staged :=
  let a := (readV c (vNum y.a)).v
  let b := (readV c (vNum y.b)).v
  let d := (readV c (vNum y.d)).v
  fOp y c true true true (eBad y)
    (.wV (vNum y.d) (vOfElts (fE y) (fun i => f (fE y) (fRm y) (vElt d (fE y) i) (vElt a (fE y) i) (vElt b (fE y) i))))
def sylFma (y : Syl) (c : Core) : Staged := fmaSyl y c fFma
def sylFms (y : Syl) (c : Core) : Staged := fmaSyl y c fFms
def sylFmin (y : Syl) (c : Core) : Staged := fBin y c (eBad y || rmBad y) (fun e a b => fMinMax false e a b)
def sylFmax (y : Syl) (c : Core) : Staged := fBin y c (eBad y || rmBad y) (fun e a b => fMinMax true e a b)
def sylFcmpeq (y : Syl) (c : Core) : Staged := fBin y c (eBad y || rmBad y) (fun e a b => fCmpEq e a b)
def sylFcmplt (y : Syl) (c : Core) : Staged := fBin y c (eBad y || rmBad y) (fun e a b => fCmpLt e a b)

/-- The operand form D, A with elements converted one by one. -/
def fUn (y : Syl) (c : Core) (reserved : Bool) (f : Nat → Nat → Nat) : Staged :=
  let a := (readV c (vNum y.a)).v
  fOp y c true false false (reserved || y.b != 0) (.wV (vNum y.d) (vOfElts (fE y) (fun i => f (fE y) (vElt a (fE y) i))))
def sylFcvtif (y : Syl) (c : Core) : Staged := fUn y c (eBad y) (fun e a => fFromInt e (fRm y) a)
def sylFcvtfi (y : Syl) (c : Core) : Staged := fUn y c (eBad y) (fun e a => fToInt e (fRm y) a)
def sylVmov (y : Syl) (c : Core) : Staged :=
  fOp y c true false false (y.q != 0 || y.b != 0) (.wV (vNum y.d) (readV c (vNum y.a)).v)

/-- VINSG: A names a G register, B an element index below 128 / e; the other elements of V[D] stay (R107, R140). -/
def sylVinsg (y : Syl) (c : Core) : Staged :=
  let d := (readV c (vNum y.d)).v
  let e := fE y
  { unit := 3, len := sylLen y, stop := y.s, badX := y.x.isSome,
    reserved := rmBad y || y.d.getLsbD 5 || decide (128 / e ≤ y.b.toNat),
    reads := [gRef c y.a, .v (vNum y.d)], consumes := [gRef c y.a, .v (vNum y.d)], writes := [.v (vNum y.d)],
    act := .wV (vNum y.d) (vOfElts e (fun i => if i = y.b.toNat then (readG c y.a).v.toNat else vElt d e i)) }
/-- VEXTG: D names a G register; the element is sign-extended (R140). -/
def sylVextg (y : Syl) (c : Core) : Staged :=
  let e := fE y
  { unit := 3, len := sylLen y, stop := y.s, badX := y.x.isSome,
    reserved := rmBad y || y.a.getLsbD 5 || decide (128 / e ≤ y.b.toNat),
    reads := [.v (vNum y.a)], consumes := [.v (vNum y.a)], writes := wRef c y.d,
    act := .wG y.d (BitVec.ofInt 64 (toSigned e (vElt (readV c (vNum y.a)).v e y.b.toNat))) }
/-- VSPLAT: A names a G register (R107). -/
def sylVsplat (y : Syl) (c : Core) : Staged :=
  { unit := 3, len := sylLen y, stop := y.s, badX := y.x.isSome, reserved := rmBad y || y.d.getLsbD 5 || y.b != 0,
    reads := [gRef c y.a], consumes := [gRef c y.a], writes := [.v (vNum y.d)],
    act := .wV (vNum y.d) (vOfElts (fE y) (fun _ => (readG c y.a).v.toNat)) }
/-- VSHUF: byte i is 0 if bit 7 of byte i of V[B] is set, else byte k of V[A], k its bits [3:0] (R140). -/
def sylVshuf (y : Syl) (c : Core) : Staged :=
  let a := (readV c (vNum y.a)).v
  let b := (readV c (vNum y.b)).v
  fOp y c true true false (y.q != 0)
    (.wV (vNum y.d) (vOfElts 8 (fun i => if 128 ≤ vElt b 8 i then 0 else vElt a 8 (vElt b 8 i % 16))))

end Sys2Proof.Machine
end

