-- ==== Sys2Proof/Machine/BranchSyl.lean ====
section
/-! DEFINITION. The B operations (R104, R108, R142 to R148): each syllable's operands and what its word will do. -/
namespace Sys2Proof.Machine

/-- BR compares G[A] with G[B]; C = 0b111 is reserved (R104). -/
def sylBr (y : Syl) (c : Core) : Staged :=
  let q := y.q.extractLsb' 0 3
  { unit := 4, len := sylLen y, stop := y.s, reserved := q == 7, reads := [gRef c y.a, gRef c y.b],
    consumes := [gRef c y.a, gRef c y.b],
    act := .xfer (if q = 6 then .direct else .cond) (condHolds q (readG c y.a).v (readG c y.b).v) (y.q.getLsbD 3) (relTarget y c) none }
def sylJr (y : Syl) (c : Core) : Staged :=
  bOp y .u [gRef c y.a] [gRef c y.a] [] (y.b != 0 || y.d != 0) (.xfer .indirect true false (readG c y.a).v none)
/-- CALL: A names the link register (R108); it may carry an X syllable (R92). -/
def sylCall (y : Syl) (c : Core) : Staged :=
  { unit := 4, len := sylLen y, stop := y.s, reserved := y.q != 0 || y.b != 0, writes := wRef c y.a,
    act := .xfer .direct true false (relTarget y c) (some y.a) }
def sylCallr (y : Syl) (c : Core) : Staged :=
  bOp y .u [gRef c y.b] [gRef c y.b] (wRef c y.a) (y.d != 0) (.xfer .indirect true false (readG c y.b).v (some y.a))
def sylRet (y : Syl) (c : Core) : Staged :=
  bOp y .u [gRef c y.a] [gRef c y.a] [] (y.b != 0 || y.d != 0) (.xfer .ret true false (readG c y.a).v none)
/-- The code B is 0 to 63, unsigned (R92). -/
def sylSyscall (y : Syl) (_ : Core) : Staged :=
  bOp y .u [] [] [] (y.a != 0 || y.d != 0) (.trapOp 0x30 (y.b.setWidth 64))
def sylHypercall (y : Syl) (_ : Core) : Staged :=
  bOp y .s [] [] [] (y.a != 0 || y.d != 0) (.trapOp 0x31 (y.b.setWidth 64))
def sylBreak (y : Syl) (_ : Core) : Staged :=
  bOp y .u [] [] [] (y.a != 0 || y.d != 0) (.trapOp 0x38 (y.b.setWidth 64))
def sylRfe (y : Syl) (_ : Core) : Staged := bOp y .s [] [] [] (y.a != 0 || y.b != 0 || y.d != 0) .rfe

/-- MFS of a register number; an unlisted one is RESERVED_OP before the level is judged (R87), and its named destination is
written as R94 counts it. -/
def mfsSyl (y : Syl) (c : Core) (num : Nat) : Staged :=
  match sysLevel num with
  | none => bOp y .u [] [] (wRef c y.d) true .nop
  | some l => bOp y l [sysRef num] [] (wRef c y.d) false (.mfs y.d num)
def sylMfs (y : Syl) (c : Core) : Staged := mfsSyl y c (sysNum y)

/-- MTS to a register number: the data is G[D]; its mark is passed on only to SBANK[n] and UBANK[n] (R194). -/
def mtsSyl (y : Syl) (c : Core) (num : Nat) : Staged :=
  match sysLevel num with
  | none => bOp y .u [] [] [] true .nop
  | some l => bOp y l [gRef c y.d] (if (bankNum num).isSome then [] else [gRef c y.d]) [sysRef num] false (.mts num (readG c y.d))
def sylMts (y : Syl) (c : Core) : Staged := mtsSyl y c (sysNum y)
def sylMtsTdid (y : Syl) (c : Core) : Staged := mtsSyl y c 0x090
def sylMtsRein (y : Syl) (c : Core) : Staged := mtsSyl y c 0x0A0
def sylMtsLockheld (y : Syl) (c : Core) : Staged := mtsSyl y c 0x030
/-- TMODE[1], TENTRY[1] or TDESC[1], as the syllable's number says; any other number is TMODE[1] (R201). -/
def sylMtsTmode (y : Syl) (c : Core) : Staged :=
  mtsSyl y c (if sysNum y = 0x015 then 0x015 else if sysNum y = 0x019 then 0x019 else 0x011)
def sylMtsPctl (y : Syl) (c : Core) : Staged := mtsSyl y c 0x060
def sylMtsEvmask (y : Syl) (c : Core) : Staged := mtsSyl y c 0x040
def sylThresh (y : Syl) (c : Core) : Staged := mtsSyl y c 0x050
def sylSThreshold (y : Syl) (c : Core) : Staged := sylThresh y c
def sylSClaim (y : Syl) (c : Core) : Staged := sylThresh y c
def sylSEoi (y : Syl) (c : Core) : Staged := sylThresh y c

def sylWfe (y : Syl) (_ : Core) : Staged := bOp y .u [] [] [] (y.a != 0 || y.b != 0 || y.d != 0) .wfe
def sylSev (y : Syl) (c : Core) : Staged :=
  bOp y .u [gRef c y.a] [gRef c y.a] [] (decide (2 ≤ y.b.toNat) || y.d != 0) (.sev (y.b.getLsbD 0) (readG c y.a).v)
def sylWaitt (y : Syl) (c : Core) : Staged :=
  bOp y .u [gRef c y.a] [gRef c y.a] (wRef c y.d) (y.b != 0) (.waitt y.d (readG c y.a).v)
def sylNap (y : Syl) (_ : Core) : Staged := bOp y .s [] [] [] (y.a != 0 || y.b != 0 || y.d != 0) .nap
def sylRdtime (y : Syl) (c : Core) : Staged := bOp y .u [] [] (wRef c y.d) (y.a != 0 || y.b != 0) (.rdtime y.d)
def sylPflush (y : Syl) (_ : Core) : Staged := bOp y .u [] [] [] (y.a != 0 || y.b != 0 || y.d != 0) .pflush
def sylPbar (y : Syl) (_ : Core) : Staged :=
  bOp y .u [] [] [] (y.a != 0 || decide (2 ≤ y.b.toNat) || y.d != 0) (.pbar (y.b.getLsbD 0))

end Sys2Proof.Machine
end

