-- ==== Sys2Proof/Machine/CourseOps.lean ====
section
/-! DEFINITION. What a course L2 does for its cores (R245 to R252, R257, R258, R264, R273): lookups, fills and victims,
requests to the home, and the writeback buffer. -/
namespace Sys2Proof.Machine

/-- A request to a line's home (R257), tagged as R22 lays down. -/
def mkReq (c : Nat) (k : MsgKind) (l : LineNo) (t : Tdid) (ep : BitVec 8) (n i : Nat) (u : ReqUse) : Msg :=
  { kind := k, src := BitVec.ofNat 7 c, dst := BitVec.ofNat 7 (32 + homeOfLine l), tdid := t, epoch := ep, line := l,
    req := BitVec.ofNat 7 c, core := some (BitVec.ofNat 8 n), idx := i, use := u }

/-- The course has a request open on a line (R250, R268). -/
def reqOpen (x : Course) (l : LineNo) : Bool := x.reqs.any (fun r => r.msg.line == l)

/-- A request is opened and sent (R260). -/
def openReq (s : State) (c : Nat) (m : Msg) : State :=
  let s := modCourse s c (fun x => { x with reqs := x.reqs ++ [{ msg := m }] })
  send s m

/-- A request that ends in a copy of its line at the course (R257). -/
def forCopy (k : MsgKind) : Bool := k == .rdS || k == .rdO || k == .upg

/-- The course's request for a copy of a line is closed. -/
def closeReq (s : State) (c : Nat) (l : LineNo) : State :=
  modCourse s c (fun x => { x with reqs := x.reqs.filter (fun r => !(r.msg.line == l && forCopy r.msg.kind)) })

/-- A request of the course that the home performs is closed. -/
def closeHome (s : State) (c : Nat) (m : Msg) : State :=
  modCourse s c (fun x => { x with reqs := x.reqs.filter (fun r =>
    !(r.msg.line == m.line && !forCopy r.msg.kind && r.msg.core == m.core && r.msg.idx == m.idx)) })

/-- A line is pinned (R250): a request is open on it or a forward of it is held back. -/
def pinned (x : Course) (l : LineNo) : Bool := reqOpen x l || x.heldFwd.any (fun m => m.line == l)

/-- Writebacks, clean victims and eviction notices in flight of a course (R258). -/
def inFlight (s : State) (c : Nat) : Nat :=
  (getCourse s c).wb.length + (s.net.filter (fun m => m.kind == .evn && m.src.toNat == c)).length

/-- An L2 line is evicted (R264): WB for M, VIC for E, EVN for S; L1D copies go first. `t` is the domain whose fill chose the
victim (R286), `key` the account that pays; the messages of a set scrub carry its name, for the victims that they displace at the
home. A clean line whose data is unreadable (R251) is dropped as by a VIC that carries none (log entry 139). -/
def evictFor (s : State) (c : Nat) (e : L2Line) (t : Tdid) (key : Nat) : State :=
  let h : Msg := { kind := .evn, src := BitVec.ofNat 7 c, dst := BitVec.ofNat 7 (32 + homeOfLine e.line), tdid := t, line := e.line,
                   req := BitVec.ofNat 7 c, aclass := e.aclass, origin := if key = ovhKey then .setScrub else .rdS }
  let s := l2Drop s c e.line
  match e.st with
  | .i => s
  | .s => send s h
  | _ =>
    let d := decide (e.st = .m)
    let s := modCourse s c (fun x => { x with wb := x.wb ++ [{ line := e.line, data := e.data, dirty := d }] })
    let s := charge s c key (evCharge s 3 none)
    let s := bankEv s c 5 1 { tdid := some t.toNat, line := some e.line, cls := some 2 }
    send s { h with kind := if d then .wb else .vic, data := if e.ue = 0 then some e.data else none, dirty := d }

/-- An eviction that a fill of domain `t` causes (R264, R286). -/
def evict (s : State) (c : Nat) (e : L2Line) (t : Tdid) : State := evictFor s c e t t.toNat

/-- How many words of a line a set of words names. -/
def badWords (b : BitVec 8) : Nat := ((List.range 8).filter (fun w => b.getLsbD w)).length

/-- An L2 line with its SECDED errors handled (R251): single-bit errors are corrected and counted; uncorrectable ones are counted, and
in a dirty line their words become poisoned and an L2_UE record is made. -/
def l2Sound (s : State) (c : Nat) (e : L2Line) : L2Line × State :=
  let s := if e.ce = 0 then s else modCourse s c (fun x => { x with err := fldSat x.err 32 16 (badWords e.ce) })
  let e := { e with ce := 0 }
  if e.ue = 0 then (e, s) else
  let s := modCourse s c (fun x => { x with err := fldSat x.err 16 16 (badWords e.ue) })
  if e.st = .m then
    ({ e with ue := 0, data := { e.data with poison := e.data.poison ||| e.ue } },
     jrn s c 0x20 0 (bytesOf 8 (e.line.toNat * 64) ++ bytesOf 1 e.ue.toNat))
  else (e, s)

/-- An access of a course L2 finds what the line's check bits show (R251): a clean line with an uncorrectable error is dropped as on
eviction, so that the access is served again from the home; it waits while 16 evictions are in flight (R258). -/
def l2Check (s : State) (c : Nat) (l : LineNo) : State :=
  match l2Find (getCourse s c) l with
  | none => s
  | some (k, e) =>
    if e.ce = 0 && e.ue = 0 then s
    else if e.ue ≠ 0 && e.st ≠ .m && 16 ≤ inFlight s c then s
    else
      let (e, s) := l2Sound s c e
      if e.ue = 0 then setL2 s c k e else evictFor s c e 0 ovhKey

/-- The way of a course L2 that holds a line whose data can be read (R251). -/
def l2Good (s : State) (c : Nat) (l : LineNo) : Option (Nat × L2Line) := (l2Find (getCourse s c) l).filter (fun e => e.2.ue == 0)

/-- A line that a course holds and cannot read until an eviction in flight ends (R251, R258). -/
def l2Stuck (s : State) (c : Nat) (l : LineNo) : Bool := (l2Find (getCourse s c) l).any (fun e => e.2.ue != 0)

/-- A line is in use by a block-repeat chunk of a core of the course (R131, R250). -/
def blkPins (s : State) (c : Nat) (l : LineNo) : Bool :=
  (coresOf s c).any (fun n => match (getCore s n).blk with | some b => b.lines.contains l | none => false)

/-- The ways of an L2 set that a fill of class `k` may take (R250): in the class's mask and not pinned. -/
def l2Ways (s : State) (c : Nat) (l : LineNo) (k : Nat) : List Nat :=
  (List.range 16).filter (fun w =>
    (pmask s k).getLsbD w &&
      (let e := tget (fun _ => {}) (getCourse s c).l2 (16 * l2Set l + w)
       e.st == .i || (!pinned (getCourse s c) e.line && !blkPins s c e.line)))

/-- A line is installed in a course L2 (R250): the lowest invalid way of the class's mask, or else a way that the
pseudo-LRU choice, a FREE VALUE, evicts. Nothing where the fill must wait (no way, or 16 evictions in flight). -/
def l2Install (s : State) (c : Nat) (l : LineNo) (d : LineData) (st : L2St) (t : Tdid) : Option State :=
  match l2Find (getCourse s c) l with
  | some (k, e) => some (setL2 s c k { e with st := st, data := d, ce := 0, ue := 0 })
  | none =>
    let cls := domClass s t.toNat
    let ws := l2Ways s c l cls.toNat
    let e : L2Line := { st := st, line := l, data := d, aclass := cls }
    match ws.find? (fun w => (tget (fun _ => {}) (getCourse s c).l2 (16 * l2Set l + w)).st == .i) with
    | some w => some (setL2 s c (16 * l2Set l + w) e)
    | none =>
      if ws.isEmpty || 16 ≤ inFlight s c then none else
      let (r, s) := free s
      let w := ws.getD (r % ws.length) 0
      let s := l2Check s c (tget (fun _ => {}) (getCourse s c).l2 (16 * l2Set l + w)).line
      let s := evict s c (tget (fun _ => {}) (getCourse s c).l2 (16 * l2Set l + w)) t
      some (setL2 s c (16 * l2Set l + w) e)

/-- A line enters a core's L1D (R245: 256 sets of 4 ways by pa[13:6]); the victim of a full set is a FREE VALUE. -/
def l1dFill (s : State) (n : Nat) (l : LineNo) : State :=
  let c := getCore s n
  if c.l1d.contains l then s else
  let set := c.l1d.filter (fun x => x.toNat % 256 == l.toNat % 256)
  if set.length < 4 then setCore s n { c with l1d := l :: c.l1d }
  else
    let (r, s) := free s
    setCore s n { c with l1d := l :: c.l1d.erase (set.getD (r % 4) l) }

/-- A line with its bytes enters a core's L1I (R245). -/
def l1iFill (s : State) (n : Nat) (l : LineNo) (d : LineData) : State :=
  let c := getCore s n
  let rest := c.l1i.filter (fun e => e.1 != l)
  let set := rest.filter (fun e => e.1.toNat % 256 == l.toNat % 256)
  if set.length < 4 then setCore s n { c with l1i := (l, d) :: rest }
  else
    let (r, s) := free s
    setCore s n { c with l1i := (l, d) :: rest.filter (fun e => e.1 != (set.getD (r % 4) (l, d)).1) }

/-- A parity error of an L1 cache is counted at its course (R251). -/
def l1Par (s : State) (n : Nat) : State := modCourse s (courseOf s n) (fun x => { x with err := fldSat x.err 48 16 1 })

/-- An access of a core's L1D finds what the line's parity bits show (R251): on an error the line is invalidated, so that the access
is served again from the L2. -/
def l1dCheck (s : State) (n : Nat) (l : LineNo) : State :=
  let c := getCore s n
  if c.l1d.contains l && c.l1dBad.contains l then l1Par (setCore s n { c with l1d := c.l1d.erase l, l1dBad := c.l1dBad.erase l }) n else s

/-- The same for the L1I. -/
def l1iCheck (s : State) (n : Nat) (l : LineNo) : State :=
  let c := getCore s n
  if c.l1i.any (fun e => e.1 == l) && c.l1iBad.contains l then
    l1Par (setCore s n { c with l1i := c.l1i.filter (fun e => e.1 != l), ulines := c.ulines.filter (fun e => e.1 != l),
                                l1iBad := c.l1iBad.erase l }) n
  else s

/-- A store is performed at the course L2 on a writable line (R121, R247): the line becomes M, every other core's L1D copy
goes, and the reservations of other cores and of the storing core on the line are cleared (R127). -/
def l2Store (s : State) (c n : Nat) (k : Nat) (e : L2Line) (off : Nat) (bs : List PByte) : State :=
  let s := dropL1d s c e.line (fun m => m == n)
  let s := clearResv s e.line (fun _ => true)
  setL2 s c k { e with st := .m, data := lineWrite e.data off bs }

/-- The new value of an atomic (R123). -/
def atomicNew (op : AtomicOp) (w : Nat) (old data : Word64) : Word64 :=
  let bits := 8 * w
  let o := old.toNat % 2 ^ bits
  let d := data.toNat % 2 ^ bits
  BitVec.ofNat 64 (match op with
    | .swap => d
    | .add => (o + d) % 2 ^ bits
    | .min => if toSigned bits o < toSigned bits d then o else d
    | .max => if toSigned bits o < toSigned bits d then d else o
    | .minu => Nat.min o d
    | .maxu => Nat.max o d)

/-- What a request costs at its course's dry domain (R296): new L2 misses are held for DRAM bytes and microjoules, but not
those of a core at H (R287) or in grace (R300). -/
def missHeld (s : State) (c n : Nat) (t : Tdid) (atH : Bool) : Bool :=
  !atH && !(getCore s n).ingrace && (isDry s c t.toNat 1 || isDry s c t.toNat 3)

/-- The same for a core access to a PCIe window (R296). -/
def portHeld (s : State) (c n : Nat) (t : Tdid) (atH : Bool) : Bool :=
  !atH && !(getCore s n).ingrace && (isDry s c t.toNat 2 || isDry s c t.toNat 3)

/-- A read of a line for a core through its course L2 (R260): the line's data if the L2 holds it, or if a DATA_NF left it for
this core (R273); otherwise RD_S is sent unless one is open or the domain is held. -/
def l2Read (s : State) (n : Nat) (l : LineNo) (i : Nat) (u : ReqUse) (t : Tdid) (ep : BitVec 8) (atH : Bool) :
    Option LineData × State :=
  let c := courseOf s n
  let s := l2Check s c l
  match l2Good s c l with
  | some (_, e) =>
    let s := charge s c t.toNat (evCharge s 2 (some c))
    (some e.data, bankEv s c 1 1 { tdid := some t.toNat, line := some l })
  | none =>
    match (getCore s n).nf.find? (fun e => e.1 == l && i == (getCore s n).gen) with
    | some e => (some e.2, s)
    | none =>
      if reqOpen (getCourse s c) l || l2Stuck s c l || missHeld s c n t atH then (none, s)
      else
        let s := bankEv s c 2 1 { tdid := some t.toNat, line := some l }
        (none, openReq s c { mkReq c .rdS l t ep n i u with aclass := domClass s t.toNat })

end Sys2Proof.Machine
end

