-- ==== Sys2Proof/Machine/Translate.lean ====
section
/-! DEFINITION. Segments, TLBs and the checks of an access (R24, R67, R115 to R117, R222 to R240). -/
namespace Sys2Proof.Machine

/-! ### Segments (R115, R222) -/

def sgBase (d : Word128) : Nat := fld d 0 48
def sgLimit (d : Word128) : Nat := fld d 64 64
def sgPresent (d : Word128) : Bool := d.getLsbD 63
def sgMin (d : Word128) : Nat := fld d 51 2

/-- The rights that a kind needs of a segment (R115). -/
def sgRights (d : Word128) (k : Kind) : Bool :=
  match k with
  | .read => d.getLsbD 48
  | .write | .sc => d.getLsbD 49
  | .atomic => d.getLsbD 48 && d.getLsbD 49
  | .fetch => d.getLsbD 50
  | .none => true

/-- seg_check of R115: the linear address, or the cause. A maintenance operation of kind none needs no rights (R137). -/
def segCheck (d : Word128) (off n : Nat) (k : Kind) (l : Level) : Except Nat Nat :=
  if !sgPresent d then .error 0x0A
  else if k ≠ .none && decide (lvlNum l < sgMin d) then .error 0x09
  else if !sgRights d k then .error 0x09
  else if sgLimit d < off + n - 1 then .error 0x08
  else if 2 ^ 48 ≤ sgBase d + off + n - 1 then .error 0x08
  else .ok (sgBase d + off)

/-! ### Table entries (R231 to R234) -/

/-- An entry of level `lvl` is malformed or has V = 0 (R233). -/
def pteBad (p : Word64) (lvl : Nat) : Bool :=
  let leaf := p.getLsbD 1 || p.getLsbD 2 || p.getLsbD 3
  !p.getLsbD 0 || fld p 52 12 != 0 ||
    (if leaf then
      lvl == 4 || (p.getLsbD 2 && !p.getLsbD 1) || decide (3 ≤ fld p 5 3) ||
        (lvl == 2 && fld p 12 9 != 0) || (lvl == 3 && fld p 12 18 != 0)
     else lvl == 1 || p.getLsbD 4 || fld p 5 3 != 0)

/-- An entry is a leaf (R232). -/
def pteLeaf (p : Word64) : Bool := p.getLsbD 1 || p.getLsbD 2 || p.getLsbD 3

/-- A leaf grants a kind of access at a level (R234). -/
def rightsOk (p : Word64) (k : Kind) (l : Level) : Bool :=
  (match k with
   | .read | .none => p.getLsbD 1
   | .write => p.getLsbD 2
   | .atomic | .sc => p.getLsbD 1 && p.getLsbD 2
   | .fetch => p.getLsbD 3 && (if l = .u then p.getLsbD 4 else !p.getLsbD 4)) &&
  (l ≠ .u || p.getLsbD 4)

/-- The memory type of a leaf (R232). -/
def pteMt (p : Word64) : MemType := match fld p 5 3 with | 0 => .cached | 1 => .uncached | _ => .device

/-- The bits of a page of a level (R231). -/
def pageBits (lvl : Nat) : Nat := 12 + 9 * (lvl - 1)

/-- phys of R236. -/
def physOfPte (p : Word64) (lvl lin : Nat) : Nat :=
  let b := pageBits lvl
  (fld p 12 40 * 4096) / 2 ^ b * 2 ^ b + lin % 2 ^ b

/-! ### Regimes and TLBs (R228, R238) -/

/-- Regime, TDID tag and ASN of an access at a level (R228). -/
structure Regime where
  guest : Bool
  tag   : Tdid
  asn   : BitVec 8
  deriving DecidableEq, Repr

def regimeOf (c : Core) (l : Level) : Regime :=
  if l = .h then ⟨false, 0, 0⟩ else ⟨true, c.dom, c.ptbase.extractLsb' 52 8⟩

/-- A TLB entry matches an access (R228, R238). -/
def tlbHit (r : Regime) (lin : Nat) (e : TlbEnt) : Bool :=
  e.guest == r.guest && e.tag == r.tag && e.asn == r.asn && e.vpn == lin / 2 ^ pageBits e.lvl

/-- HPTB[n] (R228). -/
def hptb (s : State) (n : Nat) : Word64 := tget (fun _ => 0) s.hptb n

/-- The core uses the direct map for an access at level `l` (R229). -/
def directMap (s : State) (n : Nat) (l : Level) : Bool := l == .h && !(hptb s n).getLsbD 63

/-- An L1 TLB with an entry added: 64 entries, the pseudo-LRU victim a FREE VALUE (R238). -/
def tlbAdd (f : Nat) (t : List TlbEnt) (e : TlbEnt) : List TlbEnt :=
  let t := t.filter (fun x => !(x.guest == e.guest && x.tag == e.tag && x.asn == e.asn && x.lvl == e.lvl && x.vpn == e.vpn))
  if t.length < 64 then e :: t else e :: t.eraseIdx (f % 64)

/-- The L2 TLB set of an entry (R238). -/
def l2tlbSet (e : TlbEnt) : Nat := e.vpn % 256

/-- The L2 TLB with an entry added at the front of its set: 12 ways, LRU among the unlocked (R238). -/
def l2tlbAdd (t : List TlbEnt) (e : TlbEnt) : List TlbEnt :=
  let t := t.filter (fun x => !(x.guest == e.guest && x.tag == e.tag && x.asn == e.asn && x.lvl == e.lvl && x.vpn == e.vpn))
  let mine := t.filter (fun x => l2tlbSet x == l2tlbSet e)
  if mine.length < 12 then e :: t
  else match (mine.filter (fun x => !x.lock)).getLast? with
    | some v => e :: t.erase v
    | none => e :: t

/-- A leaf installed in an L1 TLB of core `n`. -/
def l1tlbInstall (s : State) (n : Nat) (fetch : Bool) (e : TlbEnt) : State :=
  let (r, s) := free s
  let e := { e with lock := false }
  modCore s n (fun c => if fetch then { c with itlb := tlbAdd r c.itlb e } else { c with dtlb := tlbAdd r c.dtlb e })

/-- What translation gives (R236): an address with its memory type, a cause, or a walk to make. -/
inductive Xlat where
  | ok (pa : Nat) (mt : MemType)
  | fault (code : Nat)
  | miss
  deriving DecidableEq, Repr

/-- The entries that `p` selects dropped from a core's TLBs (R236). -/
def tlbForget (c : Core) (p : TlbEnt → Bool) : Core :=
  { c with itlb := c.itlb.filter (fun x => !p x), dtlb := c.dtlb.filter (fun x => !p x), l2tlb := c.l2tlb.filter (fun x => !p x) }

/-- With no entry to use, an access walks, or faults where guest translation is off (R236). -/
def walkOr (r : Regime) (c : Core) : Xlat := if r.guest && !c.ptbase.getLsbD 63 then .fault 0x10 else .miss

/-- Translation up to the walk (R236): the direct map, the L1 TLB, the L2 TLB; an entry whose rights fail is dropped from
this core's TLBs and the access walks (R238). -/
def xlate (s : State) (n : Nat) (k : Kind) (l : Level) (lin : Nat) : Xlat × State :=
  if directMap s n l then
    (if lin < 0xF00000000000 then .ok lin .cached else .ok (portBase + lin % 2 ^ 44) .device, s)
  else
    let c := getCore s n
    let r := regimeOf c l
    let fetch := k == .fetch
    let l1 := if fetch then c.itlb else c.dtlb
    match l1.find? (tlbHit r lin), c.l2tlb.find? (tlbHit r lin) with
    | some e, _ =>
      if rightsOk e.pte k l then
        (.ok (physOfPte e.pte e.lvl lin) (pteMt e.pte),
          setCore s n (if fetch then { c with itlb := e :: c.itlb.erase e } else { c with dtlb := e :: c.dtlb.erase e }))
      else
        (walkOr r c, setCore s n (tlbForget c (tlbHit r lin)))
    | none, some e =>
      let s := if fetch then s else coreEv s n 0x0D 1
      let c := getCore s n
      if rightsOk e.pte k l then
        let s := setCore s n { c with l2tlb := e :: c.l2tlb.erase e }
        (.ok (physOfPte e.pte e.lvl lin) (pteMt e.pte), l1tlbInstall s n fetch e)
      else
        (walkOr r c, setCore s n (tlbForget c (tlbHit r lin)))
    | none, none =>
      let s := if fetch then s else coreEv s n 0x0D 1
      (walkOr r c, s)

/-- The walk cache's deepest pointer for an access, or the root (R236, R238). -/
def walkStart (s : State) (n : Nat) (r : Regime) (lin : Nat) : Nat × BitVec 40 × Bool :=
  let c := getCore s n
  let hit := fun lv => c.wcache.find? (fun e => e.guest == r.guest && e.tag == r.tag && e.asn == r.asn && e.lvl == lv &&
    e.vpn == lin / 2 ^ pageBits lv)
  match hit 2, hit 3, hit 4 with
  | some e, _, _ => (1, e.ppn, true)
  | none, some e, _ => (2, e.ppn, true)
  | none, none, some e => (3, e.ppn, true)
  | none, none, none => (4, ((if r.guest then c.ptbase else hptb s n)).extractLsb' 12 40, false)

/-- A walk begins (R235, R236), unless one is in progress. -/
def startWalk (s : State) (n : Nat) (why : WalkFor) (k : Kind) (l : Level) (lin : Nat) : State :=
  let c := getCore s n
  if c.walk.isSome then s else
  let r := regimeOf c l
  let (lv, tb, hit) := walkStart s n r lin
  let s := coreEv s n 0x0E 1
  let s := if hit then coreEv s n 0x0F 1 else s
  modCore s n (fun c => { c with walk := some { why := why, kind := k, lin := BitVec.ofNat 48 lin, guest := r.guest, tag := r.tag,
                                                asn := r.asn, lvl := lv, table := tb, at_ := l } })

/-! ### The checks of an access (R116, R117) -/

/-- What the checks of an access give. -/
inductive Chk where
  | ok (lin : Nat) (parts : List Part)
  | fault (code : Nat) (addr : Nat)
  | miss (lin : Nat)
  deriving DecidableEq, Repr

/-- Rows 3 to 6 of R116 for a part that lies in one line: translation, window (R67), address map (R24, R28), and an atomic to
a PCIe window. `atomic` marks the operations of R123. -/
def checkPart (s : State) (n : Nat) (k : Kind) (l : Level) (atomic : Bool) (lin len : Nat) : Chk × State :=
  let c := getCore s n
  match xlate s n k l lin with
  | (.fault code, s) => (.fault code lin, s)
  | (.miss, s) => (.miss lin, s)
  | (.ok pa mt, s) =>
    let t := if l = .h then 0 else c.dom.toNat
    if !windowOk s (courseOf s n) t pa k then (.fault 0x12 lin, s)
    else
      let p : Part := { pa := BitVec.ofNat 52 pa, len := len, mt := mt }
      match region s pa with
      | .none => (.fault 0x12 lin, s)
      | .dram => (.ok lin [p], s)
      | .port _ => if atomic then (.fault 0x19 lin, s) else (.ok lin [{ p with mt := .device }], s)
      | .ctl => if l = .h then (.ok lin [{ p with mt := .device }], s) else (.fault 0x12 lin, s)

/-- All of R116 for an access of `w` bytes through a segment, split at a line boundary under R117: the lower half is reported
when both fail, and TADDR names the failing half. -/
def checkLin (s : State) (n : Nat) (k : Kind) (l : Level) (atomic : Bool) (lin w : Nat) : Chk × State :=
  if lin % 64 + w ≤ 64 then checkPart s n k l atomic lin w
  else
    let a := 64 - lin % 64
    match checkPart s n k l atomic lin a with
    | (.ok _ p, s) =>
      (match checkPart s n k l atomic (lin + a) (w - a) with
       | (.ok _ q, s) => (.ok lin (p ++ q), s)
       | (.fault code x, s) => (.fault code x, s)
       | (.miss x, s) => (.miss x, s))
    | (.fault code x, s) => (.fault code x, s)
    | (.miss x, s) => (.miss x, s)

/-- The checks of an M access in the order of R116. -/
def checkAcc (s : State) (n : Nat) (seg : BitVec 3) (off : Word64) (w : Nat) (k : Kind) (aligned atomic : Bool) : Chk × State :=
  let c := getCore s n
  match segCheck (readSg c seg) off.toNat w k c.level with
  | .error code => (.fault code off.toNat, s)
  | .ok lin =>
    if aligned && lin % w != 0 then (.fault 0x18 lin, s)
    else checkLin s n k c.level atomic lin w

end Sys2Proof.Machine
end

