-- ==== Sys2Proof/Machine/AccessOps.lean ====
section
/-! DEFINITION. Outstanding accesses, the store buffer and the course L2 as a core uses it (R119 to R129, R155 to R158, R247,
R260 to R266, R273). -/
namespace Sys2Proof.Machine

/-- The parts of an access are all read. -/
def accDone (a : OutAcc) : Bool := a.parts.all (fun p => p.data.isSome)

/-- An access has an unread part of device type (R119). -/
def accDevice (a : OutAcc) : Bool := a.parts.any (fun p => p.mt == .device && p.data.isNone)

/-- Two byte ranges overlap. -/
def overlap (a n b m : Nat) : Bool := decide (a < b + m) && decide (b < a + n)

/-- A request that the home performs for a core (R257, R265, R266). -/
def homeReq (s : State) (n : Nat) (k : MsgKind) (a : OutAcc) (pa : PAddr) (u : ReqUse) : Msg :=
  { mkReq (courseOf s n) k (lineOfPa pa) a.tdid a.epoch n a.idx u with aclass := domClass s a.tdid.toNat }

/-- An access to a root port's window (R387). -/
def portReq (s : State) (n : Nat) (k : OutKind) (a : OutAcc) (pa : PAddr) (len : Nat) (d : List Byte) (ep : Bool) : OutReq :=
  { kind := k, n := BitVec.ofNat 8 n, idx := a.idx, pa := pa, len := BitVec.ofNat 7 len, data := d, ep := ep, tdid := a.tdid, epoch := a.epoch,
    src := BitVec.ofNat 7 (courseOf s n) }

/-- A request to a root port is stamped by its sender and put on the mortar (R22, R54, R55). -/
def sendOut (s : State) (port : Nat) (r : OutReq) : State :=
  let (st, s) := shortStamp s r.src.toNat
  { s with outNet := s.outNet ++ [(BitVec.ofNat 3 port, { r with short := st })] }

/-- A part has the same bytes as a part that an older access of the core has still to read (R120). -/
def olderSame (c : Core) (i : Nat) (p : Part) : Bool :=
  (c.accs.takeWhile (fun a => a.idx != i)).any (fun a => a.parts.any (fun q => q.data.isNone && overlap p.pa.toNat p.len q.pa.toNat q.len))

/-- A core's reservation set (R126): any earlier one is replaced. -/
def setResv (s : State) (n : Nat) (pa : PAddr) (lin : BitVec 48) (w : ResvAt) : State :=
  let s := dropResv s n
  modCore s n (fun c => { c with resv := some { pa := pa, lin := lin, at_ := w, until_ := coreTime s n + 64 } })

/-- A cached part is served by the course L2 (R123, R126, R260, R262): a load or LR reads; an atomic or SC needs the line
writable. -/
def fillCached (s : State) (n : Nat) (a : OutAcc) (p : Part) : Option Bool × Part × State :=
  let c := courseOf s n
  let l := lineOfPa p.pa
  let off := p.pa.toNat % 64
  let s := l2Check (l1dCheck s n l) c l
  if l2Stuck s c l then (none, p, s) else
  match a.kind with
  | .load =>
    let hit := (getCore s n).l1d.contains l
    (match l2Read s n l a.idx .load a.tdid a.epoch a.atH with
     | (some d, s) =>
       let s := if hit then s else coreEv s n 0x09 1 (some l)
       let s := if (l2Find (getCourse s c) l).isSome then l1dFill s n l else s
       (none, { p with data := some (lineRead d off p.len) }, s)
     | (none, s) => (none, p, s))
  | .lr =>
    (match l2Find (getCourse s c) l with
     | some (_, e) => (none, { p with data := some (lineRead e.data off p.len) }, setResv s n p.pa a.lin .l2)
     | none =>
       if reqOpen (getCourse s c) l || missHeld s c n a.tdid a.atH then (none, p, s)
       else (none, p, openReq s c (homeReq s n .rdS a p.pa .lr)))
  | .atomic op =>
    (match l2Find (getCourse s c) l with
     | some (k, e) =>
       if e.st = .s then
         (if reqOpen (getCourse s c) l || missHeld s c n a.tdid a.atH then (none, p, s)
          else (none, p, openReq s c (homeReq s n .upg a p.pa .atomic)))
       else
         let old := lineRead e.data off p.len
         let new := pbytes p.len (atomicNew op p.len (BitVec.ofNat 64 (pnat old)) a.opnd).toNat false
         (none, { p with data := some old }, if pany old then s else l2Store s c n k e off new)
     | none =>
       if reqOpen (getCourse s c) l || missHeld s c n a.tdid a.atH then (none, p, s)
       else (none, p, openReq s c (homeReq s n .rdO a p.pa .atomic)))
  | .sc =>
    let c0 := getCore s n
    let ok := match c0.resv with
      | some r => r.at_ == .l2 && r.lin == a.lin && lineOfPa r.pa == l
      | none => false
    if !ok then (some false, { p with data := some [] }, dropResv s n)
    else match l2Find (getCourse s c) l with
      | none => (some false, { p with data := some [] }, dropResv s n)
      | some (k, e) =>
        if e.st = .s then
          (if reqOpen (getCourse s c) l || missHeld s c n a.tdid a.atH then (none, p, s)
           else (none, p, openReq s c (homeReq s n .upg a p.pa .sc)))
        else (some true, { p with data := some [] }, l2Store (dropResv s n) c n k e off (pbytes 8 a.opnd.toNat false))

/-- A part of an uncached or device page in DRAM is sent to the home (R119, R124, R266). -/
def fillHome (s : State) (n : Nat) (a : OutAcc) (p : Part) : Option Bool × Part × State :=
  let c := courseOf s n
  if p.sent || missHeld s c n a.tdid a.atH then (none, p, s) else
  match a.kind with
  | .load => (none, { p with sent := true }, send s (homeReq s n .hrd a p.pa .load))
  | .lr => (none, { p with sent := true }, send s (homeReq s n .hlr a p.pa .lr))
  | .atomic op =>
    (none, { p with sent := true }, send s { homeReq s n .hat a p.pa .atomic with
      atomic := some { op := op, wid := p.len, off := BitVec.ofNat 6 (p.pa.toNat % 64), opnd := a.opnd } })
  | .sc =>
    let ok := match (getCore s n).resv with
      | some r => r.at_ == .home && r.lin == a.lin && lineOfPa r.pa == lineOfPa p.pa
      | none => false
    if !ok then (some false, { p with data := some [] }, dropResv s n)
    else
      let (d, m) := lineOf (p.pa.toNat % 64) (pbytes 8 a.opnd.toNat false)
      (none, { p with sent := true }, send s { homeReq s n .hsc a p.pa .sc with data := some d, mask := m })

/-- A part in a PCIe window is sent to the root port (R25, R129, R387). -/
def fillPort (s : State) (n port : Nat) (a : OutAcc) (p : Part) : Option Bool × Part × State :=
  let c := courseOf s n
  if p.sent || portHeld s c n a.tdid a.atH then (none, p, s) else
  let go := fun (r : OutReq) => (none, { p with sent := true }, sendOut s port r)
  match a.kind with
  | .lr => go (portReq s n .lr a p.pa p.len [] false)
  | .sc =>
    let ok := match (getCore s n).resv with
      | some r => r.at_ == .port && r.lin == a.lin && lineOfPa r.pa == lineOfPa p.pa
      | none => false
    if !ok then (some false, { p with data := some [] }, dropResv s n)
    else go (portReq s n .sc a p.pa 8 (bytesOf 8 a.opnd.toNat) false)
  | _ => go (portReq s n .load a p.pa p.len [] false)

/-- An SC of a line whose LR was performed at the home (HLR, R273): it goes there too, whatever the page's type. -/
def scAtHome (s : State) (n : Nat) (a : OutAcc) (p : Part) : Bool :=
  a.kind == .sc && (match (getCore s n).resv with | some r => r.at_ == .home && lineOfPa r.pa == lineOfPa p.pa | none => false)

/-- One part of an access goes on as far as it can, once no older access has its bytes still to read (R120). A control register is
read when its load returns. -/
def fillPart (s : State) (n : Nat) (a : OutAcc) (p : Part) : Option Bool × Part × State :=
  if p.data.isSome || a.wait ≠ 0 || olderSame (getCore s n) a.idx p then (none, p, s) else
  match region s p.pa.toNat with
  | .port k => fillPort s n k a p
  | .dram => if p.mt = .cached && !scAtHome s n a p && !p.sent then fillCached s n a p else fillHome s n a p
  | _ => (none, p, s)

/-- The parts of an access, one after the other. -/
def fillParts (n : Nat) (a : OutAcc) : List Part → State → Option Bool × List Part × State
  | [], s => (none, [], s)
  | p :: r, s =>
    let (o, p, s) := fillPart s n a p
    let (o', r, s) := fillParts n a r s
    ((match o with | some b => some b | none => o'), p :: r, s)

/-- An access of the core replaced in its list, if it is still there. -/
def putAcc (s : State) (n : Nat) (a : OutAcc) : State :=
  modCore s n (fun c => { c with accs := c.accs.map (fun x => if x.idx = a.idx then a else x) })

/-- Every outstanding access of a core goes on as far as it can, oldest first; a device part waits for older device
accesses (R119). -/
def kickList (n : Nat) : List Nat → Bool → State → State
  | [], _, s => s
  | i :: r, dev, s =>
    match (getCore s n).accs.find? (fun a => a.idx == i) with
    | none => kickList n r dev s
    | some a =>
      if dev && accDevice a then kickList n r true s
      else
        let (o, ps, s) := fillParts n a a.parts s
        let a := { a with parts := ps, scOk := (match o with | some b => some b | none => a.scOk) }
        kickList n r (dev || accDevice a) (putAcc s n a)

/-- The core's accesses go on (R152). -/
def kick (s : State) (n : Nat) : State := kickList n ((getCore s n).accs.map (·.idx)) false s

/-- The accesses of every core of a course go on. -/
def kickCourse (s : State) (c : Nat) : State := (coresOf s c).foldl kick s

/-! ### The store buffer (R155, R156) -/

/-- The oldest store has been performed and leaves the store buffer; the loads that waited for it count it (R157). -/
def popStore (s : State) (n : Nat) : State :=
  let less := fun (c : Core) => c.ackWait.map (fun e => (e.1, e.2.1, e.2.2.1 - 1, e.2.2.2))
  kick (modCore s n (fun c =>
    { c with sb := c.sb.tail, accs := c.accs.map (fun a => { a with wait := a.wait - 1 }), ackWait := less c })) n

/-- The oldest store is marked as sent. -/
def markSent (s : State) (n : Nat) : State :=
  modCore s n (fun c => { c with sb := match c.sb with | [] => [] | e :: r => { e with sent := true } :: r })

/-- An older load of the same bytes has not read yet (R120), or an older device access is outstanding (R119). -/
def storeBlocked (c : Core) (e : SbEntry) (device : Bool) : Bool :=
  c.accs.any (fun a => a.wait == 0 && !accDone a &&
    ((device && accDevice a) ||
      a.parts.any (fun p => p.data.isNone && overlap p.pa.toNat p.len e.pa.toNat e.bytes.length)))

/-- A masked write for a store (R265). -/
def storeHwr (s : State) (n : Nat) (e : SbEntry) : Msg :=
  let (d, m) := lineOf (e.pa.toNat % 64) e.bytes
  { mkReq (courseOf s n) .hwr (lineOfPa e.pa) e.tdid e.epoch n 0 .store with data := some d, mask := m, aclass := domClass s e.tdid.toNat }

/-- The oldest committed store is performed, or what it needs is requested (R121, R156, R262). -/
def drainHead (s : State) (n : Nat) : State :=
  let c := getCore s n
  match c.sb with
  | [] => s
  | e :: _ =>
    if e.sent then s else
    match region s e.pa.toNat with
    | .port p =>
      if storeBlocked c e true then s else
      let s := match c.resv with
        | some r => if r.at_ == .port && lineOfPa r.pa == lineOfPa e.pa then dropResv s n else s
        | none => s
      markSent (sendOut s p
        { kind := .store, n := BitVec.ofNat 8 n, pa := e.pa, len := BitVec.ofNat 7 e.bytes.length, data := e.bytes.map (·.b),
          ep := pany e.bytes, tdid := e.tdid, epoch := e.epoch, src := BitVec.ofNat 7 (courseOf s n) }) n
    | .ctl =>
      if e.cont then popStore s n else
      if storeBlocked c e true then s else
      let a := courseOf s n
      let st := stampOf s a
      let w : CtlStore := { n := BitVec.ofNat 8 n, off := BitVec.ofNat 40 (e.pa.toNat - ctlBase),
                            width := if e.whole = 0 then e.bytes.length else e.whole,
                            val := BitVec.ofNat 64 (pnat e.bytes), tdid := e.tdid, epoch := e.epoch, stamp := st }
      markSent { stamped s a with ctlNet := s.ctlNet ++ [w] } n
    | _ =>
      if storeBlocked c e (e.mt == .device) then s
      else if e.mt ≠ .cached then
        let s := match c.resv with
          | some r => if r.at_ == .home && lineOfPa r.pa == lineOfPa e.pa then dropResv s n else s
          | none => s
        markSent (send s (storeHwr s n e)) n
      else
        let k := courseOf s n
        let l := lineOfPa e.pa
        let a : OutAcc := { idx := 0, kind := .load, dst := .none, parts := [], width := 0, tdid := e.tdid, epoch := e.epoch }
        let s := l2Check s k l
        if l2Stuck s k l then s else
        match l2Find (getCourse s k) l with
        | some (w, x) =>
          if x.st = .s then
            (if reqOpen (getCourse s k) l then s else openReq s k (homeReq s n .upg a e.pa .store))
          else
            let s := charge s k e.tdid.toNat (evCharge s 2 (some k))
            let s := bankEv s k 1 1 { tdid := some e.tdid.toNat, line := some l }
            popStore (l2Store s k n w x (e.pa.toNat % 64) e.bytes) n
        | none =>
          if reqOpen (getCourse s k) l then s
          else openReq (bankEv s k 2 1 { tdid := some e.tdid.toNat, line := some l }) k (homeReq s n .rdO a e.pa .store)

/-- Committed stores drain as far as they are performed at once: at most the 24 of the buffer (R156). -/
def drainAll : Nat → State → Nat → State
  | 0, s, _ => s
  | k + 1, s, n =>
    let m := (getCore s n).sb.length
    let s := drainHead s n
    if (getCore s n).sb.length < m then drainAll k s n else s

/-! ### Writing a result (R152, R193) -/

/-- The value that an access returns, with its mark (R118, R123, R193). -/
def accValue (a : OutAcc) : Nat × Bool :=
  let bs := a.parts.flatMap (fun p => p.data.getD [])
  let v := pnat bs
  (match a.kind with
   | .sc => (b2n (a.scOk != some true), false)
   | _ => (if a.signed then ofInt 64 (toSigned (8 * a.width) v) else v, pany bs))

/-- A result written to its destination with its mark (R94, R193). -/
def writeDst (c : Core) (d : Dst) (v : Nat) (p : Bool) : Core :=
  match d with
  | .none => c
  | .g r b => writeGb c r b { v := BitVec.ofNat 64 v, p := p }
  | .v r => writeV c r { v := BitVec.ofNat 128 v, p := p }
  | .sg r => writeSg c r (BitVec.ofNat 128 v)

/-- A load forwards from the youngest overlapping older store, waits for it, or reads (R157). -/
inductive Fwd where
  | data (b : List PByte) | wait (k : Nat) | read
  deriving DecidableEq, Repr

/-- The comparison of a normal load with the store buffer (R157): a byte range wholly inside the youngest overlapping entry, and that
entry normal cached, is forwarded. -/
def forward (sb : List SbEntry) (pa len : Nat) : Fwd :=
  let hits := (List.range sb.length).filter (fun i => match sb[i]? with
    | some e => overlap pa len e.pa.toNat e.bytes.length
    | none => false)
  match hits.getLast? with
  | none => .read
  | some i =>
    match sb[i]? with
    | none => .read
    | some e =>
      if e.mt = .cached && e.pa.toNat ≤ pa && pa + len ≤ e.pa.toNat + e.bytes.length
      then .data ((e.bytes.drop (pa - e.pa.toNat)).take len)
      else .wait (i + 1)

/-! ### Reads of micro-routines and of fetch (R208, R210, R227, R235) -/

/-- An access to the control region of bad width or kind is dropped (R29): CTL_ERR is set and the journal engine makes a
CTL_ACCESS record, whose four bytes hold the low 32 bits of the offset (R319; log entry 137). -/
def ctlAccess (s : State) (n w off : Nat) : State :=
  jrn (ctlErr s) agJrn 0x13 0 (bytesOf 1 n ++ bytesOf 1 w ++ bytesOf 4 off)

/-- A load of the control region (R29): 4 or 8 bytes, naturally aligned; anything else is dropped and returns zero. What AGENT_DOWN
gives in place of a register is a FREE VALUE (R21; log entry 142). -/
def ctlLoad (s : State) (n off w : Nat) : Nat × State :=
  if ctlWidthOk off w then
    (if ctlDown s off then ((free s).1 % 2 ^ (8 * w), (free s).2) else ctlRead s n off w)
  else (0, ctlAccess s n w off)

/-- A read of a micro-routine waits: for older stores of its bytes, and for every older store and device access where it is of device
type (R119, R157). -/
def microWaits (x : Core) (u : ReqUse) (p : Part) : Bool :=
  u != .fetch && (x.sb.any (fun e => overlap p.pa.toNat p.len e.pa.toNat e.bytes.length) ||
    (p.mt == .device && (!x.sb.isEmpty || x.accs.any accDevice)) || (u == .load && olderSame x 0 p))

/-- One part of a read that a micro-routine, a walk or a fetch makes: it waits for what R119 and R157 put before it; the line comes
through the course L2, from the home for uncached pages, or from a root port. -/
def microPart (s : State) (n : Nat) (u : ReqUse) (t : Tdid) (ep : BitVec 8) (atH : Bool) (p : Part) : Option (List PByte) × State :=
  let c := courseOf s n
  let l := lineOfPa p.pa
  let off := p.pa.toNat % 64
  let x := getCore s n
  if microWaits x u p then (none, s) else
  match region s p.pa.toNat with
  | .ctl => let (v, s) := ctlLoad s n (p.pa.toNat - ctlBase) p.len; (some (pbytes p.len v false), s)
  | .none => (none, s)
  | .port k =>
    (match x.nf.find? (fun e => e.1 == l) with
     | some e => (some (lineRead e.2 off p.len), s)
     | none =>
       if s.outNet.any (fun e => e.2.n.toNat == n && e.2.idx == x.gen && e.2.kind == .load) ||
          (getRp s k).outst.any (fun e => e.1.n.toNat == n && e.1.idx == x.gen && e.1.kind == .load) || !x.sb.isEmpty then (none, s)
       else
         let a : OutAcc := { idx := x.gen, kind := .load, dst := .none, parts := [], width := 0, tdid := t, epoch := ep, atH := atH }
         (none, sendOut s k (portReq s n .load a p.pa p.len [] false)))
  | .dram =>
    if p.mt = .cached then
      (match l2Read s n l x.gen u t ep atH with
       | (some d, s) => (some (lineRead d off p.len), s)
       | (none, s) => (none, s))
    else match x.nf.find? (fun e => e.1 == l) with
      | some e => (some (lineRead e.2 off p.len), s)
      | none =>
        if reqOpen (getCourse s c) l || missHeld s c n t atH then (none, s)
        else (none, openReq s c { mkReq c .hrd l t ep n x.gen u with aclass := domClass s t.toNat })

/-- The parts of a read, one after the other. -/
def microParts (n : Nat) (u : ReqUse) (t : Tdid) (ep : BitVec 8) (atH : Bool) : List Part → State → Option (List PByte) × State
  | [], s => (some [], s)
  | p :: r, s =>
    match microPart s n u t ep atH p with
    | (none, s) => (none, s)
    | (some b, s) =>
      match microParts n u t ep atH r s with
      | (none, s) => (none, s)
      | (some q, s) => (some (b ++ q), s)

/-- A read of a micro-routine, a walk or a fetch: all of it, or nothing yet; data that came for it alone is used up. -/
def microRead (n : Nat) (u : ReqUse) (t : Tdid) (ep : BitVec 8) (atH : Bool) (ps : List Part) (s : State) :
    Option (List PByte) × State :=
  match microParts n u t ep atH ps s with
  | (none, s) => (none, s)
  | (some b, s) => (some b, modCore s n (fun c => { c with nf := c.nf.filter (fun e => !(ps.any (fun p => lineOfPa p.pa == e.1))) }))

/-- What the core's micro-routines and walks asked for is discarded: answers on their way are no longer theirs. -/
def dropMicro (c : Core) : Core := { c with nf := [], gen := c.nextIdx, nextIdx := c.nextIdx + 1 }

end Sys2Proof.Machine
end

