-- ==== Sys2Proof/Machine/Predictor.lean ====
section
/-! DEFINITION. Branch prediction (R162 to R171) and the tokens of issue (R37, R154, R160, R285, R302). -/
namespace Sys2Proof.Machine

/-! ### Tokens -/

/-- Tokens come from the pace generator's bank: PL in force is 1 and the generator's EFF is not 0 (R38, R40). -/
def paced (c : Core) : Bool := c.plNow && c.effGen != 0

/-- Tokens come from the limiter: EFF is not 0 and PL in force is 0 (R38). -/
def limited (c : Core) : Bool := !c.plNow && c.eff != 0

/-- The limiter's spacing of tokens in ps: one token in 250 / EFF ns, rounded up to a whole ps (R38; log entry 129). -/
def limGap (eff : BitVec 10) : Nat := (250000 + eff.toNat - 1) / eff.toNat

/-- The core holds a token, or may take one, at plumb time `now` of its course's stop (R37, R38, R41, R287, R294, R295, R300): from
its bank when pace-locked, from the limiter when reined only; at U or S also from its lease or grace. -/
def tokenReady (c : Core) (now : Nat) : Bool :=
  (!paced c || decide (0 < c.bank)) && (!limited c || decide (c.limAt < (now + 1) * 1000)) &&
    (c.level == .h || (if c.ingrace then decide (0 < c.graceLeft) else decide (0 < c.lease) && c.stall == 0))

/-- The core's counts after one token (R37, R38, R153, R293, R300): one handoff passes, so every pending result comes one nearer. -/
def spend (c : Core) (now : Nat) : Core :=
  let c := { c with used := c.used + 1, pend := (c.pend.map (fun e => (e.1, e.2 - 1))).filter (fun e => e.2 != 0) }
  let c := if paced c then { c with bank := c.bank - 1 } else c
  let c := if limited c then { c with limAt := Nat.max c.limAt (now * 1000) + limGap c.eff } else c
  if c.level = .h then c
  else if c.ingrace then { c with graceLeft := c.graceLeft - 1 }
  else { c with lease := c.lease - 1 }

/-- A change of PL takes effect at the next word issue (R40; log entry 129): the issuing word still uses the old source, and from
here the generator advances, with acc and bank as they stood. -/
def plIssue (c : Core) (now : Nat) : Core :=
  if c.plNow = c.pl then c else { c with plNow := c.pl, effGen := c.eff, paceAt := now }

/-- One token consumed, with a word of `k` syllables issued, or with none (R37, R154, R285, R287, R300, R302, R480): a token consumed
at H is charged to domain 0's balance, as one of a grace is to its domain's. -/
def useToken (s : State) (n : Nat) (k : Option Nat) : State :=
  let c := getCore s n
  let a := courseOf s n
  let t := (tagOf c).toNat
  let now := coreTime s n
  let s := setCore s n (let x := spend c now; if k.isSome then plIssue x now else x)
  let s := countLed s a t (fun x => { x with tokens := x.tokens + 1 })
  let s := charge s a t (evCharge s (if k.isSome then 0 else 1) (some a))
  let s := if c.level = .h then addUse s a t 0 1 else if c.ingrace then coreEv (addUse s a t 0 1) n 0x17 1 else s
  let s := coreEv s n 0x01 1
  match k with
  | some m => coreEv (coreEv s n 0x02 1) n 0x03 m
  | none => coreEv s n 0x04 1

/-- Owed issue opportunities are lost, as far as tokens are there (R154, R160, R203). -/
def payOwed : Nat → State → Nat → State
  | 0, s, _ => s
  | k + 1, s, n =>
    let c := getCore s n
    if c.owe = 0 || !tokenReady c (coreTime s n) then s
    else payOwed k (modCore (useToken s n none) n (fun c => { c with owe := c.owe - 1 })) n

/-! ### Prediction -/

/-- The first `len` outcomes of the history, newest first, folded by XOR into `w` bits (R163; log entry 13). -/
def foldHist (w : Nat) (h : List Bool) (len : Nat) : Nat :=
  (List.range len).foldl (fun a i => if h.getD i false then a ^^^ 2 ^ (i % w) else a) 0

/-- The history lengths of T1 to T5 (R163). -/
def histLen : Nat → Nat
  | 1 => 6 | 2 => 14 | 3 => 32 | 4 => 72 | 5 => 160 | _ => 0

/-- The key of T[k]'s entry for an address (R163). -/
def tagIdx (h : List Bool) (lin k : Nat) : Nat := 1024 * k + ((lin / 4 % 1024) ^^^ foldHist 10 h (histLen k))
/-- The tag of T[k] for an address, plus 1; 0 stands for an empty entry (R163). -/
def tagTag (h : List Bool) (lin k : Nat) : Nat := ((lin / 4 % 2048) ^^^ foldHist 11 h (histLen k)) + 1

/-- T[k]'s entry for an address. -/
def tagEnt (p : Pred) (lin k : Nat) : TagEnt := tget (fun _ => {}) p.tagd (tagIdx p.hist lin k)
def setTagEnt (p : Pred) (lin k : Nat) (e : TagEnt) : Pred := { p with tagd := tset (fun _ => {}) p.tagd (tagIdx p.hist lin k) e }

/-- The longest table below or at `k` whose entry's tag matches, 0 for the base table (R163). -/
def provider (p : Pred) (lin : Nat) : Nat → Nat
  | 0 => 0
  | k + 1 => if (tagEnt p lin (k + 1)).tag = tagTag p.hist lin (k + 1) then k + 1 else provider p lin k

/-- What table `k` predicts, 0 being the base table (R163). -/
def predOf (p : Pred) (lin k : Nat) : Bool :=
  if k = 0 then decide (2 ≤ tget (fun _ => 0) p.base (lin / 4 % 8192)) else decide (4 ≤ (tagEnt p lin k).ctr)

/-- A counter moved toward an outcome, saturating at `m` (R163). -/
def toward (m x : Nat) (up : Bool) : Nat := if up then Nat.min m (x + 1) else x - 1

/-- train of R163 for a committed conditional BR; with TAG_OFF the base table alone (PCTL). -/
def trainDir (p : Pred) (lin : Nat) (taken tagOff : Bool) : Pred :=
  let k := if tagOff then 0 else provider p lin 5
  let pr := predOf p lin k
  let alt := predOf p lin (provider p lin (k - 1))
  let p1 :=
    if k = 0 then { p with base := tset (fun _ => 0) p.base (lin / 4 % 8192) (toward 3 (tget (fun _ => 0) p.base (lin / 4 % 8192)) taken) }
    else
      let e := tagEnt p lin k
      let u := if pr ≠ alt then toward 3 e.useful (pr == taken) else e.useful
      setTagEnt p lin k { e with ctr := toward 7 e.ctr taken, useful := u }
  if tagOff || pr == taken || k = 5 then p1
  else
    let above := (List.range 6).filter (fun j => decide (k < j))
    match above.find? (fun j => (tagEnt p1 lin j).useful = 0) with
    | some j => setTagEnt p1 lin j { tag := tagTag p1.hist lin j, ctr := if taken then 4 else 3, useful := 0 }
    | none => above.foldl (fun q j => let e := tagEnt q lin j; setTagEnt q lin j { e with useful := e.useful - 1 }) p1

/-- The target buffer's way for an address (R162). -/
def btbFind (p : Pred) (lin : Nat) : Option (Nat × BtbEnt) :=
  p.btb.find? (fun e => e.1 / 4 == lin / 4 % 1024 && e.2.tag == lin / 4096)

/-- A way of the target buffer becomes the youngest of its set (R162; log entry 13). -/
def btbPut (p : Pred) (key : Nat) (e : BtbEnt) : Pred :=
  let old := match p.btb.find? (fun x => x.1 == key) with | some x => x.2.age | none => 3
  let t := p.btb.map (fun x => if x.1 / 4 = key / 4 ∧ x.1 ≠ key ∧ x.2.age ≤ old then (x.1, { x.2 with age := Nat.min 3 (x.2.age + 1) }) else x)
  { p with btb := tins key { e with age := 0 } (tdel key t) }

/-- An entry for a taken transfer that the target buffer misses (R162): an empty way, or the oldest. -/
def btbAlloc (p : Pred) (lin target : Nat) (k : XferKind) : Pred :=
  let set := lin / 4 % 1024
  let e : BtbEnt := { tag := lin / 4096, target := target, kind := k }
  match (List.range 4).find? (fun w => !(p.btb.any (fun x => x.1 == 4 * set + w))) with
  | some w => btbPut p (4 * set + w) e
  | none =>
    let ws := p.btb.filter (fun x => x.1 / 4 == set)
    let v := ws.foldl (fun a x => if a.2.age < x.2.age then x else a) (ws.headD (4 * set, e))
    btbPut p v.1 e

/-- A committed transfer's word (R104, R142): kind, outcome, hint, linear addresses of the word, its target and its successor,
and the offset of the successor. -/
structure Xfer where
  kind   : XferKind
  taken  : Bool
  hint   : Bool
  isCall : Bool
  lin    : Nat
  target : Nat
  next   : Nat
  link   : Word64
  deriving DecidableEq, Repr

/-- The linear address that normal mode predicts after a word (R162 to R164). -/
def predictNext (p : Pred) (rasOff tagOff : Bool) (sgBase : Nat) (x : Xfer) : Nat :=
  match btbFind p x.lin with
  | none => x.next
  | some (_, e) =>
    match e.kind with
    | .cond => if predOf p x.lin (if tagOff then 0 else provider p x.lin 5) then e.target else x.next
    | .ret => (match rasOff, p.ras with
        | false, a :: _ => sgBase + a.toNat / 4 * 4
        | _, _ => e.target)
    | _ => e.target

/-- The direction that normal mode predicts for a transfer that the target buffer holds (R162, R163). -/
def predictTaken (p : Pred) (tagOff : Bool) (x : Xfer) (e : BtbEnt) : Bool :=
  match e.kind with
  | .cond => predOf p x.lin (if tagOff then 0 else provider p x.lin 5)
  | _ => true

/-- Normal mode has predicted a transfer wrongly: its direction, its target, or a taken transfer that the target buffer does not
hold (R160). -/
def mispredicted (p : Pred) (rasOff tagOff : Bool) (sgBase : Nat) (x : Xfer) : Bool :=
  match btbFind p x.lin with
  | none => x.taken
  | some (_, e) =>
    predictTaken p tagOff x e != x.taken || (x.taken && decide (predictNext p rasOff tagOff sgBase x ≠ x.target))

/-- The issue opportunities that a transfer loses (R160), and whether it was predicted wrongly in normal mode. -/
def lostFor (p : Pred) (isPlain rasOff tagOff : Bool) (sgBase : Nat) (x : Xfer) : Nat × Bool :=
  if isPlain then
    match x.kind with
    | .cond => (if x.hint then (if x.taken then 1 else 6) else (if x.taken then 6 else 0), false)
    | .direct => (1, false)
    | _ => (6, false)
  else if mispredicted p rasOff tagOff sgBase x then (6, true) else (0, false)

/-- The return stack after a transfer that normal mode has predicted (R164): a CALL or CALLR that the target buffer holds pushes, a
RET that it holds pops; a mispredict restores the pointer to its value at the transfer, before its own push or pop (log entry
132). -/
def rasAfter (p : Pred) (wrong : Bool) (x : Xfer) : List Word64 :=
  match btbFind p x.lin with
  | none => p.ras
  | some (_, e) =>
    if wrong then p.ras
    else if x.isCall then (x.link :: p.ras).take 32
    else if e.kind = .ret then p.ras.drop 1 else p.ras

/-- Prediction state after a committed transfer (R162 to R165); `wrong` tells that normal mode predicted it wrongly. -/
def afterXfer (p : Pred) (isPlain rasOff tagOff wrong : Bool) (x : Xfer) : Pred :=
  let ras := if isPlain || rasOff then p.ras else rasAfter p wrong x
  let p := if x.kind = .cond then trainDir p x.lin x.taken tagOff else p
  let p := match btbFind p x.lin with
    | some (k, e) => btbPut p k (if x.kind = .indirect then { e with target := x.target } else e)
    | none => if x.taken then btbAlloc p x.lin x.target x.kind else p
  if isPlain then p
  else { p with hist := if x.kind = .cond then (x.taken :: p.hist).take 160 else p.hist, ras := ras }

end Sys2Proof.Machine
end

