-- ==== Sys2Proof/Machine/SysRegs.lean ====
section
/-! DEFINITION. System registers (R86, R87, R143): what MFS reads and what MTS writes, and the rebinding of a core (R62 to R64). -/
namespace Sys2Proof.Machine

/-- The trap registers that numbers 0x001 to 0x004 reach at a level (R86). -/
def bankOf (c : Core) (l : Level) : TrapBank := if l = .h then c.trapH else c.trapS
def setBank (c : Core) (l : Level) (b : TrapBank) : Core := if l = .h then { c with trapH := b } else { c with trapS := b }

/-- One of CAUSE, TRAPPC, TRAPST and TADDR by its place 1 to 4 (R86). -/
def trapReg (b : TrapBank) (k : Nat) : Word64 :=
  match k with
  | 1 => b.cause | 2 => b.trapPc | 3 => b.trapSt | _ => b.tAddr

/-- The same written: reserved bits keep reading as zero (R10, R180). -/
def setTrapReg (b : TrapBank) (k : Nat) (v : Word64) : TrapBank :=
  match k with
  | 1 => { b with cause := v &&& 0x8000000000001FFF }
  | 2 => { b with trapPc := v }
  | 3 => { b with trapSt := v &&& 0xFFFF }
  | _ => { b with tAddr := v }

/-- Counter `i` is owned by H and the core is not at H (R480). -/
def pmOwned (c : Core) (i : Nat) : Bool := c.level != .h && (pmGet c 24).getLsbD (40 + i)

/-- A core counter register read by its number less 0x100 (R479, R480); 0x1C to 0x1F read as zero. -/
def pmRead (c : Core) (k : Nat) : Word64 :=
  if k < 24 then (if pmOwned c (k % 8) then 0 else pmGet c k)
  else if k < 28 then pmGet c k else 0

/-- The same written (R8, R479, R480). -/
def pmWrite (c : Core) (k : Nat) (v : Word64) : Core :=
  if k < 8 then (if pmOwned c k then c else pmSet c k (v &&& 0xFFFFFFFFFFFF))
  else if k < 16 then c
  else if k < 24 then (if pmOwned c (k - 16) then c else pmSet c k (v &&& 0xFE000000000000FF))
  else if k = 24 then
    let old := pmGet c 24
    let ovf := old &&& ~~~v &&& 0xFF00000000000000
    let rw : Word64 := 0x0000FF0000001FFF
    pmSet c 24 (ovf ||| (if c.level = .h then v &&& rw else old &&& rw))
  else if k = 25 then pmSet c 25 (v &&& 0xFFF)
  else if k < 28 then pmSet c k (v &&& 0xFFFFFFFFFFFC0)
  else c

/-- What an MFS of a listed number reads, with its mark (R86, R143, R194). -/
def sysRead (s : State) (n num : Nat) : Reg :=
  let c := getCore s n
  match bankNum num with
  | some (r, b) => readGb c r b
  | none =>
    { v := if num = 0 then statusWord c
        else if num ≤ 4 then trapReg (bankOf c c.level) num
        else if num ≤ 0xC then trapReg c.trapS (num - 8)
        else if num = 0x11 then tmode1Word c
        else if num = 0x13 then BitVec.ofNat 64 (b2n c.mode3)
        else if num = 0x15 then c.tentry1
        else if num = 0x17 then c.tentry3
        else if num = 0x19 then c.tdesc1
        else if num = 0x1B then c.tdesc3
        else if num = 0x1C then c.troute
        else if num = 0x20 then c.ptbase
        else if num = 0x30 then lockheldWord c
        else if num = 0x40 then c.evmask
        else if num = 0x50 then threshRead s n .s
        else if num = 0x60 then pctlWord c
        else if num = 0x90 then tdidWord c
        else if num = 0x91 then epochWord c
        else if num = 0xA0 then reinWord c
        else if 0x100 ≤ num && num < 0x120 then pmRead c (num - 0x100)
        else 0 }

/-- The class F entry buffer is emptied and a fill begins (R201). -/
def startFillF (c : Core) : Core := { c with fready := false, ffill := true, fbuf := none }

/-- The bits of TROUTE that route a code of R180; the others are reserved. -/
def trouteMask : Word64 := 0x81030003031F073E
/-- The bits of TROUTE that read as 1. -/
def trouteFixed : Word64 := 0x8002000000040020

/-- The grace of a core ends (R301). -/
def endGrace (c : Core) : Core := { c with ingrace := false, graceLeft := 0 }

/-- An MTS of a listed number other than TDID (R8 to R10, R143). -/
def sysWrite (s : State) (n num : Nat) (x : Reg) : State :=
  let v := x.v
  match bankNum num with
  | some (r, b) => modCore s n (fun c => writeGb c r b x)
  | none =>
    if num = 0 then modCore s n (fun c => { c with ie := v.getLsbD 2 })
    else if num ≤ 4 then modCore s n (fun c => setBank c c.level (setTrapReg (bankOf c c.level) num v))
    else if num ≤ 0xC then modCore s n (fun c => { c with trapS := setTrapReg c.trapS (num - 8) v })
    else if num = 0x11 then modCore s n (fun c => startFillF { c with mode1 := v.getLsbD 0 })
    else if num = 0x13 then modCore s n (fun c => { c with mode3 := v.getLsbD 0 })
    else if num = 0x15 then modCore s n (fun c => startFillF { c with tentry1 := v &&& ~~~3 })
    else if num = 0x17 then modCore s n (fun c => { c with tentry3 := v &&& ~~~3 })
    else if num = 0x19 then modCore s n (fun c => startFillF { c with tdesc1 := v &&& 0xFFFFFFFFE000 })
    else if num = 0x1B then modCore s n (fun c => { c with tdesc3 := v &&& 0xFFFFFFFFE000 })
    else if num = 0x1C then modCore s n (fun c => { c with troute := (v &&& trouteMask) ||| trouteFixed })
    else if num = 0x20 then modCore s n (fun c => { c with ptbase := v &&& 0x8FFFFFFFFFFFF000 })
    else if num = 0x30 then
      modCore s n (fun c => let c := { c with held := v.extractLsb' 0 16 }; if v.extractLsb' 0 16 = (0 : BitVec 16) then endGrace c else c)
    else if num = 0x40 then modHub (modCore s n (fun c => { c with evmask := v })) n (fun h => { h with evmask := v })
    else if num = 0x50 then threshWrite s n .s v
    else if num = 0x60 then modCore s n (fun c => { c with pctl := (c.pctl &&& 0xF0) ||| (v.extractLsb' 0 8 &&& 0x0F) })
    else if num = 0xA0 then reinWrite s n v
    else if 0x100 ≤ num && num < 0x120 then modCore s n (fun c => pmWrite c (num - 0x100) v)
    else s

/-- The core's last rebinding lies less than 8 µs back (R76). -/
def bindTooSoon (s : State) (n : Nat) : Bool :=
  match (getCore s n).lastBind with
  | some t => decide (coreTime s n < t + 8000)
  | none => false

/-- What every MTS to TDID does, whichever domain it names (R127, R144, R169, R201): the reservation and the event flag go, the
prediction state is flushed, and the class F entry buffer is emptied, a fill in progress with it (log entry 133). -/
def rebindClear (s : State) (n : Nat) : State :=
  modCore (dropResv s n) n (fun c => { c with pred := {}, evflag := false, fready := false, ffill := false, fbuf := none })

/-- An MTS to TDID (R62 to R64, R75, R295): the core takes its new binding, reports it to the hub, draws a lease of the new domain,
and holds issue until the hub acknowledges. -/
def rebind (s : State) (n : Nat) (v : Word64) : State :=
  let t : Tdid := v.extractLsb' 0 12
  let s := rebindClear s n
  if !domValid s t.toNat then
    jrn (ctlErr s) (courseOf s n) 0x12 t (bytesOf 1 n ++ bytesOf 2 t.toNat)
  else
    let st := stampOf s (courseOf s n)
    let s := stamped s (courseOf s n)
    let c := getCore s n
    let left := c.lease + c.granted.getD 0
    let s := if left = 0 then s else { s with returns := s.returns ++ [(BitVec.ofNat 8 n, c.dom, left, BitVec.ofNat 24 st)] }
    setCore s n (endGrace { c with
      dom := t, vcore := if t = 0 then BitVec.ofNat 8 n else v.extractLsb' 16 8, epoch := c.epoch + 1,
      acct := domAcct s t.toNat, lastBind := some (coreTime s n), bindStamp := st, lease := 0, granted := none, drawing := t != 0,
      drawShort := BitVec.ofNat 24 st, drawOff := false, stall := if isDry s (corePoint n) t.toNat 3 then 8 else 0, busy := .bind })

end Sys2Proof.Machine
end

