-- ==== Sys2Proof/Machine/TrapOps.lean ====
section
/-! DEFINITION. Taking a trap and returning from one (R180 to R207): the choice of level, the descriptor and the frame, entry,
entry faults, double traps, and the judgement of interrupt deliveries. -/
namespace Sys2Proof.Machine

/-! ### The choice of level (R182) -/

/-- target() of R182 for an exception: the level and REDIR, or a double trap. -/
def trapTarget (c : Core) (code : BitVec 8) : Option (Level × Bool) :=
  let h := c.level == .h || c.troute.getLsbD code.toNat
  let redir := !h && c.sbusy
  if (h || redir) && c.hbusy then none
  else if h || redir then some (.h, redir) else some (.s, false)

/-- The level that a delivery targets (R196). -/
def offerLevel (o : Offer) : Level := if o.tdid = 0 then .h else .s

/-! ### Segment images (R187, R222) -/

/-- The flat code segment of an entry (R187). -/
def flatSg (l : Level) : Word128 :=
  ((0x0000FFFFFFFFFFFF : BitVec 64) ++ BitVec.ofNat 16 (8 * lvlNum l + 0x8005) ++ (0 : BitVec 48) : BitVec 128)
/-- The stack segment of an entry (R187). -/
def stackSg (base limit : Nat) (l : Level) : Word128 :=
  (BitVec.ofNat 64 limit ++ BitVec.ofNat 16 (8 * lvlNum l + 0x8003) ++ BitVec.ofNat 48 base : BitVec 128)
/-- A descriptor image that fails the check of R223: a reserved bit, or MINLVL = 0b10. -/
def sgBad (d : Word128) : Bool := fld d 53 10 != 0 || sgMin d == 2

/-! ### Double traps (R192) -/

/-- An answer of a core to the hub (R348). -/
def answer (s : State) (n : Nat) (id : SrcId) (a : Answer) : State :=
  let (st, s) := shortStamp s (courseOf s n)
  { s with answers := s.answers ++ [(BitVec.ofNat 8 n, id, a, st)] }

/-- The core holds no delivery any longer and refuses the one it held (R192). -/
def refuseOffer (s : State) (n : Nat) : State :=
  match (getCore s n).offer with
  | some o => coreEv (answer (modCore s n (fun c => { c with offer := none })) n o.id .refuse) n 0x13 1
  | none => s

/-- The core stops (R192, R221): no further word issues and deliveries are refused. -/
def stopCore (s : State) (n : Nat) (t : Trap) : State :=
  refuseOffer (modCore s n (fun c => { c with dead := some t.code, trap := some t, entry := none, word := [], walk := none,
                                              blk := none, busy := .none, fresh := none, owe := 0, atX2 := false, uaddr := none,
                                              fcode := none })) n

/-- A double trap (R192): the core stops and its course makes a DOUBLE_TRAP record. -/
def doubleTrap (s : State) (n : Nat) (t : Trap) : State :=
  let c := getCore s n
  let p := bytesOf 1 n ++ bytesOf 2 c.dom.toNat ++ bytesOf 1 t.code.toNat ++ bytesOf 8 t.pc.toNat ++ bytesOf 8 t.addr.toNat ++
    bytesOf 8 c.trapH.cause.toNat ++ bytesOf 8 c.trapH.trapPc.toNat ++ bytesOf 8 c.trapH.tAddr.toNat
  stopCore (jrn s (courseOf s n) 0x18 c.dom p) n t

/-! ### Entry (R183 to R190) -/

/-- An exception reaches CM (R188): its entry begins, or it is a double trap. -/
def beginEntry (s : State) (n : Nat) (t : Trap) : State :=
  let c := getCore s n
  let w := match c.walk with | some w => if w.why = .pref || w.why = .fill then some w else none | none => none
  let s := setCore s n { dropMicro c with trap := none, word := [], ulines := [], owe := 0, fresh := none, walk := w,
                                          atX2 := false, uaddr := none, fcode := none }
  let s := coreEv s n 0x11 1
  let s := if t.code = 0x20 then coreEv s n 0x1B 1 else s
  match trapTarget c t.code with
  | none => doubleTrap s n t
  | some (l, r) => modCore s n (fun c => { c with entry := some { kind := .exception, trap := t, lvl := l, redir := r } })

/-- The logical core stays stopped and the Keystone reports it as halted (R192, R439, R440). -/
def coreHalted (s : State) (n cause : Nat) : State :=
  let s := modCore s n (fun c => { c with run := .halted })
  let s := jrn s agKs 0x73 0 (bytesOf 1 n ++ bytesOf 2 ((physOf s n).getD 0xFFFF) ++ bytesOf 1 (cause % 256))
  syncFault (alert s 8)

/-- A fault of an entry (R190, R192): an interrupt is handed back; the entry fault goes to H, or is a double trap. -/
def entryFault (s : State) (n code addr : Nat) : State :=
  let c := getCore s n
  match c.entry with
  | none => s
  | some e =>
    let t : Trap := { code := BitVec.ofNat 8 code, addr := BitVec.ofNat 64 addr, pc := e.trap.pc }
    let s := match e.offer with | some o => answer s n o.id .handback | none => s
    let s := modCore s n (fun c => { c with entry := none, walk := none })
    if e.trap.code = 0x3F then coreHalted s n e.trap.addr.toNat
    else if e.lvl = .h || c.hbusy then doubleTrap s n t
    else
      let e' : Entry := { kind := .exception, trap := t, lvl := .h, entryf := true,
                          orig := if e.offer.isSome then 0xFF else e.trap.code }
      modCore (coreEv s n 0x11 1) n (fun c => { c with entry := some e' })

/-- What a read that may have to wait gives. -/
inductive Got (α : Type) where
  | wait | fault (code addr : Nat) | ok (a : α)
  deriving DecidableEq, Repr

/-- A read of `w` bytes at a linear address that a micro-routine makes at a level (R184, R190, R205, R208): checks, walk, data;
uncorrectable data is POISON_CONSUMED at its first byte. -/
def routineRead (s : State) (n : Nat) (why : WalkFor) (l : Level) (lin w : Nat) : Got (List PByte) × State :=
  match checkLin s n .read l false lin w with
  | (.fault c a, s) => (.fault c a, s)
  | (.miss a, s) => (.wait, startWalk s n why .read l a)
  | (.ok _ ps, s) =>
    let c := getCore s n
    let atH := l == .h
    match microRead n .load (if atH then 0 else c.dom) (if atH then 0 else c.epoch) atH ps s with
    | (none, s) => (.wait, s)
    | (some b, s) => if pany b then (.fault 0x20 lin, s) else (.ok b, s)

/-- A trap descriptor after its checks (R185, R186): HANDLER, and with SEG = 1 STACK_BASE and STACK_LIMIT. -/
def descCheck (b : List PByte) (l : Level) : Option (Word64 × Option (Nat × Nat)) :=
  let f := fun i => pnat ((b.drop (8 * i)).take 8)
  let seg := f 1 / 2 % 2 == 1
  let top := f 2 + f 3 + 1
  if f 1 % 2 = 0 || 16 ≤ f 1 || f 0 % 4 ≠ 0 || f 1 / 4 % 4 ≠ lvlNum l then none
  else if !seg then some (BitVec.ofNat 64 (f 0), none)
  else if 2 ^ 48 ≤ f 2 || 2 ^ 48 ≤ f 0 || top % 32 ≠ 0 || top < 32 || 2 ^ 48 < top then none
  else some (BitVec.ofNat 64 (f 0), some (f 2, f 3))

/-- The frame address of an entry (R187, R188): its checks as a write at the level. -/
def framePart (s : State) (n : Nat) (why : WalkFor) (l : Level) (base limit : Nat) : Got Part × State :=
  let off := (2 ^ 64 - 31 + limit) % 2 ^ 64
  match segCheck (stackSg base limit l) off 32 .write l with
  | .error c => (.fault c off, s)
  | .ok lin =>
    match checkLin s n .write l false lin 32 with
    | (.fault c a, s) => (.fault c a, s)
    | (.miss a, s) => (.wait, startWalk s n why .write l a)
    | (.ok _ ps, s) => (match ps with | p :: _ => .ok p | [] => .wait, s)

/-- The index of a trap's descriptor (R184). -/
def descIndex (t : Trap) (o : Option Offer) : Nat :=
  match o with
  | some o => if o.clsF then 0x40 else 0x80 + o.prio.toNat / 2
  | none => t.code.toNat

/-- Step 2 of R188 in mode 1: the descriptor is read and checked, and with SEG = 1 the frame's address. -/
def descStep (s : State) (n : Nat) (why : WalkFor) (l : Level) (i : Nat) :
    Got (Word64 × Option (Nat × Nat × Part)) × State :=
  let c := getCore s n
  let lin := (if l = .h then c.tdesc3 else c.tdesc1).toNat + 32 * i
  match routineRead s n why l lin 32 with
  | (.wait, s) => (.wait, s)
  | (.fault c a, s) => (.fault c a, s)
  | (.ok b, s) =>
    match descCheck b l with
    | none => (.fault 0x05 lin, s)
    | some (h, none) => (.ok (h, none), s)
    | some (h, some (base, limit)) =>
      match framePart s n why l base limit with
      | (.ok p, s) => (.ok (h, some (base, limit, p)), s)
      | (.wait, s) => (.wait, s)
      | (.fault c a, s) => (.fault c a, s)

/-- The stores of an entry frame (R187): SG0 and SG7 as they were, in two entries. -/
def frameStores (c : Core) (l : Level) (p : Part) : List SbEntry :=
  let t := if l = .h then (0 : Tdid) else c.dom
  let ep := if l = .h then (0 : BitVec 8) else c.epoch
  [{ pa := p.pa, bytes := pbytes 16 (readSg c 0).toNat false, mt := p.mt, tdid := t, epoch := ep },
   { pa := p.pa + 16, bytes := pbytes 16 (readSg c 7).toNat false, mt := p.mt, tdid := t, epoch := ep }]

/-- Entry commits (steps 3 to 6 of R188, R83, R127, R169): the target bank's trap registers, the busy bit, the level, IE, the
segments, and the handler's offset. -/
def entryCommit (s : State) (n : Nat) (e : Entry) (handler : Word64) (seg : Option (Nat × Nat × Part)) : State :=
  let s := dropResv s n
  let c := getCore s n
  let fcl := match e.offer with | some o => o.clsF | none => false
  let b : TrapBank := {
    cause := match e.offer with | some o => BitVec.ofNat 64 (2 ^ 63 + o.id.toNat) | none => e.trap.code.setWidth 64
    trapPc := e.trap.pc
    trapSt := trapStWord e.orig.toNat fcl e.aband seg.isSome e.entryf e.redir c.ie c.level
    tAddr := e.trap.addr }
  let fr := match e.kind, e.offer with | .classP, some o => some (o, readSg c 0, readSg c 7) | _, _ => none
  let c := match seg with
    | some (base, limit, p) =>
      writeSg (writeSg { c with sb := c.sb ++ frameStores c e.lvl p } 0 (flatSg e.lvl)) 7 (stackSg base limit e.lvl)
    | none => c
  let c := setBank c e.lvl b
  setCore s n { c with level := e.lvl, ie := false, sbusy := c.sbusy || e.lvl == .s, hbusy := c.hbusy || e.lvl == .h,
                       pc := handler, entry := none, pred := {}, word := [], ulines := [], blk := none, fresh := fr, atX2 := false,
                       uaddr := none, fcode := none }

/-! ### The judgement of deliveries (R196) -/

/-- What judge() of R196 answers. -/
inductive Verdict where
  | accept | refuse | stale
  deriving DecidableEq, Repr

/-- judge() of R196 against a core's state; `wake` leaves the IE test out (R354), `skip` is an interrupt being taken over. A paused
domain takes none at S (R74). -/
def judge (s : State) (n : Nat) (c : Core) (o : Offer) (wake : Bool) (skip : Option SrcId) : Verdict :=
  let l := offerLevel o
  let th := if l = .h then (getHub s n).thH.toNat else c.th.toNat
  if o.epoch ≠ c.epoch then .stale
  else if lvlNum l < lvlNum c.level then .refuse
  else if l = .h && c.hbusy then .refuse
  else if l = .s && c.sbusy then .refuse
  else if !wake && l = c.level && !c.ie then .refuse
  else if l = .s && domPaused s c.dom.toNat then .refuse
  else if o.prio.toNat ≤ Nat.max th (runPriBut s n l skip) then .refuse
  else .accept

/-- A STALE_ROLE record of a core (R77): kind 0 for an interrupt with its source, 1 for an event. -/
def staleRecord (s : State) (n kind : Nat) (aimed : BitVec 8) (id : Option SrcId) : State :=
  let c := getCore s n
  let p := bytesOf 1 kind ++ bytesOf 2 n ++ bytesOf 1 aimed.toNat ++ bytesOf 1 c.epoch.toNat ++
    (match id with | some i => bytesOf 2 i.toNat | none => [])
  coreEv (jrn s (courseOf s n) 0x10 c.dom p) n 0x1C 1

/-- The core turns its delivery away: it stays pending in the hub (R77, R197). -/
def turnAway (s : State) (n : Nat) (o : Offer) (stale : Bool) : State :=
  let s := modCore s n (fun c => { c with offer := none })
  let s := coreEv s n 0x13 1
  if stale then answer (staleRecord s n 0 o.epoch (some o.id)) n o.id .stale else answer s n o.id .refuse

/-- A waiting core goes on (R42, R146 to R148): WAITT writes its reason, and a pace-locked core's bank is empty. An interrupt that
meets a deadline already reached leaves the deadline's reason; an event of the same ns still wins over both. -/
def wakeCore (s : State) (n reason : Nat) : State :=
  let now := coreTime s n
  modCore s n (fun c =>
    let c := match c.run with
      | .waitt r d =>
        let why := if reason = 2 && decide (d.toNat ≤ now) then 0 else reason
        writeG { c with tie := if why = 1 then none else some (r, now) } r { v := BitVec.ofNat 64 why }
      | _ => c
    { c with run := .run, bank := 0 })

/-- The core waits in WFE, WAITT or NAP. -/
def waiting (c : Core) : Bool := match c.run with | .wfe | .waitt _ _ | .nap => true | _ => false

/-- The core as it was before a committed class P entry whose handler has not issued (R200). -/
def beforeFresh (c : Core) (l : Level) (sg0 sg7 : Word128) : Core :=
  let st := (bankOf c l).trapSt
  let c1 := if st.getLsbD 5 then
      let keep := c.sb.reverse
      let keep := match keep with
        | a :: b :: r => if a.sent then keep else if b.sent then b :: r else r
        | [a] => if a.sent then [a] else []
        | [] => []
      writeSg (writeSg { c with sb := keep.reverse } 0 sg0) 7 sg7
    else c
  { c1 with level := (lvlOf (fld st 0 2)).getD c.level, ie := st.getLsbD 2, pc := (bankOf c l).trapPc, fresh := none,
            sbusy := c.sbusy && l != .s, hbusy := c.hbusy && l != .h }

/-- Acceptance of a delivery (R196, R199): it is acknowledged to the hub. -/
def acceptOffer (s : State) (n : Nat) (o : Offer) : State :=
  coreEv (answer (modCore s n (fun c => { c with offer := none })) n o.id .accept) n 0x12 1

/-- An interrupt entry begins at the next word (R181, R199). -/
def beginInterrupt (s : State) (n : Nat) (o : Offer) (aband : Bool) : State :=
  modCore s n (fun c => { dropMicro c with
    entry := some { kind := .classP, offer := some o, lvl := offerLevel o, aband := aband, trap := { code := 0, addr := 0, pc := c.pc } },
    word := [], ulines := [], blk := none, owe := 0, fresh := none, busy := .none, atX2 := false, uaddr := none, fcode := none,
    walk := (match c.walk with | some w => if w.why = .pref || w.why = .fill then some w else none | none => none) })

end Sys2Proof.Machine
end

