-- ==== Sys2Proof/Machine/WalkOps.lean ====
section
/-! DEFINITION. Walks (R235 to R240), prefetches (R135, R237), locked entries (R137, R138, R240) and the removal of
translations (R242, R243). -/
namespace Sys2Proof.Machine

/-- What a PREF does once its address is known (R135): the line is requested for the course L2, or the PREF is dropped. -/
def prefetch (s : State) (n lin : Nat) : State :=
  let c := getCore s n
  match checkLin s n .none c.level false lin 1 with
  | (.ok _ (p :: _), s) =>
    let k := courseOf s n
    let l := lineOfPa p.pa
    let t := tagOf c
    if region s p.pa.toNat ≠ .dram || p.mt ≠ .cached || (l2Find (getCourse s k) l).isSome || reqOpen (getCourse s k) l ||
       missHeld s k n t (c.level == .h) then s
    else openReq s k { mkReq k .rdS l t (epochTag c) n 0 .pref with aclass := domClass s t.toNat }
  | (.miss a, s) => startWalk s n .pref .none c.level a
  | (_, s) => s

/-- The linear address that TADDR names for a fault of a walk (R117, R227): that of the access, or of its failing half; for a fetch
that of the syllable, which may begin in the line before. -/
def faultLin (c : Core) (w : Walk) : Nat :=
  match w.why with
  | .fetch => w.lin.toNat - (w.lin.toNat + 4 * 2 ^ 64 - (fld (readSg c 0) 0 48 + c.pc.toNat)) % 4
  | _ => w.lin.toNat

/-- A fault of a walk (R201, R236, R237): recorded for the word or the entry that waits; a PREF is dropped; a class F fill
fails. -/
def walkFault (s : State) (n : Nat) (w : Walk) (code : Nat) : State :=
  let s := modCore s n (fun c => { c with walk := none })
  match w.why with
  | .pref => s
  | .fill => modCore s n (fun c => { c with ffill := false, ffail := true })
  | _ =>
    let c := getCore s n
    if c.entry.isSome then entryFault s n code w.lin.toNat
    else setCore s n { c with trap := some { code := BitVec.ofNat 8 code, addr := BitVec.ofNat 64 (faultLin c w), pc := c.pc }, atX2 := false,
                              blk := none, busy := if c.busy = .rfe then .none else c.busy }

/-- The walk cache with a pointer added: 64 entries, the pseudo-LRU victim a FREE VALUE (R238). -/
def wcacheAdd (f : Nat) (t : List WalkEnt) (e : WalkEnt) : List WalkEnt :=
  let t := t.filter (fun x => !(x.guest == e.guest && x.tag == e.tag && x.asn == e.asn && x.lvl == e.lvl && x.vpn == e.vpn))
  if t.length < 64 then e :: t else e :: t.eraseIdx (f % 64)

/-- A leaf that a walk found is installed in the L2 TLB and in the instruction or data TLB (R238). -/
def installLeaf (s : State) (n : Nat) (w : Walk) (pte : Word64) : State :=
  let old := (getCore s n).l2tlb.find? (fun x => x.guest == w.guest && x.tag == w.tag && x.asn == w.asn && x.lvl == w.lvl &&
    x.vpn == w.lin.toNat / 2 ^ pageBits w.lvl)
  let e : TlbEnt := { guest := w.guest, tag := w.tag, asn := w.asn, lvl := w.lvl, vpn := w.lin.toNat / 2 ^ pageBits w.lvl, pte := pte,
                      lock := (match old with | some o => o.lock | none => false) }
  l1tlbInstall (modCore s n (fun c => { c with l2tlb := l2tlbAdd c.l2tlb e })) n (w.kind == .fetch) e

/-- One table entry of a walk is read and acted on (R236); nothing happens while its data is on the way. -/
def walkStep (s : State) (n : Nat) : State :=
  match (getCore s n).walk with
  | none => s
  | some w =>
    let ea := w.table.toNat * 4096 + 8 * (w.lin.toNat / 2 ^ pageBits w.lvl % 512)
    let bad := match region s ea with
      | .port _ | .ctl => some 0x13
      | .none => some 0x12
      | .dram => if windowOk s (courseOf s n) w.tag.toNat ea .read then none else some 0x12
    match bad with
    | some code => walkFault s n w code
    | none =>
      let atH := w.at_ == .h
      match microRead n .walk w.tag (if atH then 0 else (getCore s n).epoch) atH [{ pa := BitVec.ofNat 52 ea, len := 8 }] s with
      | (none, s) => s
      | (some b, s) =>
        let pte : Word64 := BitVec.ofNat 64 (pnat b)
        if pany b then walkFault s n w 0x14
        else if pteBad pte w.lvl then walkFault s n w 0x10
        else if !pteLeaf pte then
          let (r, s) := free s
          let e : WalkEnt := { guest := w.guest, tag := w.tag, asn := w.asn, lvl := w.lvl,
                               vpn := w.lin.toNat / 2 ^ pageBits w.lvl, ppn := pte.extractLsb' 12 40 }
          modCore s n (fun c => { c with wcache := wcacheAdd r c.wcache e,
                                         walk := some { w with lvl := w.lvl - 1, table := pte.extractLsb' 12 40 } })
        else
          let s := installLeaf s n w pte
          if !rightsOk pte w.kind w.at_ then walkFault s n w 0x11
          else
            let s := modCore s n (fun c => { c with walk := none })
            if w.why = .pref then prefetch s n w.lin.toNat else s

/-- The entries of core `n`'s L2 TLB for a page under a regime (R137). -/
def pageEnt (r : Regime) (lin : Nat) (e : TlbEnt) : Bool := tlbHit r lin e

/-- TLBLK once the translation is held (R138, R240): the entry is locked in the L2 TLB, unless 32 are locked or its set holds 10
locked ways, which is counted. -/
def lockPage (s : State) (n lin : Nat) : State :=
  let c := getCore s n
  let r := regimeOf c c.level
  match (match c.l2tlb.find? (tlbHit r lin) with | some e => some e | none => c.dtlb.find? (tlbHit r lin)) with
  | none => s
  | some e =>
    if e.lock then s
    else if 32 ≤ (c.l2tlb.filter (·.lock)).length || 10 ≤ (c.l2tlb.filter (fun x => x.lock && l2tlbSet x == l2tlbSet e)).length then
      coreEv s n 0x10 1
    else setCore s n { c with l2tlb := l2tlbAdd c.l2tlb { e with lock := true } }

/-- TLBULK (R137): the locks on the executing core's entries for the page are cleared. -/
def unlockPage (s : State) (n lin : Nat) : State :=
  modCore s n (fun c =>
    let r := regimeOf c c.level
    { c with l2tlb := c.l2tlb.map (fun e => if pageEnt r lin e then { e with lock := false } else e) })

/-! ### Removal (R242, R243) -/

/-- An entry of a page size `lvl` falls under an invalidation (R137, R243). -/
def invHits (i : InvScope) (guest : Bool) (tag : Tdid) (lvl vpn : Nat) : Bool :=
  match i with
  | .page t g lin => tag == t && (!g || guest) && vpn == lin.toNat / 2 ^ pageBits lvl
  | .domain t => tag == t
  | .all => true

/-- The class F entry buffer used a translation that an invalidation removes (R201). -/
def invHitsF (i : InvScope) (f : FBuf) : Bool :=
  match i with
  | .page t _ lin => f.tag == t && f.pages.any (fun p => p.1.toNat / 2 ^ pageBits p.2 == lin.toNat / 2 ^ pageBits p.2)
  | .domain t => f.tag == t
  | .all => true

/-- A walk in progress that an invalidation covers (R242; log entry 134): one of the same regime whose next table entry is also that
of the address invalidated. -/
def walkCovered (i : InvScope) (w : Walk) : Bool := invHits i w.guest w.tag w.lvl (w.lin.toNat / 2 ^ pageBits w.lvl)

/-- An invalidation at a core (steps 3 and 4 of R242): entries go, locked or not; a walk that it covers starts again from what
the walk cache still holds, and reads again what had been read for it (R240, R244); the class F entry buffer is emptied when it
used a removed translation. -/
def invalidate (s : State) (n : Nat) (i : InvScope) : State :=
  let keep := fun (e : TlbEnt) => !invHits i e.guest e.tag e.lvl e.vpn
  let s := modCore s n (fun c =>
    { c with itlb := c.itlb.filter keep, dtlb := c.dtlb.filter keep, l2tlb := c.l2tlb.filter keep,
             wcache := c.wcache.filter (fun e => !invHits i e.guest e.tag e.lvl e.vpn) })
  let c := getCore s n
  let c := match c.fbuf with
    | some f => if c.fready && invHitsF i f then { c with fready := false } else c
    | none => c
  let c := match c.walk with
    | some w =>
      if walkCovered i w then
        let (lv, tb, _) := walkStart (setCore s n c) n ⟨w.guest, w.tag, w.asn⟩ w.lin.toNat
        { dropMicro c with walk := some { w with lvl := lv, table := tb } }
      else c
    | none => c
  setCore s n c

end Sys2Proof.Machine
end

