-- ==== Sys2Proof/Machine/Issue.lean ====
section
/-! DEFINITION. How a word is fetched, formed, checked, held, issued and committed (R90 to R99, R149 to R161, R227): the
syllables of the words at DE are held in `Core.word`, the oldest word first. -/
namespace Sys2Proof.Machine

/-- The syllable that a core command brings, with what it does; none for every other command. -/
def sylOf (i : Instr) : Option (Syl × (Syl → Core → Staged)) :=
  match i with
  | .nop y => some (y, sylNop)
  | .add y => some (y, sylAdd)
  | .sub y => some (y, sylSub)
  | .and y => some (y, sylAnd)
  | .or y => some (y, sylOr)
  | .xor y => some (y, sylXor)
  | .andn y => some (y, sylAndn)
  | .shl y => some (y, sylShl)
  | .shr y => some (y, sylShr)
  | .sar y => some (y, sylSar)
  | .ror y => some (y, sylRor)
  | .cmpeq y => some (y, sylCmpeq)
  | .cmplt y => some (y, sylCmplt)
  | .cmpltu y => some (y, sylCmpltu)
  | .min y => some (y, sylMin)
  | .max y => some (y, sylMax)
  | .minu y => some (y, sylMinu)
  | .maxu y => some (y, sylMaxu)
  | .clz y => some (y, sylClz)
  | .ctz y => some (y, sylCtz)
  | .popc y => some (y, sylPopc)
  | .ldi y => some (y, sylLdi)
  | .ldhi y => some (y, sylLdhi)
  | .mul y => some (y, sylMul)
  | .mulh y => some (y, sylMulh)
  | .mulhu y => some (y, sylMulhu)
  | .div y => some (y, sylDiv)
  | .divu y => some (y, sylDivu)
  | .rem y => some (y, sylRem)
  | .remu y => some (y, sylRemu)
  | .ld8s y => some (y, sylLd8s)
  | .ld8u y => some (y, sylLd8u)
  | .ld16s y => some (y, sylLd16s)
  | .ld16u y => some (y, sylLd16u)
  | .ld32s y => some (y, sylLd32s)
  | .ld32u y => some (y, sylLd32u)
  | .ld64 y => some (y, sylLd64)
  | .ldv y => some (y, sylLdv)
  | .st8 y => some (y, sylSt8)
  | .st16 y => some (y, sylSt16)
  | .st32 y => some (y, sylSt32)
  | .st64 y => some (y, sylSt64)
  | .stv y => some (y, sylStv)
  | .aswap y => some (y, sylAswap)
  | .aadd y => some (y, sylAadd)
  | .amin y => some (y, sylAmin)
  | .amax y => some (y, sylAmax)
  | .aminu y => some (y, sylAminu)
  | .amaxu y => some (y, sylAmaxu)
  | .aswapw y => some (y, sylAswapw)
  | .aaddw y => some (y, sylAaddw)
  | .aminw y => some (y, sylAminw)
  | .amaxw y => some (y, sylAmaxw)
  | .aminuw y => some (y, sylAminuw)
  | .amaxuw y => some (y, sylAmaxuw)
  | .lr y => some (y, sylLr)
  | .sc y => some (y, sylSc)
  | .fence y => some (y, sylFence)
  | .movb y => some (y, sylMovb)
  | .setb y => some (y, sylSetb)
  | .cmpb y => some (y, sylCmpb)
  | .scanb y => some (y, sylScanb)
  | .cflush y => some (y, sylCflush)
  | .cclean y => some (y, sylCclean)
  | .cinv y => some (y, sylCinv)
  | .pref y => some (y, sylPref)
  | .icinv y => some (y, sylIcinv)
  | .tlbi y => some (y, sylTlbi)
  | .tlbid y => some (y, sylTlbid)
  | .tlbia y => some (y, sylTlbia)
  | .tlblk y => some (y, sylTlblk)
  | .tlbulk y => some (y, sylTlbulk)
  | .lseg y => some (y, sylLseg)
  | .vadd y => some (y, sylVadd)
  | .vsub y => some (y, sylVsub)
  | .vand y => some (y, sylVand)
  | .vor y => some (y, sylVor)
  | .vxor y => some (y, sylVxor)
  | .vshl y => some (y, sylVshl)
  | .vshr y => some (y, sylVshr)
  | .vmin y => some (y, sylVmin)
  | .vmax y => some (y, sylVmax)
  | .vcmpeq y => some (y, sylVcmpeq)
  | .vcmpgt y => some (y, sylVcmpgt)
  | .fadd y => some (y, sylFadd)
  | .fsub y => some (y, sylFsub)
  | .fmul y => some (y, sylFmul)
  | .fdiv y => some (y, sylFdiv)
  | .fsqrt y => some (y, sylFsqrt)
  | .fma y => some (y, sylFma)
  | .fms y => some (y, sylFms)
  | .fmin y => some (y, sylFmin)
  | .fmax y => some (y, sylFmax)
  | .fcmpeq y => some (y, sylFcmpeq)
  | .fcmplt y => some (y, sylFcmplt)
  | .fcvtif y => some (y, sylFcvtif)
  | .fcvtfi y => some (y, sylFcvtfi)
  | .vmov y => some (y, sylVmov)
  | .vinsg y => some (y, sylVinsg)
  | .vextg y => some (y, sylVextg)
  | .vsplat y => some (y, sylVsplat)
  | .vshuf y => some (y, sylVshuf)
  | .br y => some (y, sylBr)
  | .jr y => some (y, sylJr)
  | .call y => some (y, sylCall)
  | .callr y => some (y, sylCallr)
  | .ret y => some (y, sylRet)
  | .syscall y => some (y, sylSyscall)
  | .hypercall y => some (y, sylHypercall)
  | .brk y => some (y, sylBreak)
  | .rfe y => some (y, sylRfe)
  | .mfs y => some (y, sylMfs)
  | .mts y => some (y, sylMts)
  | .mtsTdid y => some (y, sylMtsTdid)
  | .mtsRein y => some (y, sylMtsRein)
  | .mtsLockheld y => some (y, sylMtsLockheld)
  | .mtsTmode y => some (y, sylMtsTmode)
  | .mtsPctl y => some (y, sylMtsPctl)
  | .mtsEvmask y => some (y, sylMtsEvmask)
  | .sThreshold y => some (y, sylSThreshold)
  | .sClaim y => some (y, sylSClaim)
  | .sEoi y => some (y, sylSEoi)
  | .wfe y => some (y, sylWfe)
  | .sev y => some (y, sylSev)
  | .waitt y => some (y, sylWaitt)
  | .nap y => some (y, sylNap)
  | .rdtime y => some (y, sylRdtime)
  | .pflush y => some (y, sylPflush)
  | .pbar y => some (y, sylPbar)
  | _ => none

/-- The latency of a command's result in handoffs (R109, R112, R140, R143): 1 where the tables give no other, and for results whose
time the memory decides. An MTS holds its register for as long as it takes to commit. -/
def latency (i : Instr) : Nat :=
  match i with
  | .mul _ => 3
  | .mulh _ | .mulhu _ => 4
  | .ld8s _ | .ld8u _ | .ld16s _ | .ld16u _ | .ld32s _ | .ld32u _ | .ld64 _ => 3
  | .ldv _ => 4
  | .fadd _ | .fsub _ | .fmul _ | .fcvtif _ | .fcvtfi _ => 4
  | .fma _ | .fms _ => 5
  | .fmin _ | .fmax _ | .fcmpeq _ | .fcmplt _ | .vinsg _ | .vextg _ | .vsplat _ | .vshuf _ | .mfs _ => 2
  | .mts _ | .mtsRein _ | .mtsLockheld _ | .mtsTmode _ | .mtsPctl _ => 10
  | .mtsEvmask _ | .sThreshold _ | .sClaim _ | .sEoi _ => 60
  | _ => 1

/-- A command's syllable as its word sees it: one that names no operation by what it is (R89, R90, R100). -/
def stagedOf (i : Instr) (y : Syl) (f : Syl → Core → Staged) (c : Core) : Staged :=
  match y.odd with
  | some o => oddStaged y o
  | none => { f y c with lat := latency i }

/-! ### Words (R90, R91) -/

/-- A word taken from the syllables at DE: its operation syllables with their places, its length, whether its stop bit or
the eighth syllable is there, and the syllables behind it. -/
structure HeadWord where
  ops      : List (Nat × Staged) := []
  len      : Nat := 0
  complete : Bool := false
  rest     : List Instr := []
  deriving DecidableEq, Repr

/-- The first word of a list of syllables (R90: it ends at the first stop bit, or at the eighth syllable). -/
def takeWord (c : Core) : List Instr → HeadWord → HeadWord
  | [], h => h
  | i :: r, h =>
    match sylOf i with
    | none => takeWord c r h
    | some (y, f) =>
      let g := stagedOf i y f c
      let h := { h with ops := h.ops ++ [(h.len, g)], len := h.len + g.len }
      if g.stop || 8 ≤ h.len then { h with complete := true, rest := r } else takeWord c r h

/-- The word at DE. -/
def headWord (c : Core) : HeadWord := takeWord c c.word {}

/-- The number of complete words among the syllables at DE. -/
def wordCount : List Instr → Nat → Nat
  | [], _ => 0
  | i :: r, len =>
    match sylOf i with
    | none => wordCount r len
    | some (y, _) => if y.s || 8 ≤ len + sylLen y then wordCount r 0 + 1 else wordCount r (len + sylLen y)

/-- The syllables of the word's extent (R91). -/
def extent (h : HeadWord) : Nat := Nat.min h.len 8

/-- The first place, scanning upward, at which a formation rule is broken (R90, R91, R94, R95), an illegal syllable among them, after syllables that used units
below `u`, wrote `ws` and contained a block-repeat operation or not. -/
def breachAt : List (Nat × Staged) → Nat → List RegRef → Bool → Option Nat
  | [], _, _, _ => none
  | (p, g) :: r, u, ws, blk =>
    if g.illegal || g.unit < u || blk || (g.alone && u != 0) || g.writes.any (fun x => ws.contains x) then some p
    else if g.badX then (if p + 1 < 8 then some (p + 1) else none)
    else breachAt r (g.unit + 1) (ws ++ g.writes) g.alone

/-- A breach of R90: the lowest place; a word without a stop bit in its first eight syllables breaks the Length rule there. -/
def breach (h : HeadWord) : Option Nat :=
  let long := match h.ops.getLast? with | some (_, g) => !g.stop || 8 < h.len | none => false
  match breachAt h.ops 0 [] false with
  | some p => if 7 < p then (if long then some 7 else none) else some p
  | none => if long then some 7 else none

/-! ### Fetch (R159, R227) -/

/-- A line of the word's code that the core holds: in L1I, or fetched for the words at DE alone. -/
def codeLine (c : Core) (l : LineNo) (mt : MemType) : Option LineData :=
  ((if mt = .cached then c.l1i ++ c.ulines else c.ulines).find? (fun e => e.1 == l)).map (·.2)

/-- A missing line is asked for (R159): a request goes out where the course L2 does not hold it. -/
def askLine (s : State) (n : Nat) (p : Part) : State :=
  let c := getCore s n
  let k := courseOf s n
  let l := lineOfPa p.pa
  if c.fetching.isSome then s
  else
    let s := coreEv (setCore s n { c with fetching := some (l, p.mt) }) n 0x08 1 (some l)
    if (p.mt == .cached && (l2Find (getCourse s k) l).isSome) || c.nf.any (fun e => e.1 == l) then s
    else (microPart s n .fetch (tagOf c) (epochTag c) (c.level == .h) p).2

/-- One syllable is fetched and checked (R227); those of the line that a class F entry passed from its buffer are there (R203). A failed
segment check names the offset in SG0, every other fault the linear address of the syllable (R99; log entry 135). -/
def fetchSyl (s : State) (n pos : Nat) : Got Unit × State :=
  let c := getCore s n
  let off := (c.pc + BitVec.ofNat 64 (4 * pos)).toNat
  if (match c.fcode with | some l => (fld (readSg c 0) 0 48 + off) / 64 == l.toNat / 64 | none => false) then (.ok (), s) else
  match segCheck (readSg c 0) off 4 .fetch c.level with
  | .error code => (.fault code off, s)
  | .ok lin =>
    match checkLin s n .fetch c.level false lin 4 with
    | (.fault code _, s) => (.fault code lin, s)
    | (.miss a, s) => (.wait, startWalk s n .fetch .fetch c.level a)
    | (.ok _ ps, s) =>
      if ps.any (fun p => p.mt == .device) then (.fault 0x11 lin, s) else
      let s := ps.foldl (fun s p => l1iCheck s n (lineOfPa p.pa)) s
      match ps.find? (fun p => (codeLine (getCore s n) (lineOfPa p.pa) p.mt).isNone) with
        | some p => (.wait, askLine s n p)
        | none =>
          if ps.any (fun p => match codeLine (getCore s n) (lineOfPa p.pa) p.mt with
              | some d => pany (lineRead d (p.pa.toNat % 64) p.len)
              | none => false)
          then (.fault 0x21 lin, s) else (.ok (), s)

/-- The syllables of a word's extent from place `pos` on, the lowest fault first (R97, R99). -/
def fetchWord (n : Nat) : Nat → Nat → State → Got Unit × State
  | 0, _, s => (.ok (), s)
  | k + 1, pos, s =>
    match fetchSyl s n pos with
    | (.ok _, s) => fetchWord n k (pos + 1) s
    | r => r

/-! ### What holds a word (R98, R110, R119 to R126, R154) -/

/-- The registers that outstanding results write (R153). -/
def dstRefs (d : Dst) : List RegRef :=
  match d with
  | .none => [] | .g r b => if r = 0 then [] else [.g r b] | .v r => [.v r] | .sg r => [.sg r]

/-- L1D misses and waiting loads of the core, each an entry of the miss queue (R110, R154). -/
def missCount (c : Core) : Nat :=
  c.accs.foldl (fun a x => a + (match x.kind with | .load => if x.wait ≠ 0 then 1 else (x.parts.filter (fun p => p.data.isNone)).length | _ => 0)) 0

/-- The entries of the miss queue that a load with these parts needs (R110, R154): one where it waits under R157, otherwise one for
each line that L1D does not hold. -/
def missNeed (c : Core) (ps : List Part) : Nat :=
  let fw := ps.map (fun p => forward c.sb p.pa.toNat p.len)
  if fw.any (fun f => match f with | .wait _ => true | _ => false) then 1
  else (ps.filter (fun p => (match forward c.sb p.pa.toNat p.len with | .read => true | _ => false) &&
    !(p.mt == .cached && c.l1d.contains (lineOfPa p.pa)))).length

/-- The handoffs that the word must still wait for results of short latency (R109, R153, R154). -/
def pendHold (c : Core) (h : HeadWord) : Nat :=
  c.pend.foldl (fun a e => if h.ops.any (fun o => o.2.reads.contains e.1 || o.2.writes.contains e.1) then Nat.max a e.2 else a) 0

/-- The registers with a write outstanding (R98, R153). -/
def pendingRefs (c : Core) : List RegRef := c.accs.flatMap (fun a => dstRefs a.dst) ++ c.results.flatMap (fun r => dstRefs r.dst)

/-- A result of the A1 divider, or of the F divider, is outstanding (R110, R154). -/
def divBusy (c : Core) (f : Bool) : Bool := c.results.any (fun r => match r.dst with | .v _ => f | _ => !f)

/-- The bytes that an M syllable stores, for its store buffer entries (R155). -/
def actStores (a : Act) : Option (Nat × BitVec 3 × Word64) :=
  match a with
  | .store b seg off => some (b.length, seg, off)
  | _ => none

/-- An access that keeps younger ones back is outstanding (R125; log entry 14). -/
def serialOut (c : Core) : Bool := c.accs.any (fun a => match a.kind with | .load => false | _ => true)

/-- Window stores of this core that have not reached every holder (R69). -/
def ownWins (s : State) (n : Nat) : Bool := s.winMsgs.any (fun m => m.2.2.2.1.toNat == n)

/-- What holds a syllable that its registers do not hold (R110, R119, R122, R125, R135, R154, R242; log entry 14). -/
def actHeld (s : State) (n : Nat) (a : Act) : Bool :=
  let c := getCore s n
  let quiet := c.sb.isEmpty && c.accs.isEmpty && !ownWins s n
  match a with
  | .longG _ _ => divBusy c false
  | .longV _ _ => divBusy c true
  | .load _ _ _ _ _ => serialOut c
  | .store b seg off =>
    let need := if (fld (readSg c seg) 0 48 + off.toNat) % 64 + b.length ≤ 64 then 1 else 2
    serialOut c || decide (24 < c.sb.length + need)
  | .atomic _ _ _ _ _ _ _ => !quiet
  | .lr _ _ _ | .sc _ _ _ _ => serialOut c || !c.sb.isEmpty || decide (16 ≤ missCount c)
  | .fence b => ((b.getLsbD 3 || b.getLsbD 2) && !c.accs.isEmpty) || ((b.getLsbD 1 || b.getLsbD 0) && ownWins s n) ||
      (b.getLsbD 1 && !c.sb.isEmpty)
  | .block _ => serialOut c
  | .maint op _ _ => (match op with
      | .pref | .tlblk | .tlbulk => false
      | _ => serialOut c || !c.sb.isEmpty || ownWins s n)
  | .tlbid _ | .tlbia => serialOut c || !c.sb.isEmpty || ownWins s n
  | .lseg _ _ _ => serialOut c || decide (16 ≤ missCount c)
  | _ => false

/-- DE holds the word (R98, R154). -/
def held (s : State) (n : Nat) (h : HeadWord) : Bool :=
  let c := getCore s n
  let p := pendingRefs c
  h.ops.any (fun e => e.2.reads.any (fun r => p.contains r) || e.2.writes.any (fun r => p.contains r) || actHeld s n e.2.act)

/-! ### The checks of R97 beyond fetch and formation -/

/-- A trap of the word at DE. -/
def wordTrap (c : Core) (code : Nat) (addr : Nat) : Trap := { code := BitVec.ofNat 8 code, addr := BitVec.ofNat 64 addr, pc := c.pc }

/-- The linear address of a syllable of the word, which TADDR holds for ILLEGAL_WORD, RESERVED_OP and PRIVILEGED_OP (R91, R180; log
entry 136). -/
def sylLin (c : Core) (pos : Nat) : Nat := fld (readSg c 0) 0 48 + c.pc.toNat + 4 * pos

/-- The first marked operand of a word as TADDR names it (R195). -/
def poisonOf (c : Core) (h : HeadWord) : Option Nat :=
  ((h.ops.flatMap (fun e => e.2.consumes)).find? (marked c)).map (fun r => match r with
    | .g r _ => r.toNat | .v r => 256 + r.toNat | _ => 0)

/-- Rows 2 to 6 of R97. -/
def encTrap (c : Core) (h : HeadWord) : Option Trap :=
  match breach h with
  | some p => some (wordTrap c 0x01 (sylLin c p))
  | none =>
    match h.ops.find? (fun e => e.2.reserved) with
    | some e => some (wordTrap c 0x02 (sylLin c e.1))
    | none =>
      match h.ops.find? (fun e => decide (lvlNum c.level < lvlNum e.2.minLevel)) with
      | some e => some (wordTrap c 0x03 (sylLin c e.1))
      | none =>
        match h.ops.findSome? (fun e => match e.2.act with
            | .trapOp code arg => if code = 0x38 then some arg else none | _ => none) with
        | some arg => some { code := 0x38, addr := arg, pc := c.pc }
        | none => (poisonOf c h).map (fun a => wordTrap c 0x20 a)

/-- What the M syllable of a word has found at X2: its linear address and parts, a descriptor that it has read, and the bytes that
the micro-routine of a split load has read (R117, R208). -/
structure MRes where
  lin   : Nat := 0
  parts : List Part := []
  desc  : Word128 := 0
  data  : Option (List PByte) := none
  deriving DecidableEq, Repr

/-- The checks of a maintenance operation or of one that names a linear page (R116, R135, R137). -/
def maintCheck (s : State) (n : Nat) (op : MaintOp) (seg : BitVec 3) (off : Word64) : Got MRes × State :=
  let c := getCore s n
  let acc := fun (k : Kind) (s : State) => match checkAcc s n seg off 1 k false false with
    | (.fault code a, s) => (Got.fault code a, s)
    | (.miss a, s) => (Got.wait, startWalk s n .data k c.level a)
    | (.ok lin ps, s) => (Got.ok { lin := lin, parts := ps }, s)
  let seg1 := fun (s : State) => match segCheck (readSg c seg) off.toNat 1 .none c.level with
    | .error code => (Got.fault code off.toNat, s)
    | .ok lin => (Got.ok ({ lin := lin } : MRes), s)
  match op with
  | .cflush | .cclean => acc .read s
  | .cinv => acc .write s
  | .icinv =>
    (match acc .read s with
     | (.fault code a, s1) => (match acc .fetch s with | (.fault _ _, _) => (.fault code a, s1) | r => r)
     | r => r)
  | .pref => (match segCheck (readSg c seg) off.toNat 1 .none c.level with
     | .error _ => (.ok { lin := 2 ^ 48 }, s)
     | .ok lin =>
       if lvlNum c.level < sgMin (readSg c seg) then (.ok { lin := 2 ^ 48 }, s)
       else match checkLin s n .none c.level false lin 1 with
         | (.miss _, _) => if c.walk.isSome then (.wait, s) else (.ok { lin := lin }, s)
         | _ => (.ok { lin := lin }, s))
  | .tlbi | .tlbulk => seg1 s
  | .tlblk =>
    (match segCheck (readSg c seg) off.toNat 1 .none c.level with
     | .error code => (.fault code off.toNat, s)
     | .ok lin =>
       if directMap s n c.level then (.ok { lin := lin }, s)
       else match checkLin s n .read c.level false lin 1 with
         | (.fault code a, s) => (.fault code a, s)
         | (.miss a, s) => (.wait, startWalk s n .lock .read c.level a)
         | (.ok lin ps, s) => (.ok { lin := lin, parts := ps }, s))

/-- The checks of R116 for the word's M syllable (row 7 of R97); an LSEG also reads and checks its descriptor (R223). -/
def mCheck (s : State) (n : Nat) (a : Act) : Got MRes × State :=
  let c := getCore s n
  let acc := fun (seg : BitVec 3) (off : Word64) (w : Nat) (k : Kind) (al at_ : Bool) =>
    match checkAcc s n seg off w k al at_ with
    | (.fault code x, s) => (Got.fault code x, s)
    | (.miss x, s) => (Got.wait, startWalk s n .data k c.level x)
    | (.ok lin ps, s) => (Got.ok ({ lin := lin, parts := ps } : MRes), s)
  match a with
  | .load _ w _ seg off =>
    (match acc seg off w .read false false with
     | (.ok r, s) =>
       if 16 < missCount c + missNeed c r.parts then (.wait, s)
       else if r.parts.length < 2 || r.parts.any (fun p => p.mt == .device) then (.ok r, s)
       else (match microRead n .load (tagOf c) (epochTag c) (c.level == .h) r.parts s with
         | (none, s) => (.wait, s)
         | (some b, s) => (.ok { r with data := some b }, s))
     | r => r)
  | .store b seg off => acc seg off b.length .write false false
  | .atomic _ _ w _ _ seg off => acc seg off w .atomic true true
  | .lr _ seg off => acc seg off 8 .read true false
  | .sc _ _ seg off => acc seg off 8 .sc true false
  | .maint op seg off => maintCheck s n op seg off
  | .lseg _ seg off =>
    (match acc seg off 16 .read false false with
     | (.ok r, s) =>
       (match microRead n .load (tagOf c) (epochTag c) (c.level == .h) r.parts s with
        | (none, s) => (.wait, s)
        | (some b, s) =>
          let d : Word128 := BitVec.ofNat 128 (pnat b)
          if pany b then (.fault 0x20 r.lin, s) else if sgBad d then (.fault 0x09 r.lin, s) else (.ok { r with desc := d }, s))
     | r => r)
  | _ => (.ok {}, s)

/-- The M syllable's checks of a word, if it has one. -/
def wordM (s : State) (n : Nat) (h : HeadWord) : Got MRes × State :=
  match h.ops.find? (fun e => e.2.unit == 2) with
  | some e => mCheck s n e.2.act
  | none => (.ok {}, s)

/-! ### Commit (R93, R96, R118, R123, R126, R142 to R148, R155) -/

/-- A load enters the machine (R118, R119, R120, R152, R157): a forwarded part and an L1D hit that no older load of the same bytes
waits for are there at once, the rest is outstanding. The two halves of a split load have been read together (R117, R208). -/
def doLoad (s : State) (n : Nat) (dst : Dst) (w : Nat) (sg : Bool) (m : MRes) : State :=
  let c := getCore s n
  let k := courseOf s n
  let s := if 2 ≤ m.parts.length then coreEv s n 0x1A 1 else s
  match m.data with
  | some b =>
    let v := accValue { idx := 0, kind := .load, dst := dst, parts := [{ pa := 0, len := w, data := some b }], width := w, signed := sg }
    let s := m.parts.foldl (fun s p =>
      if p.mt = .cached && (l2Find (getCourse s k) (lineOfPa p.pa)).isSome then l1dFill s n (lineOfPa p.pa) else s) s
    modCore s n (fun c => writeDst c dst v.1 v.2)
  | none =>
    let fw := m.parts.map (fun p => (p, if p.mt = .device then Fwd.read else forward c.sb p.pa.toNat p.len))
    let wait := fw.foldl (fun a e => match e.2 with | .wait j => Nat.max a j | _ => a) 0
    let wait := if m.parts.any (fun p => p.mt == .device) then c.sb.length else wait
    let ps := fw.map (fun e => match e.2 with
      | .data b => { e.1 with data := some b }
      | .wait _ => e.1
      | .read =>
        if e.1.mt = .cached && wait = 0 && c.l1d.contains (lineOfPa e.1.pa) && !c.l1dBad.contains (lineOfPa e.1.pa) &&
             !olderSame c c.nextIdx e.1 then
          match l2Find (getCourse s k) (lineOfPa e.1.pa) with
          | some (_, x) => { e.1 with data := some (lineRead x.data (e.1.pa.toNat % 64) e.1.len) }
          | none => e.1
        else e.1)
    let a : OutAcc := { idx := c.nextIdx, kind := .load, dst := dst, parts := ps, width := w, signed := sg, lin := BitVec.ofNat 48 m.lin,
                        wait := wait, tdid := tagOf c, epoch := epochTag c, atH := c.level == .h }
    let s := if fw.any (fun e => match e.2 with | .data _ => true | _ => false) then coreEv s n 0x0A 1 else s
    let s := if wait ≠ 0 then coreEv s n 0x0B 1 else s
    if accDone a && wait = 0 then modCore s n (fun c => let v := accValue a; writeDst c dst v.1 v.2)
    else kick (modCore s n (fun c => { c with accs := c.accs ++ [a], nextIdx := c.nextIdx + 1 })) n

/-- An atomic, LR or SC enters the machine (R123 to R126). -/
def doSerial (s : State) (n : Nat) (k : AccKind) (dst : Dst) (w : Nat) (sg : Bool) (opnd : Word64) (m : MRes) : State :=
  let c := getCore s n
  let a : OutAcc := { idx := c.nextIdx, kind := k, dst := dst, parts := m.parts, width := w, signed := sg, opnd := opnd,
                      lin := BitVec.ofNat 48 m.lin, wait := 0, tdid := tagOf c, epoch := epochTag c, atH := c.level == .h }
  kick (modCore s n (fun c => { c with accs := c.accs ++ [a], nextIdx := c.nextIdx + 1 })) n

/-- The entries of a store of `m` bytes: one for each half of a split one (R117, R155). In the control region a split one is one
access, which the first half carries (R29). -/
def storeHalves (c : Core) (m : Nat) : Bool → List Part → List PByte → List SbEntry
  | _, [], _ => []
  | k, p :: r, b =>
    let ctl := decide (ctlBase ≤ p.pa.toNat)
    { pa := p.pa, bytes := b.take p.len, mt := p.mt, tdid := tagOf c, epoch := epochTag c, whole := if p.len = m then 0 else m, cont := k && ctl } ::
      storeHalves c m ctl r (b.drop p.len)

/-- The entries of a store (R155). -/
def storeEntries (c : Core) (ps : List Part) (b : List PByte) : List SbEntry := storeHalves c b.length false ps b

/-- TLBI, TLBID and TLBIA (R137, R242): the broadcast to every core that may hold translations, stamped by the course. -/
def doInvAll (s : State) (n : Nat) (sc : InvScope) : State :=
  let c := getCore s n
  let (st, s) := shortStamp s (courseOf s n)
  let i : TlbInv := { from_ := BitVec.ofNat 8 n, scope := sc, tdid := tagOf c, epoch := epochTag c, short := st }
  let ns := (List.range 256).filter (fun k => holdsTlb (getCore s k))
  let s := { s with invNet := s.invNet ++ ns.map (fun k => (BitVec.ofNat 8 k, i)) }
  modCore s n (fun c => { c with busy := .tlb (BitVec.ofNat 256 (ns.foldl (fun a k => a + 2 ^ k) 0)) })

/-- A maintenance operation of an issued word (R135, R137, R242): what it sends, and what holds issue until it completes. -/
def doMaint (s : State) (n : Nat) (op : MaintOp) (m : MRes) : State :=
  let c := getCore s n
  let k := courseOf s n
  let home := fun (kd : MsgKind) => match m.parts with
    | p :: _ =>
      if region s p.pa.toNat ≠ .dram then s
      else
        let l := lineOfPa p.pa
        let s := send s { mkReq k kd l (tagOf c) (epochTag c) n 0 .maint with aclass := domClass s (tagOf c).toNat }
        modCore s n (fun c => { c with busy := .maint l })
    | [] => s
  match op with
  | .cflush => home .flushReq
  | .cclean => home .cleanReq
  | .cinv => home .invReq
  | .pref => if m.lin < 2 ^ 48 then prefetch s n m.lin else s
  | .icinv =>
    (match m.parts with
     | p :: _ =>
       if region s p.pa.toNat ≠ .dram then s
       else
         let cs := (List.range 32).filter (fun k => (coresOf s k).any (fun j => inService (getCore s j)))
         let (st, s) := shortStamp s k
         let s := { s with icNet := s.icNet ++ cs.map (fun k => (BitVec.ofNat 8 n, BitVec.ofNat 5 k, lineOfPa p.pa, st)) }
         modCore s n (fun c => { c with busy := .icinv (BitVec.ofNat 32 (cs.foldl (fun a k => a + 2 ^ k) 0)) })
     | [] => s)
  | .tlbi => doInvAll s n (.page (tagOf c) (c.level != .h) (BitVec.ofNat 48 m.lin))
  | .tlblk => if m.parts.isEmpty then s else lockPage s n m.lin
  | .tlbulk => if directMap s n c.level then s else unlockPage s n m.lin

/-- A core begins to wait (R127, R146 to R148, R354): a delivery that passes the test without IE ends the wait at once. -/
def beginWait (s : State) (n : Nat) (r : Run) : State :=
  let s := modCore (dropResv s n) n (fun c => { c with run := r })
  match (getCore s n).offer with
  | some o => if judge s n (getCore s n) o true none = .accept then wakeCore s n 2 else s
  | none => s

/-! ### Wrong paths (R161, R172 to R176) -/

/-- A ghost load (R174, R175): one that would pass every check with its translation held, of a normal page, waiting under no store;
it changes no register. WPL drops it (R177). A cached line enters L1D and the course L2 as for a load; an uncached one is read at
its home for nothing. -/
def ghostLoad (s : State) (n : Nat) (a : Act) : State :=
  let c := getCore s n
  match a with
  | .load _ w _ seg off =>
    if c.pctl.getLsbD 2 then s else
    (match checkAcc s n seg off w .read false false with
     | (.ok _ [p], t) =>
       let k := courseOf t n
       let l := lineOfPa p.pa
       if p.mt = .device || region t p.pa.toNat ≠ .dram then s
       else match forward c.sb p.pa.toNat p.len with
         | .read =>
           if p.mt = .cached && (l2Find (getCourse t k) l).isSome then
             l1dFill (charge t k (tagOf c).toNat (evCharge t 2 (some k))) n l
           else if reqOpen (getCourse t k) l || missHeld t k n (tagOf c) (c.level == .h) then t
           else openReq t k { mkReq k (if p.mt = .cached then .rdS else .hrd) l (tagOf c) (epochTag c) n 0 .pref with
                              aclass := domClass t (tagOf c).toNat }
         | .data _ => t
         | .wait _ => s
     | _ => s)
  | _ => s

/-- The next word at DE, if it had issued when the path was found wrong, is a ghost word (R161; whether it had is a FREE VALUE): its
loads act under R174, its store buffer entries come and go with it, and nothing else of it is seen. -/
def ghostWord (s : State) (n : Nat) : State :=
  let h := headWord (getCore s n)
  if !h.complete then s else
  let (r, s) := free s
  let s := modCore s n (fun c => { c with word := h.rest })
  if r % 2 = 0 || (encTrap (getCore s n) h).isSome then s
  else h.ops.foldl (fun s e => ghostLoad s n e.2.act) s

/-- X1 or X2 finds the path wrong (R161): up to `k` younger words that had issued are ghost words, and every younger word goes. -/
def wrongPath (s : State) (n k : Nat) : State :=
  modCore ((List.range k).foldl (fun s _ => ghostWord s n) s) n (fun c => { c with word := [] })

/-- The words fetched beyond an operation are discarded (R135, R142, R168, R169, R177). -/
def dropQueue (s : State) (n : Nat) : State := modCore s n (fun c => { c with word := [] })

/-- A transfer of a committed word (R99, R142, R160 to R166); one that loses issue opportunities discards what was fetched behind it,
and one resolved at X1 may leave a ghost word. -/
def doXfer (s : State) (n : Nat) (c0 : Core) (len : Nat) (k : XferKind) (taken hint : Bool) (target : Word64)
    (link : Option (BitVec 6)) : State :=
  let next := c0.pc + BitVec.ofNat 64 (4 * len)
  let tgt := target &&& ~~~3
  let tgt := if k = .cond || k = .direct then target else tgt
  let base := fld (readSg c0 0) 0 48
  let x : Xfer := { kind := k, taken := taken, hint := hint, isCall := link.isSome, lin := base + c0.pc.toNat, target := base + tgt.toNat,
                    next := base + next.toNat, link := next }
  let pl := plain c0
  let (lost, wrong) := lostFor c0.pred pl (c0.pctl.getLsbD 1) (c0.pctl.getLsbD 0) base x
  let s := modCore s n (fun c =>
    let c := match link with | some r => writeG c r { v := next } | none => c
    { c with pc := if taken then tgt else next, owe := c.owe + lost,
             pred := afterXfer c.pred pl (c0.pctl.getLsbD 1) (c0.pctl.getLsbD 0) wrong x })
  let s := if lost = 0 then s else wrongPath s n (if lost = 6 then 1 else 0)
  let s := if wrong then coreEv s n 0x05 1 else s
  if pl then coreEv s n 0x06 1 else s

/-- The return of an RFE (steps 2 to 6 of R205, R169); with SEG = 1 the images of its frame. -/
def doRfe (s : State) (n : Nat) (fr : Option (Word128 × Word128)) : State :=
  let s := dropQueue (dropResv s n) n
  modCore s n (fun c =>
    let b := bankOf c c.level
    let c1 := match fr with
      | some (a, z) => writeSg (writeSg c 0 a) 7 z
      | none => c
    { c1 with level := (lvlOf (fld b.trapSt 0 2)).getD c.level, ie := b.trapSt.getLsbD 2, pc := b.trapPc, pred := {},
              sbusy := c.sbusy && c.level == .h, hbusy := c.hbusy && c.level != .h })

/-- The effect of one syllable of an issued word; `c0` is the core before the word (R93). -/
def doAct (n : Nat) (c0 : Core) (len : Nat) (m : MRes) (fr : Option (Word128 × Word128)) (s : State) (a : Act) : State :=
  match a with
  | .nop | .fence _ => s
  | .wG r v => modCore s n (fun c => writeG c r { v := v })
  | .wV r v => modCore s n (fun c => writeV c r { v := v })
  | .longG r v => modCore s n (fun c =>
      { c with results := c.results ++ [{ idx := c.nextIdx, dst := gDst c r, g := v }], nextIdx := c.nextIdx + 1 })
  | .longV r v => modCore s n (fun c =>
      { c with results := c.results ++ [{ idx := c.nextIdx, dst := .v r, v := v }], nextIdx := c.nextIdx + 1 })
  | .load dst w sg _ _ => doLoad s n dst w sg m
  | .store b _ _ =>
    let s := if 2 ≤ m.parts.length then coreEv s n 0x1A 1 else s
    modCore s n (fun c => { c with sb := c.sb ++ storeEntries c0 m.parts b })
  | .atomic op dst w sg opnd _ _ => doSerial s n (.atomic op) dst w sg opnd m
  | .lr dst _ _ => doSerial s n .lr dst 8 false 0 m
  | .sc dst opnd _ _ => doSerial s n .sc dst 8 false opnd m
  | .block b => if (readG c0 4).v = 0 then s else modCore s n (fun c => { c with blk := some b, pc := c0.pc, owe := c.owe + 10 })
  | .maint op _ _ => doMaint s n op m
  | .tlbid t => doInvAll s n (.domain t)
  | .tlbia => doInvAll s n .all
  | .lseg r _ _ => modCore s n (fun c => writeSg c r m.desc)
  | .xfer k taken hint target link => doXfer s n c0 len k taken hint target link
  | .trapOp code arg => modCore s n (fun c =>
      { c with trap := some { code := BitVec.ofNat 8 code, addr := arg, pc := c0.pc + BitVec.ofNat 64 (4 * len) } })
  | .rfe => doRfe s n fr
  | .mfs r num => modCore s n (fun c => writeG c r (sysRead (setCore s n c0) n num))
  | .mts num v => if num = 0x90 then dropQueue (rebind s n v.v) n else if num = 0x60 then dropQueue (sysWrite s n num v) n else sysWrite s n num v
  | .wfe => if c0.evflag then modCore s n (fun c => { c with evflag := false }) else beginWait s n .wfe
  | .sev g t =>
    let (st, s) := shortStamp s (courseOf s n)
    { s with sevs := s.sevs ++ [(tagOf c0, g, t.setWidth 8, st)] }
  | .waitt r d =>
    if c0.evflag then modCore s n (fun c => writeG { c with evflag := false } r { v := 1 })
    else if d.toNat ≤ coreTime s n then modCore s n (fun c => writeG c r { v := 0 })
    else beginWait s n (.waitt r d)
  | .nap => beginWait (modCore s n (fun c => { c with l1i := [], l1d := [], napAt := coreTime s n })) n .nap
  | .rdtime r => modCore s n (fun c => writeG c r { v := BitVec.ofNat 64 (coreTime s n) })
  | .pflush => modCore s n (fun c => { c with pred := {}, word := [] })
  | .pbar clear => modCore s n (fun c => { c with word := [], pctl := if clear then c.pctl &&& 0xEF else c.pctl ||| 0x10 })

/-- The word starts a block-repeat operation, which commits with its last chunk (R131, R167). -/
def startsBlock (c : Core) (h : HeadWord) : Bool :=
  (readG c 4).v != 0 && h.ops.any (fun e => match e.2.act with | .block _ => true | _ => false)

/-- The registers of a word whose results come later than the next word (R109, R153). -/
def newPend (h : HeadWord) : List (RegRef × Nat) :=
  h.ops.flatMap (fun e => if e.2.lat ≤ 1 then [] else e.2.writes.map (fun r => (r, e.2.lat - 1)))

/-- A word issues and commits (R93, R96, R151, R153, R167): one token where it has not issued already, every syllable's effect, the PC
and the warm-up count. -/
def commitWord (s : State) (n : Nat) (h : HeadWord) (m : MRes) (fr : Option (Word128 × Word128)) : State :=
  let c0 := getCore s n
  let s := if c0.atX2 then s else useToken s n (some (extent h))
  let s := modCore s n (fun c => { c with pc := c0.pc + BitVec.ofNat 64 (4 * h.len), word := h.rest, ulines := [], fresh := none,
                                          busy := .none, warmLeft := if startsBlock c0 h then c.warmLeft else c.warmLeft - 1,
                                          pend := c.pend ++ newPend h, atX2 := false, uaddr := none, fcode := none, tie := none })
  h.ops.foldl (fun s e => doAct n c0 h.len m fr s e.2.act) s

/-! ### Issue -/

/-- A held delivery that stops issue (R198, R200): one that the present state would accept, or that would take over a class P entry
whose handler has not issued. -/
def offerStops (s : State) (n : Nat) (c : Core) (o : Offer) : Bool :=
  judge s n c o false none == .accept ||
    (match c.fresh with
     | some (o1, sg0, sg7) => offerLevel o == offerLevel o1 && (o.clsF || decide (o1.prio.toNat < o.prio.toNat)) &&
         judge s n (beforeFresh c (offerLevel o1) sg0 sg7) o false (some o1.id) == .accept
     | none => false)

/-- The word at DE waits for nothing that issue itself does not resolve (R74, R151, R198, R200); a word at X2 goes on (R151). -/
def mayTry (s : State) (n : Nat) : Bool :=
  let c := getCore s n
  c.run == .run && c.dead.isNone && !c.rot && c.trap.isNone && c.entry.isNone && c.busy == .none && c.blk.isNone &&
    (match c.walk with | none => true | some w => w.why == .pref || w.why == .fill) &&
    (c.level == .h || !domPaused s c.dom.toNat) &&
    (c.atX2 || (match c.offer with | none => true | some o => !offerStops s n c o)) &&
    (headWord c).complete

/-- A fault of the word at DE is recorded (R151): at most two younger words that had issued become ghost words (R161). -/
def recordTrap (s : State) (n : Nat) (t : Trap) (len : Nat) : State :=
  let s := if (getCore s n).atX2 then s else useToken s n (some len)
  let s := modCore s n (fun c => { c with trap := some t, atX2 := false, uaddr := none, word := (headWord c).rest })
  wrongPath s n 2

/-- The word at DE has issued and waits at X2 (R150, R151, R208): its token is consumed once. -/
def waitX2 (s : State) (n : Nat) (len : Nat) : State :=
  let s := if (getCore s n).atX2 then s else useToken s n (some len)
  modCore s n (fun c => { c with atX2 := true })

/-! ### Micro-routines (R208, R209, R215, R221) -/

/-- The micro-routine that an operation of a word runs (R208; the numbers are those of `Config.romEntry`): LSEG, or a split load. -/
def actRoutine (a : Act) (m : List Part) : Option Nat :=
  match a with
  | .lseg _ _ _ => some 5
  | .load _ _ _ _ _ | .store _ _ _ => if 2 ≤ m.length then some 4 else none
  | _ => none

/-- The sequencer's fetch of a microaddress (R209, R215): a ROM address that an enabled match register names is redirected to patch
memory; none where a parity bit does not agree (R221). -/
def microFetch (x : PhysCore) (a : BitVec 14) : Option (BitVec 14) :=
  if (List.range 32).any (fun i => x.patchBad.contains (512 + i)) then none
  else match (List.range 32).find? (fun i => let m := tget (fun _ => 0) x.matchR i
      m.getLsbD 63 && a.toNat < 0x3000 && m.extractLsb' 0 14 == a) with
    | some i =>
      let j := fld (tget (fun _ => 0) x.matchR i) 32 9
      if x.patchBad.contains j then none else some (BitVec.ofNat 14 (0x3000 + j))
    | none => some a

/-- The first microaddress that core `n` fetches of routine `k` (R209, R215). -/
def routineFetch (s : State) (n k : Nat) : Option (BitVec 14) :=
  match physOf s n with
  | some d => microFetch (getPhys s d) (Config.romEntry k)
  | none => some (Config.romEntry k)

/-- A parity error of patch memory or of a match register (R221): the core stops, and its course makes a PATCH_PARITY record. -/
def patchParity (s : State) (n : Nat) : State :=
  let c := getCore s n
  let s := setCore s n { c with upatch := c.upatch ||| 4 }
  stopCore (jrn s (courseOf s n) 0x1C c.dom (bytesOf 1 n)) n { code := 0, addr := 0, pc := c.pc }

/-- A micro-routine begins or goes on (R209, R221): its microaddress is held, and a parity error stops the core. -/
def runRoutine (s : State) (n k : Nat) (f : State → State) : State :=
  match routineFetch s n k with
  | none => patchParity s n
  | some u => f (modCore s n (fun c => { c with uaddr := some u }))

/-- A parity error meets the micro-routine of the word at DE, if it runs one. -/
def wordParity (s : State) (n : Nat) (h : HeadWord) (m : MRes) : Bool :=
  h.ops.any (fun e => match actRoutine e.2.act m.parts with | some k => (routineFetch s n k).isNone | none => false)

/-- The word has an RFE: TRAPST as the RFE reads it (R205). -/
def rfeWord (h : HeadWord) : Bool := h.ops.any (fun e => e.2.act == .rfe)
/-- The word has an MTS to TDID. -/
def bindWord (h : HeadWord) : Bool := h.ops.any (fun e => match e.2.act with | .mts num _ => num == 0x90 | _ => false)

/-- Results of short latency are waited for (R109, R153, R154): each handoff is a lost issue opportunity, as far as tokens are there. -/
def payHold : Nat → State → Nat → State
  | 0, s, _ => s
  | k + 1, s, n =>
    if pendHold (getCore s n) (headWord (getCore s n)) = 0 || !tokenReady (getCore s n) (coreTime s n) then s
    else payHold k (useToken s n none) n

/-- The word at DE is tried once (R97, R150, R154): it issues and commits, waits at X2, records a fault, or is held. True when it has
committed and the next one may be tried. -/
def tryIssue (s : State) (n : Nat) : Bool × State :=
  if !mayTry s n then (false, s) else
  let s := payOwed (getCore s n).owe s n
  let s := payHold 64 s n
  let c := getCore s n
  let h := headWord c
  if !c.atX2 && (c.owe ≠ 0 || pendHold c h ≠ 0 || !tokenReady c (coreTime s n)) then (false, s) else
  match fetchWord n (extent h) 0 s with
  | (.wait, s) => (false, if c.atX2 then s else useToken s n none)
  | (.fault code a, s) => (false, recordTrap s n (wordTrap c code a) (extent h))
  | (.ok _, s) =>
    match encTrap (getCore s n) h with
    | some t => if held s n { h with ops := h.ops.filter (fun _ => t.code == 0x20) } then (false, if c.atX2 then s else useToken s n none)
                else (false, recordTrap s n t (extent h))
    | none =>
      if held s n h then
        let s := if h.ops.any (fun e => (actStores e.2.act).isSome) then coreEv s n 0x0C 1 else s
        (false, if c.atX2 then s else useToken s n none)
      else if bindWord h && bindTooSoon s n then (false, modCore (useToken s n none) n (fun c => { c with busy := .bindWait }))
      else match wordM s n h with
        | (.wait, s) => (false, waitX2 s n (extent h))
        | (.fault code a, s) => (false, recordTrap s n (wordTrap c code a) (extent h))
        | (.ok m, s) =>
          if wordParity s n h m then (false, patchParity s n)
          else if rfeWord h then
            let c := getCore s n
            let st := (bankOf c c.level).trapSt
            if (match lvlOf (fld st 0 2) with | none => true | some l => decide (lvlNum c.level < lvlNum l)) then
              (false, recordTrap s n { code := 0x04, addr := st, pc := c.pc } (extent h))
            else if st.getLsbD 5 then (false, modCore s n (fun c => { c with busy := .rfe }))
            else (true, commitWord s n h m none)
          else (true, commitWord s n h m none)

/-- The words at DE are tried in order as far as they go (R150). -/
def advanceN : Nat → State → Nat → State
  | 0, s, _ => s
  | k + 1, s, n => match tryIssue s n with | (true, s) => advanceN k s n | (false, s) => s

/-! ### Fetch ahead (R149, R159, R173) -/

/-- Where the front end goes on after a word (R149, R160, R162): for a transfer the predicted address in normal mode, the next word
otherwise. -/
def nextFetch (c : Core) (pc : Word64) (h : HeadWord) : Word64 :=
  let next := pc + BitVec.ofNat 64 (4 * h.len)
  let base := fld (readSg c 0) 0 48
  let lin := base + pc.toNat
  if plain c || !h.ops.any (fun e => match e.2.act with | .xfer _ _ _ _ _ => true | _ => false) then next
  else
    let x : Xfer := { kind := .direct, taken := true, hint := false, isCall := false, lin := lin, target := 0, next := base + next.toNat, link := next }
    BitVec.ofNat 64 (predictNext c.pred (c.pctl.getLsbD 1) (c.pctl.getLsbD 0) base x - base)

/-- The lines of the words queued behind DE, each asked for when the core does not hold it (R149, R159); one behind an unresolved
transfer may be on a wrong path. No walk is started, and it stops at a miss of the L2 TLB, a fault, and a page that is not normal
cached (R173). -/
def fetchAhead (n : Nat) : Nat → Word64 → List Instr → State → State
  | 0, _, _, s => s
  | k + 1, pc, ws, s =>
    let c := getCore s n
    let h := takeWord c ws {}
    if !h.complete || c.fetching.isSome then s else
    match segCheck (readSg c 0) pc.toNat (4 * extent h) .fetch c.level with
    | .error _ => s
    | .ok lin =>
      match checkLin s n .fetch c.level false lin (4 * extent h) with
      | (.ok _ ps, t) =>
        if ps.any (fun p => p.mt != .cached || region t p.pa.toNat != .dram) then s
        else match ps.find? (fun p => (codeLine (getCore t n) (lineOfPa p.pa) p.mt).isNone) with
          | some p => askLine t n p
          | none => fetchAhead n k (nextFetch c pc h) h.rest t
      | _ => s

/-- The core goes on after any event that may let its oldest word issue. -/
def advance (s : State) (n : Nat) : State := advanceN 6 s n

/-- The front end fetches ahead of the word at DE. -/
def lookAhead (s : State) (n : Nat) : State :=
  let c := getCore s n
  let h := headWord c
  if !h.complete || h.rest.isEmpty || c.run ≠ .run then s else fetchAhead n 5 (nextFetch c c.pc h) h.rest s

/-- The core takes syllables: it runs, and no trap or entry is in progress. -/
def takesWords (c : Core) : Bool := c.run == .run && c.dead.isNone && !c.rot && c.trap.isNone && c.entry.isNone

/-- A syllable reaches DE (R90, R159; log entry 15): it joins the words there, which are then tried; behind five complete words
it has no place. -/
def stage (i : Instr) (y : Syl) (s : State) : State :=
  let n := y.n.toNat
  let c := getCore s n
  if !takesWords c || 5 ≤ wordCount c.word 0 then s
  else lookAhead (advance (setCore s n { c with word := c.word ++ [i] }) n) n

end Sys2Proof.Machine
end

