-- ==== Sys2Proof/Machine/CoreEvents.lean ====
section
/-! DEFINITION. What happens at a core other than a syllable: results and fills that arrive, walks, entries and returns,
interrupt deliveries, events, waits, tokens of the pace generator, block-repeat chunks, and invalidations (R126 to R148, R152,
R156, R188 to R206, R236, R242). -/
namespace Sys2Proof.Machine

/-! ### Results and fills -/

/-- The bytes of a whole line as line data. -/
def packLine (b : List PByte) : LineData := (lineOf 0 b).1

/-- A control region access other than a plain load or store is dropped (R29): an SC fails, the others return zero. -/
def ctlDrop (s : State) (n : Nat) (a : OutAcc) (p : Part) : OutAcc × State :=
  ({ a with parts := a.parts.map (fun q => if q.pa = p.pa then { q with data := some (pbytes q.len 0 false) } else q),
            scOk := (match a.kind with | .sc => some false | _ => a.scOk) },
   (match a.kind with | .sc => dropResv (ctlAccess s n p.len (p.pa.toNat - ctlBase)) n | _ => ctlAccess s n p.len (p.pa.toNat - ctlBase)))

/-- A load that lies on two lines, in the control region at least in part, is of no width and alignment of R29: what lies there is
zero, and the whole access is reported once. -/
def ctlSplit (s : State) (n : Nat) (a : OutAcc) : OutAcc × State :=
  let here := fun (p : Part) => p.data.isNone && region s p.pa.toNat == .ctl
  match a.parts.find? here with
  | none => (a, s)
  | some p =>
    ({ a with parts := a.parts.map (fun q => if here q then { q with data := some (pbytes q.len 0 false) } else q) },
     ctlAccess s n ((a.parts.map (·.len)).foldl (· + ·) 0) (p.pa.toNat - ctlBase))

/-- The unread parts of an access in the control region are read, once no older store is left (R29, R119). -/
def ctlParts (s : State) (n : Nat) (a : OutAcc) : OutAcc × State :=
  if a.wait ≠ 0 then (a, s) else
  if a.kind == .load && 2 ≤ a.parts.length then ctlSplit s n a else
  a.parts.foldl (fun (as : OutAcc × State) p =>
    match p.data, region as.2 p.pa.toNat with
    | none, .ctl =>
      (match as.1.kind with
       | .load =>
         let (v, s) := ctlLoad as.2 n (p.pa.toNat - ctlBase) p.len
         ({ as.1 with parts := as.1.parts.map (fun q => if q.pa = p.pa then { q with data := some (pbytes q.len v false) } else q) }, s)
       | _ => ctlDrop as.2 n as.1 p)
    | _, _ => as) (a, s)

/-- An older device access of the core is not performed (R119). -/
def olderDevice (c : Core) (i : Nat) : Bool := (c.accs.takeWhile (fun a => a.idx != i)).any accDevice

/-- LOAD_DATA_RETURN (R152, R153, R193): the result of an access whose data is there is written with its mark. -/
def loadReturn (s : State) (n i : Nat) : State :=
  match (getCore s n).accs.find? (fun a => a.idx == i) with
  | none => s
  | some a =>
    let (a, s) := if olderDevice (getCore s n) i || a.parts.any (olderSame (getCore s n) i) then (a, s) else ctlParts s n a
    let s := putAcc s n a
    if accDone a then
      let v := accValue a
      advance (kick (modCore s n (fun c => writeDst { c with accs := c.accs.filter (fun x => x.idx != i) } a.dst v.1 v.2)) n) n
    else s

/-- LOAD_DATA_RETURN. -/
def execLoadDataReturn (n : BitVec 8) (i : Nat) (s : State) : Host.Outcome State Fault Refusal := .next (loadReturn s n.toNat i)

/-- RESULT_WRITE (R152, R153): a divider or square root unit writes its result. -/
def execResultWrite (n : BitVec 8) (i : Nat) (s : State) : Host.Outcome State Fault Refusal :=
  match (getCore s n.toNat).results.find? (fun r => r.idx == i) with
  | none => .next s
  | some r =>
    let v := match r.dst with | .v _ => r.v.toNat | _ => r.g.toNat
    .next (advance (modCore s n.toNat (fun c =>
      writeDst { c with results := c.results.filter (fun x => x.idx != i) } r.dst v false)) n.toNat)

/-- STORE_DRAIN (R156): the oldest committed store is performed, or what it needs is requested. -/
def execStoreDrain (n : BitVec 8) (s : State) : Host.Outcome State Fault Refusal := .next (advance (drainHead s n.toNat) n.toNat)

/-- The line that a fetch asked for arrives, if it is there by now (R159). -/
def fillCode (s : State) (n : Nat) : State :=
  let c := getCore s n
  match c.fetching with
  | none => s
  | some (l, mt) =>
    match microRead n .fetch (tagOf c) (epochTag c) (c.level == .h) [{ pa := paOfLine l, len := 64, mt := mt }] s with
    | (none, s) => s
    | (some b, s) =>
      let s := modCore s n (fun c => { c with fetching := none })
      if mt = .cached && (l2Find (getCourse s (courseOf s n)) l).isSome then l1iFill s n l (packLine b)
      else modCore s n (fun c => { c with ulines := c.ulines ++ [(l, packLine b)] })

/-- L1I_MISS_FILL. -/
def execL1iMissFill (n : BitVec 8) (s : State) : Host.Outcome State Fault Refusal := .next (advance (fillCode s n.toNat) n.toNat)

/-- WALK_ENTRY_READ. -/
def execWalkEntryRead (n : BitVec 8) (s : State) : Host.Outcome State Fault Refusal := .next (advance (walkStep s n.toNat) n.toNat)

/-- WARM_UP_END (R167). -/
def execWarmUpEnd (n : BitVec 8) (s : State) : Host.Outcome State Fault Refusal :=
  let c := getCore s n.toNat
  if c.warm && c.warmLeft = 0 then .next (advance (setCore s n.toNat { c with warm := false }) n.toNat) else .next s

/-! ### Traps and returns -/

/-- EXCEPTION_ENTRY (R151, R188): a recorded fault, or a trapping operation, reaches CM. -/
def execExceptionEntry (n : BitVec 8) (s : State) : Host.Outcome State Fault Refusal :=
  let c := getCore s n.toNat
  match c.trap with
  | some t => if c.dead.isNone && c.entry.isNone then .next (beginEntry s n.toNat t) else .next s
  | none => .next s

/-- Entry goes on to its commit (R183 to R190): in mode 1 through the descriptor and the frame address, and two store buffer
entries must be free for the frame. -/
def entryStep (s : State) (n : Nat) : State :=
  let c := getCore s n
  match c.entry with
  | none => s
  | some e =>
    let mode1 := if e.lvl = .h then c.mode3 else c.mode1
    if !mode1 then entryCommit s n e (if e.lvl = .h then c.tentry3 else c.tentry1) none
    else runRoutine s n 6 (fun s => match descStep s n .data e.lvl (descIndex e.trap e.offer) with
      | (.wait, s) => s
      | (.fault code a, s) => entryFault s n code a
      | (.ok (h, seg), s) =>
        if seg.isSome && 22 < (getCore s n).sb.length then s else entryCommit s n e h seg)

/-- TRAP_ENTRY_COMMIT. -/
def execTrapEntryCommit (n : BitVec 8) (s : State) : Host.Outcome State Fault Refusal :=
  if (getCore s n.toNat).dead.isSome then .next s else .next (entryStep s n.toNat)

/-- The frame of an RFE with SEG = 1 is read and checked, and the return commits with its word (R205, R206). -/
def rfeRead (s : State) (n : Nat) : State :=
  let c := getCore s n
  let h := headWord c
  let sg7 := readSg c 7
  let off := (2 ^ 64 - 31 + fld sg7 64 64) % 2 ^ 64
  let flt := fun (s : State) (code a : Nat) => recordTrap (modCore s n (fun c => { c with busy := .none })) n (wordTrap c code a) (extent h)
  match segCheck sg7 off 32 .read c.level with
  | .error code => flt s code off
  | .ok lin =>
    match checkLin s n .read c.level false lin 32 with
    | (.fault code a, s) => flt s code a
    | (.miss a, s) => startWalk s n .data .read c.level a
    | (.ok _ ps, s) =>
      match microRead n .load (tagOf c) (epochTag c) (c.level == .h) ps s with
      | (none, s) => s
      | (some b, s) =>
        let a : Word128 := BitVec.ofNat 128 (pnat (b.take 16))
        let z : Word128 := BitVec.ofNat 128 (pnat (b.drop 16))
        if pany b then flt s 0x20 lin
        else if sgBad a then flt s 0x09 lin
        else if sgBad z then flt s 0x09 (lin + 16)
        else match wordM s n h with
          | (.ok m, s) => commitWord s n h m (some (a, z))
          | (_, s) => s

/-- RFE with SEG = 1 goes on (R205, R208). -/
def rfeFrame (s : State) (n : Nat) : State :=
  let c := getCore s n
  if c.busy ≠ .rfe || c.walk.isSome || c.trap.isSome then s else runRoutine s n 7 (fun s => rfeRead s n)

/-- RFE_FRAME_COMMIT. -/
def execRfeFrameCommit (n : BitVec 8) (s : State) : Host.Outcome State Fault Refusal := .next (advance (rfeFrame s n.toNat) n.toNat)

/-! ### The class F entry buffer (R201) -/

/-- A class F fill has failed. -/
def fillFail (s : State) (n : Nat) : State := modCore s n (fun c => { c with ffill := false, ffail := true, fready := false })

/-- The level of the leaf that translates a linear address at S, as the core's TLBs hold it (R201, R238). -/
def leafLvl (c : Core) (lin : Nat) : Nat :=
  match (c.l2tlb ++ c.itlb ++ c.dtlb).find? (tlbHit (regimeOf c .s) lin) with
  | some e => e.lvl
  | none => 1

/-- The fill of the class F entry buffer: descriptor 0x40 in mode 1, then the handler's first line. -/
def fillStep (s : State) (n : Nat) : State :=
  let c := getCore s n
  if !c.ffill then s else
  let d := if c.mode1 then descStep s n .fill .s 0x40 else (.ok (c.tentry1, none), s)
  match d with
  | (.wait, s) => s
  | (.fault _ _, s) => fillFail s n
  | (.ok (h, seg), s) =>
    match segCheck (if seg.isSome then flatSg .s else readSg c 0) h.toNat 4 .fetch .s with
    | .error _ => fillFail s n
    | .ok lin =>
      match checkPart s n .fetch .s false (lin / 64 * 64) 64 with
      | (.fault _ _, s) => fillFail s n
      | (.miss a, s) => startWalk s n .fill .fetch .s a
      | (.ok _ ps, s) =>
        if ps.any (fun p => p.mt == .device) then fillFail s n
        else match microRead n .fetch c.dom c.epoch false ps s with
          | (none, s) => s
          | (some b, s) =>
            if pany b then fillFail s n
            else
              let (base, limit, fp, fl) := match seg with
                | some (x, y, p) => (x, y, p.pa, x + y - 31)
                | none => (0, 0, (0 : PAddr), lin)
              let f : FBuf := { handler := h, seg := seg.isSome, base := BitVec.ofNat 64 base, limit := BitVec.ofNat 64 limit,
                                framePa := fp, line := (match ps with | p :: _ => lineOfPa p.pa | [] => 0), data := packLine b,
                                pages := [lin, fl, if c.mode1 then c.tdesc1.toNat + 0x800 else lin].map (fun a =>
                                  (BitVec.ofNat 48 a, leafLvl (getCore s n) a)),
                                tag := c.dom, lin := BitVec.ofNat 48 (lin / 64 * 64),
                                lineMt := (match ps with | p :: _ => p.mt | [] => .cached),
                                frameMt := (match seg with | some (_, _, p) => p.mt | none => .cached) }
              modCore s n (fun c => { c with fbuf := some f, fready := true, ffail := false, ffill := false })

/-- CLASS_F_FILL_DONE. -/
def execClassFFillDone (n : BitVec 8) (s : State) : Host.Outcome State Fault Refusal := .next (fillStep s n.toNat)

/-! ### Interrupt deliveries (R191, R196 to R204, R348, R354) -/

/-- A delivery reaches the core (R192, R348, R354): a stopped core refuses it; otherwise it is held, and one that passes the test
without IE ends a wait; at an off core it returns the core's hardware vote (R451). -/
def deliver (s : State) (n : Nat) (o : Offer) : State :=
  let s := if (getHub s n).offer = some o then received s (courseOf s n) (getHub s n).offerShort else s
  let c := getCore s n
  if c.dead.isSome || c.rot || c.run == .halted || c.run == .unhoused || c.run == .notStarted then
    coreEv (answer s n o.id .refuse) n 0x13 1
  else
    let s := setCore s n { c with offer := some o }
    if waiting c && judge s n c o true none = .accept then wakeCore s n 2
    else if c.run = .off && judge s n c o true none = .accept then
      match physOf s n with
      | some d => { s with votes := tset voteInit s.votes d (tget voteInit s.votes d ||| 4) }
      | none => s
    else s

/-- INTERRUPT_OFFER. -/
def execInterruptOffer (n : BitVec 8) (o : Offer) (s : State) : Host.Outcome State Fault Refusal :=
  .next (advance (deliver s n.toNat o) n.toNat)

/-- A takeover of a class P entry in progress (R200): `e1` is the displaced interrupt. -/
def takeOver (s : State) (n : Nat) (o o1 : Offer) (pre : Core) : State :=
  if o.clsF || o1.prio.toNat < o.prio.toNat then
    if judge s n pre o false (some o1.id) = .accept then
      let s := coreEv (answer (setCore s n pre) n o1.id .handback) n 0x16 1
      beginInterrupt (acceptOffer s n o) n o false
    else s
  else s

/-- CLASS_P_ENTRY (R132, R181, R196, R198 to R200): at an acceptance point, which for a running block-repeat operation is a chunk commit
and never comes while a word waits at X2, the core judges the delivery it holds and enters, refuses, or
lets it take over a class P entry to the same level. A class F delivery comes here only with FREADY = 0. -/
def classP (s : State) (n : Nat) : State :=
  let c := getCore s n
  match c.offer with
  | none => s
  | some o =>
    if c.dead.isSome || c.rot || (o.clsF && c.fready) then s
    else match c.entry, c.fresh with
      | some e, _ => (match e.offer with
          | some o1 => if e.kind = .classP && offerLevel o = e.lvl then takeOver s n o o1 { c with entry := none } else s
          | none => s)
      | none, some (o1, sg0, sg7) =>
        if offerLevel o = offerLevel o1 && judge s n c o false none ≠ .stale then
          takeOver s n o o1 (beforeFresh c (offerLevel o1) sg0 sg7)
        else (match judge s n c o false none with
          | .accept => beginInterrupt (acceptOffer s n o) n o false
          | v => turnAway s n o (v == .stale))
      | none, none =>
        if c.trap.isSome || c.atX2 || (c.busy ≠ .none && c.busy ≠ .bindWait) || (match c.blk with | some b => !b.stop | none => false) then s
        else match judge s n c o false none with
          | .accept => if c.run = .run then beginInterrupt (acceptOffer s n o) n o false else s
          | v => turnAway s n o (v == .stale)

/-- CLASS_P_ENTRY. -/
def execClassPEntry (n : BitVec 8) (s : State) : Host.Outcome State Fault Refusal := .next (advance (classP s n.toNat) n.toNat)

/-- A word that has issued waits at X2 for a walk, or for the reads of a split pair or an LSEG (R202). -/
def x2Busy (c : Core) : Bool :=
  c.atX2 || (c.entry.isNone && c.blk.isNone && (match c.walk with | some w => w.why == .data || w.why == .lock | none => false))

/-- The conditions of R202. -/
def classFOk (c : Core) : Bool :=
  c.run == .run && !x2Busy c && !c.sb.any (fun e => e.mt == .device) && c.dead.isNone && !c.rot && c.trap.isNone && (c.busy == .none || c.busy == .bindWait) && decide (c.sb.length ≤ 22) &&
    !c.accs.any accDevice && !serialOut c

/-- CLASS_F_ENTRY (R202 to R204): a class F delivery is accepted with the buffer filled; entry runs from the buffer and costs
28 tokens before the handler's first word. -/
def classF (s : State) (n : Nat) : State :=
  let c := getCore s n
  match c.offer, c.fbuf with
  | some o, some f =>
    let pre : Option (Core × Option Offer) := match c.entry, c.fresh with
      | some e, _ => if e.kind = .classP && e.lvl = .s then some ({ c with entry := none }, e.offer) else none
      | none, some (o1, sg0, sg7) => if offerLevel o1 = .s then some (beforeFresh c .s sg0 sg7, some o1) else some (c, none)
      | none, none => some (c, none)
    (match pre with
     | none => s
     | some (p, o1) =>
       if !o.clsF || !c.fready || !classFOk { p with trap := c.trap } then s
       else match judge s n p o false (o1.map (·.id)) with
         | .accept =>
           let s := match o1 with | some x => answer (setCore s n p) n x.id .handback | none => s
           let s := coreEv (acceptOffer s n o) n 0x14 1
           let ab := p.blk.isSome
           let s := if ab then coreEv s n 0x16 1 else s
           let s := beginInterrupt s n o ab
           let seg := if f.seg then some (f.base.toNat, f.limit.toNat, ({ pa := f.framePa, len := 32, mt := f.frameMt } : Part)) else none
           let e : Entry := { kind := .classF, trap := { code := 0, addr := 0, pc := p.pc }, offer := some o, lvl := .s, aband := ab }
           let s := entryCommit s n e f.handler seg
           let s := if f.lineMt = .cached then l1iFill s n f.line f.data else s
           modCore s n (fun c => { c with owe := 28, fcode := some f.lin })
         | v => if o1.isSome then s else turnAway s n o (v == .stale))
  | _, _ => s

/-- CLASS_F_ENTRY. -/
def execClassFEntry (n : BitVec 8) (s : State) : Host.Outcome State Fault Refusal := .next (advance (classF s n.toNat) n.toNat)

/-! ### Events and waits (R77, R144 to R147) -/

/-- SEV_DROP of a domain counts (R59). -/
def sevDrop (s : State) (t : Nat) : State := modDom s t (fun d => { d with status := fldSat d.status 48 16 1 })

/-- An event is taken off the mortar (R55). -/
def eventTake (s : State) (n : Nat) (ep : BitVec 8) (sender : Tdid) : State :=
  match s.events.find? (fun e => e.1.toNat == n && e.2.1 == ep && e.2.2.1 == sender) with
  | some e => received { s with events := s.events.erase e } (courseOf s n) e.2.2.2
  | none => s

/-- A running core takes an event at plumb time `now`: one of the ns in which a WAITT ended wins that WAITT's result (R147); any other
sets the flag. -/
def eventHeld (c : Core) (now : Nat) : Core :=
  match c.tie with
  | some (r, t) => if t = now then writeG { c with tie := none } r { v := 1 } else { c with evflag := true }
  | none => { c with evflag := true }

/-- An event reaches a core (R77, R144, R146, R147, R466): one for a core whose state is lost is dropped; a wrong epoch is refused;
otherwise the flag is set, or a WFE or WAITT ends; with the domain paused, the flag is set and takes effect on resume (R74). -/
def event (s : State) (n : Nat) (ep : BitVec 8) (sender : Tdid) : State :=
  let s := eventTake s n ep sender
  let c := getCore s n
  if c.run = .unhoused && !(getCourse s (courseOf s n)).saved.contains (BitVec.ofNat 8 n) then sevDrop s sender.toNat
  else if c.epoch ≠ ep then sevDrop (staleRecord s n 1 ep none) sender.toNat
  else if c.level ≠ .h && domPaused s c.dom.toNat then setCore s n { c with evflag := true }
  else match c.run with
    | .wfe | .waitt _ _ => wakeCore s n 1
    | .run => setCore s n (eventHeld c (coreTime s n))
    | _ => setCore s n { c with evflag := true }

/-- EVENT_ARRIVAL. -/
def execEventArrival (n : BitVec 8) (epoch : BitVec 8) (sender : BitVec 12) (s : State) : Host.Outcome State Fault Refusal :=
  .next (advance (event s n.toNat epoch sender) n.toNat)

/-- WAITT_DEADLINE (R147). -/
def execWaittDeadline (n : BitVec 8) (s : State) : Host.Outcome State Fault Refusal :=
  match (getCore s n.toNat).run with
  | .waitt _ d => if d.toNat ≤ coreTime s n.toNat then .next (advance (wakeCore s n.toNat 0) n.toNat) else .next s
  | _ => .next s

/-! ### The pace generator (R41 to R43, R295) -/

/-- The passes of one nanosecond of R41: at most five tokens; `w` while the core waits, is off or stalls on a budget. -/
def paceTokens : Nat → Bool → Core → Bool × Core
  | 0, _, c => (false, c)
  | k + 1, w, c =>
    if c.acc < 1000 then (false, c)
    else
      let c := { c with acc := c.acc - 1000 }
      if w then paceTokens k w c
      else if c.bank < 8 then paceTokens k w { c with bank := c.bank + 1 }
      else let r := paceTokens k w { c with slip := true }; (true, r.2)

/-- One nanosecond of the pace generator (R41 to R43, R295): a change of EFF counts from the next token (R40). -/
def paceTick (s : State) (n : Nat) : State :=
  let c := getCore s n
  let c : Core := { c with paceAt := c.paceAt + 1, effGen := if c.effGen = 0 then c.eff else c.effGen }
  let w := c.run != .run || (c.level != .h && c.stall != 0 && !c.ingrace)
  let c : Core := if c.bank = 0 then { c with slipEp := false } else c
  let sum := c.acc + 4 * c.effGen.toNat
  let (slips, c1) := paceTokens 6 w { c with acc := sum }
  let s := setCore s n { c1 with slipEp := c.slipEp || slips, effGen := if 1000 ≤ sum then c.eff else c.effGen }
  if slips && !c.slipEp then
    jrn s (courseOf s n) 0x08 c.dom (bytesOf 1 n ++ bytesOf 2 c.eff.toNat ++ bytesOf 2 c.nat.toNat)
  else s

/-- The generator has still to advance for a nanosecond of its course's replica (R41). -/
def paceDue (s : State) (n : Nat) : Bool := (getCore s n).plNow && decide ((getCore s n).paceAt < coreTime s n)

/-- PACE_GENERATOR_TICK: the generator advances for one nanosecond of the replica that it has not counted. -/
def execPaceGeneratorTick (n : BitVec 8) (s : State) : Host.Outcome State Fault Refusal :=
  if paceDue s n.toNat then .next (advance (paceTick s n.toNat) n.toNat) else .next s

/-! ### Block repeat (R130 to R134) -/

/-- Contiguous parts of one line and type joined. -/
def joinParts : List Part → List Part
  | [] => []
  | p :: r =>
    match joinParts r with
    | q :: t => if p.pa.toNat + p.len = q.pa.toNat && lineOfPa p.pa = lineOfPa q.pa && p.mt = q.mt then { p with len := p.len + q.len } :: t
                else p :: q :: t
    | [] => [p]

/-- The elements of a chunk checked in ascending order, the G5 region's before the G6 region's: R131 gives no order between the regions
(log entry 11). -/
def blkCheck (n : Nat) (b : Blk) (r5 r6 : Bool) (k6 : Kind) (g5 g6 : Nat) : Nat → Nat → List Part → List Part → State →
    Got (List Part × List Part) × State
  | 0, _, p5, p6, s => (.ok (p5, p6), s)
  | k + 1, i, p5, p6, s =>
    let c := getCore s n
    let one := fun (use : Bool) (seg : BitVec 3) (g : Nat) (kd : Kind) (s : State) =>
      if !use then (Got.ok [], s) else
      match checkAcc s n seg (BitVec.ofNat 64 (g + i * b.esz)) b.esz kd false false with
      | (.fault code a, s) => (Got.fault code a, s)
      | (.miss a, s) => (Got.wait, startWalk s n .data kd c.level a)
      | (.ok _ ps, s) => (Got.ok ps, s)
    match one r5 b.seg5 g5 .read s with
    | (.wait, s) => (.wait, s)
    | (.fault code a, s) => (.fault code a, s)
    | (.ok q5, s) =>
      match one r6 b.seg6 g6 k6 s with
      | (.wait, s) => (.wait, s)
      | (.fault code a, s) => (.fault code a, s)
      | (.ok q6, s) => blkCheck n b r5 r6 k6 g5 g6 k (i + 1) (p5 ++ q5) (p6 ++ q6) s

/-- The elements of the current chunk (R131): those whose first bytes lie in one line of the linear address space. -/
def blkCount (b : Blk) (lin g4 : Nat) : Nat := Nat.min g4 ((64 - lin % 64 + b.esz - 1) / b.esz)

/-- The number of leading elements that a compare or a scan passes. -/
def blkPass (e : Nat) (x : List PByte) (y : Nat → Nat) : Nat → Nat → Bool → Nat
  | 0, i, _ => i
  | k + 1, i, same => if (pnat ((x.drop (i * e)).take e) == y i) == same then blkPass e x y k (i + 1) same else i

/-- The bytes of a chunk's stores cut into store buffer entries of at most 16 bytes (R155). -/
def blkEntries (c : Core) : Nat → List Part → List PByte → List SbEntry
  | 0, _, _ => []
  | _ + 1, [], _ => []
  | k + 1, p :: r, b =>
    let m := Nat.min 16 p.len
    let e : SbEntry := { pa := p.pa, bytes := b.take m, mt := p.mt, tdid := tagOf c, epoch := epochTag c }
    e :: blkEntries c k (if p.len ≤ 16 then r else { p with pa := p.pa + 16, len := p.len - 16 } :: r) (b.drop m)

/-- A failed chunk (R132): the fault is precise at the block-repeat word. -/
def blkFault (s : State) (n code a : Nat) : State :=
  modCore (coreEv s n 0x16 1) n (fun c => { c with blk := none, trap := some (wordTrap c code a) })

/-- The linear address of the first element read from a poisoned line of a region (R132). -/
def blkPoison (b : Blk) (lin : Nat) (ps : List Part) (d : List PByte) : Nat :=
  let at_ := fun (i : Nat) => (ps.foldl (fun (a : Nat × Option LineNo) p => (a.1 - p.len, if a.1 < p.len && a.2.isNone then some (lineOfPa p.pa) else a.2)) (i, none)).2
  let bad := (List.range d.length).filterMap (fun i => if (d.getD i { b := 0 }).p then at_ i else none)
  match (List.range d.length).find? (fun i => match at_ i with | some l => bad.contains l | none => false) with
  | some i => lin + i / b.esz * b.esz
  | none => lin

/-- A chunk commits (R131): G4 to G6 move on, its stores enter the store buffer, and the operation ends or goes on. -/
def blkCommit (s : State) (n : Nat) (b : Blk) (done : Nat) (stop use5 use6 : Bool) (st : List SbEntry) (cost : Nat) : State :=
  modCore s n (fun c =>
    let g4 := (readG c 4).v - BitVec.ofNat 64 done
    let step := BitVec.ofNat 64 (done * b.esz)
    let c := writeG c 4 { v := g4 }
    let c := if use5 then writeG c 5 { v := (readG c 5).v + step } else c
    let c := if use6 then writeG c 6 { v := (readG c 6).v + step } else c
    let c := { c with sb := c.sb ++ st, owe := c.owe + cost }
    if stop || g4 = 0 then { c with blk := none, pc := c.pc + 4, uaddr := none, warmLeft := c.warmLeft - 1 }
    else { c with blk := some { b with lines := [] } })

/-- The chunk's lines are in use until it commits (R250). -/
def blkUse (s : State) (n : Nat) (b : Blk) (ps : List Part) : State :=
  modCore s n (fun c => { c with blk := some { b with lines := ps.map (fun p => lineOfPa p.pa) } })

/-- The store buffer has no room for what a chunk stores (R131, R155). -/
def blkFull (s : State) (n : Nat) (b : Blk) (p6 : List Part) : Bool :=
  (b.op == .movb || b.op == .setb) && decide (24 < (getCore s n).sb.length + p6.foldl (fun a p => a + (p.len + 15) / 16) 0)

/-- Which regions an operation uses: G5's, G6's, and the kind of its accesses to G6's (R130). -/
def blkUses (op : BlkOp) : Bool × Bool × Kind :=
  match op with
  | .movb => (true, true, .write) | .setb => (false, true, .write) | .cmpb => (true, true, .read) | .scanb => (true, false, .read)

/-- The parts of a chunk of one element: those of its first `e` bytes. -/
def cutParts (e : Nat) (ps : List Part) : List Part :=
  (ps.foldl (fun (a : Nat × List Part) p => if a.1 < e then (a.1 + p.len, a.2 ++ [p]) else a) (0, [])).2

/-- The checks of the next chunk (R131): the number of its elements, 1 where a page is not normal cached, and its parts in the G5 and
the G6 regions. -/
def blkParts (s : State) (n : Nat) (b : Blk) : Got (Nat × List Part × List Part) × State :=
  let c := getCore s n
  let (use5, use6, k6) := blkUses b.op
  let g := fun r => (readG c r).v.toNat
  let main6 := b.op == .movb || b.op == .setb
  let lin := fld (readSg c (if main6 then b.seg6 else b.seg5)) 0 48 + g (if main6 then 6 else 5)
  let full := blkCount b lin (g 4)
  match blkCheck n b use5 use6 k6 (g 5) (g 6) 1 0 [] [] s with
  | (.wait, s) => (.wait, s)
  | (.fault code a, s) => (.fault code a, s)
  | (.ok (q5, q6), s) =>
    let cnt := if (q5 ++ q6).any (fun p => p.mt != .cached) then 1 else full
    match blkCheck n b use5 use6 k6 (g 5) (g 6) cnt 0 [] [] s with
    | (.wait, s) => (.wait, s)
    | (.fault code a, s) => (.fault code a, s)
    | (.ok (p5, p6), s) =>
      if (p5 ++ p6).any (fun p => p.mt != .cached) || cnt = 1 then (.ok (1, joinParts (cutParts b.esz p5), joinParts (cutParts b.esz p6)), s)
      else (.ok (cnt, joinParts p5, joinParts p6), s)

/-- What a chunk of `cnt` elements does with the bytes `d` that it has read (R131, R132): it commits, or consumes poison. -/
def blkEnd (s : State) (n : Nat) (b : Blk) (cnt : Nat) (p5 p6 : List Part) (d : List PByte) : State :=
  let c := getCore s n
  let g := fun r => (readG c r).v.toNat
  let x := d.take (cnt * b.esz)
  let y := d.drop (cnt * b.esz)
  if (blkUses b.op).1 && pany x then blkFault s n 0x20 (blkPoison b (fld (readSg c b.seg5) 0 48 + g 5) p5 x)
  else if b.op == .cmpb && pany y then blkFault s n 0x20 (blkPoison b (fld (readSg c b.seg6) 0 48 + g 6) p6 y)
  else match b.op with
    | .movb => blkCommit s n b cnt false true true (blkEntries c 65 p6 x) 8
    | .setb => blkCommit s n b cnt false false true (blkEntries c 65 p6 ((List.range cnt).flatMap (fun _ => pbytes b.esz (g 7) false))) 4
    | .cmpb =>
      let k := blkPass b.esz x (fun i => pnat ((y.drop (i * b.esz)).take b.esz)) cnt 0 true
      blkCommit s n b k (k != cnt) true true [] 4
    | .scanb =>
      let k := blkPass b.esz x (fun _ => g 7 % 2 ^ (8 * b.esz)) cnt 0 false
      blkCommit s n b k (k != cnt) true false [] 4

/-- One chunk (R131): checks, reads, commit; it does not begin to read before its stores have room. -/
def chunk (s : State) (n : Nat) (b : Blk) : State :=
  match blkParts s n b with
  | (.wait, s) => s
  | (.fault code a, s) => blkFault s n code a
  | (.ok (cnt, p5, p6), s) =>
    let s := blkUse s n b (p5 ++ p6)
    if blkFull s n b p6 then coreEv s n 0x0C 1 else
    let c := getCore s n
    match microRead n .load (tagOf c) (epochTag c) (c.level == .h) (p5 ++ (if b.op == .cmpb then p6 else [])) s with
    | (none, s) => s
    | (some d, s) => blkEnd s n b cnt p5 p6 d

/-- The number of a block-repeat operation's micro-routine (R208). -/
def blkRoutine (b : Blk) : Nat := match b.op with | .movb => 0 | .setb => 1 | .cmpb => 2 | .scanb => 3

/-- A held delivery that the core would accept stops a running operation at its chunk commit (R132, R198). -/
def blkStop (s : State) (n : Nat) : State :=
  let c := getCore s n
  match c.blk, c.offer with
  | some b, some o => if judge s n c o false none = .accept then setCore s n { c with blk := some { b with stop := true } } else s
  | _, _ => s

/-- The operation stands at a chunk commit for a delivery that the core would accept. -/
def blkStopped (s : State) (n : Nat) (b : Blk) : Bool :=
  b.stop && (match (getCore s n).offer with | some o => judge s n (getCore s n) o false none == .accept | none => false)

/-- The elements that are left, as G4 counts them. -/
def blkLeft (s : State) (n : Nat) : Word64 := (readG (getCore s n) 4).v

/-- The next chunk runs, and where it commits a held delivery may stop the operation (R131, R132). -/
def blkStep (s : State) (n : Nat) (b : Blk) : State :=
  let g4 := blkLeft s n
  let s := runRoutine s n (blkRoutine b) (fun s => chunk s n { b with stop := false })
  if blkLeft s n = g4 then s else blkStop s n

/-- BLOCK_CHUNK: the next chunk of a running block-repeat operation, if the core may go on; `parityErr` tells that a fetch of its
micro-routine met a parity error (R221). -/
def execBlockChunk (n : BitVec 8) (parityErr : Bool) (s : State) : Host.Outcome State Fault Refusal :=
  let k := n.toNat
  let c := getCore s k
  match c.blk with
  | none => .next s
  | some b =>
    if c.run ≠ .run || c.dead.isSome || c.rot || c.trap.isSome || c.entry.isSome || (c.level ≠ .h && domPaused s c.dom.toNat) ||
       (match c.walk with | some w => w.why != .pref && w.why != .fill | none => false) || blkStopped s k b then .next s
    else if parityErr then .next (patchParity s k)
    else
      let s := payOwed c.owe s k
      if (getCore s k).owe ≠ 0 then .next s else .next (advance (blkStep s k b) k)

/-! ### Invalidations (R135, R242) -/

/-- The lines that the core has asked for by a fetch, a PREF or a micro-routine (R242). -/
def linesAsked (s : State) (n : Nat) : List LineNo :=
  (match (getCore s n).fetching with | some (l, _) => [l] | none => []) ++
    ((getCourse s (courseOf s n)).reqs.filter (fun r => r.msg.core == some (BitVec.ofNat 8 n))).map (·.msg.line)

/-- TLB_INVALIDATION (R242, steps 3 to 5): entries go, and the acknowledgement is owed once the accesses that may have used a
removed entry are performed. -/
def tlbInvalidate (s : State) (n : Nat) (i : TlbInv) : State :=
  let s := received { s with invNet := s.invNet.erase (BitVec.ofNat 8 n, i) } (courseOf s n) i.short
  let ls := linesAsked s n
  let s := invalidate s n i.scope
  modCore s n (fun c => { c with ackWait := c.ackWait ++ [(i.from_, c.accs.map (·.idx), c.sb.length, ls)] })

/-- TLB_INVALIDATION. -/
def execTlbInvalidation (n : BitVec 8) (i : TlbInv) (s : State) : Host.Outcome State Fault Refusal :=
  .next (advance (tlbInvalidate s n.toNat i) n.toNat)

/-- An acknowledgement owed to a core may be sent: its accesses, stores and reads of lines are performed (R242). -/
def ackReady (s : State) (k : Nat) (to_ : Logical) : Bool :=
  let c := getCore s k
  !c.ackWait.any (fun e => e.1 == to_ && (e.2.2.1 != 0 || c.accs.any (fun a => e.2.1.contains a.idx && !accDone a) ||
    (linesAsked s k).any (fun l => e.2.2.2.contains l)))

/-- TLB_INV_ACK (R242, step 6): the executing core goes on after the last one. -/
def tlbAck (s : State) (n from_ : Nat) : State :=
  if s.invNet.any (fun e => e.1.toNat == from_ && e.2.from_.toNat == n) || !ackReady s from_ (BitVec.ofNat 8 n) then s
  else
    let s := modCore s from_ (fun c => { c with ackWait := c.ackWait.filter (fun e => e.1.toNat != n) })
    modCore s n (fun c => match c.busy with
      | .tlb w =>
        let w := w &&& ~~~(BitVec.ofNat 256 (2 ^ from_))
        { c with busy := if w = 0 then .none else .tlb w }
      | _ => c)

/-- TLB_INV_ACK. -/
def execTlbInvAck (n : BitVec 8) (from_ : BitVec 8) (s : State) : Host.Outcome State Fault Refusal :=
  .next (advance (tlbAck s n.toNat from_.toNat) n.toNat)

/-- ICINV_BROADCAST (R135): the broadcast reaches a course, and the line goes from the L1I of every core there. -/
def icinvAt (s : State) (k : Nat) (n : Logical) (line : LineNo) : State :=
  let s := match s.icNet.find? (fun e => e.1 == n && e.2.1.toNat == k && e.2.2.1 == line) with
    | some e => received { s with icNet := s.icNet.erase e } k e.2.2.2
    | none => s
  (coresOf s k).foldl (fun s j => modCore s j (fun c => { c with l1i := c.l1i.filter (fun e => e.1 != line) })) s

/-- ICINV_BROADCAST. -/
def execIcinvBroadcast (course : BitVec 5) (n : BitVec 8) (line : BitVec 46) (s : State) : Host.Outcome State Fault Refusal :=
  .next (icinvAt s course.toNat n line)

/-- ICINV_ACK (R135): a course acknowledges once the broadcast has been there; the executing core's ICINV completes after the last
acknowledgement, and what it fetched beyond goes. -/
def icinvAck (s : State) (n k : Nat) : State :=
  if s.icNet.any (fun e => e.1.toNat == n && e.2.1.toNat == k) then s else
  modCore s n (fun c => match c.busy with
    | .icinv w =>
      let w := w &&& ~~~(BitVec.ofNat 32 (2 ^ k))
      if w = 0 then { c with busy := .none, word := [] } else { c with busy := .icinv w }
    | _ => c)

/-- ICINV_ACK. -/
def execIcinvAck (n : BitVec 8) (course : BitVec 5) (s : State) : Host.Outcome State Fault Refusal :=
  .next (advance (icinvAck s n.toNat course.toNat) n.toNat)

end Sys2Proof.Machine
end

