-- ==== Sys2Proof/Machine/HomeOps.lean ====
section
/-! DEFINITION. The home of a line: trackers, directory, L3 and memory requests, and what it does with each request and answer
(R249 to R283). -/
namespace Sys2Proof.Machine

/-! ### Agents that answer -/

/-- The channel of a line (R361). -/
def channelOf (l : LineNo) : Nat := ((l.toNat % 16) ^^^ (l.toNat / 4096 % 16)) ^^^ (l.toNat / 16777216 % 16)

/-- Plumb time at a slice's stop. -/
def sliceNow (s : State) (h : Nat) : Nat := plumbOf s (32 + h)

/-- A course named in a set of courses. -/
def courseIn (b : BitVec 32) : List Nat := (List.range 32).filter (fun c => b.getLsbD c)

/-- The set with one course. -/
def oneCourse (c : Nat) : BitVec 32 := BitVec.ofNat 32 (2 ^ (c % 32))

/-! ### What the home sends -/

/-- A message with line data charges its sender (R302). -/
def sendLine (s : State) (m : Msg) : State :=
  send (if m.data.isSome then charge s m.src.toNat m.tdid.toNat (evCharge s 3 none) else s) m

/-- An answer of slice `h` to a request (R257). -/
def reply (h : Nat) (m : Msg) (k : MsgKind) : Msg :=
  { kind := k, src := BitVec.ofNat 7 (32 + h), dst := m.req, tdid := m.tdid, epoch := m.epoch, line := m.line, req := m.req,
    core := m.core, idx := m.idx, use := m.use, origin := m.kind, aclass := m.aclass }

/-- A forward of slice `h` for a request (R257). -/
def forwardMsg (h : Nat) (m : Msg) (k : MsgKind) (c : Nat) : Msg :=
  { reply h m k with dst := BitVec.ofNat 7 c }

/-- What a slice event carries for the filters of its bank (R479). -/
def msgAttr (m : Msg) : EvAttr := { tdid := some m.tdid.toNat, from_ := some m.req.toNat, line := some m.line, cls := some 0 }

/-- A tracker put in place of any other on its line. -/
def putTrk (s : State) (h : Nat) (t : Tracker) : State :=
  modSlice s h (fun x => { x with trk := x.trk.filter (fun y => y.msg.line != t.msg.line) ++ [t] })

/-- The tracker of a line closed. -/
def closeTrk (s : State) (h : Nat) (l : LineNo) : State :=
  modSlice s h (fun x => { x with trk := x.trk.filter (fun y => y.msg.line != l) })

/-- COH_CTL.DEAD_TO in ns (R284). -/
def deadTo (s : State) : Nat := fld s.cohCtl 32 16 * 10000

/-- A tracker as a request takes it (R271, R282, R284). -/
def newTrk (s : State) (h : Nat) (m : Msg) (r : Bool) : Tracker :=
  { msg := m, wait := .ready, resvd := r, opened := s.plumb.now, openTo := deadTo s }

/-- Forwards sent to courses; the tracker waits for their answers (R260 to R274). -/
def sendFwds (s : State) (h : Nat) (t : Tracker) (w : TrkWait) (k : MsgKind) (cs : List Nat) : State :=
  let s := putTrk s h { t with wait := w, from_ := BitVec.ofNat 32 (cs.foldl (fun a c => a + 2 ^ c) 0), fwdAt := s.plumb.now,
                               fwdTo := deadTo s }
  cs.foldl (fun s c => send s (forwardMsg h t.msg k c)) s

/-- A request to the line's memory controller, stamped and tagged as R22, R54 and R286 lay down; its number (R256). -/
def memRequest (s : State) (h : Nat) (l : LineNo) (write : Bool) (d : LineData) (mask : BitVec 64) (t : Tdid) (ep : BitVec 8)
    (ovh : Bool) : Nat × State :=
  let id := (getSlice s h).nextMem * 32 + h
  let s := modSlice s h (fun x => { x with nextMem := x.nextMem + 1 })
  let (st, s) := shortStamp s (32 + h)
  let r : MemReq := { id := id, line := l, write := write, data := d, mask := mask, tdid := t, ovh := ovh, src := BitVec.ofNat 7 (32 + h),
                      epoch := ep, short := st }
  (id, { s with memNet := s.memNet ++ [(BitVec.ofNat 4 (channelOf l), r)] })

/-- Every byte of a line. -/
def allBytes : BitVec 64 := BitVec.allOnes 64

/-- The tracker waits for a read of its line (R260). -/
def readMem (s : State) (h : Nat) (t : Tracker) : State :=
  let (id, s) := memRequest s h t.msg.line false {} 0 t.msg.tdid t.msg.epoch false
  putTrk s h { t with wait := .mem, memId := id }

/-- The tracker waits for memory to accept a write of its line (R261, R265). -/
def writeMem (s : State) (h : Nat) (t : Tracker) (d : LineData) (mask : BitVec 64) : State :=
  let (id, s) := memRequest s h t.msg.line true d mask t.msg.tdid t.msg.epoch false
  putTrk s h { t with wait := .memWrite, memId := id }

/-! ### The L3 (R249, R250) -/

/-- The way of an L3 set for a line of class `k`: the lowest invalid way of the mask, or a pseudo-LRU choice, a FREE VALUE. -/
def l3Way (s : State) (h : Nat) (l : LineNo) (k : Nat) : Nat × State :=
  let ws := (List.range 16).filter (fun w => (pmask s k).getLsbD (16 + w))
  let at_ := fun w => tget (fun _ => {}) (getSlice s h).l3 (16 * l3Set l + w)
  match ws.find? (fun w => !(at_ w).valid) with
  | some w => (w, s)
  | none => let (r, s) := free s; (ws.getD (r % ws.length) 0, s)

/-- An access of a slice's L3 finds what the line's check bits show (R251): single-bit errors are corrected and counted; an
uncorrectable error drops a clean line, and poisons the words of a dirty one, with an L3_UE record. -/
def l3Check (s : State) (h : Nat) (l : LineNo) : State :=
  match l3Find (getSlice s h) l with
  | none => s
  | some (k, e) =>
    if e.ce = 0 && e.ue = 0 then s else
    let s := if e.ce = 0 then s else modSlice s h (fun x => { x with err := fldSat x.err 32 16 (badWords e.ce) })
    if e.ue = 0 then setL3 s h k { e with ce := 0 } else
    let s := modSlice s h (fun x => { x with err := fldSat x.err 16 16 (badWords e.ue) })
    if !e.dirty then setL3 s h k {}
    else
      jrn (setL3 s h k { e with ce := 0, ue := 0, data := { e.data with poison := e.data.poison ||| e.ue } })
        (32 + h) 0x21 0 (bytesOf 8 (l.toNat * 64) ++ bytesOf 1 e.ue.toNat)

/-- A line placed in its slice's L3 with its class (R250); a dirty victim is written to memory for the same TDID (R286). -/
def l3Place (s : State) (h : Nat) (l : LineNo) (d : LineData) (dirty : Bool) (k : BitVec 4) (t : Tdid) (ep : BitVec 8) (ovh : Bool) :
    State :=
  match l3Find (getSlice s h) l with
  | some (w, e) => setL3 s h w { e with data := d, dirty := e.dirty || dirty, ce := 0, ue := 0 }
  | none =>
    let (w, s) := l3Way s h l k.toNat
    let key := 16 * l3Set l + w
    let s := l3Check s h (tget (fun _ => {}) (getSlice s h).l3 key).line
    let v := tget (fun _ => {}) (getSlice s h).l3 key
    let s := if v.valid && v.dirty then (memRequest s h v.line true v.data allBytes t ep ovh).2 else s
    setL3 s h key { valid := true, dirty := dirty, line := l, data := d, aclass := k, tdid := t }

/-- The L3 copy of a line dropped. -/
def l3Drop (s : State) (h : Nat) (l : LineNo) : State :=
  match l3Find (getSlice s h) l with
  | some (k, _) => setL3 s h k {}
  | none => s

/-! ### Directory allocation (R272, R276) -/

/-- What dir_alloc answers (R272). -/
inductive DirAlloc where
  | way (k : Nat) | victim (k : Nat) (e : DirEnt) | retry | nofill
  deriving DecidableEq, Repr

/-- The least recently used of some ways of a set (R253). -/
def lruOf (order ws : List Nat) : Nat :=
  match ws.find? (fun w => !order.contains w) with
  | some w => w
  | none => ((order.filter (fun w => ws.contains w)).getLast?).getD 0

/-- The set of a line is being scrubbed (R283). -/
def scrubbing (s : State) (h : Nat) (l : LineNo) : Bool := (getSlice s h).scrubs.any (fun b => b.set.toNat == dirSet l)

/-- dir_alloc (R272), with the claim of R276 and the scrub of R283. -/
def dirAlloc (s : State) (h : Nat) (l : LineNo) (cls : Nat) (req : BitVec 7) : DirAlloc :=
  let x := getSlice s h
  let set := dirSet l
  let at_ := fun w => tget (fun _ => {}) x.dir (20 * set + w)
  let claimed := match tget (fun _ => none) x.claims set with | some c => c.agent != req | none => false
  if scrubbing s h l then .retry
  else match (List.range 20).find? (fun w => (at_ w).st == .invalid) with
    | some w => .way (20 * set + w)
    | none =>
      let cand := (List.range 20).filter (fun w => !x.trk.any (fun t => t.msg.line == (at_ w).line))
      if cand.isEmpty || claimed then .retry
      else
        let elig := cand.filter (fun w => (pmask s (at_ w).aclass.toNat &&& pmask s cls).extractLsb' 0 16 != 0)
        if elig.isEmpty then .nofill
        else
          let w := lruOf (tget (fun _ => []) x.dirLru set) elig
          .victim (20 * set + w) (at_ w)

/-- A claim ends when its claimant allocates (R276). -/
def endClaim (s : State) (h set : Nat) (a : BitVec 7) : State :=
  match tget (fun _ => none) (getSlice s h).claims set with
  | some c => if c.agent = a then modSlice s h (fun x => { x with claims := tset (fun _ => none) x.claims set none }) else s
  | none => s

/-- RETRY (R271, R272, R275): `full` for a full or claimed set, else for lack of a tracker. The request goes back whole, so
that the requester can send it again. -/
def sendRetry (s : State) (h : Nat) (m : Msg) (full : Bool) : State :=
  let s := modSlice s h (fun x => { x with trkReg := fldSat x.trkReg (if full then 48 else 32) 16 1 })
  let s := bankEv s (32 + h) 5 1 (msgAttr m)
  send s { m with kind := .retry, src := BitVec.ofNat 7 (32 + h), dst := m.req, origin := m.kind, claim := full }

/-- A request that could not allocate records its claim, if it carries one and none stands (R276). -/
def recordClaim (s : State) (h : Nat) (m : Msg) : State :=
  let set := dirSet m.line
  if m.claim && fld s.cohCtl 0 4 ≠ 0 && (tget (fun _ => none) (getSlice s h).claims set).isNone then
    modSlice s h (fun x => { x with claims := tset (fun _ => none) x.claims set (some { agent := m.req, since := s.plumb.now }) })
  else s

/-! ### Serving a request from the home copy -/

/-- H_DONE ends a home-performed request (R265); none is sent to a requester that is dead (R281). -/
def doneAt (s : State) (h : Nat) (t : Tracker) (d : Option LineData) (ok : Bool) : State :=
  let s := closeTrk s h t.msg.line
  if agentDown s t.msg.req.toNat then s else sendLine s { reply h t.msg .hDone with data := d, ok := ok }

/-- The reservation of an HLR is recorded at the home (R266), with the 64 ns of R128. -/
def homeReserve (s : State) (h : Nat) (m : Msg) : State :=
  match m.kind, m.core with
  | .hlr, some n => modSlice s h (fun x =>
      { x with resv := tset (fun _ => 0) x.resv n.toNat (m.line.toNat + 1), resvEnd := tset (fun _ => 0) x.resvEnd n.toNat (sliceNow s h + 64) })
  | _, _ => s

/-- A line granted to a course (R266): reservations at the home go. -/
def granted (s : State) (l : LineNo) : State := clearHomeResv s l (fun _ => true)

/-- An atomic applied to a line (R123, R265); poisoned old data leaves it as it is (R193). -/
def atomicLine (a : AtomicReq) (d : LineData) : LineData :=
  let old := lineRead d a.off.toNat a.wid
  if pany old then d
  else lineWrite d a.off.toNat (pbytes a.wid (atomicNew a.op a.wid (BitVec.ofNat 64 (pnat old)) a.opnd).toNat false)

/-- HWR, HSC and HAT end (R265): the new line goes to the L3 copy, if any, or to memory, and the old one is returned for an
HAT. `base` is a course's dirty data, which memory does not hold. -/
def homeWrite (s : State) (h : Nat) (t : Tracker) (old : Option LineData) (base : Bool) : State :=
  let m := t.msg
  let s := dirFree (clearHomeResv s m.line (fun _ => true)) h m.line
  let new := fun (d : LineData) => match m.kind with
    | .hat => (match m.atomic with | some a => atomicLine a d | none => d)
    | _ => lineMerge d (m.data.getD {}) m.mask
  let back := if m.kind = .hat then old else none
  match l3Find (getSlice s h) m.line with
  | some (k, e) => doneAt (setL3 s h k { e with data := new e.data, dirty := true }) h t back true
  | none =>
    match old with
    | some d => writeMem s h { t with data := back } (new d) (if base || m.kind = .hat then allBytes else m.mask)
    | none => writeMem s h { t with data := none } (m.data.getD {}) m.mask

/-- The home copy is at hand: the request is answered (R255, R260, R261, R265, R273). `l3` tells that it is the L3 copy. -/
def haveData (s : State) (h : Nat) (t : Tracker) (d : LineData) (l3 : Option L3Line) : State :=
  let m := t.msg
  match m.kind with
  | .hrd | .hlr => doneAt (homeReserve s h m) h t (some d) true
  | .hat | .hwr | .hsc => homeWrite s h t (some d) false
  | _ =>
    match dirFind (getSlice s h) m.line with
    | none => sendLine (closeTrk s h m.line) { reply h m .dataNf with data := some d }
    | some (_, e) =>
      let s := granted s m.line
      if e.st = .owned then
        let dirty := match l3 with | some x => x.dirty | none => false
        sendLine (closeTrk (l3Drop s h m.line) h m.line) { reply h m (if dirty then .dataO else .dataE) with data := some d, dirty := dirty }
      else sendLine (closeTrk s h m.line) { reply h m .dataS with data := some d }

/-- The home copy is looked up in the L3 and else read from memory (R260). -/
def gather (s : State) (h : Nat) (t : Tracker) : State :=
  match l3Find (getSlice s h) t.msg.line with
  | some (_, e) => haveData (bankEv s (32 + h) 2 1 (msgAttr t.msg)) h t e.data (some e)
  | none => readMem s h t

/-- The entry state of a request that meets no holder (R255, R260, R261). -/
def entryFor (m : Msg) : DirSt :=
  match m.kind with
  | .rdS => if m.use = .load || m.use = .lr then .owned else .shared
  | _ => .owned

/-- The directory entry of a requester (R253). -/
def entryOf (m : Msg) (st : DirSt) : DirEnt :=
  { st := st, line := m.line, aclass := m.aclass,
    holders := if st = .owned then BitVec.ofNat 32 m.req.toNat else oneCourse m.req.toNat }

/-- The courses that an entry names (R253); a LOST one names its dead owner. -/
def holdersOf (e : DirEnt) : List Nat := if e.st = .shared then courseIn e.holders else [e.holders.toNat % 32]

/-- A request that needs an entry and finds none (R272 to R274); the tracker of a victim's line is a general one, and where none is
free the request is answered RETRY for lack of a tracker (R271; log entry 139). -/
def allocate (s : State) (h : Nat) (t : Tracker) : State :=
  let m := t.msg
  match dirAlloc s h m.line m.aclass.toNat m.req with
  | .way k =>
    let s := bankEv (endClaim s h (dirSet m.line) m.req) (32 + h) 3 1 (msgAttr m)
    gather (setDir s h k (entryOf m (entryFor m))) h t
  | .victim _ e =>
    if (trackerFor s h m.req 0).isNone then sendRetry (closeTrk s h m.line) h m false else
    let s := bankEv (endClaim s h (dirSet m.line) m.req) (32 + h) 3 1 (msgAttr m)
    let s := bankEv s (32 + h) 4 1 (msgAttr m)
    let s := putTrk s h { t with wait := .binv }
    let b : Msg := { kind := .binv, src := BitVec.ofNat 7 (32 + h), dst := BitVec.ofNat 7 (32 + h), line := e.line, aclass := e.aclass }
    sendFwds s h { newTrk s h b false with wait := .binv, next := some m } .binv .binv (holdersOf e)
  | .retry => recordClaim (sendRetry (closeTrk s h m.line) h m true) h m
  | .nofill => gather (bankEv s (32 + h) 6 1 (msgAttr m)) h t

/-- A read for ownership from the sharers' home copy: the entry becomes the requester's, then the home copy goes (R261). -/
def takeOwnership (s : State) (h : Nat) (t : Tracker) : State :=
  match dirFind (getSlice s h) t.msg.line with
  | some (k, e) => gather (setDir s h k { entryOf t.msg .owned with aclass := e.aclass }) h t
  | none => allocate s h t

/-- GRANT of an upgrade (R262). -/
def grantUpg (s : State) (h : Nat) (t : Tracker) : State :=
  match dirFind (getSlice s h) t.msg.line with
  | some (k, e) =>
    let s := granted (setDir s h k { entryOf t.msg .owned with aclass := e.aclass }) t.msg.line
    send (closeTrk s h t.msg.line) { reply h t.msg .grant with dirty := t.dirty }
  | none => allocate s h t

/-- CFLUSH, CCLEAN and CINV end at the home once every course has answered (R267); a CCLEAN whose owner had its line in the writeback
buffer leaves no copy at the course, so its entry is freed (R264, R270). -/
def maintDone (s : State) (h : Nat) (t : Tracker) (viaWb : Bool) : State :=
  let l := t.msg.line
  let s := if viaWb then dirFree s h l else s
  let l3 := l3Find (getSlice s h) l
  let dirtyL3 : Option LineData := match l3 with | some (_, e) => if e.dirty then some e.data else none | none => none
  let d := if t.dirty then t.data else dirtyL3
  let s := match t.msg.kind with
    | .cleanReq => (match l3 with | some (k, e) => setL3 s h k { e with dirty := false } | none => s)
    | _ => dirFree (l3Drop s h l) h l
  match t.msg.kind, d with
  | .invReq, _ => doneAt s h t none true
  | _, some d => writeMem s h { t with data := none } d allBytes
  | _, none => doneAt s h t none true

/-- A request that holds a tracker and meets no other on its line is served (R260 to R267). -/
def serve (s : State) (h : Nat) (t : Tracker) : State :=
  let m := t.msg
  let s := charge s (32 + h) m.tdid.toNat (evCharge s 4 none)
  let e := dirFind (getSlice s h) m.line
  let hs := match e with | some (_, e) => holdersOf e | none => []
  let owned : Bool := match e with | some (_, e) => e.st == .owned | none => false
  let others := hs.filter (fun c => c != m.req.toNat)
  match m.kind with
  | .rdS =>
    (match e with
     | none => allocate s h t
     | some (k, d) =>
       if owned then sendFwds s h t .fwd .fwdS hs
       else gather (setDir s h k { d with holders := d.holders ||| oneCourse m.req.toNat }) h t)
  | .upg | .rdO =>
    if e.isNone then allocate s h t
    else if owned then sendFwds s h t .fwd .fwdO hs
    else if m.kind = .upg && hs.contains m.req.toNat then
      let dirty := match l3Find (getSlice s h) m.line with | some (_, x) => x.dirty | none => false
      let s := l3Drop s h m.line
      if others.isEmpty then grantUpg s h { t with dirty := dirty } else sendFwds s h { t with dirty := dirty } .inv .inv others
    else if others.isEmpty then takeOwnership s h t
    else sendFwds s h t .inv .inv others
  | .hrd | .hlr => if owned then sendFwds s h t .fwd .fwdS hs else gather s h t
  | .hsc =>
    let n := match m.core with | some n => n.toNat | none => 0
    if tget (fun _ => 0) (getSlice s h).resv n ≠ m.line.toNat + 1 then doneAt s h t none false
    else if owned then sendFwds s h t .fwd .fwdO hs
    else if hs.isEmpty then homeWrite s h t none false
    else sendFwds s h t .inv .inv hs
  | .hwr | .hat =>
    if owned then sendFwds s h t .fwd .fwdO hs
    else if !hs.isEmpty then sendFwds s h t .inv .inv hs
    else if m.kind = .hat then gather s h t else homeWrite s h t none false
  | .flushReq => if (upCourses s).isEmpty then maintDone s h t false else sendFwds s h t .maint .flush (upCourses s)
  | .invReq => if (upCourses s).isEmpty then maintDone s h t false else sendFwds s h t .maint .inv (upCourses s)
  | .cleanReq => if owned then sendFwds s h t .maint .clean hs else maintDone s h t false
  | _ => closeTrk s h m.line

/-! ### Directory errors (R251, R283) -/

/-- A set scrub begins with an uncorrectable error in the set (R283): it is counted and journaled. SET_SCRUB waits until no tracker is
open on a line of the set. -/
def beginScrub (s : State) (h : Nat) (set : BitVec 13) : State :=
  let s := modSlice s h (fun x => { x with err := fldSat x.err 8 8 1, scrubs := x.scrubs ++ [{ set := set }] })
  jrn s (32 + h) 0x25 0 (bytesOf 2 set.toNat)

/-- An access of a directory entry finds what its check bits show (R251): a single-bit error is corrected and counted; an
uncorrectable one begins a scrub of its set. -/
def dirCheck (s : State) (h : Nat) (l : LineNo) : State :=
  match dirFind (getSlice s h) l with
  | none => s
  | some (k, e) =>
    let s := if e.ce then modSlice s h (fun x => { x with err := fldSat x.err 48 16 1, dir := tset (fun _ => {}) x.dir k { e with ce := false } }) else s
    if e.ue && !scrubbing s h l then beginScrub s h (BitVec.ofNat 13 (dirSet l)) else s

/-- A request is served with the check bits of what it reads looked at first (R251). While its directory set is scrubbed, one that would
allocate is answered RETRY and any other waits (R283; log entry 139). -/
def serveAt (s : State) (h : Nat) (t : Tracker) : State :=
  let l := t.msg.line
  let s := dirCheck (l3Check s h l) h l
  if !scrubbing s h l then serve s h t
  else if forCopy t.msg.kind then sendRetry (closeTrk s h l) h t.msg true
  else modSlice (closeTrk s h l) h (fun x => { x with queue := t :: x.queue })

/-- The set's trackers: one is open on a line of it. -/
def setBusy (s : State) (h : Nat) (set : BitVec 13) : Bool := (getSlice s h).trk.any (fun t => dirSet t.msg.line == set.toNat)

/-- One scrub goes on (R283): SET_SCRUB is sent to every in-service course once no tracker is open on a line of the set; when all have
acknowledged, and none is open again, the set's 20 ways are cleared. -/
def scrubGoOne (s : State) (h : Nat) (b : Scrub) : State :=
  if setBusy s h b.set then s
  else if !b.sent then
    let cs := upCourses s
    let s := modSlice s h (fun x => { x with scrubs := x.scrubs.map (fun y => if y = b then
      { y with sent := true, wait := BitVec.ofNat 32 (cs.foldl (fun a c => a + 2 ^ c) 0) } else y) })
    cs.foldl (fun s c => send s { kind := .setScrub, src := BitVec.ofNat 7 (32 + h), dst := BitVec.ofNat 7 c, line := 0, origin := .setScrub, set := b.set }) s
  else if b.wait = 0 then
    (List.range 20).foldl (fun s w => modSlice s h (fun x => { x with dir := tset (fun _ => {}) x.dir (20 * b.set.toNat + w) {} }))
      (modSlice s h (fun x => { x with scrubs := x.scrubs.filter (fun y => y != b) }))
  else s

/-- The scrubs of a slice go on. -/
def scrubGo (s : State) (h : Nat) : State := (getSlice s h).scrubs.foldl (fun s b => scrubGoOne s h b) s

/-- A course's acknowledgement of a set scrub. -/
def scrubAck (s : State) (h : Nat) (set : BitVec 13) (c : Nat) : State :=
  modSlice s h (fun x => { x with scrubs := x.scrubs.map (fun b => if b.set = set then { b with wait := b.wait &&& ~~~(oneCourse c) } else b) })

/-! ### Answers to forwards -/

/-- An owner has answered FWD_S or FWD_O (R261, R265, R270): `viaWb` when its line comes from the writeback that the home holds. -/
def fwdDone (s : State) (h : Nat) (t : Tracker) (b : Nat) (viaWb : Bool) : State :=
  let m := t.msg
  let put := fun (s : State) (f : DirEnt → DirEnt) => match dirFind (getSlice s h) m.line with
    | some (k, e) => setDir s h k (f e)
    | none => s
  match m.kind with
  | .rdS =>
    if viaWb then
      let s := granted (put s (fun e => { entryOf m (entryFor m) with aclass := e.aclass })) m.line
      if entryFor m = .owned then
        sendLine (closeTrk s h m.line) { reply h m (if t.dirty then .dataO else .dataE) with data := t.data, dirty := t.dirty }
      else
        let s := sendLine s { reply h m .dataS with data := t.data }
        (match t.dirty, t.data with
         | true, some d => writeMem s h t d allBytes
         | _, _ => closeTrk s h m.line)
    else
      let s := granted (put s (fun e => { e with st := .shared, holders := oneCourse b ||| oneCourse m.req.toNat })) m.line
      (match t.dirty, t.data with
       | true, some d => writeMem s h t d allBytes
       | _, _ => closeTrk s h m.line)
  | .rdO | .upg =>
    let s := granted (put s (fun e => { entryOf m .owned with aclass := e.aclass })) m.line
    let s := closeTrk s h m.line
    if viaWb then sendLine s { reply h m (if t.dirty then .dataO else .dataE) with data := t.data, dirty := t.dirty } else s
  | .hrd | .hlr =>
    let s := homeReserve (if viaWb then dirFree s h m.line else put s (fun e => { e with st := .shared, holders := oneCourse b })) h m
    (match t.data with
     | some d => if t.dirty then writeMem s h t d allBytes else doneAt s h t (some d) true
     | none => gather s h t)
  | .hwr | .hsc | .hat =>
    (match t.dirty, t.data with
     | true, some d => homeWrite s h t (some d) true
     | _, _ => if m.kind = .hat then gather (dirFree s h m.line) h t else homeWrite s h t none false)
  | _ => closeTrk s h m.line

/-- Every sharer has removed its copy (R261, R262, R265). -/
def invDone (s : State) (h : Nat) (t : Tracker) : State :=
  match t.msg.kind with
  | .upg =>
    (match dirFind (getSlice s h) t.msg.line with
     | some (_, e) => if (holdersOf e).contains t.msg.req.toNat then grantUpg s h t else takeOwnership s h t
     | none => takeOwnership s h t)
  | .rdO => takeOwnership s h t
  | .hat => gather (dirFree s h t.msg.line) h t
  | _ => homeWrite s h t none false

/-- A back-invalidation ends (R274): dirty data goes to the L3 with the victim's class, and the request takes the entry. -/
def binvDone (s : State) (h : Nat) (t : Tracker) : State :=
  let l := t.msg.line
  let k := match dirFind (getSlice s h) l with | some (k, _) => some k | none => none
  let s := dirFree s h l
  let s := match t.dirty, t.data with
    | true, some d => l3Place s h l d true t.msg.aclass 0 0 true
    | _, _ => s
  let s := closeTrk s h l
  match t.next with
  | none => s
  | some m =>
    match (getSlice s h).trk.find? (fun y => y.msg.line == m.line && y.wait == .binv), k with
    | some y, some k => gather (setDir s h k (entryOf m (entryFor m))) h y
    | _, _ => s

/-- The writeback of a course that the home holds while a forward to that course is open (R270). -/
def heldWb (s : State) (h : Nat) (l : LineNo) (c : Nat) : Option Msg :=
  (getSlice s h).landing.find? (fun m => m.line == l && m.src.toNat == c && m.kind != .evn)

/-- WB_ACK (R264). -/
def wbAckMsg (h : Nat) (m : Msg) : Msg :=
  { kind := .wbAck, src := BitVec.ofNat 7 (32 + h), dst := m.src, tdid := m.tdid, line := m.line, req := m.src, origin := m.kind }

/-- A held writeback leaves its landing entry, acknowledged (R270). -/
def dropLanding (s : State) (h : Nat) (m : Msg) : State :=
  send (modSlice s h (fun x => { x with landing := x.landing.erase m })) (wbAckMsg h m)

/-- The answer of course `c` for a line counts at its tracker; after the last one the transaction goes on (R260 to R274). A writeback
that carries no data (R251) leaves the home copy, from which the request is served. -/
def gotAnswer (s : State) (h : Nat) (l : LineNo) (c : Nat) (d : Option LineData) (dirty viaWb : Bool) : State :=
  match (getSlice s h).trk.find? (fun t => t.msg.line == l && t.from_.getLsbD c) with
  | none => s
  | some t =>
    let s := match heldWb s h l c with | some m => dropLanding s h m | none => s
    let t := { t with from_ := t.from_ &&& ~~~(oneCourse c), data := (match d with | some d => some d | none => t.data), dirty := t.dirty || dirty }
    if t.from_ ≠ 0 then putTrk s h t
    else match t.wait with
      | .fwd => if viaWb && t.data.isNone then serveAt (dirFree (closeTrk s h l) h l) h { t with wait := .ready } else fwdDone s h t c viaWb
      | .inv => invDone s h t
      | .binv => binvDone s h t
      | .maint => maintDone s h t viaWb
      | _ => putTrk s h t

/-- The poison pattern for a whole line. -/
def poisonLine : LineData := { bits := 0, poison := 0xFF }

/-- A line that a dead course owned becomes LOST and busy (R278): the poison pattern goes to memory on tracker `t`. -/
def lostLine (s : State) (h : Nat) (l : LineNo) (a : Nat) (t : Tracker) : State :=
  let s := match dirFind (getSlice s h) l with
    | some (k, e) => setDir s h k { e with st := .lost, holders := BitVec.ofNat 32 a }
    | none => s
  let (id, s) := memRequest s h l true poisonLine allBytes 0 0 true
  putTrk s h { t with was := t.wait, wait := .lost, memId := id, from_ := t.from_ &&& ~~~(oneCourse a) }

/-- Memory holds the poison pattern of a LOST line (R278): LINE_LOST is journaled, the entry is freed, and what waited goes on. -/
def lostDone (s : State) (h : Nat) (t : Tracker) : State :=
  let l := t.msg.line
  let a := match dirFind (getSlice s h) l with | some (_, e) => e.holders.toNat % 32 | none => 0
  let s := jrn s (32 + h) 0x22 0 (bytesOf 8 (l.toNat * 64) ++ bytesOf 1 a)
  let s := bankEv s (32 + h) 8 1 { line := some l, cls := some 0 }
  let t' := { t with wait := t.was, was := .ready }
  match t.was with
  | .ready => dirFree (closeTrk s h l) h l
  | .fwd => serveAt (dirFree (closeTrk s h l) h l) h { t' with wait := .ready, from_ := 0 }
  | .binv => if t.from_ = 0 then binvDone s h t' else putTrk s h t'
  | .maint => if t.from_ = 0 then maintDone (dirFree s h l) h t' false else putTrk (dirFree s h l) h t'
  | _ => putTrk (dirFree s h l) h t'

/-- Memory has accepted the write of a tracker (R261, R265, R267). -/
def memWritten (s : State) (h : Nat) (t : Tracker) : State :=
  match t.msg.kind with
  | .rdS | .rdO | .upg => closeTrk s h t.msg.line
  | _ => doneAt s h t t.data true

/-! ### Writebacks, and what waits -/

/-- A WB, VIC or EVN is taken from its landing entry with no tracker open on the line (R264). -/
def acceptWb (s : State) (h : Nat) (m : Msg) : State :=
  let s := modSlice s h (fun x => { x with landing := x.landing.erase m })
  let c := m.src.toNat
  match m.kind, dirFind (getSlice s h) m.line with
  | .evn, some (k, e) =>
    if e.st = .shared && e.holders.getLsbD c then
      (if e.holders = oneCourse c then dirFree s h m.line else setDir s h k { e with holders := e.holders &&& ~~~(oneCourse c) })
    else s
  | .evn, none => s
  | _, e =>
    let s := match e with
      | some (_, d) => if d.st = .owned && d.holders.toNat = c then dirFree s h m.line else s
      | none => s
    let s := match m.data with
      | some d => l3Place s h m.line d (m.kind == .wb) m.aclass m.tdid m.epoch (m.origin == .setScrub)
      | none => s
    send s (wbAckMsg h m)

/-- A reservation at the home within its 64 ns holds back what would clear it (R128, R266). -/
def homeHeld (s : State) (h : Nat) (m : Msg) : Bool :=
  let clears := match m.kind with | .rdS | .rdO | .upg | .hwr | .hat | .hsc => true | _ => false
  let x := getSlice s h
  clears && x.resv.any (fun e => e.2 == m.line.toNat + 1 && m.core != some (BitVec.ofNat 8 e.1) &&
    decide (sliceNow s h < tget (fun _ => 0) x.resvEnd e.1))

/-- A tracker is open on a line. -/
def trkOpen (s : State) (h : Nat) (l : LineNo) : Bool := (getSlice s h).trk.any (fun t => t.msg.line == l)

/-- A queued request that may be served: the first on its line, no tracker open there, not held, nor waiting for a scrub (R283). -/
def nextQueued (s : State) (h : Nat) : Option Tracker :=
  let q := (getSlice s h).queue
  q.find? (fun t => !trkOpen s h t.msg.line && !homeHeld s h t.msg && (forCopy t.msg.kind || !scrubbing s h t.msg.line) && q.find? (fun y => y.msg.line == t.msg.line) == some t)

/-- What waits at a slice goes on, landing entries first (R259, R264, R270). -/
def settle : Nat → State → Nat → State
  | 0, s, _ => s
  | f + 1, s, h =>
    match (getSlice s h).landing.find? (fun m => !trkOpen s h m.line) with
    | some m => settle f (acceptWb s h m) h
    | none =>
      match nextQueued s h with
      | some t => settle f (serveAt (modSlice s h (fun x => { x with queue := x.queue.erase t })) h t) h
      | none => s

/-- What waits at a slice goes on, as far as it may. -/
def settleAll (s : State) (h : Nat) : State := settle ((getSlice s h).landing.length + (getSlice s h).queue.length) s h

/-- The slice goes on with what waits there: requests and writebacks, then its scrubs, then what waited for them. -/
def settleSlice (s : State) (h : Nat) : State := settleAll (scrubGo (settleAll s h) h) h

/-- TRK_PEAK follows the open trackers (SLICE_TRK). -/
def trkPeak (s : State) (h : Nat) : State :=
  modSlice s h (fun x => { x with trkReg := fldSet x.trkReg 16 10 (Nat.max (fld x.trkReg 16 10) (x.trk.length + x.queue.length)) })

/-- A request reaches its home (R19, R259, R271). -/
def homeRequest (s : State) (m : Msg) : State :=
  if overtakes s m then s else
  let h := (m.dst.toNat - 32) % 32
  let s := take s m
  if agentDown s m.req.toNat then s else
  match trackerFor s h m.req m.retries with
  | none => sendRetry s h m false
  | some r =>
    let s := bankEv s (32 + h) 1 1 (msgAttr m)
    settleSlice (trkPeak (modSlice s h (fun x => { x with queue := x.queue ++ [newTrk s h m r] })) h) h

/-! ### Dead agents (R278) -/

/-- A tracker that waits for a dead course goes on (R278). -/
def deadAnswer (s : State) (h a : Nat) (l : LineNo) : State :=
  match heldWb s h l a with
  | some m => gotAnswer s h l a m.data (m.kind == .wb) true
  | none =>
    match (getSlice s h).trk.find? (fun t => t.msg.line == l && t.from_.getLsbD a), dirFind (getSlice s h) l with
    | some t, some (_, e) =>
      if e.st = .owned && e.holders.toNat = a then
        lostLine s h l a t
      else gotAnswer s h l a none false false
    | _, _ => gotAnswer s h l a none false false

/-- An entry that names a dead course, with no tracker open on its line (R278). -/
def reclaimEntry (s : State) (h a : Nat) (l : LineNo) : State :=
  match dirFind (getSlice s h) l with
  | some (k, e) =>
    if trkOpen s h l || (heldWb s h l a).isSome then s
    else if e.st = .shared && e.holders.getLsbD a then
      (if e.holders = oneCourse a then dirFree s h l else setDir s h k { e with holders := e.holders &&& ~~~(oneCourse a) })
    else if e.st = .owned && e.holders.toNat = a then
      lostLine s h l a (newTrk s h { kind := .binv, src := BitVec.ofNat 7 (32 + h), dst := BitVec.ofNat 7 (32 + h), line := l } false)
    else s
  | none => s

/-- A tracker or queued request whose requester has died is closed (R278); an HWR or HAT of a dead root port or engine that has reached
the home is performed (R281). -/
def keepsOn (a : Nat) (m : Msg) : Bool := m.req.toNat != a || (32 ≤ a && (m.kind == .hwr || m.kind == .hat))

/-- An open tracker once agent `a` is dead: none where it served that agent; one of a LOST line, or of a victim, ends first. -/
def deadTrk (a : Nat) (t : Tracker) : Option Tracker :=
  if keepsOn a t.msg || t.next.isSome || t.msg.kind == .binv then some t
  else if t.wait = .lost then some { t with was := .ready } else none

/-- A slice that is told of a dead agent reclaims what names it (R278, R281). -/
def reclaim (s : State) (h a : Nat) : State :=
  let s := modSlice s h (fun x => { x with trk := x.trk.filterMap (deadTrk a),
                                           queue := x.queue.filter (fun t => keepsOn a t.msg) })
  let s := settleSlice s h
  let ls := ((getSlice s h).trk.filter (fun t => t.from_.getLsbD a)).map (fun t => t.msg.line)
  let s := if a < 32 then ls.foldl (fun s l => deadAnswer s h a l) s else s
  let es := ((getSlice s h).dir.filter (fun e => e.2.st ≠ .invalid && (holdersOf e.2).contains a)).map (fun e => e.2.line)
  let s := if a < 32 then es.foldl (fun s l => reclaimEntry s h a l) s else s
  settleSlice s h

end Sys2Proof.Machine
end

