-- ==== Sys2Proof/Machine/Coherence.lean ====
section
/-! DEFINITION. The coherence messages as commands (R253 to R283): requests and answers at a home, forwards and answers at a
course, retries, claims and agents that are down. -/
namespace Sys2Proof.Machine

/-- A command that brings a message of a kind: the row names the kind. -/
def ofKind (m : Msg) (k : MsgKind) : Msg := { m with kind := k }

/-! ### A stop whose agent is down (R21) -/

/-- The stop of an agent that is off or dead answers a message with AGENT_DOWN (R21). -/
def downAnswer (s : State) (m : Msg) : State :=
  let s := { s with net := s.net.erase m }
  if m.kind = .agentDown then s else
  send s { kind := .agentDown, src := m.dst, dst := m.src, tdid := m.tdid, epoch := m.epoch, line := m.line, req := m.req,
           core := m.core, idx := m.idx, use := m.use, origin := m.kind, set := m.set }

/-- A message to a course: taken there, or answered by its stop; it waits while one of its class and pair is before it (R19). -/
def atCourse (s : State) (m : Msg) (f : State → Nat → State) : State :=
  if overtakes s m then s
  else if agentDown s m.dst.toNat then downAnswer s m else f (take s m) (m.dst.toNat % 32)

/-- A message to a home slice, in the order of its class and pair (R19). -/
def atHome (s : State) (m : Msg) (f : State → Nat → State) : State :=
  if overtakes s m then s else
  let h := (m.dst.toNat - 32) % 32
  settleSlice (f (take s m) h) h

/-! ### Forwards at a course (R128, R261 to R270) -/

/-- The L1I copies of a line go from every core of a course (R246, R267). -/
def dropL1i (s : State) (c : Nat) (l : LineNo) : State :=
  (coresOf s c).foldl (fun s n => modCore s n (fun x => { x with l1i := x.l1i.filter (fun e => e.1 != l) })) s

/-- The home has not yet served a request of a course: it is on its way there or back for a retry, or waits in a queue. -/
def unserved (s : State) (c : Nat) (l : LineNo) : Bool :=
  s.net.any (fun m => m.line == l && ((m.src.toNat == c && forCopy m.kind) || (m.dst.toNat == c && m.kind == .retry))) ||
    (getSlice s (homeOfLine l)).queue.any (fun t => t.msg.line == l && t.msg.req.toNat == c)

/-- The course holds a forward until its own request's data or grant arrives (R268); one that the home has not served yet
cannot be waited for (R263). -/
def reqHolds (s : State) (c : Nat) (l : LineNo) : Bool :=
  (getCourse s c).reqs.any (fun r => r.msg.line == l && forCopy r.msg.kind && r.backoff.isNone) && !unserved s c l

/-- The course holds back a forward that would clear a reservation within its 64 ns (R128). -/
def lrHolds (s : State) (c : Nat) (m : Msg) : Bool :=
  (match m.kind with | .fwdO | .inv | .binv | .flush => true | _ => false) &&
    (coresOf s c).any (fun n => match (getCore s n).resv with
      | some r => r.at_ == .l2 && lineOfPa r.pa == m.line && decide (coreTime s n < r.until_)
      | none => false)

/-- An answer of a course to a forward. -/
def fwdReply (c : Nat) (m : Msg) (k : MsgKind) (d : Option LineData) (dirty : Bool) : Msg :=
  { kind := k, src := BitVec.ofNat 7 c, dst := m.src, tdid := m.tdid, epoch := m.epoch, line := m.line, req := m.req, core := m.core,
    idx := m.idx, use := m.use, origin := m.kind, data := d, dirty := dirty, set := m.set }

/-- The lines of a course that can map to a directory set of a slice (R283). -/
def scrubLines (s : State) (c : Nat) (h : Nat) (set : BitVec 13) : List L2Line :=
  ((getCourse s c).l2.map (·.2)).filter (fun e => e.st ≠ .i && dirSet e.line == set.toNat && homeOfLine e.line == h)

/-- A set scrub at a course (R283): its lines of the set are evicted, at most 16 in flight, then it acknowledges. -/
def scrubStep : Nat → State → Nat → Msg → State
  | 0, s, _, _ => s
  | k + 1, s, c, m =>
    match scrubLines s c ((m.src.toNat - 32) % 32) m.set with
    | [] => send s (fwdReply c m .setScrubAck none false)
    | e :: _ =>
      if 16 ≤ inFlight s c then modCourse s c (fun x => { x with heldFwd := x.heldFwd ++ [m] })
      else
        let s := l2Check s c e.line
        scrubStep k (match l2Find (getCourse s c) e.line with | some (_, e) => evictFor s c e 0 ovhKey | none => s) c m

/-- The line of a forward is in the course's writeback buffer (R270). -/
def inWb (s : State) (c : Nat) (m : Msg) : Bool :=
  (getCourse s c).wb.any (fun w => w.line == m.line) && (match m.kind with | .inv | .setScrub => false | _ => true)

/-- A course answers a forward (R261 to R270, R274), the check bits of whose line have been looked at (R251). A clean line that cannot be
read is on its way to the home as an eviction, and the forward is answered from the writeback buffer. -/
def answerFwd (s : State) (c : Nat) (m : Msg) : State :=
  let l := m.line
  let x := getCourse s c
  let e := l2Find x l
  let own : Option LineData := match e with | some (_, y) => if y.st = .m then some y.data else none | none => none
  let ack := fun (s : State) (k : MsgKind) (d : Option LineData) => sendLine s (fwdReply c m k d d.isSome)
  let s := if m.kind = .flush || (m.kind = .inv && m.origin = .invReq) then dropL1i s c l else s
  if inWb s c m then
    send (bankEv s c 4 1 { tdid := some m.tdid.toNat, from_ := some m.req.toNat, line := some l, cls := some 2 }) (fwdReply c m .wbPending none false)
  else match m.kind, e with
    | .fwdS, some (k, y) =>
      let s := setL2 s c k { y with st := .s }
      let s := if m.origin = .rdS then sendLine s { fwdReply c m .dataS (some y.data) false with dst := m.req } else s
      ack s .fwdAck own
    | .fwdO, some (_, y) =>
      let s := l2Drop s c l
      if m.origin = .rdO || m.origin = .upg then
        ack (sendLine s { fwdReply c m .dataO (some y.data) (y.st == .m) with dst := m.req }) .fwdAck none
      else ack s .fwdAck own
    | .inv, _ => ack (l2Drop s c l) .invAck none
    | .binv, _ => ack (l2Drop s c l) .binvAck own
    | .flush, _ => ack (l2Drop s c l) .fwdAck own
    | .clean, some (k, y) => ack (if y.st = .m then setL2 s c k { y with st := .e } else s) .fwdAck own
    | .clean, none => ack s .fwdAck none
    | .setScrub, _ => scrubStep 513 s c m
    | _, _ => s

/-- A forward may be answered now: at once where its line is in the writeback buffer (R270). -/
def mayAnswer (s : State) (c : Nat) (m : Msg) : Bool :=
  m.kind == .setScrub || inWb s c m || !(reqHolds s c m.line || lrHolds s c m || l2Stuck s c m.line)

/-- The forwards that a course held are answered as far as they may be, in order. -/
def serveHeld : Nat → State → Nat → State
  | 0, s, _ => s
  | k + 1, s, c =>
    match (getCourse s c).heldFwd.find? (mayAnswer s c) with
    | none => s
    | some m => serveHeld k (answerFwd (modCourse s c (fun x => { x with heldFwd := x.heldFwd.erase m })) c m) c

/-- The line that a forward names is looked at (R251); a set scrub names none. -/
def fwdCheck (c : Nat) (s : State) (m : Msg) : State := if m.kind = .setScrub then s else l2Check s c m.line

/-- The course goes on with the forwards that it held. -/
def goHeld (s : State) (c : Nat) : State :=
  serveHeld (getCourse s c).heldFwd.length ((getCourse s c).heldFwd.foldl (fwdCheck c) s) c

/-- A forward reaches a course. -/
def receiveFwd (s : State) (m : Msg) : State :=
  atCourse s m (fun s c =>
    let s := bankEv s c 3 1 { tdid := some m.tdid.toNat, from_ := some m.req.toNat, line := some m.line, cls := some 1 }
    let s := fwdCheck c s m
    if mayAnswer s c m then answerFwd s c m else modCourse s c (fun x => { x with heldFwd := x.heldFwd ++ [m] }))

/-! ### Data and grants at a course (R260 to R263, R265, R266, R273) -/

/-- The loads of a core that wait for a line take its data (R260). -/
def captureLine (s : State) (n : Nat) (l : LineNo) (d : LineData) : State :=
  let want := fun (a : OutAcc) (p : Part) => a.kind == .load && a.wait == 0 && p.data.isNone && p.mt == .cached && lineOfPa p.pa == l
  let c := getCore s n
  let k := (c.accs.filter (fun a => a.parts.any (want a))).length
  if k = 0 then s else
  let s := setCore s n { c with accs := c.accs.map (fun a => { a with parts := a.parts.map (fun p =>
    if want a p then { p with data := some (lineRead d (p.pa.toNat % 64) p.len) } else p) }) }
  let s := coreEv s n 0x09 k (some l)
  if (l2Find (getCourse s (courseOf s n)) l).isSome then l1dFill s n l else s

/-- The core that a message names goes on. -/
def goCore (s : State) (m : Msg) : State := match m.core with | some n => advance s n.toNat | none => s

/-- A course's line is there: its waiting accesses are done, a granted store is performed, and only then are the forwards it
held answered (R268). -/
def lineReady (s : State) (c : Nat) (m : Msg) : State :=
  let s := match l2Find (getCourse s c) m.line with
    | some (_, e) => (coresOf s c).foldl (fun s n => captureLine s n m.line e.data) s
    | none => s
  let s := match m.core with
    | some n => if m.use = .store && ((getCore s n.toNat).sb.head?.map (fun e => lineOfPa e.pa)) == some m.line then drainHead s n.toNat else s
    | none => s
  goCore (goHeld (kickCourse s c) c) m

/-- DATA_S, DATA_E and DATA_O (R260, R261): the line is installed; while no way can be had the message waits. -/
def receiveData (s : State) (m : Msg) (st : L2St) : State :=
  if overtakes s m then s
  else if agentDown s m.dst.toNat then downAnswer s m else
  let c := m.dst.toNat % 32
  match l2Install s c m.line (m.data.getD {}) st m.tdid with
  | none => s
  | some s =>
    let s := charge (take s m) c m.tdid.toNat (evCharge s 2 (some c))
    lineReady (closeReq s c m.line) c m

/-- GRANT (R262): S becomes E, or M when a dirty L3 copy was dropped for it. -/
def receiveGrant (s : State) (m : Msg) : State :=
  atCourse s m (fun s c =>
    let s := match l2Find (getCourse s c) m.line with
      | some (k, e) => if e.st = .s then setL2 s c k { e with st := if m.dirty then .m else .e } else s
      | none => s
    lineReady (closeReq s c m.line) c m)

/-- Data for one read of a micro-routine, a walk or a fetch (R208, R273). -/
def pushNf (s : State) (n : Nat) (l : LineNo) (d : LineData) : State := modCore s n (fun c => { c with nf := c.nf ++ [(l, d)] })

/-- The part of one access that waits for a line takes its data. -/
def captureOne (s : State) (n i : Nat) (l : LineNo) (d : LineData) : State :=
  modCore s n (fun c => { c with accs := c.accs.map (fun a => if a.idx = i then { a with parts := a.parts.map (fun p =>
    if p.data.isNone && lineOfPa p.pa = l then { p with data := some (lineRead d (p.pa.toNat % 64) p.len) } else p) } else a) })

/-- The parts of one access on a line are performed at the home from now on (R273). -/
def atHomeNow (s : State) (n i : Nat) (l : LineNo) : State :=
  modCore s n (fun c => { c with accs := c.accs.map (fun a => if a.idx = i then { a with parts := a.parts.map (fun p =>
    if p.data.isNone && lineOfPa p.pa = l then { p with mt := .uncached } else p) } else a) })

/-- DATA_NF (R273): the one access takes the data, or is completed at the home. -/
def receiveNf (s : State) (m : Msg) : State :=
  atCourse s m (fun s c =>
    let s := bankEv s c 6 1 { tdid := some m.tdid.toNat, from_ := some m.req.toNat, line := some m.line, cls := some 2 }
    let s := closeReq s c m.line
    let d := m.data.getD {}
    let s := match m.core with
      | none => s
      | some n =>
        let n := n.toNat
        match m.use with
        | .pref => s
        | .store => drainHead (modCore s n (fun x => { x with sb := match x.sb with
            | e :: r => if lineOfPa e.pa = m.line then { e with mt := .uncached } :: r else e :: r | [] => [] })) n
        | .atomic | .lr => atHomeNow s n m.idx m.line
        | .sc => s
        | _ => if m.idx = (getCore s n).gen then pushNf s n m.line d else captureOne s n m.idx m.line d
    goCore (goHeld (kickCourse s c) c) m)

/-- The reservation of an HLR that the home has recorded is held by the core (R126, R266); its earlier one is replaced. -/
def homeResv (s : State) (n : Nat) (pa : PAddr) (lin : BitVec 48) : State :=
  let h := homeOf pa.toNat
  let v := tget (fun _ => 0) (getSlice s h).resv n
  let s := setResv s n pa lin .home
  if v = (lineOfPa pa).toNat + 1 then modSlice s h (fun x => { x with resv := tset (fun _ => 0) x.resv n v }) else s

/-- H_DONE (R265, R266): the access that the home performed ends at its core. -/
def homeDone (s : State) (c : Nat) (m : Msg) : State :=
  let s := closeHome s c m
  match m.core with
  | none => s
  | some n =>
    let n := n.toNat
    let d := m.data.getD {}
    let acc := (getCore s n).accs.find? (fun a => a.idx == m.idx)
    match m.use with
    | .store => if ((getCore s n).sb.head?.map (fun e => e.sent && lineOfPa e.pa == m.line)) == some true then popStore s n else s
    | .maint => modCore s n (fun x => if x.busy = .maint m.line then { x with busy := .none } else x)
    | .sc =>
      let s := dropResv s n
      modCore s n (fun x => { x with accs := x.accs.map (fun a => if a.idx = m.idx then
        { a with scOk := some m.ok, parts := a.parts.map (fun p => { p with data := some [] }) } else a) })
    | .lr =>
      (match acc with
       | some a =>
         let s := captureOne s n m.idx m.line d
         (match a.parts.find? (fun p => lineOfPa p.pa == m.line) with | some p => homeResv s n p.pa a.lin | none => s)
       | none => s)
    | _ => if m.idx = (getCore s n).gen then pushNf s n m.line d else captureOne s n m.idx m.line d

/-- H_DONE. -/
def receiveDone (s : State) (m : Msg) : State :=
  if m.dst.toNat < 32 then atCourse s m (fun s c => goCore (goHeld (kickCourse (homeDone s c m) c) c) m) else if overtakes s m then s
  else
    let s := take s m
    { s with engReqs := s.engReqs.filter (fun r => !(r.msg.src == m.dst && r.msg.line == m.line && r.msg.idx == m.idx)) }

/-- WB_ACK (R264): the writeback buffer entry is freed. -/
def receiveWbAck (s : State) (m : Msg) : State :=
  atCourse s m (fun s c =>
    goHeld (modCourse s c (fun x => { x with wb := match x.wb.find? (fun w => w.line == m.line) with | some w => x.wb.erase w | none => x.wb })) c)

/-! ### Retries (R275, R276) -/

/-- The same request, of a course that is answered RETRY. -/
def sameReq (m : Msg) (r : OpenReq) : Bool :=
  r.msg.line == m.line && r.msg.kind == m.origin && r.msg.core == m.core && r.msg.idx == m.idx

/-- The list of requests with RETRY answered to one of them (R271, R275): it waits, with its answers counted. -/
def retried (s : State) (m : Msg) (l : List OpenReq) (a r : Nat) : List OpenReq :=
  let old := l.find? (sameReq m)
  let n := (match old with | some o => o.retries | none => m.retries) + 1
  let f := (match old with | some o => o.full | none => 0) + b2n m.claim
  l.filter (fun o => !sameReq m o) ++
    [{ msg := { m with kind := m.origin, src := m.dst, dst := m.src, claim := false }, retries := n, full := f,
       backoff := some (plumbOf s a + backoffOf s n r) }]

/-- RETRY at a requester (R271, R275): a PREF is dropped; any other request waits, with a draw of its own that is a FREE VALUE. -/
def receiveRetry (s : State) (m : Msg) : State :=
  if 32 ≤ m.dst.toNat then
    (if overtakes s m then s else
     let (r, s) := free (take s m)
     { s with engReqs := retried s m s.engReqs m.dst.toNat r })
  else atCourse s m (fun s c =>
    let s := bankEv s c 7 1 { tdid := some m.tdid.toNat, from_ := some m.req.toNat, line := some m.line, cls := some 2 }
    if m.use = .pref then closeReq s c m.line
    else
      let (r, s) := free s
      modCourse s c (fun x => { x with reqs := retried s m x.reqs c r }))

/-- A request whose wait has ended, with its claim if one is due (R275, R276). -/
def again (s : State) (r : OpenReq) : Msg :=
  let k := fld s.cohCtl 0 4
  { r.msg with retries := r.retries, claim := k ≠ 0 && k ≤ r.full }

/-- A request on a line whose wait has ended at agent `a`. -/
def waitOver (s : State) (a : Nat) (l : LineNo) (r : OpenReq) : Bool :=
  r.msg.line == l && r.msg.src.toNat == a && (match r.backoff with | some t => decide (t ≤ plumbOf s a) | none => false)

/-- The request is on its way again. -/
def resent (s : State) (r : OpenReq) (l : List OpenReq) : List OpenReq :=
  l.map (fun o => if o = r then { o with msg := again s r, backoff := none } else o)

/-- RETRY_BACKOFF_EXPIRY (R275, R276): a wait that has ended; the request is sent again, with a claim if one is due. -/
def reissue (s : State) (a : Nat) (l : LineNo) : State :=
  if a < 32 then
    match (getCourse s a).reqs.find? (waitOver s a l) with
    | none => s
    | some r => send (modCourse s a (fun x => { x with reqs := resent s r x.reqs })) (again s r)
  else
    match s.engReqs.find? (waitOver s a l) with
    | none => s
    | some r => send { s with engReqs := resent s r s.engReqs } (again s r)

/-! ### The commands -/

def execRdS (m : Msg) (s : State) : Host.Outcome State Fault Refusal := .next (homeRequest s (ofKind m .rdS))
def execRdO (m : Msg) (s : State) : Host.Outcome State Fault Refusal := .next (homeRequest s (ofKind m .rdO))
def execUpg (m : Msg) (s : State) : Host.Outcome State Fault Refusal := .next (homeRequest s (ofKind m .upg))
def execHrd (m : Msg) (s : State) : Host.Outcome State Fault Refusal := .next (homeRequest s (ofKind m .hrd))
def execHwr (m : Msg) (s : State) : Host.Outcome State Fault Refusal := .next (homeRequest s (ofKind m .hwr))
def execHat (m : Msg) (s : State) : Host.Outcome State Fault Refusal := .next (homeRequest s (ofKind m .hat))
def execHlr (m : Msg) (s : State) : Host.Outcome State Fault Refusal := .next (homeRequest s (ofKind m .hlr))
def execHsc (m : Msg) (s : State) : Host.Outcome State Fault Refusal := .next (homeRequest s (ofKind m .hsc))
def execFlushReq (m : Msg) (s : State) : Host.Outcome State Fault Refusal := .next (homeRequest s (ofKind m .flushReq))
def execCleanReq (m : Msg) (s : State) : Host.Outcome State Fault Refusal := .next (homeRequest s (ofKind m .cleanReq))
def execInvReq (m : Msg) (s : State) : Host.Outcome State Fault Refusal := .next (homeRequest s (ofKind m .invReq))

def execFwdS (m : Msg) (s : State) : Host.Outcome State Fault Refusal := .next (receiveFwd s (ofKind m .fwdS))
def execFwdO (m : Msg) (s : State) : Host.Outcome State Fault Refusal := .next (receiveFwd s (ofKind m .fwdO))
def execInv (m : Msg) (s : State) : Host.Outcome State Fault Refusal := .next (receiveFwd s (ofKind m .inv))
def execBinv (m : Msg) (s : State) : Host.Outcome State Fault Refusal := .next (receiveFwd s (ofKind m .binv))
def execFlush (m : Msg) (s : State) : Host.Outcome State Fault Refusal := .next (receiveFwd s (ofKind m .flush))
def execClean (m : Msg) (s : State) : Host.Outcome State Fault Refusal := .next (receiveFwd s (ofKind m .clean))

/-- SET_SCRUB (R283): one that no slice of the model has sent stands for the directory error itself, and begins the scrub. -/
def setScrub (s : State) (m : Msg) : State :=
  let h := (m.src.toNat - 32) % 32
  if s.net.contains m || (getSlice s h).scrubs.any (fun b => b.set == m.set) then receiveFwd s m
  else settleSlice (beginScrub s h m.set) h

/-- SET_SCRUB. -/
def execSetScrub (m : Msg) (s : State) : Host.Outcome State Fault Refusal := .next (setScrub s (ofKind m .setScrub))

/-- SET_SCRUB_ACK. -/
def execSetScrubAck (m : Msg) (s : State) : Host.Outcome State Fault Refusal :=
  .next (atHome s (ofKind m .setScrubAck) (fun s h => scrubAck s h m.set m.src.toNat))

def execDataS (m : Msg) (s : State) : Host.Outcome State Fault Refusal := .next (receiveData s (ofKind m .dataS) .s)
def execDataE (m : Msg) (s : State) : Host.Outcome State Fault Refusal := .next (receiveData s (ofKind m .dataE) .e)
def execDataO (m : Msg) (s : State) : Host.Outcome State Fault Refusal :=
  .next (receiveData s (ofKind m .dataO) (if m.dirty then .m else .e))
def execDataNf (m : Msg) (s : State) : Host.Outcome State Fault Refusal := .next (receiveNf s (ofKind m .dataNf))
def execGrant (m : Msg) (s : State) : Host.Outcome State Fault Refusal := .next (receiveGrant s (ofKind m .grant))

/-- FWD_ACK (R261). -/
def execFwdAck (m : Msg) (s : State) : Host.Outcome State Fault Refusal :=
  .next (atHome s (ofKind m .fwdAck) (fun s h => gotAnswer s h m.line m.src.toNat m.data m.dirty false))

/-- WB_PENDING (R270): the writeback has reached the home before it (R19); until it has, the message waits. -/
def execWbPending (m : Msg) (s : State) : Host.Outcome State Fault Refusal :=
  match heldWb s ((m.dst.toNat - 32) % 32) m.line m.src.toNat with
  | none => .next s
  | some w => .next (atHome s (ofKind m .wbPending) (fun s h => gotAnswer s h m.line m.src.toNat w.data (w.kind == .wb) true))

/-- INV_ACK (R262). -/
def execInvAck (m : Msg) (s : State) : Host.Outcome State Fault Refusal :=
  .next (atHome s (ofKind m .invAck) (fun s h => gotAnswer s h m.line m.src.toNat none false false))

/-- BINV_ACK (R274). -/
def execBinvAck (m : Msg) (s : State) : Host.Outcome State Fault Refusal :=
  .next (atHome s (ofKind m .binvAck) (fun s h => gotAnswer s h m.line m.src.toNat m.data m.dirty false))

/-- A writeback or eviction notice reaches its home (R258, R264, R269): a notice of a course whose answer is awaited is ignored. -/
def landed (s : State) (m : Msg) : State :=
  atHome s m (fun s h =>
    if m.kind = .evn && (getSlice s h).trk.any (fun t => t.msg.line == m.line && t.from_.getLsbD m.src.toNat) then s
    else modSlice s h (fun x => { x with landing := x.landing ++ [m] }))

def execWb (m : Msg) (s : State) : Host.Outcome State Fault Refusal := .next (landed s (ofKind m .wb))
def execVic (m : Msg) (s : State) : Host.Outcome State Fault Refusal := .next (landed s (ofKind m .vic))
def execEvn (m : Msg) (s : State) : Host.Outcome State Fault Refusal := .next (landed s (ofKind m .evn))

def execWbAck (m : Msg) (s : State) : Host.Outcome State Fault Refusal := .next (receiveWbAck s (ofKind m .wbAck))
def execHDone (m : Msg) (s : State) : Host.Outcome State Fault Refusal := .next (receiveDone s (ofKind m .hDone))
def execRetry (m : Msg) (s : State) : Host.Outcome State Fault Refusal := .next (receiveRetry s (ofKind m .retry))

/-- RETRY_BACKOFF_EXPIRY. -/
def execRetryBackoffExpiry (agent : Nat) (line : BitVec 46) (s : State) : Host.Outcome State Fault Refusal :=
  .next (reissue s agent line)

/-- CLAIM_EXPIRY (R276): 10 µs after it was recorded. -/
def execClaimExpiry (slice : BitVec 5) (set : BitVec 13) (s : State) : Host.Outcome State Fault Refusal :=
  let h := slice.toNat
  match tget (fun _ => none) (getSlice s h).claims set.toNat with
  | some c =>
    if c.since + 10000 ≤ s.plumb.now then
      .next (modSlice s h (fun x => { x with claims := tset (fun _ => none) x.claims set.toNat none }))
    else .next s
  | none => .next s

/-- MESSAGE_TO_DOWN_AGENT (R21). -/
def execMessageToDownAgent (m : Msg) (s : State) : Host.Outcome State Fault Refusal :=
  if agentDown s m.dst.toNat && !overtakes s m then .next (downAnswer s m) else .next s

/-- AGENT_DOWN (R21, R278): a home takes it for the dead course's answer; no other sender waits for one. -/
def execAgentDown (m : Msg) (s : State) : Host.Outcome State Fault Refusal :=
  let m := ofKind m .agentDown
  if 32 ≤ m.dst.toNat && m.dst.toNat < 64 then
    .next (atHome s m (fun s h =>
      if m.origin = .setScrub then scrubAck s h m.set m.src.toNat else deadAnswer s h m.src.toNat m.line))
  else .next (if overtakes s m then s else take s m)

/-- DEAD_AGENT_NOTICE (R278). -/
def execDeadAgentNotice (slice : BitVec 5) (agent : Nat) (s : State) : Host.Outcome State Fault Refusal :=
  if agentDown s agent then .next (reclaim s slice.toNat agent) else .next s

/-- HOME_STALL (R282): a request of the course has held its place at the home for DEAD_TO. -/
def execHomeStall (course : BitVec 5) (line : BitVec 46) (s : State) : Host.Outcome State Fault Refusal :=
  let h := homeOfLine line
  let x := getSlice s h
  let late := (x.trk ++ x.queue).any (fun t => t.msg.line == line && t.msg.req.toNat == course.toNat &&
    decide (t.opened + t.openTo ≤ s.plumb.now))
  if late then
    let s := modCourse s course.toNat (fun c => { c with err := c.err ||| 1 })
    .next (setFault (jrn s course.toNat 0x24 0 (bytesOf 8 (line.toNat * 64) ++ bytesOf 1 h)) 5)
  else .next s

/-- An answer of the same controller to the same slice was sent before (R19). -/
def ansBehind (s : State) (h : Nat) (a : MemAns) : Bool :=
  (s.memAns.takeWhile (fun e => e != (BitVec.ofNat 5 h, a))).any (fun e => e.1 == BitVec.ofNat 5 h && e.2.src == a.src)

/-- MEMORY_ANSWER (R256): a tracker's read data, or the acceptance of its write. -/
def memAnswer (s : State) (h : Nat) (a : MemAns) : State :=
  if ansBehind s h a then s else
  let s := received { s with memAns := s.memAns.erase (BitVec.ofNat 5 h, a) } (32 + h) a.short
  match (getSlice s h).trk.find? (fun t => t.memId == a.id && t.msg.line == a.line && (t.wait == .mem || t.wait == .memWrite || t.wait == .lost)) with
  | none => s
  | some t =>
    settleSlice (match t.wait with
      | .mem => haveData s h t (a.data.getD {}) none
      | .lost => lostDone s h t
      | _ => memWritten s h t) h

/-- MEMORY_ANSWER. -/
def execMemoryAnswer (slice : BitVec 5) (a : MemAns) (s : State) : Host.Outcome State Fault Refusal := .next (memAnswer s slice.toNat a)

/-- RESERVATION_HOLD_EXPIRY (R128, R266): what a reservation held back, at its course or at a home, goes on. -/
def execReservationHoldExpiry (n : BitVec 8) (s : State) : Host.Outcome State Fault Refusal :=
  let s := goHeld s (courseOf s n.toNat)
  .next (s.slices.foldl (fun s e => if (getSlice s e.1).queue.isEmpty then s else settleSlice s e.1) s)

end Sys2Proof.Machine
end

