-- ==== Sys2Proof/Machine/PlumbOps.lean ====
section
/-! DEFINITION. The plumb master, its replicas, PPS alignment, sets of plumb time, and one nanosecond of the device (R44 to
R53, R302, R479, R516). -/
namespace Sys2Proof.Machine

/-! ### PLUMB_STATUS -/

/-- A bit of PLUMB_STATUS. -/
def pstat (s : State) (b : Nat) : Bool := s.plumb.status.getLsbD b
/-- A bit of PLUMB_STATUS set to a value. -/
def setPstat (s : State) (b : Nat) (v : Bool) : State :=
  { s with plumb := { s.plumb with status := fldSet s.plumb.status b 1 (b2n v) } }
/-- PLUMB_CTL.PPS_MODE (R49). -/
def ppsMode (s : State) : Nat := fld s.plumb.ctl 0 2
/-- PPS_MODE written. -/
def setPpsMode (s : State) (m : Nat) : State := { s with plumb := { s.plumb with ctl := fldSet s.plumb.ctl 0 2 m } }

/-! ### Sets of plumb time (R516) -/

/-- An agent at a set: recv_hi and last become 0, seq goes on, its mark follows the records it has queued. -/
def setAgentAt (s : State) (a : Nat) : State :=
  let x := getAgent s a
  setAgent s a { x with recvHi := 0, last := 0, noRecv := true, marks := x.marks ++ [x.queue.length] }

/-- A set of plumb time to `v` (R516): the master and every replica take it at one tick. -/
def setPlumbTime (s : State) (v : Nat) : State :=
  let old := s.plumb.now
  let s := (List.range 90).foldl setAgentAt s
  let edge := s.plumb.lastEdge.map (fun t => t + (v : Int) - (old : Int))
  let move := fun (t : Nat) => t + v - old
  let s := { s with plumb := { s.plumb with now := v, off := [], held := [], setAt := v, lastEdge := edge, edgeAt := move s.plumb.edgeAt }
                    ks := { s.ks with fillAt := move s.ks.fillAt }
                    hot := tmapv (fun _ => 0) s.hot (fun _ t => if t = 0 then 0 else move (t - 1) + 1)
                    cores := tmapv coreInit s.cores (fun _ c => { c with paceAt := move c.paceAt, limAt := c.limAt + v * 1000 - old * 1000 })
                    jrn := { s.jrn with sets := s.jrn.sets.map (fun h => { h with at_ := move h.at_ }) ++ [{ at_ := v }] } }
  jrn s agPlumb 0x0C 0 (bytesOf 8 old ++ bytesOf 8 v)

/-- The agent's next set mark waits behind no record any more (R516). -/
def markReady (x : Agent) : Bool := x.marks.head? == some 0

/-! ### PPS (R49 to R52, R515) -/

/-- The effective plumb offset in ns (R474, R518). -/
def ppsOffset (s : State) : Int := calEff s 0x70

/-- A time's distance from the nearest whole second, and that second. -/
def nearestSec (t : Int) : Int × Int :=
  let k := (t + 500000000) / 1000000000 * 1000000000
  (t - k, k)

/-- An accepted edge of PPS_IN (R49, R52). -/
def ppsEdge (s : State) : State :=
  let now := s.plumb.now
  let t := (now : Int) - ppsOffset s
  let (e, sec) := nearestSec t
  let s := { s with plumb := { s.plumb with pps := now, seen := true, edgeAt := now, lastEdge := some now,
                                            status := fldSet s.plumb.status 32 32 (ofInt 32 e) } }
  let s := setPstat (setPstat s 4 true) 5 false
  match ppsMode s with
  | 1 =>
    if s.ks.st = .filling then
      let s := setPpsMode s 2
      let v := (sec + ppsOffset s).toNat
      let s := setPlumbTime s v
      { s with plumb := { s.plumb with edgeAt := v } }
    else s
  | 2 =>
    let s := setPstat (setPstat s 2 (decide (-10 ≤ e) && decide (e ≤ 10))) 3 (e != 0)
    { s with plumb := { s.plumb with slew := e } }
  | _ => s

/-- Leaving FILLING with a step still pending abandons it (R50). -/
def abandonStep (s : State) : State :=
  if ppsMode s = 1 then
    let s := setPpsMode s 2
    jrn { s with plumb := { s.plumb with edgeAt := s.plumb.now } } agPlumb 0x0A 0 (bytesOf 8 0)
  else s

/-! ### One nanosecond -/

/-- How far the master counts in one tick, and the slewing that remains (R49): one tick in 20,000 is withheld or added. -/
def slewTick (s : State) : Nat × Int × Nat :=
  let p := s.plumb
  if ppsMode s = 2 && p.slew ≠ 0 && !pstat s 5 then
    if 19999 ≤ p.slewCnt then (if 0 < p.slew then (0, p.slew - 1, 0) else (2, p.slew + 1, 0))
    else (1, p.slew, p.slewCnt + 1)
  else (1, p.slew, Nat.min 19999 (p.slewCnt + 1))

/-- The master and its replicas count one tick; a replica that is ahead is held (R45). -/
def plumbTick (s : State) : State :=
  let (k, sl, n) := slewTick s
  let offs := tmapv (fun _ => (0 : Int)) s.plumb.off (fun _ v => if 0 < v then (if v ≤ k then 0 else v - k) else v)
  let s := { s with plumb := { s.plumb with now := s.plumb.now + k, slew := sl, slewCnt := n, off := offs } }
  setPstat s 3 (pstat s 3 && sl != 0)

/-- A core whose domain is paused issues no word below H (R74). -/
def corePaused (s : State) (n : Nat) : Bool := (getCore s n).level != .h && domPaused s (getCore s n).dom.toNat

/-- A core bound to a domain at U or S draws the static charge of its course for 1 µs (R302); one of a paused domain is not charged
(R74). -/
def staticCharge (s : State) (n : Nat) : State :=
  let c := getCore s n
  if inService c && c.level ≠ .h && !corePaused s n then
    let k := courseOf s n
    charge s k c.dom.toNat (fld (getCourse s k).vcourse 32 16 * 1000 * 6400000000)
  else s

/-- What the rail sensors have metered in the last µs (R475): the draw of each group is an analogue value, a FREE VALUE. -/
def railMeter (s : State) : State :=
  (List.range 4).foldl (fun s r =>
    let (v, s) := free s
    { s with railE := tset (fun _ => 0) s.railE r ((tget (fun _ => 0) s.railE r + v) % 2 ^ 64) }) s

/-- Events that count time at cores (R479, R480): ns stalled on a budget, ns in idle or nap. -/
def coreTimeEv (s : State) (n : Nat) : State :=
  let c := getCore s n
  match c.run with
  | .run => if c.stall ≠ 0 && c.level ≠ .h && !c.ingrace then coreEvH s n 0x18 1 else s
  | .wfe | .waitt _ _ | .nap => coreEvH s n 0x19 1
  | _ => s

/-- Issue opportunities that go by with no word issued: each takes a token while the core holds one (R37), and counts toward those that
the core owes (R160). -/
def loseTokens : Nat → State → Nat → State
  | 0, s, _ => s
  | k + 1, s, n =>
    if !tokenReady (getCore s n) (coreTime s n) then s
    else loseTokens k (modCore (useToken s n none) n (fun c => { c with owe := c.owe - 1 })) n

/-- A core is in the run state, so that each opportunity of its natural rate costs it a token (R37, R74). -/
def takesTokens (s : State) (n : Nat) : Bool :=
  let c := getCore s n
  c.run == .run && c.dead.isNone && !c.rot && !corePaused s n

/-- One nanosecond of a core's natural rate (R33, R37): the opportunities beyond the tokens that it has used are lost to interlocks.
REIN.NAT gives the rate in units of 4 M words per second. -/
def loseNs (s : State) (n : Nat) : State :=
  let c := getCore s n
  if !takesTokens s n then (if c.opp = 0 && c.used = 0 then s else setCore s n { c with opp := 0, used := 0 }) else
  let sum := c.opp + 4 * c.nat.toNat
  let k := sum / 1000
  if k < c.used then setCore s n { c with opp := sum % 1000, used := c.used - k }
  else
    let s := loseTokens (k - c.used) (setCore s n { c with opp := sum % 1000, used := 0 }) n
    modCore s n (fun c => { c with used := 0 })

/-- The pace generator of a core advances up to its replica's count (R41). -/
def paceUp : Nat → State → Nat → State
  | 0, s, _ => s
  | k + 1, s, n => if paceDue s n then paceUp k (paceTick s n) n else s

/-- One nanosecond of a core's tokens (R37, R41): its generator, the opportunities that it loses, and what it can issue then. -/
def coreNs (s : State) (n : Nat) : State :=
  let s := loseNs (paceUp 4 s n) n
  if takesTokens s n && (getCore s n).nat ≠ 0 then advance s n else s

/-- What passes in one nanosecond with no command (log entry 1): the cores' tokens of the nanosecond that ends, then the plumb counts;
each µs the static charges and tracker time, each ms the L2 occupancy, and the counters of time. -/
def tick (s : State) : State :=
  if !s.plumb.counting then s else
  let s := s.cores.foldl (fun s e => coreNs s e.1) s
  let t0 := s.plumb.now
  let s := plumbTick s
  let t1 := s.plumb.now
  let s := s.cores.foldl (fun s e => if e.2.pm.isEmpty then s else coreTimeEv s e.1) s
  let s := if s.banks.isEmpty then s else
    s.mcs.foldl (fun s e => if e.2.panicAt.isSome then bankEv s (64 + e.1) 6 1 { cls := some 0 } else s) s
  let s := if t0 / 1000 ≠ t1 / 1000 then
      let s := railMeter (s.cores.foldl (fun s e => staticCharge s e.1) s)
      if s.banks.isEmpty then s else
      s.slices.foldl (fun s e => bankEv s (32 + e.1) 7 (e.2.trk.length + e.2.queue.length) { cls := some 0 }) s
    else s
  if t0 / 1000000 ≠ t1 / 1000000 && !s.banks.isEmpty then
    s.courses.foldl (fun s e => e.2.l2.foldl (fun s x => if x.2.st = .i then s else
      bankEv s e.1 8 1 { line := some x.2.line, cls := some 0 }) s) s
  else s

/-! ### The commands -/

/-- PLUMB_LOCK (R44). -/
def execPlumbLock (s : State) : Host.Outcome State Fault Refusal :=
  if s.pins.refclk && !s.plumb.counting then
    .next { s with plumb := { s.plumb with counting := true, now := 0, off := [], held := [], status := s.plumb.status ||| 1 } }
  else .next s

/-- One replica at a synchronisation (R45, R46): `d` is how far it is found from the master. -/
def syncStop (s : State) (e : BitVec 7 × Int) : State :=
  let k := e.1.toNat
  let cur := tget (fun _ => 0) s.plumb.off k
  let d := if 0 < cur && e.2 < cur then cur else e.2
  let s := if d < -3 || 3 < d then jrn (setPstat s 7 true) agPlumb 0x09 0 (bytesOf 2 k ++ bytesOf 4 (ofInt 32 d)) else s
  { s with plumb := { s.plumb with off := tset (fun _ => 0) s.plumb.off k (if d ≤ 0 then 0 else d) } }

/-- PLUMB_SYNC: the stops found away from the master, with their deviations. -/
def execPlumbSync (devs : List (BitVec 7 × Int)) (s : State) : Host.Outcome State Fault Refusal :=
  if s.plumb.counting then .next (devs.foldl syncStop s) else .next s

/-- PPS_EDGE (R49, R515): the edge that PLUMB_CTL.PPS_EDGE selects, at least 0.9 s after the last accepted one. -/
def execPpsEdge (rising : Bool) (s : State) : Host.Outcome State Fault Refusal :=
  let early := match s.plumb.lastEdge with | some t => decide ((s.plumb.now : Int) < t + 900000000) | none => false
  if s.plumb.counting && rising != s.plumb.ctl.getLsbD 3 && !early then .next (ppsEdge s) else .next s

/-- PPS_LOST (R52). -/
def execPpsLost (s : State) : Host.Outcome State Fault Refusal :=
  if s.plumb.counting && ppsMode s = 2 && !pstat s 5 && s.plumb.edgeAt + 1500000000 ≤ s.plumb.now then
    let s := setPstat (setPstat s 5 true) 3 false
    let s := alert { s with plumb := { s.plumb with slew := 0 } } 5
    .next (jrn s agPlumb 0x0A 0 (bytesOf 8 s.plumb.pps))
  else .next s

/-- REF_LOST (R53): PLUMB_REFCLK has shown no edge for 100 ns. -/
def execRefLost (s : State) : Host.Outcome State Fault Refusal :=
  let s := { s with pins := { s.pins with refclk := false } }
  if s.plumb.counting && !pstat s 1 then
    let s := alert (setPstat (setPstat (setPstat s 1 true) 6 true) 0 false) 6
    .next (jrn s agPlumb 0x0B 0 (bytesOf 8 s.plumb.now))
  else .next s

/-- REF_RETURN (R53). -/
def execRefReturn (s : State) : Host.Outcome State Fault Refusal :=
  let s := { s with pins := { s.pins with refclk := true } }
  if pstat s 1 then .next (setPstat (setPstat s 1 false) 0 true) else .next s

/-- SET_STAMP_HOLD_END (R516): 1 ms after a set. -/
def execSetStampHoldEnd (agent : Nat) (s : State) : Host.Outcome State Fault Refusal :=
  let x := getAgent s agent
  if x.noRecv && s.plumb.setAt + 1000000 ≤ plumbOf s agent then .next (setAgent s agent { x with noRecv := false }) else .next s

end Sys2Proof.Machine
end

