-- ==== Sys2Proof/Machine/HubEvents.lean ====
section
/-! DEFINITION. What reaches the interrupt hub: answers of cores, bindings, state reports, events, interrupt messages and level
lines (R65, R77, R78, R197, R342 to R356), and the hub's own registers. -/
namespace Sys2Proof.Machine

/-! ### Answers of cores (R348, R349) -/

/-- The level that a delivery targets (R342). -/
def offerLvl (o : Offer) : Level := if o.tdid = 0 then .h else .s

/-- A source is accepted by core `n` at the offered priority (R348). An edge source that HUB_CLRPEND has cleared while it was on
offer counts as withdrawn since its acceptance (log entry 19). -/
def hubAccept (s : State) (n : Nat) (o : Offer) : State :=
  let id := o.id.toNat
  let s := modSrc s id (fun x =>
    { x with inserv := some (BitVec.ofNat 8 n, offerLvl o, o.prio), pend := false, clr := isEdgeId id && !x.pend, claimed := false })
  let s := modHub s n (fun h => match offerLvl o with
    | .h => { h with unclH := o.id :: h.unclH }
    | _ => { h with unclS := o.id :: h.unclS })
  hubEval s n

/-- An interrupt displaced or handed back returns to pending (R190, R200, R349), unless HUB_CLRPEND has withdrawn it. -/
def hubHandback (s : State) (n : Nat) (id : SrcId) : State :=
  let k := id.toNat
  let x := getSrc s k
  match x.inserv with
  | some (c, _, _) =>
    if c.toNat = n then
      let s := setSrc s k { x with inserv := none, claimed := false, clr := false, pend := x.pend || (isEdgeId k && !x.clr) }
      let s := modHub s n (fun h => { h with unclS := h.unclS.erase id, unclH := h.unclH.erase id })
      hubEvalSrc (hubEval s n) k
    else s
  | none => s

/-- IRQ_STALE of a domain counts (R77). -/
def irqStale (s : State) (t : Nat) : State := modDom s t (fun d => { d with status := fldSat d.status 32 16 1 })

/-- The offer that an answer names: the outstanding one, or one that had been replaced (R348). -/
def answered (h : HubCore) (id : SrcId) : Option Offer :=
  match h.offer with
  | some o => if o.id = id then some o else h.replaced.find? (fun x => x.id == id)
  | none => h.replaced.find? (fun x => x.id == id)

/-- The answered offer is no longer outstanding; those sent before it have been superseded (R348). -/
def dropOffer (h : HubCore) (o : Offer) : HubCore :=
  if h.offer = some o then { h with offer := none, replaced := [] }
  else { h with replaced := (h.replaced.dropWhile (fun x => x != o)).drop 1 }

/-- An answer is taken off the mortar, and the hub takes its stamp in (R55). -/
def answerTake (s : State) (n : Nat) (id : SrcId) (a : Answer) : State :=
  match s.answers.find? (fun e => e.1.toNat == n && e.2.1 == id && e.2.2.1 == a) with
  | some e => received { s with answers := s.answers.erase e } agHub e.2.2.2
  | none => s

/-- A core's answer reaches the hub (R77, R348, R349). -/
def hubAnswer (s : State) (n : Nat) (id : SrcId) (a : Answer) : State :=
  let s := answerTake s n id a
  match a with
  | .handback => hubHandback s n id
  | _ =>
    match answered (getHub s n) id with
    | none => s
    | some o =>
      let s := modHub s n (fun h => dropOffer h o)
      match a with
      | .accept => hubAccept s n o
      | .stale => hubEvalSrc (hubChoose (irqStale s o.tdid.toNat) n) id.toNat
      | _ => hubChoose (modHub s n (fun h => { h with refused := id :: h.refused })) n

/-- OFFER_ANSWER. -/
def execOfferAnswer (n : BitVec 8) (id : BitVec 13) (a : Answer) (s : State) : Host.Outcome State Fault Refusal :=
  .next (hubAnswer s n.toNat id a)

/-! ### Bindings and states (R62, R65, R197) -/

/-- The pair of a binding is mapped to core `n`, whose binding has the later causal stamp of the two (R65). -/
def mapPair (s : State) (n t v : Nat) : State :=
  if t = 0 then s else
  let k := t * 256 + v
  match tget (fun _ => 0) s.pairs k with
  | 0 => { s with pairs := tset (fun _ => 0) s.pairs k (n + 1) }
  | m + 1 =>
    if m = n then s else
    let later := decide ((getHub s m).stamp ≤ (getHub s n).stamp)
    let s := if later then { s with pairs := tset (fun _ => 0) s.pairs k (n + 1) } else s
    let (a, b) := if later then (m, n) else (n, m)
    let s := jrn s agHub 0x11 (BitVec.ofNat 12 t) (bytesOf 2 t ++ bytesOf 1 v ++ bytesOf 1 a ++ bytesOf 1 b)
    hubEval s m

/-- The binding that core `n` waits to have acknowledged reaches the hub (R62, R65). -/
def bindingReport (s : State) (n : Nat) : State :=
  let c := getCore s n
  if c.busy ≠ .bind then s else
  let s := { s with pairs := tmapv (fun _ => 0) s.pairs (fun _ v => if v = n + 1 then 0 else v) }
  let s := received s agHub (BitVec.ofNat 24 c.bindStamp)
  let s := modHub s n (fun h => { h with dom := c.dom, vcore := c.vcore, epoch := c.epoch, stamp := c.bindStamp })
  let s := hubEval (mapPair s n c.dom.toNat c.vcore.toNat) n
  modCore s n (fun c => { c with busy := .none })

/-- BINDING_REPORT. -/
def execBindingReport (n : BitVec 8) (s : State) : Host.Outcome State Fault Refusal :=
  .next (advance (bindingReport s n.toNat) n.toNat)

/-- CORE_STATE_REPORT (R197): the hub takes the core's level, IE and busy bits and evaluates it again. The report is stamped by the
core's course as it is sent, which is here when it arrives (log entry 138). -/
def execCoreStateReport (n : BitVec 8) (s : State) : Host.Outcome State Fault Refusal :=
  let k := n.toNat
  let (st, s) := shortStamp s (courseOf s k)
  let s := received s agHub st
  let c := getCore s k
  .next (hubEval (modHub s k (fun h => { h with level := c.level, ie := c.ie, sbusy := c.sbusy, hbusy := c.hbusy })) k)

/-! ### Events (R145, R355) -/

/-- A core that the hub can send an event to: it holds its pair, or a group's EVMASK names the group. -/
def groupMembers (s : State) (t : Tdid) (g : Nat) : List Nat :=
  (List.range 256).filter (fun n => (getHub s n).dom == t && (getHub s n).evmask.getLsbD g)

/-- A SEV message is taken off the mortar, and the hub takes its stamp in (R55). -/
def sevTake (s : State) (t : Tdid) (g : Bool) (target : BitVec 8) : State :=
  match s.sevs.find? (fun e => e.1 == t && e.2.1 == g && e.2.2.1 == target) with
  | some e => received { s with sevs := s.sevs.erase e } agHub e.2.2.2
  | none => s

/-- SEV_MESSAGE (R78, R145, R355): one event to each target with the epoch that the hub holds, or the event is dropped. Events leave
from the Keystone's stop, which is the hub's (R17, R55; log entry 138). -/
def execSevMessage (tdid : BitVec 12) (group : Bool) (target : BitVec 8) (s : State) : Host.Outcome State Fault Refusal :=
  let s := sevTake s tdid group target
  let ns := if group then groupMembers s tdid (target.toNat % 64) else (resolve s tdid.toNat target.toNat).toList
  if ns.isEmpty then .next (sevDrop s tdid.toNat)
  else
    let (st, s) := shortStamp s agKs
    .next { s with events := s.events ++ ns.map (fun n => (BitVec.ofNat 8 n, (getHub s n).epoch, tdid, st)) }

/-! ### Interrupt messages (R353) -/

/-- A message that is not accepted is counted and journaled with its reason (R353). -/
def msiDrop (s : State) (k : Nat) (data : BitVec 32) (reason : Nat) : State :=
  let s := { s with hubSt := fldSet (fldSat s.hubSt 48 16 1) 0 13 k }
  jrn s agHub 0x40 ((getCtx s k).ctl.extractLsb' 32 12) (bytesOf 2 k ++ bytesOf 4 data.toNat ++ bytesOf 1 reason)

/-- The hub maps a message of context `k` to a source (R353). -/
def msiMap (s : State) (k : Nat) (data : BitVec 32) : State :=
  let w := tget (fun _ => 0) s.msimap k
  let v := fld data 0 16
  let id := fld w 32 13 + v
  if !w.getLsbD 63 then msiDrop s k data 1
  else if fld w 0 13 ≤ v then msiDrop s k data 2
  else if id < 64 || 8190 < id then msiDrop s k data 3
  else if srcTdid (getSrc s id) ≠ fld (getCtx s k).ctl 32 12 then msiDrop s k data 4
  else setPend s id

/-- An interrupt message is taken off the mortar, and the hub takes its stamp in (R55). -/
def msiTake (s : State) (k : BitVec 12) (epoch : BitVec 8) (data : BitVec 32) : State :=
  match s.msis.find? (fun e => e.1 == k && e.2.1 == epoch && e.2.2.1 == data) with
  | some e => received { s with msis := s.msis.erase e } agHub e.2.2.2
  | none => s

/-- MSI_MESSAGE. The epoch was compared when the root port sent the message (R391). -/
def execMsiMessage (k : BitVec 12) (epoch : BitVec 8) (data : BitVec 32) (s : State) : Host.Outcome State Fault Refusal :=
  .next (msiMap (msiTake s k epoch data) k.toNat data)

/-! ### Level lines (R342, R343, R381, R400) -/

/-- The state of a level source's line (R342, R381, R400). -/
def lineState (s : State) (id : Nat) : Bool :=
  if id = 0 then ringAlert s
  else if id = 1 then s.led.status.getLsbD 62
  else if id = 2 then s.plumb.status.getLsbD 5 || s.plumb.status.getLsbD 1 || s.plumb.status.getLsbD 7
  else if id = 3 then s.gstat.getLsbD 0
  else if id = 4 then fld s.planSt 8 8 != 0
  else if id = 5 then s.ks.mailbox.reply.isSome
  else if id < 8 then false
  else if id < 24 then (getMc s (id - 8)).status &&& 0xD8 != 0
  else if id < 30 then
    let r := (getRp s (id - 24)).status
    r &&& 0x700000000 != 0 || (List.range 4).any (fun l => r.getLsbD (8 * l))
  else if id < 36 then (List.range 4).any (fun l => (getRp s (id - 30)).status.getLsbD (8 * l + 2) || (getRp s (id - 30)).status.getLsbD (8 * l + 1))
  else false

/-- LEVEL_LINE_CHANGE: the hub sees the present state of a level source's line; those of controllers and ports raise the
alerts MEMORY and PCIE (R439). -/
def execLevelLineChange (id : BitVec 13) (s : State) : Host.Outcome State Fault Refusal :=
  let k := id.toNat
  if isLevelId k then
    let s := hubEvalSrc (modSrc s k (fun x => { x with line := lineState s k })) k
    .next (if !(getSrc s k).line then s else if 8 ≤ k && k < 24 then alert s 9 else if 24 ≤ k && k < 36 then alert s 10 else s)
  else .next s

/-! ### The hub's registers (R343, R344, R349 to R352, R356) -/

/-- HUB_CLRPEND (R351, R356). -/
def clrPend (s : State) (id : Nat) : State :=
  if isEdgeId id then
    hubEvalSrc (modSrc s id (fun x => { x with pend := false, clr := x.clr || (x.inserv.isSome && !x.claimed) })) id
  else s

/-- A write of SRC[id] (R344, R349): class F is refused to a domain that is not real-time. -/
def srcWrite (s : State) (id : Nat) (w : Word64) : State :=
  if !(isLevelId id || isEdgeId id) then s else
  let old := getSrc s id
  let rw : Word64 := 0x0000FF0FFF0100FF
  let w := w &&& rw
  let bad := w.getLsbD 16 && !domRt s (fld w 24 12)
  let w := if bad then maskIn w old.w 0x0000000FFF010000 else w
  let s := if bad then ctlErr s else s
  let s := setSrc s id { old with w := w }
  let s := match resolve s (srcTdid old) (srcVcore old) with | some n => hubEval s n | none => s
  hubEvalSrc s id

end Sys2Proof.Machine
end

