-- ==== Sys2Proof/Machine/Budget.lean ====
section
/-! DEFINITION. Budgets, leases, notices, refills, the energy planner and the arbiters (R285 to R314). Resources are 0 tokens,
1 DRAM bytes, 2 I/O bytes, 3 microjoules. -/
namespace Sys2Proof.Machine

/-! ### Periods -/

/-- P in ns (R288). -/
def periodNs (s : State) : Nat := Nat.max 1 (fld s.budCtl 48 10) * 100000

/-- The index of the period in force. -/
def periodIdx (s : State) : Nat := s.plumb.now / periodNs s

/-- The next boundary after the last one applied (R288). -/
def nextBoundary (s : State) : Nat := (s.budAt / periodNs s + 1) * periodNs s

/-- The budget and ledger rules apply from leaving FILLING (R432). -/
def serving (s : State) : Bool := decide (2 ≤ devCode s.ks.st)

/-! ### Balances and notices (R289, R296 to R298) -/

/-- The balance of a resource. -/
def balance (s : State) (t r : Nat) : Int := tget (fun _ => 0) (getBud s t).pool r
/-- A balance written. -/
def setBalance (s : State) (t r : Nat) (v : Int) : State := modBud s t (fun b => { b with pool := tset (fun _ => 0) b.pool r v })

/-- The cores bound to a domain: the stall points of microjoules, and those that draw its tokens. -/
def coresBound (s : State) (t : Nat) : List Nat := (s.cores.filter (fun e => e.2.dom.toNat == t)).map (·.1)

/-- The stall points of a resource for a domain (R294, R296). -/
def stallPoints (s : State) (t r : Nat) : List Nat :=
  let courses := List.range 32
  let dma := (List.range 8).map (fun e => 32 + 4 * e)
  let ports := (List.range 6).map (fun p => 80 + p)
  let cores := (coresBound s t).map corePoint
  match r with
  | 0 => cores
  | 1 => courses ++ dma ++ ports
  | 2 => ports ++ courses
  | _ => courses ++ dma ++ ports ++ cores

/-- DRY or RELEASE is sent to every stall point (R296), stamped at the stop of the Keystone, which speaks for the budget block (R290; log
entry 138). -/
def notify (s : State) (t r : Nat) (dry : Bool) : State :=
  let (st, s) := shortStamp s agKs
  { s with notices := s.notices ++ (stallPoints s t r).map (fun p => (p, BitVec.ofNat 12 t, BitVec.ofNat 2 r, periodIdx s, dry, st)) }

/-- The agent at whose stop a stall point lies. -/
def pointAgent (s : State) (p : Nat) : Nat := if 256 ≤ p then courseOf s (p - 256) else p

/-- The notice that a command names, as it was sent; one that the budget block did not send has no stamp. -/
def noticeOf (s : State) (p : Nat) (t : Tdid) (r : BitVec 2) (k : Nat) (dry : Bool) : Nat × Tdid × BitVec 2 × Nat × Bool × BitVec 24 :=
  (s.notices.find? (fun e => e.1 == p && e.2.1 == t && e.2.2.1 == r && e.2.2.2.1 == k && e.2.2.2.2.1 == dry)).getD (p, t, r, k, dry, 0)

/-- The notice arrives at its stall point (R55). -/
def noticeTake (s : State) (e : Nat × Tdid × BitVec 2 × Nat × Bool × BitVec 24) : State :=
  if s.notices.contains e then received { s with notices := s.notices.erase e } (pointAgent s e.1) e.2.2.2.2.2 else s

/-- The DRY bit of a resource is set (R294, R296); DRYCNT counts the period once. -/
def setDry (s : State) (t r : Nat) : State :=
  let b := getBud s t
  let st := b.stat ||| BitVec.ofNat 64 (2 ^ (32 + r))
  let s := setBud s t { b with stat := if b.dried then st else fldSat st 16 16 1, dried := true }
  if r = 0 then s else notify s t r true

/-- The DRY bit is cleared and RELEASE sent (R289, R295). -/
def release (s : State) (t r : Nat) : State :=
  notify (modBud s t (fun b => { b with stat := b.stat &&& ~~~(BitVec.ofNat 64 (2 ^ (32 + r))) })) t r false

/-- The largest positive value, which stands for an unlimited ceiling (R289). -/
def unlimited : Word64 := 0x7FFFFFFFFFFFFFFF

/-- refill() of R289 for one resource. -/
def refillOne (s : State) (t r : Nat) (credit : Word64) : State :=
  let b := getBud s t
  let bit : BitVec 4 := BitVec.ofNat 4 (2 ^ r)
  if credit = unlimited then release (setBud s t { b with unl := b.unl ||| bit, pool := tset (fun _ => 0) b.pool r 0 }) t r
  else
    let debt := if b.unl.getLsbD r then 0 else min 0 (balance s t r)
    let v := (credit.toNat : Int) + debt
    let s := setBalance (setBud s t { b with unl := b.unl &&& ~~~bit }) t r v
    if 0 < v then release s t r else s

/-- The four credits of a refill applied in order (R289). -/
def refillAll (s : State) (t : Nat) (cs : List Word64) : State :=
  (List.range 4).foldl (fun s r => match cs[r]? with | some c => refillOne s t r c | none => s) s

/-- A refill reaches its account: one made for another epoch is refused with STALE_ROLE (R77, R290). -/
def applyRefill (s : State) (t : Nat) (ep : BitVec 8) (cs : List Word64) : State :=
  if ep = domAcct s t then refillAll s t cs
  else jrn s agKs 0x10 (BitVec.ofNat 12 t) (bytesOf 1 3 ++ bytesOf 2 t ++ bytesOf 1 ep.toNat ++ bytesOf 1 (domAcct s t).toNat)

/-- The credit of a ceiling of tokens, DRAM bytes or I/O bytes (R289). -/
def ceilCredit (b : Bud) (r : Nat) : Word64 :=
  let c := ceilOf b r
  if c.getLsbD 63 then unlimited else BitVec.ofNat 64 (fld c 0 48)

/-- BCEIL[3] in µJ, or unbounded: ecap() of R304. -/
def ecap (s : State) (t : Nat) : Option Nat :=
  let c := (getBud s t).c3
  if c.getLsbD 63 then none else some (fld c 0 48)

/-- The energy credit of a domain that no plan covers, for `ns` of a period (R291, R304): EOPEN W, at most `cap`. -/
def openEnergy (s : State) (ns : Nat) (cap : Option Nat) : Nat :=
  let e := fld s.planCtl 48 8 * ns / 1000
  match cap with
  | some c => Nat.min c e
  | none => e

/-- The refill that the budget block makes itself (R304, R307, R308). -/
def ownRefill (s : State) (t : Nat) : List Word64 :=
  let b := getBud s t
  let e := if b.unplanned && !s.planCtl.getLsbD 63 then openEnergy s (periodNs s) (ecap s t) else fld b.ecred 0 48
  [ceilCredit b 0, ceilCredit b 1, ceilCredit b 2, BitVec.ofNat 64 e]

/-- The domains with VALID = 1, in ascending order. -/
def validDomains (s : State) : List Nat := 0 :: ((s.doms.filter (fun e => e.1 ≠ 0 && e.2.ctl.getLsbD 63)).map (·.1))

/-! ### Boundaries (R288 to R292, R304, R306, R307) -/

/-- Periods between plans (R304). -/
def planEvery (s : State) : Nat :=
  let us := periodNs s / 1000
  if 1000 ≤ us then 1 else (1000 + us - 1) / us

/-- A plan is due at the boundary at plumb time `b` (R304). -/
def planDue (s : State) (b : Nat) : Bool := b / periodNs s % planEvery s == 0

/-- One refill per domain (R289): the one that has reached the block or the plan's, or else the block's own (R304, R307). -/
def boundaryRefills (s : State) (use : Bool) : State :=
  let plan := s.refills ++ (if use then s.plan.getD [] else [])
  let s := { s with refills := [] }
  (validDomains s).foldl (fun s t => match plan.find? (fun e => e.1.toNat == t) with
    | some (_, ep, cs) => applyRefill s t ep cs
    | none => refillAll s t (ownRefill s t)) s

/-- Course targets taken over (R306, R308, R452). -/
def applyTargets (s : State) : State :=
  let s := (List.range 32).foldl (fun s c => match s.planV[c]? with
    | some v => modCourse s c (fun x => { x with vplan := v })
    | none => s) s
  (List.range 32).foldl seqEval s

/-- One boundary (R288 to R292, R301, R304, R307). -/
def boundary (s : State) (b : Nat) : State :=
  let s := { s with budAt := b }
  let s := if b % minuteNs = 0 then { s with budCtl := fldSet s.budCtl 48 10 (fld s.budCtl 0 10) } else s
  let s := mapCores s (fun _ c => { endGrace c with graced := false })
  let s := { s with buds := tmapv (fun _ => {}) s.buds (fun _ x => { x with dried := false }) }
  let s := { s with planSt := fldSet s.planSt 32 32 (Nat.min 0xFFFFFFFF (s.ovhE / unitUJ)), ovhE := s.ovhE % unitUJ }
  if s.planCtl.getLsbD 63 then boundaryRefills s false
  else
    let due := planDue s b || s.planLate
    if due && s.plan.isSome then
      let s := boundaryRefills s true
      applyTargets { s with plan := none, planLate := false }
    else
      let s := boundaryRefills s false
      if planDue s b && s.plan.isNone then
        let s := { s with planSt := fldSat s.planSt 8 8 1, planLate := true }
        jrn (alert s 12) agKs 0x2A 0 (bytesOf 4 (b / periodNs s))
      else s

/-- The boundaries that have passed at plumb time `t` are applied, each in its turn (R51, R292): at most one for each 100 µs. -/
def syncSteps : Nat → State → Nat → State
  | 0, s, _ => s
  | k + 1, s, t => if serving s && nextBoundary s ≤ t then syncSteps k (boundary s (nextBoundary s)) t else s

/-- The boundaries up to a plumb time are applied first (R292). -/
def syncBoundary (s : State) (t : Nat) : State := syncSteps (t / 100000 + 1 - s.budAt / 100000) s t

/-- The opening credit of an account that is newly bound (R291), every boundary that has passed being applied. -/
def openAccount (s : State) (t : Nat) : State :=
  let s := syncBoundary s s.plumb.now
  let b := getBud s t
  let P := periodNs s
  let left := nextBoundary s - s.plumb.now
  let part := fun (r : Nat) => let c := ceilCredit b r; if c = unlimited then unlimited else BitVec.ofNat 64 (c.toNat * left / P)
  let e := openEnergy s left ((ecap s t).map (fun c => c * left / P))
  let s := setBud s t { b with pool := [], unl := 0, stat := fldSet b.stat 32 4 0, unplanned := true }
  refillAll s t [part 0, part 1, part 2, BitVec.ofNat 64 e]

/-- PERIOD_BOUNDARY. -/
def execPeriodBoundary (s : State) : Host.Outcome State Fault Refusal :=
  if serving s && nextBoundary s ≤ s.plumb.now then .next (boundary s (nextBoundary s)) else .next s

/-- REFILL (R289, R290): a refill of the plan, or one from outside, reaches the budget block. One made for another epoch is refused with
STALE_ROLE; any other waits for the boundary, at which it is the domain's one refill. -/
def execRefill (t : BitVec 12) (epoch : BitVec 8) (credits : List (BitVec 64)) (s : State) : Host.Outcome State Fault Refusal :=
  let s := syncBoundary s s.plumb.now
  let s := { s with plan := s.plan.map (fun l => l.filter (fun e => e.1 != t)) }
  if !domValid s t.toNat then .next s
  else if epoch ≠ domAcct s t.toNat then .next (applyRefill s t.toNat epoch credits)
  else .next { s with refills := (t, epoch, credits) :: s.refills.filter (fun e => e.1 != t) }

/-! ### Leases and grace (R293 to R295, R300, R301) -/

/-- BUD_CTL.LEASE in tokens (R293). -/
def leaseSize (s : State) : Nat := fld s.budCtl 16 10 * 64

/-- A core sends its draw (R22, R55, R293). -/
def sendDraw (s : State) (n : Nat) : State :=
  let (st, s) := shortStamp s (courseOf s n)
  modCore s n (fun c => { c with drawing := true, drawShort := st })

/-- LEASE_LOW (R293): a core at U or S draws when 1,024 tokens remain. -/
def execLeaseLow (n : BitVec 8) (s : State) : Host.Outcome State Fault Refusal :=
  let c := getCore s n.toNat
  if c.level ≠ .h && c.lease ≤ 1024 && !c.drawing && !c.drawOff && c.granted.isNone then
    .next (sendDraw s n.toNat)
  else .next s

/-- A lease is on its way to core `k`, stamped as the budget block's messages are. -/
def sendLease (s : State) (k g : Nat) : State :=
  let (st, s) := shortStamp s agKs
  modCore s k (fun c => { c with granted := some g, grantShort := st })

/-- LEASE_DRAW (R293, R294): the draw reaches the budget block. -/
def execLeaseDraw (n : BitVec 8) (s : State) : Host.Outcome State Fault Refusal :=
  let k := n.toNat
  if !(getCore s k).drawing || (getCore s k).granted.isSome then .next s else
  let s := syncBoundary (received s agKs (getCore s k).drawShort) s.plumb.now
  let t := (getCore s k).dom.toNat
  let b := balance s t 0
  if (getBud s t).unl.getLsbD 0 then .next (sendLease s k (leaseSize s))
  else if b ≤ 0 then .next (modCore (setDry s t 0) k (fun c => { c with drawing := false, drawOff := true }))
  else
    let g := Nat.min (leaseSize s) b.toNat
    .next (sendLease (setBalance s t 0 (b - g)) k g)

/-- LEASE_GRANT (R293, R294): the lease reaches the core, which resumes if it was stalled for want of it. -/
def execLeaseGrant (n : BitVec 8) (s : State) : Host.Outcome State Fault Refusal :=
  let c := getCore s n.toNat
  match c.granted with
  | none => .next s
  | some g =>
    let s := received s (courseOf s n.toNat) c.grantShort
    .next (advance (setCore s n.toNat { c with lease := c.lease + g, granted := none, drawing := false, stall := c.stall &&& 0xE }) n.toNat)

/-- A core takes a grace instead of stalling (R300). -/
def takeGrace (s : State) (n r : Nat) : State :=
  let c := getCore s n
  let g := fld s.budCtl 32 16
  let s := setCore s n { c with ingrace := true, graceLeft := g, graced := true, stall := c.stall ||| BitVec.ofNat 4 (2 ^ r) }
  let s := modBud s c.dom.toNat (fun b => { b with stat := fldSat b.stat 0 16 1 })
  let s := modDom s c.dom.toNat (fun d => { d with mGrace := true })
  jrn s (courseOf s n) 0x28 c.dom (bytesOf 1 n ++ bytesOf 1 r)

/-- A core may take a grace (R300, R301). -/
def mayGrace (s : State) (c : Core) : Bool := c.held != 0 && !c.graced && !c.ingrace && fld s.budCtl 32 16 != 0 && c.level != .h

/-- A core without tokens, or held by a dry energy balance, stalls before its next word or takes grace (R294, R296, R300). -/
def stallCore (s : State) (n : Nat) : State :=
  let c := getCore s n
  let why : Option Nat := if c.stall.getLsbD 3 then some 3 else if c.lease = 0 && c.granted.isNone then some 0 else none
  if c.level = .h || c.ingrace then s else
  match why with
  | none => s
  | some r =>
    if mayGrace s c then takeGrace s n r
    else setCore s n { c with stall := c.stall ||| BitVec.ofNat 4 (2 ^ r) }

/-- LEASE_EXHAUSTED. -/
def execLeaseExhausted (n : BitVec 8) (s : State) : Host.Outcome State Fault Refusal := .next (advance (stallCore s n.toNat) n.toNat)

/-- GRACE_OUT (R301). -/
def execGraceOut (n : BitVec 8) (s : State) : Host.Outcome State Fault Refusal :=
  let c := getCore s n.toNat
  if c.ingrace && c.graceLeft = 0 then
    let s := setCore s n.toNat (endGrace c)
    .next (if c.held ≠ 0 then jrn s (courseOf s n.toNat) 0x29 c.dom (bytesOf 1 n.toNat) else s)
  else .next s

/-- LEASE_RETURN (R295): tokens that a rebinding core gave back reach the old domain's balance. -/
def execLeaseReturn (n : BitVec 8) (s : State) : Host.Outcome State Fault Refusal :=
  match s.returns.find? (fun e => e.1 == n) with
  | none => .next s
  | some (m, t, k, st) =>
    let s := syncBoundary (received { s with returns := s.returns.erase (m, t, k, st) } agKs st) s.plumb.now
    let d := t.toNat
    if !domValid s d || (getBud s d).unl.getLsbD 0 then .next s
    else
      let old := balance s d 0
      let s := setBalance s d 0 (old + k)
      .next (if old ≤ 0 && 0 < old + k then release s d 0 else s)

/-! ### Usage (R291, R292, R296) -/

/-- USAGE_REPORT_DUE: an agent sends what it has counted for a domain. -/
def execUsageReportDue (agent : Nat) (t : BitVec 12) (s : State) : Host.Outcome State Fault Refusal :=
  .next ((List.range 4).foldl (fun s r =>
    let k := useKey agent t.toNat r
    let v := tget (fun _ => 0) s.usage k
    if v = 0 then s else
    let st := stampOf s agent
    let s := stamped s agent
    { s with usage := tset (fun _ => 0) s.usage k 0
             reports := s.reports ++ [{ agent := BitVec.ofNat 7 agent, tdid := t, r := BitVec.ofNat 2 r, amount := v, stamp := st }] }) s)

/-- A report is subtracted (R291, R292, R296), from the balances after every boundary that has passed. -/
def applyUsage (s : State) (u : UsageRep) : State :=
  let t := u.tdid.toNat
  let r := u.r.toNat
  let s := syncBoundary s s.plumb.now
  if !domValid s t || (getBud s t).unl.getLsbD r then s
  else
    let v := balance s t r - u.amount
    let s := setBalance s t r v
    if v ≤ 0 && !(getBud s t).stat.getLsbD (32 + r) then setDry s t r else s

/-- USAGE_REPORT (R292): one stamped at or after a boundary that the block has not reached waits for it. -/
def execUsageReport (r : UsageRep) (s : State) : Host.Outcome State Fault Refusal :=
  if serving s && nextBoundary (syncBoundary s s.plumb.now) ≤ r.stamp then .next s
  else .next (applyUsage (received { s with reports := s.reports.erase r } agKs (BitVec.ofNat 24 r.stamp)) r)

/-! ### Notices at the stall points (R294, R296 to R298) -/

/-- A notice reaches a stall point (R298): one of a period older than the latest applied is ignored. -/
def noticeApplies (s : State) (p t r k : Nat) : Bool :=
  let v := tget (fun _ => 0) s.dry (dryKey p t r)
  v == 0 || decide ((v - 2) / 2 ≤ k)

/-- The notice recorded at its stall point. -/
def setNotice (s : State) (p t r k : Nat) (dry : Bool) : State :=
  { s with dry := tset (fun _ => 0) s.dry (dryKey p t r) (2 * k + b2n dry + 2) }

/-- A core that DRY for microjoules holds stalls at its next word, or takes grace (R296, R300). -/
def coreDry (s : State) (n t : Nat) : State :=
  let c := getCore s n
  if c.dom.toNat ≠ t then s
  else stallCore (setCore s n { c with stall := c.stall ||| 8 }) n

/-- DRY_NOTICE. -/
def execDryNotice (point : Nat) (t : BitVec 12) (r : BitVec 2) (period : Nat) (s : State) : Host.Outcome State Fault Refusal :=
  let s := noticeTake s (noticeOf s point t r period true)
  if noticeApplies s point t.toNat r.toNat period then
    let s := setNotice s point t.toNat r.toNat period true
    .next (if 256 ≤ point && point < 512 && r = 3 then coreDry s (point - 256) t.toNat else s)
  else .next s

/-- A released stall point goes on with what it held (R294, R297). -/
def releasePoint (s : State) (p t r : Nat) : State :=
  if p < 32 then kickCourse s p
  else if 256 ≤ p && p < 512 then
    let n := p - 256
    let c := getCore s n
    if c.dom.toNat ≠ t then s
    else if r = 0 then
      let s := setCore s n { c with drawOff := false }
      if c.granted.isNone && !c.drawing && decide (c.lease ≤ 1024) then sendDraw s n else s
    else if r = 3 then advance (setCore s n { c with stall := c.stall &&& 7 }) n
    else s
  else s

/-! ### The energy planner (R302, R304 to R306) -/

/-- One round after another of the weighted water-fill (R304); `a10` is ten times the µJ left. -/
def waterFill (s : State) : Nat → List Nat → Nat → List (Nat × Nat) → List (Nat × Nat)
  | 0, _, _, e => e
  | k + 1, ds, a10, e =>
    if ds.isEmpty || a10 = 0 then e else
    let wt := fun t => fld (getBud s t).wt 24 8
    let W := ds.foldl (fun x t => x + wt t) 0
    let c := ds.filter (fun t => match ecap s t with | some m => decide (10 * m * W ≤ a10 * wt t) | none => false)
    if c.isEmpty then e ++ ds.map (fun t => (t, a10 * wt t / (10 * W)))
    else
      let e := e ++ c.map (fun t => (t, (ecap s t).getD 0))
      waterFill s k (ds.filter (fun t => !c.contains t)) (c.foldl (fun x t => x - 10 * (ecap s t).getD 0) a10) e

/-- The split of the period's energy over the domains (R304). -/
def energySplit (s : State) (ds : List Nat) (a10 : Nat) : List (Nat × Nat) :=
  let (rt, rest) := ds.partition (domRt s)
  let (a10, e) := rt.foldl (fun (x : Nat × List (Nat × Nat)) t => match ecap s t with
    | some m => if 10 * m ≤ x.1 then (x.1 - 10 * m, x.2 ++ [(t, m)]) else (0, x.2 ++ [(t, x.1 / 10)])
    | none => (0, x.2 ++ [(t, x.1 / 10)])) (a10, [])
  let w := rest.filter (fun t => fld (getBud s t).wt 24 8 != 0)
  waterFill s (w.length + 1) w a10 e

/-- The rate that a core needs, as numerator and denominator in M words/s (R305). -/
def coreNeed (s : State) (n : Nat) : Nat × Nat :=
  let c := getCore s n
  let t := c.dom.toNat
  let u := 4 * fld s.planCtl 32 10
  if c.pl && c.eff ≠ 0 then (420 * c.eff.toNat, 100)
  else if c.level ≠ .h && t ≠ 0 && !domPaused s t then
    let r := if (getBud s t).c0.getLsbD 63 then (u, 1) else (fld (getBud s t).c0 0 48, Nat.max 1 (domCores s t) * (periodNs s / 1000))
    if c.eff ≠ 0 && 4 * c.eff.toNat * r.2 < r.1 then (4 * c.eff.toNat, 1) else r
  else if c.level = .h || t = 0 then (u, 1)
  else (0, 1)

/-- choose_voltage() of R305, in steps above 0.55 V. -/
def chooseVoltage (s : State) (c : Nat) : Nat :=
  let need := (servingCores s c).foldl (fun (a : Nat × Nat) n => let r := coreNeed s n; if a.1 * r.2 < r.1 * a.2 then r else a) (0, 1)
  let ok := fun v => (servingCores s c).all (fun n => let r := rateAt s c v (getCore s n); decide (need.1 * r.2 ≤ r.1 * need.2))
  Nat.max (((List.range 41).find? ok).getD 40) (fld (getCourse s c).vcourse 8 8)

/-- ESTAT of a course from its leakage monitor's mW (R302). -/
def estatOf (s : State) (c mw : Nat) : Nat :=
  let k := (servingCores s c).length
  if k = 0 then 0 else mw / k

/-- The plan (R304 to R306). -/
def runPlan (s : State) (leak : List Nat) : State :=
  let P := periodNs s / 1000
  let ovh := fld s.planSt 32 32
  let res10P := Nat.max (fld s.planCtl 16 16 * 10 * P) (11 * ovh)
  let a10 := fld s.planCtl 0 16 * 10 * P - res10P
  let ds := validDomains s
  let e := energySplit s ds a10
  let s := ds.foldl (fun s t => modBud s t (fun b =>
    { b with ecred := BitVec.ofNat 64 (((e.find? (fun x => x.1 == t)).map (·.2)).getD 0 % 2 ^ 48), unplanned := false })) s
  let s := (List.range 32).foldl (fun s c => modCourse s c (fun x => { x with vcourse := fldSet x.vcourse 32 16 (estatOf s c (leak.getD c 0)) })) s
  let vt := (List.range 32).map (chooseVoltage s)
  let s := { s with plan := some (ds.map (fun t => let b := getBud s t
                      (BitVec.ofNat 12 t, domAcct s t, [ceilCredit b 0, ceilCredit b 1, ceilCredit b 2, b.ecred])))
                    planV := vt
                    planSt := fldSet (fldSet s.planSt 16 16 (res10P / (10 * P))) 0 1 1 }
  let s := (List.range 32).foldl (fun s c => modCourse s c (fun x => { x with vplan := Nat.max x.vplan (vt.getD c 0) })) s
  (List.range 32).foldl seqEval s

/-- ENERGY_PLAN: the planner runs unless MANUAL is 1 (R308). -/
def execEnergyPlan (leakMW : List Nat) (s : State) : Host.Outcome State Fault Refusal :=
  if serving s && !s.planCtl.getLsbD 63 then .next (runPlan s leakMW) else .next s

/-! ### Arbiters (R309 to R312) -/

/-- The key of an arbiter. -/
def arbKey : Arb → Nat
  | .mc m => m.toNat | .rp p => 16 + p.toNat | .dma e => 32 + e.toNat

/-- The weight of a domain at an arbiter (R309). -/
def arbWeight (s : State) (a : Arb) (t : Nat) : Nat :=
  match a with
  | .rp _ => fld (getBud s t).wt 16 8
  | _ => fld (getBud s t).wt 8 8

/-- The weight that BWT holds at reset, and cnt before any refill. -/
def arbInit (_ : Nat) : Nat := 16

/-- ARB_WINDOW_REFILL (R311, R312). -/
def execArbWindowRefill (arb : Arb) (s : State) : Host.Outcome State Fault Refusal :=
  let x := getArb s (arbKey arb)
  let w := s.buds.foldl (fun t e => tset arbInit t e.1 (arbWeight s arb e.1)) []
  .next (setArb s (arbKey arb) { x with cnt := w })

/-- The requester of a memory request (R286, R309): a device agent that R309 names, as 4,096 + its agent ID, or a domain; other overhead
counts as domain 0. -/
def memRequester (r : MemReq) : Nat :=
  if r.src.toNat = agKs || r.src.toNat = agJrn then 4096 + r.src.toNat else if r.ovh then 0 else r.tdid.toNat

/-- The requester of a request at a root port (R309). -/
def outRequester (r : OutReq) : Nat :=
  if r.src.toNat = agKs || r.src.toNat = agJrn || r.src.toNat = agHub then 4096 + r.src.toNat else r.tdid.toNat

/-- An earlier request of the same sender to the same controller has not arrived (R19). -/
def memBehind (s : State) (ch : BitVec 4) (r : MemReq) : Bool :=
  (s.memNet.takeWhile (fun e => e != (ch, r))).any (fun e => e.1 == ch && e.2.src == r.src)

/-- An earlier request of the same sender to the same root port has not arrived (R19). -/
def outBehind (s : State) (p : BitVec 3) (r : OutReq) : Bool :=
  (s.outNet.takeWhile (fun e => e != (p, r))).any (fun e => e.1 == p && e.2.src == r.src)

/-- The requesters with a request pending at an arbiter (R309): domains, and device agents as 4,096 + agent ID. -/
def arbPending (s : State) (a : Arb) : List Nat :=
  match a with
  | .mc m => (if (getMc s m.toNat).scrubWait then [4096 + (64 + m.toNat)] else []) ++
      (s.memNet.filter (fun e => e.1 == m && !memBehind s m e.2)).map (fun e => memRequester e.2)
  | .rp p => ((getRp s p.toNat).inq.map (fun e => fld (getCtx s e.1.toNat).ctl 32 12)) ++
      (s.outNet.filter (fun e => e.1 == p && !outBehind s p e.2)).map (fun e => outRequester e.2)
  | .dma e => (s.chans.filter (fun c => c.1 / 128 == e.toNat && fld c.2.status 60 4 == 1)).map (fun c => fld c.2.ctl 32 12)

/-- The privileged class of a requester, if it is privileged (R311). -/
def arbClass (s : State) (r : Nat) : Option Nat :=
  if r = 4096 + agKs || r = 4096 + agHub then some 3
  else if r = 4096 + agJrn then some 2
  else if 4096 ≤ r then some 1
  else if domRt s r then some (fld (getBud s r).wt 32 2) else none

/-- The first requester after `last` in ascending order, wrapping. -/
def roundRobin (l : List Nat) (last : Nat) : Option Nat :=
  let low := fun (xs : List Nat) => xs.foldl (fun (a : Option Nat) x => match a with | none => some x | some y => some (Nat.min x y)) none
  match low (l.filter (fun x => decide (last < x))) with
  | some x => some x
  | none => low l

/-- arbitrate() of R311. -/
def arbitrate (s : State) (a : Arb) : ArbSt :=
  let x := getArb s (arbKey a)
  let q := arbPending s a
  let p := q.filter (fun r => (arbClass s r).isSome)
  if !p.isEmpty then
    let k := p.foldl (fun m r => Nat.max m ((arbClass s r).getD 0)) 0
    match roundRobin (p.filter (fun r => arbClass s r == some k)) (tget (fun _ => 0) x.last k) with
    | some w => { x with last := tset (fun _ => 0) x.last k w, grant := some w }
    | none => { x with grant := none }
  else
    let cnt := fun d => tget arbInit x.cnt d
    let m := q.foldl (fun a d => Nat.max a (cnt d)) 0
    match roundRobin (if 0 < m then q.filter (fun d => cnt d == m) else q) x.ptr with
    | some w => { x with cnt := if 0 < m then tset arbInit x.cnt w (cnt w - 1) else x.cnt, ptr := w, grant := some w }
    | none => { x with grant := none }

/-- Requester `r` may be served at an arbiter (R309, R310): it holds the grant, or no other requester waits there. -/
def arbAllows (s : State) (a : Arb) (r : Nat) : Bool :=
  (getArb s (arbKey a)).grant == some r || (arbPending s a).all (· == r)

/-- A transfer of requester `r` is made (R310, R311): its grant ends with it; where none stood, the phase that grants it is this one. -/
def arbServed (s : State) (a : Arb) (r : Nat) : State :=
  let x := if (getArb s (arbKey a)).grant = some r then getArb s (arbKey a) else arbitrate s a
  setArb s (arbKey a) { x with grant := none }

end Sys2Proof.Machine
end

