-- ==== Sys2Proof/Machine/Perf.lean ====
section
/-! DEFINITION. Freezes, snapshots and bandwidth windows of the performance counters (R481 to R485). -/
namespace Sys2Proof.Machine

/-- A bank's number: cores from 256 on, the others by agent ID. -/
def bankId : Bank → Nat
  | .core n => 256 + n.toNat | .course c => c.toNat | .slice k => 32 + k.toNat | .channel m => 64 + m.toNat | .port p => 80 + p.toNat

/-- Every bank that takes part in a freeze or snapshot. -/
def allBanks : List Nat := List.range 86 ++ (List.range 256).map (· + 256)

/-- Plumb time at a bank (R45); a core's counters follow its course's replica. -/
def bankTime (s : State) (b : Nat) : Nat := if 256 ≤ b then coreTime s (b - 256) else plumbOf s b

/-- PM_GLOBAL takes a value (R482 to R484): LATE loses the bits written as ones; a change of FREEZE, and SNAP = 1 with none
pending, are scheduled 4 µs ahead. -/
def pmGlobalApply (s : State) (v : Word64) : State :=
  let old := s.pmGlobal
  let T := s.plumb.now + 4000
  let s := { s with pmGlobal := fldSet (fldSet old 62 1 (b2n (v.getLsbD 62))) 61 1 (b2n (old.getLsbD 61 && !v.getLsbD 61)) }
  let s := if v.getLsbD 62 != old.getLsbD 62 then { s with frzT := T, frzWait := allBanks } else s
  if v.getLsbD 63 && s.snapWait.isEmpty then
    { s with snapT := T, snapWait := allBanks, lateBanks := 0, pmGlobal := s.pmGlobal ||| 0x8000000000000000 }
  else s

/-- A bank has applied a freeze or snapshot after its instant (R483). -/
def markLate (s : State) (b : Nat) : State :=
  let s := { s with pmGlobal := s.pmGlobal ||| 0x2000000000000000 }
  if 256 ≤ b then s else bkSet s b 15 (bkGet s b 15 ||| 16)

/-- The counters of a bank copied to their snapshots (R483). -/
def bankCopy (s : State) (b : Nat) : State :=
  if 256 ≤ b then
    modCore s (b - 256) (fun c => (List.range 8).foldl (fun c i => pmSet c (8 + i) (pmGet c i)) c)
  else (List.range 4).foldl (fun s i => bkSet s b (8 + i) (bkGet s b i)) s

/-- The counters of a bank stopped or resumed (R482). -/
def bankFreeze (s : State) (b : Nat) (v : Bool) : State :=
  if 256 ≤ b then modCore s (b - 256) (fun c => { c with frozen := v })
  else { s with bankFrozen := tset (fun _ => false) s.bankFrozen b v }

/-- A PM_SNAP or PM_FREEZE record, stamped with its instant (R483, R485). -/
def pmRecord (s : State) (cls T k : Nat) : State := putRec s agJrn T cls 0 (bytesOf 8 T ++ bytesOf 1 (Nat.min 255 k))

/-- The pending snapshot reaches a bank (R483): 3 ns are the bound of R45. -/
def snapBank (s : State) (b : Nat) : State :=
  if !s.snapWait.contains b || bankTime s b < s.snapT then s else
  let late := decide (s.snapT + 3 < bankTime s b)
  let s := bankCopy s b
  let s := if late then markLate { s with lateBanks := s.lateBanks + 1 } b else s
  let s := { s with snapWait := s.snapWait.erase b }
  if s.snapWait.isEmpty then pmRecord { s with pmGlobal := fldSet s.pmGlobal 63 1 0 } 0x80 s.snapT s.lateBanks else s

/-- The pending freeze or resumption reaches a bank (R482, R483). -/
def freezeBank (s : State) (b : Nat) : State :=
  if !s.frzWait.contains b || bankTime s b < s.frzT then s else
  let late := decide (s.frzT + 3 < bankTime s b)
  let on := s.pmGlobal.getLsbD 62
  let s := bankFreeze s b on
  let s := if late then markLate s b else s
  let s := { s with frzWait := s.frzWait.erase b }
  if s.frzWait.isEmpty then pmRecord s 0x81 s.frzT (b2n on) else s

/-- COUNTER_INSTANT. -/
def execCounterInstant (bank : Bank) (s : State) : Host.Outcome State Fault Refusal :=
  .next (freezeBank (snapBank s (bankId bank)) (bankId bank))

/-- BW_WINDOW_BOUNDARY (R481): a multiple of WIN has passed since the bank's last boundary. -/
def execBwWindowBoundary (bank : Bank) (s : State) : Host.Outcome State Fault Refusal :=
  let b := bankId bank
  if b < 64 || 256 ≤ b then .next s else
  let w := Nat.max 1 (fld (bkGet s b 16) 0 16) * 1000
  if s.plumb.now / w ≤ tget (fun _ => 0) s.bwAt b / w then .next s else
  let idx := (fld (bkGet s b 16) 48 16 + 1) % 65536
  let val := fun (k : Nat) => fldSet (fldSet 0 48 16 idx) 0 48 (tget (fun _ => 0) s.bwNow (b * 2 + k))
  let s' := bkSet (bkSet (bkSet s b 16 (fldSet (bkGet s b 16) 48 16 idx)) b 17 (val 0)) b 18 (val 1)
  .next { s' with bwNow := tset (fun _ => 0) (tset (fun _ => 0) s.bwNow (b * 2) 0) (b * 2 + 1) 0
                  bwAt := tset (fun _ => 0) s.bwAt b s.plumb.now }

/-- BW_CTL takes a value (R481): a WIN of 0 is refused. -/
def bwCtlApply (s : State) (b : Nat) (v : Word64) : State :=
  if fld v 0 16 = 0 then ctlErr s else bkSet s b 16 (fldSet (bkGet s b 16) 0 16 (fld v 0 16))

end Sys2Proof.Machine
end

