-- ==== Sys2Proof/Machine/MemCtl.lean ====
section
/-! DEFINITION. The memory controllers: the outer code, requests and answers, marks, refresh, retraining, panics, the scrubber and
spare entry (R357 to R383, R519). -/
namespace Sys2Proof.Machine

/-! ### Geometry (R357, R361) -/

/-- Lines in one rank of a channel, by the density and width of its devices (R361). -/
def rankLines (x : Mc) : Nat :=
  let nb := if x.cfg.getLsbD 14 then 64 else 128
  let nrow := match fld x.cfg 15 2 with | 0 => 65536 | 1 => 98304 | _ => 131072
  64 * nb * nrow

/-- Ranks in service and ranks installed (MC_CFG.NRANK, NPHYS). -/
def nRank (x : Mc) : Nat := fld x.cfg 22 5
def nPhys (x : Mc) : Nat := fld x.cfg 27 5

/-- Line number within the channel (R361). -/
def chanLine (l : LineNo) : Nat := l.toNat / 16

/-- The line of channel `m` with line number `k` within it (R361). -/
def lineOfChan (m k : Nat) : LineNo := BitVec.ofNat 46 (k * 16 + (m ^^^ (k / 256 % 16) ^^^ (k / 1048576 % 16)))

/-- The physical rank that holds a logical one (R361). -/
def physRank (x : Mc) (lr : Nat) : Nat := fld x.rankmap (4 * (lr % 16)) 4

/-- The physical rank and subchannel of a line (R361). -/
def rankOf (x : Mc) (l : LineNo) : Nat × Nat := (physRank x (chanLine l / rankLines x), chanLine l % 2)

/-- The logical rank that a physical rank in service holds. -/
def logicalRank (x : Mc) (pr : Nat) : Option Nat := (List.range (nRank x)).find? (fun lr => physRank x lr == pr)

/-! ### The outer code (R370, R371, R374, R375, R519) -/

/-- Multiplication by α in GF(2^8) with x^8 + x^4 + x^3 + x^2 + 1 (R370). -/
def gfX (a : Nat) : Nat := if a < 128 then 2 * a else (2 * a - 256) ^^^ 29

/-- Multiplication by α^k. -/
def gfPow : Nat → Nat → Nat
  | 0, a => a
  | k + 1, a => gfPow k (gfX a)

/-- The two syndromes of a codeword's error, symbols in the order c0 to c9 (R519). -/
def syndromes (e : List Nat) : Nat × Nat :=
  ((e.foldl (fun a x => a ^^^ x) 0), ((List.range e.length).foldl (fun a k => a ^^^ gfPow k (e.getD k 0)) 0))

/-- The syndromes of the poison pattern (R374). -/
def poisonSyn : Nat × Nat := syndromes [0xB5, 0x3C]

/-- The device of a symbol position (R519). -/
def deviceOf (x8 : Bool) (p : Nat) : Nat :=
  if x8 then (if p < 2 then 4 else (p - 2) % 4) else (if p < 2 then 8 + p else p - 2)

/-- The symbol positions of a device (R519). -/
def positionsOf (x8 : Bool) (d : Nat) : List Nat := (List.range 10).filter (fun p => deviceOf x8 p == d)

/-- How one codeword decodes. -/
inductive CwRes where
  | clean | poison | bad | corrected (dev : Nat) (fix : List (Nat × Nat))
  deriving DecidableEq, Repr

/-- The value of an erased symbol that, with another, gives the syndromes: a trial over the 256 values. -/
def solveTwo (p q s0 s1 : Nat) : Option (Nat × Nat) :=
  ((List.range 256).find? (fun y => (gfPow p y ^^^ gfPow q (s0 ^^^ y)) == s1)).map (fun y => (y, s0 ^^^ y))

/-- One codeword decoded from its error (R371, R375): a poisoned word with any device error is uncorrectable. -/
def decodeCw (x8 : Bool) (mark : Option Nat) (e : List Nat) (poisoned : Bool) : CwRes :=
  let (s0, s1) := syndromes e
  if poisoned then (if e.all (fun x => x == 0) then .poison else .bad)
  else if s0 = 0 && s1 = 0 then .clean
  else if (s0, s1) = poisonSyn then .poison
  else match mark with
    | some d =>
      (match positionsOf x8 d with
       | [p] => if gfPow p s0 = s1 then .corrected d [(p, s0)] else .bad
       | [p, q] => (match solveTwo p q s0 s1 with | some (y, z) => .corrected d [(p, y), (q, z)] | none => .bad)
       | _ => .bad)
    | none =>
      if s0 = 0 then .bad
      else match (List.range 10).find? (fun p => gfPow p s0 == s1) with
        | some p => .corrected (deviceOf x8 p) [(p, s0)]
        | none => .bad

/-- An error of symbol `p` of codeword `j` applied to the line's data bytes (R519); check symbols hold no data. -/
def applySym (x8 : Bool) (j p v : Nat) (l : LineData) : LineData :=
  let put := fun (l : LineData) (i x : Nat) => linePut l i (lineByte l i ^^^ BitVec.ofNat 8 x)
  if p < 2 then l
  else if x8 then put l (8 * j + (p - 2)) v
  else
    let k := p - 2
    let sh := 16 ^ (k % 2)
    put (put l (8 * j + k / 2) (v % 16 * sh)) (8 * j + 4 + k / 2) (v / 16 * sh)

/-- The error vector of codeword `j`. -/
def errVec (errs : List SymErr) (j : Nat) : List Nat :=
  (List.range 10).map (fun p => errs.foldl (fun a e => if e.word.toNat = j ∧ e.pos.toNat = p then a ^^^ e.xor.toNat else a) 0)

/-- What a read of a line gives: the data with its marks, the words uncorrectable and poisoned, the device corrected. -/
structure ReadRes where
  data : LineData
  bad  : BitVec 8 := 0
  pois : BitVec 8 := 0
  dev  : Option Nat := none
  deriving DecidableEq, Repr

/-- A DRAM read of line data `d`, with the device errors it meets (R371, R372, R375). -/
def decodeLine (x8 : Bool) (mark : Option Nat) (d : LineData) (errs : List SymErr) : ReadRes :=
  let res := (List.range 8).map (fun j => decodeCw x8 mark (errVec errs j) (d.poison.getLsbD j))
  let devs := (res.filterMap (fun r => match r with | .corrected k _ => some k | _ => none)).eraseDups
  let res := if 1 < devs.length then res.map (fun r => match r with | .corrected _ _ => .bad | r => r) else res
  let bits := fun (p : CwRes → Bool) => BitVec.ofNat 8 ((List.range 8).foldl (fun a j => a + b2n (p (res.getD j .clean)) * 2 ^ j) 0)
  let one := fun (l : LineData) (j : Nat) =>
    let raw := (List.range 10).foldl (fun l p => applySym x8 j p ((errVec errs j).getD p 0) l) l
    match res.getD j .clean with
    | .corrected _ fix => fix.foldl (fun l f => applySym x8 j f.1 f.2 l) raw
    | _ => raw
  let out := (List.range 8).foldl one d
  let bad := bits (fun r => r == .bad)
  let pois := bits (fun r => r == .poison)
  { data := { out with poison := bad ||| pois }, bad := bad, pois := pois, dev := if devs.length = 1 then devs.head? else none }

/-! ### Counts and marks (R372, R373, R375) -/

/-- The marked device of a rank and subchannel, if any (MC_RANK). -/
def markOf (x : Mc) (r sc : Nat) : Option Nat :=
  let w := tget (fun _ => 0) x.rank r
  if w.getLsbD (7 + 8 * sc) then some (fld w (8 * sc) 4) else none

/-- The mark of a rank and subchannel set or cleared. -/
def setMark (s : State) (ch r sc : Nat) (d : Option Nat) : State :=
  modMc s ch (fun x =>
    let w := tget (fun _ => 0) x.rank r
    { x with rank := tset (fun _ => 0) x.rank r (fldSet w (8 * sc) 8 (match d with | some k => 128 + k | none => 0)) })

/-- An MC_MARK record and MC_STATUS.MARK (R373). -/
def markRecord (s : State) (ch r sc d cause : Nat) : State :=
  let s := modMc s ch (fun x => { x with status := x.status ||| 16 })
  jrn s (64 + ch) 0x51 0 (bytesOf 1 ch ++ bytesOf 1 r ++ bytesOf 1 sc ++ bytesOf 1 d ++ bytesOf 1 cause)

/-- A correction that names a device (R373): the rank's count and the pass's count of the device, which marks it at MARK_TH. -/
def corrected (s : State) (ch r sc d : Nat) : State :=
  let x := getMc s ch
  let k := (r * 2 + sc) * 16 + d
  let n := tget (fun _ => 0) x.corr k + 1
  let w := tget (fun _ => 0) x.rank r
  let s := setMc s ch { x with corr := tset (fun _ => 0) x.corr k n, rank := tset (fun _ => 0) x.rank r (fldSat w 48 16 1) }
  let th := fld x.ctl 8 8
  if th ≠ 0 && n = th then
    match markOf x r sc with
    | none => markRecord (setMark s ch r sc (some d)) ch r sc d 0
    | some m => if m = d then s else markRecord s ch r sc d 2
  else s

/-- An uncorrectable read (R372, R378): address, status, record; `origin` 0 request, 1 scrub, 2 spare copy. -/
def ueRecord (s : State) (ch : Nat) (l : LineNo) (bad : BitVec 8) (origin : Nat) (t : Tdid) : State :=
  let s := modMc s ch (fun x => { x with
    errcnt := if origin = 1 then fldSat x.errcnt 0 16 1 else fldSat x.errcnt 32 16 1
    errAddr := BitVec.ofNat 64 (bad.toNat * 2 ^ 56 + l.toNat * 64 + 1)
    status := x.status ||| 8 })
  let s := jrn s (64 + ch) 0x50 t (bytesOf 1 ch ++ bytesOf 8 (l.toNat * 64) ++ bytesOf 1 bad.toNat ++ bytesOf 1 origin)
  setFault s 6

/-- What a read's outcome leaves in the controller (R372, R373, R375). -/
def readCounts (s : State) (ch : Nat) (l : LineNo) (q : ReadRes) (origin : Nat) (t : Tdid) : State :=
  let (r, sc) := rankOf (getMc s ch) l
  let s := if q.pois ≠ 0 then modMc s ch (fun x => { x with errcnt := fldSat x.errcnt 16 16 1, status := x.status ||| 4 }) else s
  let s := match q.dev with | some d => corrected s ch r sc d | none => s
  let s := if q.dev.isSome && q.bad = 0 && origin ≠ 1 then
      bankEv (modMc s ch (fun x => { x with errcnt := fldSat x.errcnt 48 16 1 })) (64 + ch) 8 1 { tdid := some t.toNat, line := some l, cls := some 0 }
    else s
  if q.bad ≠ 0 then ueRecord s ch l q.bad origin t else s

/-! ### Charges (R285, R286, R302, R331, R481) -/

/-- Bytes counted in a bandwidth window (R481): `ab` 0 for BW_A, 1 for BW_B. -/
def bwAdd (s : State) (b ab k : Nat) : State :=
  { s with bwNow := tset (fun _ => 0) s.bwNow (b * 2 + ab) (tget (fun _ => 0) s.bwNow (b * 2 + ab) + k) }

/-- One line read or written at the DRAM, charged to a domain or to overhead (R285, R286, R302, R331). -/
def dramCharge (s : State) (ch key : Nat) (l : LineNo) (write : Bool) (from_ : Nat) : State :=
  let a := 64 + ch
  let s := countLed s a key (fun c => if write then { c with dwr := c.dwr + 64 } else { c with drd := c.drd + 64 })
  let s := if key = ovhKey then s else addUse s a key 1 64
  let s := charge s a key (evCharge s 5 none)
  let s := bwAdd s a (b2n write) 64
  bankEv s a (if write then 2 else 1) 1 { tdid := some (key % 4096), from_ := some from_, line := some l, cls := some 0 }

/-- The check bits that a coherent access meets are looked at (R251): the owner's line, the L3 copy, the directory entry. -/
def engCheck (s : State) (l : LineNo) : State :=
  let h := homeOfLine l
  dirCheck (l3Check ((List.range 32).foldl (fun s c => l2Check s c l) s) h l) h l

/-- The course that owns a line has changed it. -/
def dirtyOwner (s : State) (l : LineNo) : Bool :=
  (List.range 32).any (fun c => match l2Find (getCourse s c) l with | some (_, e) => e.st == .m | none => false)

/-- A line read by an engine (R265, R286), charged to `key`: the home access, the DRAM line where memory supplies it, and the one that
an owner's dirty data is written to. -/
def engRead (s : State) (key : Nat) (l : LineNo) (agent : Nat) : LineData × State :=
  let h := homeOfLine l
  let s := engCheck s l
  let s := charge s (32 + h) key (evCharge s 4 none)
  let s := charge s (32 + h) key (evCharge s 3 none)
  let fromMem := (ownerOf s l).isNone && (l3Find (getSlice s h) l).isNone
  let s := if fromMem then dramCharge s (channelOf l) key l false agent else s
  cohRead (if dirtyOwner s l then dramCharge s (channelOf l) key l true (32 + h) else s) l agent

/-- A masked write of a line by an engine (R265, R286), charged to `key`. -/
def engWrite (s : State) (key : Nat) (l : LineNo) (d : LineData) (mask : BitVec 64) (agent : Nat) : State :=
  let h := homeOfLine l
  let s := engCheck s l
  let s := charge s (32 + h) key (evCharge s 4 none)
  let s := charge s agent key (evCharge s 3 none)
  let s := if (l3Find (getSlice s h) l).isNone then dramCharge s (channelOf l) key l true agent else s
  cohWrite s l d mask agent

/-- An engine's step that meets a line it cannot have does nothing and comes again (R259, R271); where the home had no tracker, RETRY is
counted there and the agent waits (R275), with a draw of its own that is a FREE VALUE. `wait` is what the waiting step leaves. -/
def engineOr (f wait : State → State) (s : State) : State :=
  let t := f { s with engHold := none }
  match t.engHold with
  | none => t
  | some .busy => wait s
  | some (.full h a) =>
    let (r, s) := free s
    let n := (tget (fun _ => (0, 0)) s.engTry a).1 + 1
    let s := modSlice s h (fun x => { x with trkReg := fldSat x.trkReg 32 16 1 })
    let s := bankEv s (32 + h) 5 1 { from_ := some a, cls := some 0 }
    wait { s with engTry := tset (fun _ => (0, 0)) s.engTry a (n, plumbOf s a + backoffOf s n r) }

/-- An engine's step, made whole or not at all. -/
def engine (f : State → State) (s : State) : State := engineOr f id s

/-- `n` bytes at a physical address read by an engine, line by line; at most the lines that they cover. -/
def engReadBytes : Nat → State → Nat → Nat → Nat → Nat → List PByte × State
  | 0, s, _, _, _, _ => ([], s)
  | f + 1, s, key, pa, n, agent =>
    if n = 0 then ([], s) else
    let a := Nat.min n (64 - pa % 64)
    let (d, s) := engRead s key (BitVec.ofNat 46 (pa / 64)) agent
    let (r, s) := engReadBytes f s key (pa + a) (n - a) agent
    (lineRead d (pa % 64) a ++ r, s)

/-- Bytes at a physical address written by an engine, line by line. -/
def engWriteBytes : Nat → State → Nat → Nat → List PByte → Nat → State
  | 0, s, _, _, _, _ => s
  | f + 1, s, key, pa, bs, agent =>
    if bs.isEmpty then s else
    let a := 64 - pa % 64
    let (d, m) := lineOf (pa % 64) (bs.take a)
    engWriteBytes f (engWrite s key (BitVec.ofNat 46 (pa / 64)) d m agent) key (pa + a) (bs.drop a) agent

/-! ### Requests (R362, R363) -/

/-- The words of a spare entry's copy that a write makes whole again (R380): a write to the source goes to both ranks. -/
def spareWritten (x : Mc) (r : MemReq) : Mc :=
  let whole := BitVec.ofNat 8 ((List.range 8).foldl (fun a w => a + b2n (fld r.mask (8 * w) 8 == 255 && !r.data.poison.getLsbD w) * 2 ^ w) 0)
  { x with sparePoison := x.sparePoison.map (fun e => if e.1 = r.line then (e.1, e.2 &&& ~~~whole) else e) }

/-- The ledger key of a memory request (R286). -/
def memKey (r : MemReq) : Nat := if r.ovh then ovhKey else r.tdid.toNat

/-- A controller's answer is stamped and tagged (R22, R54), and sent to the slice that asked. -/
def sendAns (s : State) (m : Nat) (r : MemReq) (d : Option LineData) : State :=
  let (st, s) := shortStamp s (64 + m)
  { s with memAns := s.memAns ++ [(BitVec.ofNat 5 (r.src.toNat - 32),
      { id := r.id, line := r.line, data := d, src := BitVec.ofNat 7 (64 + m), tdid := r.tdid, epoch := r.epoch, short := st })] }

/-- MEMORY_REQUEST (R19, R256, R309, R362, R363, R374): a write takes effect as it is accepted and is answered; a read is queued with what
it will return. The real-time port takes its domains' requests without arbitration; the others wait for their grant, and while the
queues are full every request waits. -/
def execMemoryRequest (ch : BitVec 4) (r : MemReq) (s : State) : Host.Outcome State Fault Refusal :=
  let m := ch.toNat
  let x := getMc s m
  let rt := domRt s r.tdid.toNat && !r.ovh && x.ctl.getLsbD 0
  let port := rt && decide (x.rtQ.length < 32)
  if memBehind s ch r || (!port && (decide (256 ≤ x.mainQ.length) || !arbAllows s (.mc ch) (memRequester r))) then .next s
  else
    let s := if port then s else arbServed s (.mc ch) (memRequester r)
    let s := received { s with memNet := s.memNet.erase (ch, r) } (64 + m) r.short
    if r.write then
      let s := memSetLine s r.line (lineMerge (memLine s r.line) r.data r.mask)
      let s := dramCharge (modMc s m (fun x => spareWritten x r)) m (memKey r) r.line true r.src.toNat
      .next (sendAns s m r none)
    else
      let q : QReq := { req := { r with data := memLine s r.line }, at_ := plumbOf s (64 + m) }
      if port then
        .next (bankEv (modMc s m (fun x => { x with rtQ := x.rtQ ++ [q] })) (64 + m) 5 1
          { tdid := some r.tdid.toNat, from_ := some r.src.toNat, line := some r.line, cls := some 0 })
      else .next (modMc s m (fun x => { x with mainQ := x.mainQ ++ [q] }))

/-- The panic threshold in ns (R365). -/
def panicNs (x : Mc) : Nat := fld x.ctl 16 10 * 10

/-- The oldest request of the real-time port has waited the threshold. -/
def panicNow (s : State) (m : Nat) : Bool :=
  match (getMc s m).rtQ with
  | q :: _ => decide (q.at_ + panicNs (getMc s m) ≤ plumbOf s (64 + m))
  | [] => false

/-- A panic ends when the real-time port no longer holds a request that old (R365). -/
def endPanic (s : State) (m : Nat) : State :=
  let x := getMc s m
  match x.panicAt with
  | none => s
  | some t =>
    if panicNow s m then s
    else
      let s := setMc s m { x with panicAt := none, panicN := 0, status := x.status ||| 32 }
      jrn s (64 + m) 0x53 0 (bytesOf 1 m ++ bytesOf 4 (Nat.min 0xFFFFFFFF (plumbOf s (64 + m) - t)) ++ bytesOf 4 x.panicN)

/-- DRAM_READ_DONE (R362, R371, R372, R375): a queued read is decoded and answered. -/
def execDramReadDone (ch : BitVec 4) (id : Nat) (errs : List SymErr) (s : State) : Host.Outcome State Fault Refusal :=
  let m := ch.toNat
  let x := getMc s m
  match (x.rtQ ++ x.mainQ).find? (fun q => q.req.id == id) with
  | none => .next s
  | some q =>
    let r := q.req
    let (rk, sc) := rankOf x r.line
    let res := decodeLine (x.cfg.getLsbD 14) (markOf x rk sc) r.data errs
    let s := setMc s m { x with rtQ := x.rtQ.erase q, mainQ := x.mainQ.erase q, panicN := x.panicN + b2n x.panicAt.isSome }
    let s := dramCharge s m (memKey r) r.line false r.src.toNat
    let s := readCounts s m r.line res 0 (if r.ovh then 0 else r.tdid)
    .next (endPanic (sendAns s m r (some res.data)) m)

/-- PANIC_START (R365). -/
def execPanicStart (ch : BitVec 4) (s : State) : Host.Outcome State Fault Refusal :=
  let m := ch.toNat
  if (getMc s m).panicAt.isNone && panicNow s m then
    .next (modMc s m (fun x => { x with panicAt := some (plumbOf s (64 + m)), panicN := 0 }))
  else .next (endPanic s m)

/-! ### Refresh and retraining (R364, R367, R368) -/

/-- REFRESH_DUE (R364, R365): a refresh is postponed only during a panic, up to 4 per rank; otherwise it is issued, and those
postponed with it. -/
def execRefreshDue (ch : BitVec 4) (rank : BitVec 4) (s : State) : Host.Outcome State Fault Refusal :=
  let m := ch.toNat
  let x := getMc s m
  let r := rank.toNat
  let n := tget (fun _ => 0) x.postponed r
  if x.panicAt.isSome && n < 4 then .next (setMc s m { x with postponed := tset (fun _ => 0) x.postponed r (n + 1) })
  else .next (setMc s m { x with postponed := tset (fun _ => 0) x.postponed r 0 })

/-- DIMM_TEMP_POLL (R364). -/
def execDimmTempPoll (ch : BitVec 4) (temps : List Nat) (s : State) : Host.Outcome State Fault Refusal :=
  .next (modMc s ch.toNat (fun x => { x with dimmTemp := temps }))

/-- RETRAIN_STEP (R365, R367, R368): no step begins during a panic, or within 10 µs of the channel's last. -/
def execRetrainStep (ch : BitVec 4) (rank : BitVec 4) (step : BitVec 2) (pass : Bool) (s : State) : Host.Outcome State Fault Refusal :=
  let m := ch.toNat
  let x := getMc s m
  let now := plumbOf s (64 + m)
  let soon := match x.lastStep with | some t => decide (now < t + 10000) | none => false
  if !serving s || x.panicAt.isSome || soon then .next s
  else
    let s := setMc s m { x with lastStep := some now }
    if pass then .next s
    else
      let s := modMc s m (fun x => { x with status := x.status ||| 128 })
      .next (jrn s (64 + m) 0x52 0 (bytesOf 1 m ++ bytesOf 1 rank.toNat ++ bytesOf 1 (step.toNat + 1) ++ bytesOf 1 1))

/-! ### The scrubber (R377, R378) -/

/-- A scrub pass ends (R378): it is counted and journaled, and the counts of devices begin again (R373). -/
def passEnd (s : State) (m : Nat) : State :=
  let x := getMc s m
  let p := satAdd 16 (fld x.scrubSt 48 16) 1
  let s := setMc s m { x with scrubSt := BitVec.ofNat 64 (p * 2 ^ 48), corr := [], passCe := 0, passUe := 0 }
  jrn s (64 + m) 0x55 0 (bytesOf 1 m ++ bytesOf 4 p ++ bytesOf 4 x.passCe ++ bytesOf 4 x.passUe)

/-- One scrub read (R378): a corrected line is rewritten, which leaves the stored data as it is. -/
def scrubRead (s : State) (m : Nat) (errs : List SymErr) : State :=
  let x := getMc s m
  let k := fld x.scrubSt 0 48
  let pr := k / rankLines x
  let s := bankEv s (64 + m) 7 1 { cls := some 0 }
  let s := match logicalRank x pr with
    | none => s
    | some lr =>
      let l := lineOfChan m (lr * rankLines x + k % rankLines x)
      let res := decodeLine (x.cfg.getLsbD 14) (markOf x pr (k % 2)) (memLine s l) errs
      let s := dramCharge s m ovhKey l false (64 + m)
      let s := if res.dev.isSome && res.bad = 0 then dramCharge s m ovhKey l true (64 + m) else s
      let s := modMc s m (fun x => { x with passCe := x.passCe + b2n res.dev.isSome, passUe := x.passUe + b2n (res.bad != 0) })
      readCounts s m l res 1 0
  let s := modMc s m (fun x => { x with scrubSt := fldSet x.scrubSt 0 48 (k + 1) })
  if nPhys x * rankLines x ≤ k + 1 then passEnd s m else s

/-- SCRUB_LINE: with the scrubber enabled and no panic (R365); while another requester holds the controller's grant it waits at the arbiter
(R309). -/
def execScrubLine (ch : BitVec 4) (errs : List SymErr) (s : State) : Host.Outcome State Fault Refusal :=
  let m := ch.toNat
  let x := getMc s m
  if !(x.scrub.getLsbD 63 && x.panicAt.isNone && serving s) then .next s
  else
    let s := modMc s m (fun x => { x with scrubWait := true })
    if arbAllows s (.mc ch) (4096 + (64 + m)) then
      .next (scrubRead (modMc (arbServed s (.mc ch) (4096 + (64 + m))) m (fun x => { x with scrubWait := false })) m errs)
    else .next s

/-! ### Spare entry (R379, R380) -/

/-- MC_SPARE.STATE. -/
def spareState (x : Mc) : Nat := fld x.spare 57 3

/-- A spare entry takes a state: PROGRESS begins again and an MC_SPARE record is made. -/
def setSpare (s : State) (m k : Nat) : State :=
  let s := modMc s m (fun x => { x with spare := fldSet (fldSet x.spare 57 3 k) 0 32 0, spareAt := 0 })
  let x := getMc s m
  jrn s (64 + m) 0x54 0 (bytesOf 1 m ++ bytesOf 1 (fld x.spare 48 5) ++ bytesOf 1 (fld x.spare 40 5) ++ bytesOf 1 k)

/-- Line `k` of the source rank is copied (R379): words that do not read go poisoned to the spare. -/
def copyLine (s : State) (m k : Nat) (errs : List SymErr) : State :=
  let x := getMc s m
  let src := fld x.spare 48 5
  match logicalRank x src with
  | none => s
  | some lr =>
    let l := lineOfChan m (lr * rankLines x + k)
    let res := decodeLine (x.cfg.getLsbD 14) (markOf x src (k % 2)) (memLine s l) errs
    let s := dramCharge (dramCharge s m ovhKey l false (64 + m)) m ovhKey l true (64 + m)
    let s := readCounts s m l res 2 0
    if res.bad = 0 then s else modMc s m (fun x => { x with sparePoison := x.sparePoison ++ [(l, res.bad)] })

/-- SPARE_COPY_STEP (R379, R380): the next line of FILL or COPY. -/
def execSpareCopyStep (ch : BitVec 4) (errs : List SymErr) (s : State) : Host.Outcome State Fault Refusal :=
  let m := ch.toNat
  let x := getMc s m
  let k := x.spareAt
  if (spareState x = 1 || spareState x = 2) && k < rankLines x && x.panicAt.isNone then
    let s := if spareState x = 2 then copyLine s m k errs
      else dramCharge s m ovhKey (lineOfChan m 0) true (64 + m)
    .next (modMc s m (fun x => { x with spareAt := k + 1, spare := fldSet x.spare 0 32 ((k + 1) / 64) }))
  else .next s

/-- The switch of the rank map (R373, R379): the source leaves service with its marks, and the words that did not copy are poisoned. -/
def spareSwitch (s : State) (m : Nat) : State :=
  let x := getMc s m
  let src := fld x.spare 48 5
  let dst := fld x.spare 40 5
  let map := match logicalRank x src with | some lr => fldSet x.rankmap (4 * lr) 4 dst | none => x.rankmap
  let s := setMc s m { x with rankmap := map, cfg := fldSet x.cfg 17 5 0x1F, sparePoison := [],
                              rank := tset (fun _ => 0) x.rank src (tget (fun _ => 0) x.rank src &&& ~~~0x8F8F) }
  x.sparePoison.foldl (fun s e =>
    let d := memLine s e.1
    memSetLine s e.1 { d with poison := d.poison ||| e.2 }) s

/-- A channel's entry has reached DONE: the command that started it ends with the last of its channels (R439). -/
def spareEnded (s : State) (m : Nat) : State :=
  let ch := BitVec.ofNat 4 m
  match s.ks.spares.find? (fun e => e.1 == ch) with
  | none => s
  | some (_, p) =>
    let rest := s.ks.spares.filter (fun e => e.1 != ch)
    let s := { s with ks := { s.ks with spares := rest } }
    if rest.any (fun e => e.2 == p) then s else operationDone s p 0

/-- SPARE_STATE_DONE (R379): the present state completes; what is left of a fill or copy is done without an error. -/
def execSpareStateDone (ch : BitVec 4) (s : State) : Host.Outcome State Fault Refusal :=
  let m := ch.toNat
  match spareState (getMc s m) with
  | 1 => .next (setSpare s m 2)
  | 2 => .next (setSpare s m 3)
  | 3 =>
    let s := setSpare (spareSwitch s m) m 4
    .next (spareEnded (modMc s m (fun x => { x with status := x.status ||| 64 })) m)
  | _ => .next s

end Sys2Proof.Machine
end

