-- ==== Sys2Proof/Machine/PortOps.lean ====
section
/-! DEFINITION. A root port's links, the ends of outbound requests, held grants, and halts of function contexts (R129, R315,
R386 to R389, R394, R398, R399). -/
namespace Sys2Proof.Machine

/-! ### Counting (R285, R302, R481) -/

/-- Payload bytes of a TLP at root port `p` for domain `t`: `dir` 0 inbound, 1 outbound (R285, R302, R331, R481). -/
def portBytes (s : State) (p t dir bytes : Nat) : State :=
  if bytes = 0 then s else
  let a := 80 + p
  let s := countLed s a t (fun c => { c with iob := c.iob + bytes })
  let s := addUse s a t 2 bytes
  let s := charge s a t ((bytes + 63) / 64 * evCharge s 6 none)
  let s := bwAdd s a dir bytes
  bankEv s a (3 + dir) bytes { tdid := some t, cls := some 0 }

/-! ### Links (R385 to R387, R399) -/

/-- The plumb time by which a root port's limits run: the master's (R51). -/
def portNow (s : State) (_p : Nat) : Nat := s.plumb.now

/-- A bit of RP_STATUS set. -/
def rpStatus (s : State) (p b : Nat) (v : Bool) : State := modRp s p (fun x => { x with status := fldSet x.status b 1 (b2n v) })

/-- Word `reg` of the configuration space of link `l`'s root port function (R386). -/
def linkCfg (s : State) (p l reg : Nat) : BitVec 32 := cfgWord s ((4 * p + l) * 0x2000 + reg / 4)

/-- The link of a root port whose bus range holds a requester ID (R399); link 0 where none does (log entry 18). -/
def linkOfRid (s : State) (p rid : Nat) : Nat :=
  let b := rid / 256
  ((List.range 4).find? (fun l => linkExists s p l &&
    (let w := linkCfg s p l 0x18; decide (fld w 8 8 ≤ b) && decide (b ≤ fld w 16 8)))).getD 0

/-- The link whose memory, or prefetchable memory, base and limit registers contain an address (R387; log entry 18). -/
def linkOfAddr (s : State) (p pa : Nat) : Option Nat :=
  let a := pa % 0x20000000000
  (List.range 4).find? (fun l => linkExists s p l &&
    (let m := linkCfg s p l 0x20
     let f := linkCfg s p l 0x24
     let fb := fld f 4 12 + (linkCfg s p l 0x28).toNat * 4096
     let fl := fld f 20 12 + (linkCfg s p l 0x2C).toNat * 4096
     let q := a / 0x100000
     (decide (fld m 4 12 ≤ q) && decide (q ≤ fld m 20 12)) || (decide (fb ≤ q) && decide (q ≤ fl))))

/-- AER of a link (R388, R392, R400). -/
def aer (s : State) (p l : Nat) : State := rpStatus s p (8 * l) true

/-! ### Ends of outbound requests (R129, R388) -/

/-- The bytes of a read that ends with all ones (R388). -/
def allOnes (n : Nat) (p : Bool) : List PByte := List.replicate n { b := 0xFF, p := p }

/-- A core's store has been performed at the port (R121, R388). -/
def storeDone (s : State) (r : OutReq) : State :=
  let n := r.n.toNat
  match (getCore s n).sb with
  | e :: _ => if e.sent && e.pa == r.pa then advance (popStore s n) n else s
  | [] => s

/-- The data of a core's read has come: to a micro-routine, or to the part of an access; an LR that still has its grant sets the
reservation (R126, R129). -/
def readDone (s : State) (r : OutReq) (d : List PByte) : State :=
  let n := r.n.toNat
  let c := getCore s n
  if r.kind = .load && r.idx = c.gen then advance (pushNf s n (lineOfPa r.pa) (lineOf (r.pa.toNat % 64) d).1) n
  else
    match c.accs.find? (fun a => a.idx == r.idx) with
    | none => s
    | some a =>
      let a' := { a with parts := a.parts.map (fun q => if q.pa = r.pa && q.data.isNone then { q with data := some d } else q) }
      let s := putAcc s n a'
      let port := match region s r.pa.toNat with | .port p => p | _ => 0
      let granted := (getRp s port).grants.any (fun g => g.n.toNat == n && g.line == lineOfPa r.pa)
      let s := if a.kind ≠ .lr || !granted then s else
        match c.resv with
        | some v =>
          if v.at_ = .port && lineOfPa v.pa = lineOfPa r.pa then
            modCore s n (fun c => { c with resv := some { v with pa := r.pa, lin := a.lin } })
          else setResv s n r.pa a.lin .port
        | none => setResv s n r.pa a.lin .port
      advance (kick s n) n

/-- The outcome of an SC at a port (R129): it has written, or it has failed. -/
def scDone (s : State) (r : OutReq) (ok : Bool) : State :=
  let n := r.n.toNat
  let s := dropResv s n
  advance (kick (modCore s n (fun x => { x with accs := x.accs.map (fun a => if a.idx = r.idx then
    { a with scOk := some ok, parts := a.parts.map (fun p => { p with data := some [] }) } else a) })) n) n

/-- A completion to a device at the port where its request entered: tag, data, EP, UR (R388, R392, R394). -/
def cplTo (s : State) (p tag : Nat) (d : List Byte) (ep ur : Bool) : State :=
  modRp s p (fun x => { x with cpls := x.cpls ++ [(tag, d, ep, ur)] })

/-- A request that finds its link down, no link, or a dead port (R388): a read ends with all ones, marked poisoned unless `ur`;
a store is dropped and performed; an SC fails; a peer's read is completed with UR (log entry 20). -/
def unreached (s : State) (r : OutReq) (ur : Bool) : State :=
  match r.kind with
  | .load | .lr => readDone s r (allOnes r.len.toNat (!ur))
  | .store => storeDone s r
  | .sc => scDone s r false
  | .peerRead => cplTo s r.n.toNat r.idx [] false true
  | .peerWrite => s

/-- Outbound requests without a completion that `f` selects end as on a link that is down (R388). -/
def endOutst (s : State) (p : Nat) (f : OutReq → Bool) : State :=
  let go := ((getRp s p).outst.map (·.1)).filter f
  let s := modRp s p (fun x => { x with outst := x.outst.filter (fun e => !f e.1) })
  go.foldl (fun s r => unreached s r false) s

/-! ### Halts (R398) -/

/-- A context halts (R398): 1 poisoned read, 2 WALK_POISON, 3 link down. -/
def haltCtx (s : State) (k cause : Nat) : State :=
  let x := getCtx s k
  if x.ctl.getLsbD 62 then s else
  let s := setCtx s k { x with ctl := fldSet x.ctl 62 1 1, status := fldSet x.status 52 4 cause, hrep := false }
  jrn s (80 + fld x.ctl 16 3) 0x63 (x.ctl.extractLsb' 32 12) (bytesOf 2 k ++ bytesOf 1 cause)

/-- Every enabled context of a root port that `f` selects halts for link loss (R399). -/
def haltPort (s : State) (p : Nat) (f : Ctx → Bool) : State :=
  s.ctxs.foldl (fun s e => if ctxEn e.2 && fld e.2.ctl 16 3 == p && f e.2 then haltCtx s e.1 3 else s) s

end Sys2Proof.Machine
end

