-- ==== Sys2Proof/Machine/KsOps.lean ====
section
/-! DEFINITION. The Keystone's packets: CRC, replies, the two paths, sequence numbers, alerts, and entry to COLD (R409 to R425,
R432, R439, R440, R503). -/
namespace Sys2Proof.Machine

/-! ### CRC-32C (R416) -/

/-- `k` steps of the reflected division. -/
def crcBits : Nat → Nat → Nat
  | 0, c => c
  | k + 1, c => crcBits k (if c % 2 = 1 then (c / 2) ^^^ 0x82F63B78 else c / 2)

/-- CRC-32C of a list of bytes. -/
def crc32c (l : List Byte) : Nat := (l.foldl (fun c b => crcBits 8 (c ^^^ b.toNat)) 0xFFFFFFFF) ^^^ 0xFFFFFFFF

/-! ### Packets and replies (R414, R421) -/

/-- The bytes of a packet that its CRC covers (R414). -/
def packetBody (p : Packet) : List Byte :=
  [0xA5, 0x01] ++ bytesOf 2 p.seq.toNat ++ bytesOf 2 p.opcode.toNat ++ bytesOf 2 p.payload.length ++ p.payload

/-- FILLING phase code (R423). -/
def phaseCode (s : State) : Nat :=
  if s.ks.st ≠ .filling then 0 else
  match s.ks.phase with | .config => 0 | .training => 1 | .fill => 2 | .init => 3 | .failed => 4

/-- A reply (R414): STATE is the state after execution. -/
def replyBytes (s : State) (p : Packet) (st : Nat) (payload : List Byte) : List Byte :=
  let body := [0x5A, 0x01] ++ bytesOf 2 p.seq.toNat ++ bytesOf 2 (p.opcode.toNat + 0x8000) ++ bytesOf 1 st ++
    bytesOf 1 (devCode s.ks.st + 16 * phaseCode s) ++ bytesOf 2 payload.length ++ payload
  body ++ bytesOf 4 (crc32c body)

/-- A path's state. -/
def pathOf (s : State) (p : KPath) : PathSt := match p with | .serial => s.ks.serial | .mailbox => s.ks.mailbox
def setPath (s : State) (p : KPath) (x : PathSt) : State :=
  match p with
  | .serial => { s with ks := { s.ks with serial := x } }
  | .mailbox => { s with ks := { s.ks with mailbox := x } }

/-- Bytes stored in a buffer from offset `o`. -/
def bufPut (t : Tbl Byte) : Nat → List Byte → Tbl Byte
  | _, [] => t
  | o, b :: r => bufPut (tset (fun _ => 0) t o b) (o + 1) r

/-- A reply is ready on a path and replaces any unread one (R412, R413). -/
def replyReady (s : State) (p : KPath) (r : List Byte) : State :=
  let s := setPath s p { pathOf s p with reply := some r, busy := false }
  match p with
  | .serial => alert s 0
  | .mailbox => { s with ks := { s.ks with mbReply := bufPut s.ks.mbReply 0 r } }

/-- The queries of R425, of which no KS_CMD record is made. -/
def isQuery (op : Nat) : Bool := (1 ≤ op && op ≤ 5) || op == 0x402

/-- The opcodes of R424. -/
def isOpcode (op : Nat) : Bool :=
  (1 ≤ op && op ≤ 6) || (0x101 ≤ op && op ≤ 0x106) || (0x201 ≤ op && op ≤ 0x203) || (0x301 ≤ op && op ≤ 0x303) ||
    (0x401 ≤ op && op ≤ 0x402) || (0x501 ≤ op && op ≤ 0x509) || (0x601 ≤ op && op ≤ 0x603)

/-- The mailbox is refused an opcode (R409). -/
def denied (s : State) (p : Packet) : Bool :=
  p.path == .mailbox && (p.opcode == 0x203 || p.opcode == 0x202 || p.opcode == 0x602 || 7 ≤ p.opcode.toNat / 256 ||
    !s.ks.allow.getLsbD (p.opcode.toNat / 256))

/-- A KS_RXERR record (R440). -/
def rxErr (s : State) (p : KPath) (kind : Nat) : State :=
  jrn s agKs 0x72 0 (bytesOf 1 (match p with | .serial => 0 | .mailbox => 1) ++ bytesOf 1 kind)

/-- The front packets that are answered without execution, or name no opcode, are answered (R409, R416, R417, R421). -/
def autoAnswer : Nat → State → State
  | 0, s => s
  | k + 1, s =>
    match s.ks.queue with
    | [] => s
    | p :: r =>
      if s.ks.running || s.ks.resetAt.isSome then s else
      let q := { s with ks := { s.ks with queue := r } }
      if crc32c (packetBody p) ≠ p.crc.toNat then autoAnswer k (replyReady (rxErr q p.path 7) p.path (replyBytes q p 2 []))
      else match (pathOf s p.path).last with
        | some (sq, c, rep) =>
          if sq = p.seq then autoAnswer k (replyReady q p.path (if c = p.crc then rep else replyBytes q p 3 []))
          else if denied s p then autoAnswer k (replyReady q p.path (replyBytes q p 8 []))
          else if isOpcode p.opcode.toNat then s
          else
            let rep := replyBytes q p 4 []
            autoAnswer k (replyReady (setPath (ksCmdRecord q p 4) p.path { pathOf q p.path with last := some (p.seq, p.crc, rep) }) p.path rep)
        | none =>
          if denied s p then autoAnswer k (replyReady q p.path (replyBytes q p 8 []))
          else if isOpcode p.opcode.toNat then s
          else
            let rep := replyBytes q p 4 []
            autoAnswer k (replyReady (setPath (ksCmdRecord q p 4) p.path { pathOf q p.path with last := some (p.seq, p.crc, rep) }) p.path rep)

/-- The packets that no command executes are answered. -/
def ksGoOn (s : State) : State := autoAnswer 4 s

/-- The packet in execution is answered (R412, R417, R440). -/
def finish (s : State) (p : Packet) (st : Nat) (payload : List Byte) : State :=
  let rep := replyBytes s p st payload
  let s := if isQuery p.opcode.toNat then s else ksCmdRecord s p st
  let s := setPath s p.path { pathOf s p.path with last := some (p.seq, p.crc, rep) }
  let s := replyReady s p.path rep
  ksGoOn { s with ks := { s.ks with running := false } }

/-- BAD_STATE with its payload (R421). -/
def badState (s : State) (p : Packet) (reason detail : Nat) : State := finish s p 7 (bytesOf 4 reason ++ bytesOf 4 detail)
/-- BAD_PARAM with the offset of the first failing payload byte (R421). -/
def badParam (s : State) (p : Packet) (off : Nat) : State := finish s p 6 (bytesOf 4 off)
/-- OK with a payload. -/
def ok (s : State) (p : Packet) (payload : List Byte) : State := finish s p 0 payload

/-- Where an opcode is legal (R424): COLD; FILLING; FILLING in CONFIG only; BOOTING; SERVING and DEGRADED. -/
structure Legal where
  c : Bool := false
  f : Bool := false
  cfg : Bool := false
  b : Bool := false
  s : Bool := false
  /-- It takes effect in phase FAILED (R494). -/
  failed : Bool := false
  deriving DecidableEq, Repr

/-- The REASON of BAD_STATE for the device's state and phase, if any (R421, R424, R494). -/
def illegal (s : State) (g : Legal) : Option Nat :=
  match s.ks.st with
  | .cold => if g.c then none else some 1
  | .filling =>
    if !(g.f || g.cfg) then some 1
    else if s.ks.phase = .failed && !g.failed then some 2
    else if !g.f && s.ks.phase ≠ .config then some 2 else none
  | .booting => if g.b then none else some 1
  | _ => if g.s then none else some 1

/-- The Keystone executes the packet at the front of its queue, if it is of this opcode (R410, R424). -/
def ksRun (s : State) (op : Nat) (len : Nat → Bool) (g : Legal) (f : State → Packet → State) : State :=
  let s := ksGoOn s
  match s.ks.queue with
  | [] => s
  | p :: r =>
    if s.ks.inReset || s.ks.running || s.ks.resetAt.isSome || p.opcode.toNat ≠ op then s else
    let s := { s with ks := { s.ks with queue := r, running := true } }
    if !len p.payload.length then finish s p 5 []
    else match illegal s g with
      | some reason => badState s p reason 0
      | none => f s p

/-! ### Arrival (R411 to R413, R415) -/

/-- How a packet is malformed, if it is: the kinds of KS_RXERR. -/
def malformed (l : List Byte) : Option Nat :=
  if l.length < 8 then some 4
  else if l.getD 0 0 ≠ 0xA5 then some 1
  else if l.getD 1 0 ≠ 0x01 then some 2
  else if 4608 < le l 6 2 then some 3
  else if l.length ≠ 12 + le l 6 2 then some 4 else none

/-- A packet reaches the Keystone on a path; the serial port clears RXERR and OVERRUN on acceptance (R412). -/
def submit (s : State) (path : KPath) (l : List Byte) : State :=
  let x := pathOf s path
  if x.busy then rxErr (setPath s path { x with overrun := true }) path 6 else
  match malformed l with
  | some k => rxErr (setPath s path { x with rxerr := true }) path k
  | none =>
    let n := le l 6 2
    let p : Packet := { path := path, seq := BitVec.ofNat 16 (le l 2 2), opcode := BitVec.ofNat 16 (le l 4 2),
                        payload := (l.drop 8).take n, crc := BitVec.ofNat 32 (le l (8 + n) 4) }
    let x := match path with
      | .serial => { x with busy := true, rxerr := false, overrun := false }
      | .mailbox => { x with busy := true }
    let s := setPath s path x
    ksGoOn { s with ks := { s.ks with queue := s.ks.queue ++ [p] } }

/-! ### Entry to COLD (R44, R417, R419, R496, R502 to R504) -/

/-- The device enters COLD: every block is as after reset, the plumb too; what the pins carry stays. `held` tells that the
internal reset is held (R503). -/
def enterCold (s : State) (held : Bool) : State :=
  let change := s.ks.st ≠ .cold
  { State.reset with
    pending := s.pending, free := s.free
    pins := { s.pins with sampled := false, flash := !held }
    ks := { inReset := held, tripped := s.ks.tripped, pending := if change then 2 else 0 } }

/-! ### Alerts (R439) -/

/-- The alert bits whose condition holds. -/
def alertHeld (s : State) : Nat :=
  b2n s.ks.serial.reply.isSome + 8 * b2n (ringAlert s) + 16 * b2n (s.led.status.getLsbD 62) + 32 * b2n (pstat s 5) +
    64 * b2n (pstat s 1) + 128 * b2n (s.cohDead != 0) + 256 * b2n (anyRun s .halted) +
    512 * b2n ((List.range 16).any (fun m => (getSrc s (8 + m)).line)) +
    1024 * b2n ((List.range 12).any (fun m => (getSrc s (24 + m)).line)) +
    2048 * b2n (fld s.thermSt 0 32 != 0 || s.crossed.any (fun e => e.2 != 0)) + 4096 * b2n s.planLate

/-- KSP_ALERT_N is asserted (R439, R502). -/
def alertAsserted (s : State) : Bool := s.pins.resetN && (s.ks.pending &&& (s.ks.mask ||| 0x1F8)) != 0

/-- PENDING bits cleared; those whose condition still holds are set again at once. -/
def clearAlerts (s : State) (c : BitVec 32) : State :=
  { s with ks := { s.ks with pending := (s.ks.pending &&& ~~~c) ||| (c &&& BitVec.ofNat 32 (alertHeld s)) } }

/-! ### The serial port -/

/-- KSP_WRITE (R412). -/
def execKspWrite (bytes : List (BitVec 8)) (s : State) : Host.Outcome State Fault Refusal :=
  if s.ks.inReset then .next s else .next (submit s .serial bytes)

/-- KSP_READ (R411, R412): `clocked` reply bytes are clocked out after the turnaround byte; a reply read to its end is gone,
and a RESET that waited for it enters COLD (R432). -/
def execKspRead (clocked : Nat) (s : State) : Host.Outcome State Fault Refusal :=
  if s.ks.inReset then .next s else
  match s.ks.serial.reply with
  | none => .next { s with ks := { s.ks with miso := List.replicate clocked 0 } }
  | some r =>
    let s := { s with ks := { s.ks with miso := r.take clocked ++ List.replicate (clocked - r.length) 0 } }
    if clocked < r.length then .next s
    else if s.ks.resetAt.isSome then .next (enterCold s false)
    else .next { s with ks := { s.ks with serial := { s.ks.serial with reply := none } } }

/-- The status byte (R411). -/
def statusByte (s : State) : Byte :=
  let x := s.ks.serial
  BitVec.ofNat 8 (devCode s.ks.st * 32 + b2n x.overrun * 16 + b2n x.rxerr * 8 + b2n (alertAsserted s) * 4 + b2n x.busy * 2 + b2n x.reply.isSome)

/-- KSP_STATUS (R411). -/
def execKspStatus (s : State) : Host.Outcome State Fault Refusal :=
  if s.ks.inReset then .next s else .next { s with ks := { s.ks with miso := [statusByte s] } }

/-- KSP_BAD_TRANSACTION_CODE (R411, R440). -/
def execKspBadTransactionCode (code : BitVec 8) (s : State) : Host.Outcome State Fault Refusal :=
  if s.ks.inReset || (1 ≤ code.toNat && code.toNat ≤ 3) then .next s
  else .next (rxErr (setPath s .serial { s.ks.serial with rxerr := true }) .serial 5)

/-- RESET_WAIT_EXPIRY (R432): 10 ms after the reply of a RESET was ready. -/
def execResetWaitExpiry (s : State) : Host.Outcome State Fault Refusal :=
  match s.ks.resetAt with
  | some t => if t + 10000000 ≤ plumbOf s agKs then .next (enterCold s false) else .next s
  | none => .next s

end Sys2Proof.Machine
end

