-- ==== Sys2Proof/Machine/RotOps.lean ====
section
/-! DEFINITION. Starting a core, moving a logical number to a spare, and declaring courses and root ports dead (R219, R277,
R281, R399, R437, R461 to R466). -/
namespace Sys2Proof.Machine

/-! ### Power domains (R443, R445, R447) -/

/-- PWR_VOTE[d].STATE set; no entry to off is in progress any longer. -/
def setPd (s : State) (d k : Nat) : State :=
  { s with votes := tset voteInit s.votes d (fldSet (tget voteInit s.votes d) 61 3 k), offStep := tset (fun _ => 0) s.offStep d 0 }

/-- A vote bit of a domain: 0 SW, 1 KS, 2 a wake of a core's domain that is pending. -/
def setVote (s : State) (d b : Nat) (v : Bool) : State :=
  { s with votes := tset voteInit s.votes d (fldSet (tget voteInit s.votes d) b 1 (b2n v)) }

/-! ### Patch loads (R219) -/

/-- UPATCH of a core that has loaded the staged image, or has failed to (R219); with nothing staged it runs from ROM. -/
def upatchWord (s : State) (good : Bool) : Word64 :=
  let lv := if good then (match s.ks.staged with | some p => p.level.toNat | none => 0) else 0
  BitVec.ofNat 64 (lv * 2 ^ 32 + Config.romRev.toNat * 2 ^ 24 + b2n (!good) * 2 + b2n (good && lv != 0))

/-- `k` words of 8 bytes of an image's plaintext from byte `o`, as a table whose missing entries are 0 (R217). -/
def imageWords (b : List Byte) (o k : Nat) : Tbl Word64 :=
  ((List.range k).map (fun i => (i, BitVec.ofNat 64 (le b (o + 8 * i) 8)))).filter (fun e => e.2 != 0)

/-- Step 1 of R219: the staged match entries in the match registers and the staged microwords in patch memory, with parity bits
that agree (R209); with nothing staged every register is disabled (R218). -/
def writePatch (s : State) (x : PhysCore) : PhysCore :=
  match s.ks.staged with
  | some p => { x with matchR := imageWords p.body 0 32, patch := imageWords p.body 256 512, patchBad := [] }
  | none => { x with matchR := [], patch := [], patchBad := [] }

/-- The bytes that a readback of match registers and patch memory passes through the CRC (R219). -/
def patchBytes (x : PhysCore) : List Byte :=
  (List.range 32).flatMap (fun i => bytesOf 8 (tget (fun _ => 0) x.matchR i).toNat) ++
    (List.range 512).flatMap (fun i => bytesOf 8 (tget (fun _ => 0) x.patch i).toNat)

/-- Step 2 of R219: a readback that returned what the cells hold has the staged CRC. -/
def readsBack (s : State) (x : PhysCore) (returned : Bool) : Bool :=
  returned && (match s.ks.staged with | some p => crc32c (patchBytes x) == p.crc.toNat | none => true)

/-- The outcome of a patch load (R219): one of its two readbacks agrees, at every start, with an image staged or none. The operand
says of each whether it returned what had been written. -/
def loadGood (s : State) (rb : Bool × Bool) : Bool :=
  let x := writePatch s (getPhys s 0)
  readsBack s x rb.1 || readsBack s x rb.2

/-- A PATCH_FAIL record: logical core, physical core and the staged level (R219; a DESIGN CHOICE of the payload, log entry 81), and
FAULT_STATUS.PATCH_FAIL. -/
def patchFail (s : State) (n p : Nat) : State :=
  setFault (jrn s agKs 0x1B 0 (bytesOf 1 n ++ bytesOf 2 p ++ bytesOf 4 (match s.ks.staged with | some x => x.level.toNat | none => 0))) 7

/-- Physical core `p` loads the staged patch to start as logical core `n` (R219): UPATCH[n] follows, but for PARITY_ERR. A load
that fails sets UPATCH[n].CHECK_ERR, makes a PATCH_FAIL record, and the core is dead. -/
def loadPatch (s : State) (p n : Nat) (good : Bool) : State :=
  let w := upatchWord s good
  let s := setPhys s p { writePatch s (getPhys s p) with upatch := w }
  let s := modCore s n (fun c => { c with upatch := fldSet w 2 1 (b2n (c.upatch.getLsbD 2)) })
  if good then s else patchFail (setPhys s p { getPhys s p with st := .dead }) n p

/-! ### Rotation (R461 to R464) -/

/-- The spare of a course. -/
def spareOf (s : State) (c : Nat) : Option Nat := ((List.range 9).map (fun i => 9 * c + i)).find? (fun p => (getPhys s p).st == .spare)

/-- A course's spare has been used: a core that passed its test meanwhile becomes the spare (R465). -/
def promote (s : State) (c : Nat) : State :=
  if (spareOf s c).isSome then s else
  match ((List.range 9).map (fun i => 9 * c + i)).find? (fun p => (getPhys s p).reserve) with
  | some p => setPhys s p { getPhys s p with st := .spare, reserve := false }
  | none => s

/-- The home course of a logical number (R491). -/
def logCourse (n : Nat) : Nat := n / 8

/-- A rotation, a core's return, or the course's own return is in progress in a course. -/
def courseBusy (s : State) (c : Nat) : Bool :=
  s.ks.rots.any (fun r => logCourse r.n.toNat == c) || s.ks.agentRet.any (fun r => r.1.toNat == c) ||
    (match s.ks.coreRet with | some (p, _) => p / 9 == c | none => false)

/-- What a core that starts from saved state does not carry (R451, R462): caches, unlocked translations, prediction, its
reservation, NAT and SLIP, the words fetched; its bank is empty, it warms up, and its class F entry buffer is filled again. -/
def coldStart (c : Core) : Core :=
  let c := dropMicro c
  { c with l1d := [], l1i := [], itlb := [], dtlb := [], l2tlb := c.l2tlb.filter (·.lock), wcache := [], pred := {}, resv := none,
           slip := false, slipEp := false, nat := 0, bank := 0, warm := true, warmLeft := 16384, word := [], ulines := [], blk := none,
           walk := none, owe := 0, fresh := none, fetching := none, fready := false, ffail := false, fbuf := none,
           ffill := c.fready || c.ffill, rot := false }

/-- The core has drained at a word boundary (R461, step 3). -/
def drained (c : Core) : Bool :=
  c.accs.isEmpty && c.results.isEmpty && c.sb.isEmpty && c.busy == .none && c.entry.isNone && (c.dead.isSome || c.trap.isNone)

/-- A core stopped by a double trap or a parity error enters H on the spare (R192): HBUSY = 0, CAUSE 0x3F, TADDR the second
trap's code. -/
def enterDouble (c : Core) : Core :=
  match c.dead with
  | none => c
  | some k => { c with dead := none, hbusy := false, level := .h, run := .run,
                       trap := some { code := 0x3F, addr := k.setWidth 64, pc := (match c.trap with | some t => t.pc | none => c.pc) } }

/-- A ROTATE record (R473). -/
def rotateRecord (s : State) (n out into reason pause : Nat) (bad : Bool) : State :=
  jrn s agKs 0x7C 0 (bytesOf 1 n ++ bytesOf 2 out ++ bytesOf 2 into ++ bytesOf 1 reason ++ bytesOf 4 pause ++ bytesOf 1 (b2n bad))

/-- Steps 4 to 8 of R461: physical core `b` takes logical number `n`; the core that held it, if any, is off, or dead for a
reason other than a command. -/
def switchTo (s : State) (n b : Nat) (r : Rotation) : State :=
  let off := (getCore s n).run == .off
  let c := courseOf s n
  let s := match physOf s n with
    | some a =>
      let s := setPhys s a { getPhys s a with logical := none, st := if r.reason = 0 then .off else .dead }
      setPd (setVote (setVote s a 1 false) a 2 false) a 0
    | none => modCourse s c (fun x => { x with saved := x.saved.erase (BitVec.ofNat 8 n) })
  let x := getPhys s b
  let s := setPhys s b { x with logical := some (BitVec.ofNat 8 n), st := .running }
  let s := setPd (setVote s b 1 false) b (if off then 0 else 2)
  let s := dropResv s n
  let s := modCore s n (fun c => enterDouble { coldStart c with
    upatch := fldSet x.upatch 2 1 (b2n (c.upatch.getLsbD 2)), unst := false,
    run := if c.run = .unhoused then (if c.unst then .notStarted else .run) else c.run })
  let s := { s with ks := { s.ks with rots := s.ks.rots.filter (fun q => q.n != r.n) } }
  let s := hubEval (promote s c) n
  let s := rotateRecord s n r.from_ b r.reason.toNat (plumbOf s agKs - r.started) false
  let s := match r.packet with
    | some p => ok s p (bytesOf 2 r.from_ ++ bytesOf 2 b)
    | none => s
  advance (syncFault s) n

/-- Steps 1 and 2 of R461: the spare powers up and loads the patch staged then (R220). One that fails is dead, and
UPATCH[n].CHECK_ERR is set (R219). -/
def spareUp (s : State) (n b : Nat) (rb : Bool × Bool) : Bool × State :=
  let good := loadGood s rb
  let s := setVote s b 1 true
  let x := { writePatch s (getPhys s b) with upatch := upatchWord s good }
  if good then (true, setPd (setPhys s b x) b 2)
  else
    let s := patchFail (modCore (setPhys s b { x with st := .dead }) n (fun c => { c with upatch := c.upatch ||| 2 })) n b
    (false, syncFault (promote (setPd (setVote s b 1 false) b 0) (b / 9)))

/-- A rotation of `n` begins: its core issues no further word and refuses deliveries (step 3 of R461). -/
def rotBegin (s : State) (n : Nat) (r : Rotation) : State :=
  let s := refuseOffer (modCore s n (fun c => { c with rot := true })) n
  { s with ks := { s.ks with rots := s.ks.rots ++ [r] } }

/-- A rotation in progress fails with its course (R463). -/
def rotFail (s : State) (r : Rotation) : State :=
  let s := { s with ks := { s.ks with rots := s.ks.rots.filter (fun q => q.n != r.n) } }
  let s := rotateRecord s r.n.toNat r.from_ r.to_ r.reason.toNat (plumbOf s agKs - r.started) true
  match r.packet with
  | some p => finish s p 0x0D (bytesOf 4 r.n.toNat)
  | none => s

/-- A logical number whose core has stopped finds no spare (R464): its state stays in the save store. -/
def unhouse (s : State) (n : Nat) : State :=
  let c := courseOf s n
  let s := match physOf s n with
    | some a => setPd (setVote (setVote (setPhys s a { getPhys s a with logical := none, st := .dead }) a 1 false) a 2 false) a 0
    | none => s
  let s := modCourse s c (fun x => { x with saved := if x.saved.contains (BitVec.ofNat 8 n) then x.saved else x.saved ++ [BitVec.ofNat 8 n] })
  syncFault (refuseOffer (modCore s n (fun x => { coldStart x with run := .unhoused, unst := x.run == .notStarted || x.unst })) n)

/-- Logical number `n`, whose core is dead or which has none, is to go to its course's spare (R464): a core that still holds it
stops first and is drained by the switch. -/
def autoRotate (s : State) (n : Nat) (reason : Nat) (rb : Bool × Bool) : State :=
  let c := courseOf s n
  let out := (physOf s n).getD 0xFFFF
  match spareOf s c with
  | none => unhouse s n
  | some b =>
    match spareUp s n b rb with
    | (false, s) => unhouse (rotateRecord s n out b reason 0 true) n
    | (true, s) =>
      let r : Rotation := { n := BitVec.ofNat 8 n, from_ := out, to_ := b, reason := BitVec.ofNat 8 reason, packet := none,
                            started := plumbOf s agKs }
      let s := setPhys s b { getPhys s b with st := .ready }
      if (physOf s n).isSome then rotBegin s n r else switchTo s n b r

/-! ### Dead agents (R277, R281, R399, R437, R466) -/

/-- An AGENT_RETURN in progress is abandoned by a declaration (R437, R473). -/
def abandonReturn (s : State) (a : Nat) : State :=
  match s.ks.agentRet.find? (fun r => r.1.toNat == a) with
  | none => s
  | some (_, p) =>
    let s := { s with ks := { s.ks with agentRet := s.ks.agentRet.filter (fun r => r.1.toNat != a) } }
    let s := jrn s agKs 0x7E 0 (bytesOf 1 a ++ bytesOf 1 2 ++ bytesOf 1 0)
    operationDone s p 0x0D

/-- What a course's death takes (R466): its caches, its requests, its save store, and the state of its cores, which are without
a core from then on. -/
def courseLost (s : State) (c : Nat) : State :=
  let ns := (List.range 256).filter (fun n => courseOf s n == c)
  let s := (s.ks.rots.filter (fun r => r.from_ / 9 == c || r.to_ / 9 == c)).foldl rotFail s
  let s := ns.foldl (fun s n =>
    let s := dropResv s n
    let x := getCore s n
    setCore s n { coreInit n with run := .unhoused, corePwr := x.corePwr, upatch := x.upatch }) s
  let s := ((List.range 9).map (fun i => 9 * c + i)).foldl (fun s p =>
    setPd (setVote (setVote (setPhys s p { getPhys s p with logical := none, st := .dead }) p 1 false) p 2 false) p 0) s
  modCourse s c (fun x => { x with l2 := [], wb := [], reqs := [], heldFwd := [], saved := [] })

/-- What a root port's death ends (R281, R388, R399): outstanding requests, held grants with those that wait for them, and its
contexts halt. -/
def portLost (s : State) (p : Nat) : State :=
  let s := endOutst s p (fun _ => true)
  let s := (getRp s p).grants.foldl (fun s g => dropResv s g.n.toNat) s
  let w := (getRp s p).waiting
  let s := modRp s p (fun x => { x with grants := [], waiting := [] })
  let s := w.foldl (fun s r => unreached s r false) s
  haltPort s p (fun _ => true)

/-- A holder of windows that comes back into service takes every value in force (R69; a DESIGN CHOICE, log entry 139). -/
def windowsBack (s : State) (a : Nat) : State :=
  let own := s.winHeld.filter (fun e => e.1 / 65536 != a)
  let vals := s.doms.flatMap (fun d => d.2.win.map (fun w => (a * 65536 + d.1 * 16 + w.1, w.2)))
  { s with winHeld := vals.foldl (fun t e => tset (fun _ => 0) t e.1 e.2) own }

/-- A course or root port is declared dead (R277): reason 0 timeout, 1 command; for loss of every link the spec gives none, and
the payload byte is a FREE VALUE. One whose return is in progress is declared again and its return is abandoned (R437). -/
def declareDead (s : State) (a : Nat) (reason : Option Nat) : State :=
  let bit := if a < 32 then a else a - 48
  if s.cohDead.getLsbD bit && !s.ks.agentRet.any (fun r => r.1.toNat == a) then s else
  let s := abandonReturn s a
  let (r, s) := match reason with | some r => (r, s) | none => let (v, s) := free s; (v % 256, s)
  let s := { s with cohDead := s.cohDead ||| BitVec.ofNat 64 (2 ^ bit) }
  let s := alert (jrn s agKs 0x23 0 (bytesOf 1 a ++ bytesOf 1 r)) 7
  syncFault (if a < 32 then courseLost s a else portLost s (a - 80))

/-- A home's answer from an agent is overdue: a tracker on the line has waited DEAD_TO for it (R277). -/
def answerOverdue (s : State) (h : Nat) (l : LineNo) (a : Nat) : Bool :=
  a < 32 && (getSlice s h).trk.any (fun t => t.msg.line == l && t.from_.getLsbD a &&
    (t.wait == .fwd || t.wait == .inv || t.wait == .binv || t.wait == .maint) &&
    decide (t.fwdAt + t.fwdTo ≤ s.plumb.now))

/-- DEAD_AGENT_TIMEOUT (R277). -/
def execDeadAgentTimeout (slice : BitVec 5) (line : BitVec 46) (agent : Nat) (s : State) : Host.Outcome State Fault Refusal :=
  if answerOverdue s slice.toNat line agent then .next (declareDead s agent (some 0)) else .next s

/-- ROTATION_SWITCH (R461): steps 4 to 8, once the outgoing core has drained. -/
def execRotationSwitch (n : BitVec 8) (s : State) : Host.Outcome State Fault Refusal :=
  match s.ks.rots.find? (fun r => r.n == n) with
  | none => .next s
  | some r => if drained (getCore s n.toNat) then .next (switchTo s n.toNat r.to_ r) else .next s

/-- The Keystone's reason for a rotation of its own (R464, R473). -/
def autoReason (c : Core) : Nat := match c.dead with | some k => if k = 0 then 2 else 1 | none => 3

/-- The core that holds a logical number has failed its patch load (R219). -/
def loadFailed (s : State) (n : Nat) : Bool := match physOf s n with | some p => (getPhys s p).st == .dead | none => false

/-- AUTO_ROTATION (R192, R221, R464): of a stopped core, or of a logical number whose state waits in the save store for a spare. -/
def execAutoRotation (n : BitVec 8) (readback : Bool × Bool) (s : State) : Host.Outcome State Fault Refusal :=
  let k := n.toNat
  let c := getCore s k
  if courseBusy s (courseOf s k) then .next s
  else if c.dead.isSome && (physOf s k).isSome then
    let s := jrn s agKs 0x23 0 (bytesOf 1 (courseOf s k) ++ bytesOf 1 0)
    .next (autoRotate s k (autoReason c) readback)
  else if loadFailed s k then .next (autoRotate s k 3 readback)
  else if c.run = .unhoused && (getCourse s (courseOf s k)).saved.contains n && (spareOf s (courseOf s k)).isSome then
    .next (autoRotate s k (autoReason c) readback)
  else .next s

end Sys2Proof.Machine
end

