-- ==== Sys2Proof/Machine/Pcie.lean ====
section
/-! DEFINITION. The root ports: I/O translation, inbound requests, outbound requests and their ends, links, function contexts and
I/O invalidations (R70, R129, R315, R353, R384 to R400, R505). -/
namespace Sys2Proof.Machine

/-! ### I/O translation (R395) -/

/-- What an I/O translation gives: an address, a fault of check 4, or WALK_POISON. -/
inductive IoXlat where
  | pa (a : Nat) | fault | poison
  deriving DecidableEq, Repr

/-- A unit whose addresses are translated: its I/O TLB number, domain, epoch, CTX_IO or CH_IO, and the agent that checks. -/
structure IoUnit where
  unit  : Nat
  tdid  : Tdid
  epoch : BitVec 8
  io    : Word64
  agent : Nat
  deriving DecidableEq, Repr

/-- The I/O TLB of an agent: a root port's, or a DMA engine's. -/
def ioTlb (s : State) (a : Nat) : List IoTlb := if 80 ≤ a then (getRp s (a - 80)).iotlb else tget (fun _ => []) s.dmaTlb ((a - 32) / 4)
def setIoTlb (s : State) (a : Nat) (t : List IoTlb) : State :=
  if 80 ≤ a then modRp s (a - 80) (fun x => { x with iotlb := t })
  else { s with dmaTlb := tset (fun _ => []) s.dmaTlb ((a - 32) / 4) t }

/-- An I/O TLB entry matches an address of a unit. -/
def ioHit (u : IoUnit) (lin : Nat) (e : IoTlb) : Bool :=
  e.unit == u.unit && e.epoch == u.epoch && e.tdid == u.tdid && e.vpn == lin / 2 ^ pageBits e.lvl

/-- A leaf installed (R395): 512 entries in 64 sets of 8 in a root port, 256 in a DMA engine; a full set's victim is a FREE VALUE. -/
def ioInstall (s : State) (a : Nat) (e : IoTlb) : State :=
  let t := ioTlb s a
  if 80 ≤ a then
    let mine := t.filter (fun x => x.vpn % 64 == e.vpn % 64)
    if mine.length < 8 then setIoTlb s a (e :: t)
    else let (r, s) := free s; setIoTlb s a (e :: t.erase (mine.getD (r % 8) e))
  else if t.length < 256 then setIoTlb s a (e :: t)
  else let (r, s) := free s; setIoTlb s a (e :: t.eraseIdx (r % 256))

/-- The walk of R236 for an I/O unit, from a level's table: it has no segment or level check, and checks windows with the unit's
domain. -/
def ioWalk : Nat → State → IoUnit → Nat → Bool → Nat → IoXlat × State
  | 0, s, _, _, _, _ => (.fault, s)
  | lvl + 1, s, u, lin, write, table =>
    let ea := table * 4096 + 8 * (lin / 2 ^ pageBits (lvl + 1) % 512)
    match region s ea with
    | .dram =>
      if !windowOk s u.agent u.tdid.toNat ea .read then (.fault, s) else
      let (b, s) := engReadBytes 2 s u.tdid.toNat ea 8 u.agent
      if pany b then (.poison, s) else
      let p : Word64 := BitVec.ofNat 64 (pnat b)
      if pteBad p (lvl + 1) then (.fault, s)
      else if pteLeaf p then
        let s := ioInstall s u.agent { unit := u.unit, tdid := u.tdid, epoch := u.epoch, lvl := lvl + 1, vpn := lin / 2 ^ pageBits (lvl + 1), pte := p }
        (if rightsOk p (if write then .write else .read) .s then .pa (physOfPte p (lvl + 1) lin) else .fault, s)
      else ioWalk lvl s u lin write (fld p 12 40)
    | _ => (.fault, s)

/-- The translation of an I/O address (R395): an entry without the right is dropped and the walk made again (R236, R238). -/
def ioTranslate (s : State) (u : IoUnit) (addr : Nat) (write : Bool) : IoXlat × State :=
  if !u.io.getLsbD 63 then (.pa addr, s)
  else if 2 ^ 48 ≤ addr then (.fault, s)
  else
    let walk := fun (s : State) =>
      let s := if 80 ≤ u.agent then bankEv s u.agent 5 1 { tdid := some u.tdid.toNat, cls := some 0 } else s
      ioWalk 4 s u addr write (fld u.io 12 40)
    match (ioTlb s u.agent).find? (ioHit u addr) with
    | some e =>
      if rightsOk e.pte (if write then .write else .read) .s then (.pa (physOfPte e.pte e.lvl addr), s)
      else walk (setIoTlb s u.agent ((ioTlb s u.agent).erase e))
    | none => walk s

/-! ### Inbound requests (R353, R391 to R394, R397) -/

/-- The enabled context that a port and requester ID match (R390). -/
def matchCtx (s : State) (p rid : Nat) : Option Nat :=
  (s.ctxs.find? (fun e => ctxEn e.2 && fld e.2.ctl 16 3 == p && fld e.2.ctl 0 16 == rid)).map (·.1)

/-- The posted write that R353 takes for an interrupt message. -/
def isMsi (t : Tlp) : Bool :=
  t.kind == .write && t.at_ == 0 && !t.pasid && t.len == 4 && t.addr == 0xFFFFFFFFFF000 && le t.data 2 2 == 0

/-- A failing request's answer (R392): UR to a non-posted one, nothing to a posted one. -/
def failReply (s : State) (p : Nat) (t : Tlp) : State := if t.kind = .write then s else cplTo s p t.tag [] false true

/-- An IO_FAULT record (R408). -/
def ioFault (s : State) (p k kind addr : Nat) : State :=
  jrn s (80 + p) 0x60 ((getCtx s k).ctl.extractLsb' 32 12) (bytesOf 2 k ++ bytesOf 1 kind ++ bytesOf 8 addr)

/-- A failure at checks 2 to 6 (R392): AER, FAULTS, and the first failure's FKIND and FIOVA; the record, unless `silent`. -/
def ctxFault (s : State) (p k kind : Nat) (t : Tlp) (addr : Nat) (silent : Bool) : State :=
  let x := getCtx s k
  let st := if fld x.status 56 8 = 0 then fldSet (fldSet x.status 48 4 kind) 0 48 (addr % 2 ^ 48) else x.status
  let s := setCtx s k { x with status := fldSat st 56 8 1 }
  let s := aer s p (linkOfRid s p t.rid.toNat)
  let s := bankEv s (80 + p) 6 1 { tdid := some (fld x.ctl 32 12), cls := some 0 }
  failReply (if silent then s else ioFault s p k kind addr) p t

/-- The unit of a context. -/
def ctxUnit (s : State) (p k : Nat) : IoUnit :=
  let x := getCtx s k
  { unit := k, tdid := x.ctl.extractLsb' 32 12, epoch := x.ctl.extractLsb' 48 8, io := x.io, agent := 80 + p }

/-- A peer's context admits an address in its port's window (R397). -/
def peerOk (s : State) (q off : Nat) (t : Tdid) : Bool :=
  s.ctxs.any (fun e => ctxEn e.2 && !e.2.ctl.getLsbD 62 && fld e.2.ctl 16 3 == q && e.2.ctl.extractLsb' 32 12 == t &&
    e.2.bar.getLsbD 63 && decide (fld e.2.bar 0 21 ≤ off / 0x100000) && decide (off / 0x100000 ≤ fld e.2.bar 41 21))

/-- One line of an inbound request (checks 4 to 6 of R392): `off` is the request's byte at which it begins. -/
def inboundLine (s : State) (p k : Nat) (t : Tlp) (off n : Nat) : State :=
  let u := ctxUnit s p k
  let write := t.kind == .write
  let addr := (t.addr.toNat + off) % 2 ^ 64
  match ioTranslate s u addr write with
  | (.fault, s) => ctxFault s p k 2 t addr false
  | (.poison, s) => haltCtx (ctxFault s p k 2 t addr false) k 2
  | (.pa pa, s) =>
    if !windowOk s (80 + p) u.tdid.toNat pa (if write then .write else .read) then ctxFault s p k 3 t addr false else
    match region s pa with
    | .dram =>
      if write then
        let bs := ((List.range n).map (fun i => ({ b := t.data.getD (off + i) 0, p := t.ep } : PByte)))
        engWriteBytes 2 s u.tdid.toNat pa bs (80 + p)
      else
        let (d, s) := engReadBytes 2 s u.tdid.toNat pa n (80 + p)
        let s := portBytes s p u.tdid.toNat 1 n
        let s := cplTo s p t.tag (d.map (·.b)) (pany d) false
        if pany d then haltCtx s k 1 else s
    | .port q =>
      if peerOk s q (pa % 0x20000000000) u.tdid then
        let r : OutReq := { kind := if write then .peerWrite else .peerRead, n := BitVec.ofNat 8 p, idx := t.tag, pa := BitVec.ofNat 52 pa,
                            len := BitVec.ofNat 7 n, data := sub t.data off n, ep := t.ep, tdid := u.tdid, epoch := u.epoch,
                            ctx := some (BitVec.ofNat 12 k), src := BitVec.ofNat 7 (80 + p) }
        let s := bankEv s (80 + p) 8 1 { tdid := some u.tdid.toNat, cls := some 0 }
        sendOut s q (if write then r else { r with data := [] })
      else
        let s := rpStatus s p 34 true
        let s := jrn s (80 + p) 0x62 u.tdid (bytesOf 2 k ++ bytesOf 8 pa)
        ctxFault s p k 4 t addr false
    | _ => ctxFault s p k 4 t addr false

/-- The lines of a request (R392): first byte and length of each. -/
def lineSplit : Nat → Nat → Nat → Nat → List (Nat × Nat)
  | 0, _, _, _ => []
  | f + 1, addr, off, len =>
    if len ≤ off then [] else
    let n := Nat.min (64 - (addr + off) % 64) (len - off)
    (off, n) :: lineSplit f addr (off + n) len

/-- The halts of a context with FAULTS: the first request refused after a halt is recorded (R392, check 2). -/
def haltedFault (s : State) (p k : Nat) (t : Tlp) : State :=
  let x := getCtx s k
  ctxFault (setCtx s k { x with hrep := true }) p k 5 t t.addr.toNat x.hrep

/-- An inbound request of a context, tagged with the context's epoch (R391, R392): the tag is compared, then checks 2 to 6. -/
def inboundCtx (s : State) (p k : Nat) (ep : BitVec 8) (t : Tlp) : State :=
  let x := getCtx s k
  if x.ctl.extractLsb' 48 8 ≠ ep || !ctxEn x then failReply (ioFault s p k 6 t.addr.toNat) p t else
  let s := portBytes s p (fld x.ctl 32 12) 0 (if t.kind = .write then t.len.toNat else 0)
  if x.ctl.getLsbD 62 then haltedFault s p k t
  else if t.kind = .other || t.at_ ≠ 0 || t.pasid then ctxFault s p k 1 t t.addr.toNat false
  else if isMsi t then
    let s := bankEv s (80 + p) 7 1 { tdid := some (fld x.ctl 32 12), cls := some 0 }
    let (st, s) := shortStamp s (80 + p)
    { s with msis := s.msis ++ [(BitVec.ofNat 12 k, ep, BitVec.ofNat 32 (le t.data 0 4), st)] }
  else if t.len = 0 then inboundLine s p k t 0 0
  else (lineSplit 65 t.addr.toNat 0 t.len.toNat).foldl (fun s e => inboundLine s p k t e.1 e.2) s

/-- A root port holds the requests of a domain (R296). -/
def portDry (s : State) (p t : Nat) : Bool := isDry s (80 + p) t 1 || isDry s (80 + p) t 2 || isDry s (80 + p) t 3

/-- An inbound request whose turn it is at the port's arbiter is made; one that meets a line it cannot have, or that is not granted, waits
in the arbiter's queue (R259, R309). -/
def inboundGo (s : State) (p k : Nat) (ep : BitVec 8) (t : Tlp) : State :=
  let d := fld (getCtx s k).ctl 32 12
  let wait := fun (s : State) => modRp s p (fun x => { x with inq := x.inq ++ [(BitVec.ofNat 12 k, ep, t)] })
  let a : Arb := .rp (BitVec.ofNat 3 p)
  if arbAllows s a d && (getRp s p).inq.isEmpty then engineOr (fun s => inboundCtx (arbServed s a d) p k ep t) wait s else wait s

/-- The held requests of a root port whose domains are no longer dry go on, in order (R297, R393); those of a context that has
been rebound or disabled are refused. -/
def servePort : Nat → State → Nat → State
  | 0, s, _ => s
  | f + 1, s, p =>
    match (getRp s p).held.find? (fun e => !portDry s p (fld (getCtx s e.1.toNat).ctl 32 12) || !ctxEn (getCtx s e.1.toNat)) with
    | none => s
    | some (k, ep, t) =>
      servePort f (inboundGo (modRp s p (fun x => { x with held := x.held.erase (k, ep, t) })) p k.toNat ep t) p

/-- A root port goes on with what it holds. -/
def portGoOn (s : State) (p : Nat) : State := servePort (getRp s p).held.length s p

/-- The first inbound request of domain `d` that waits at the arbiter is made, if it can be. -/
def serveInq (s : State) (p d : Nat) : State :=
  match (getRp s p).inq.find? (fun e => fld (getCtx s e.1.toNat).ctl 32 12 == d) with
  | none => s
  | some e =>
    engine (fun s => inboundCtx (arbServed (modRp s p (fun x => { x with inq := x.inq.erase e })) (.rp (BitVec.ofNat 3 p)) d) p e.1.toNat e.2.1 e.2.2) s

/-- ARB_PHASE (R310, R311): the phase decides the next transfer; at a root port an inbound request of the winner is made with it. -/
def execArbPhase (arb : Arb) (s : State) : Host.Outcome State Fault Refusal :=
  let x := arbitrate s arb
  let s := setArb s (arbKey arb) x
  match arb, x.grant with
  | .rp p, some d => .next (serveInq s p.toNat d)
  | _, _ => .next s

/-- INBOUND_TLP (R392, R393): check 1 gives the context and its epoch; a context whose domain is dry, or that has requests held,
waits in its own queue. A port that is off or dead receives nothing. -/
def execInboundTlp (port : BitVec 3) (t : Tlp) (s : State) : Host.Outcome State Fault Refusal :=
  let p := port.toNat
  if 6 ≤ p || agentDown s (80 + p) then .next s else
  match matchCtx s p t.rid.toNat with
  | none =>
    let s := bankEv s (80 + p) 1 1 { cls := some 0 }
    let s := bankEv s (80 + p) 6 1 { cls := some 0 }
    let s := aer (rpStatus s p 33 true) p (linkOfRid s p t.rid.toNat)
    .next (failReply (jrn s (80 + p) 0x61 0 (bytesOf 1 p ++ bytesOf 2 t.rid.toNat)) p t)
  | some k =>
    let x := getCtx s k
    let ep := x.ctl.extractLsb' 48 8
    let s := bankEv s (80 + p) 1 1 { tdid := some (fld x.ctl 32 12), cls := some 0 }
    if portDry s p (fld x.ctl 32 12) || (getRp s p).held.any (fun e => e.1.toNat == k) then
      .next (modRp s p (fun r => { r with held := r.held ++ [(BitVec.ofNat 12 k, ep, t)] }))
    else .next (inboundGo s p k ep t)

/-! ### Outbound requests (R129, R387, R388) -/

/-- A request goes out on its link: posted ones are performed as sent; the others wait for a completion. -/
def sendLink (s : State) (p : Nat) (r : OutReq) : State :=
  let s := if r.ctx.isSome then s else portBytes s p r.tdid.toNat 1 r.data.length
  let s := bankEv s (80 + p) 2 1 { tdid := some r.tdid.toNat, cls := some 0 }
  let s := modRp s p (fun x => { x with sent := r :: x.sent })
  match r.kind with
  | .load | .lr | .peerRead => modRp s p (fun x => { x with outst := x.outst ++ [(r, portNow s p)] })
  | .store => storeDone s r
  | .sc => scDone s r true
  | .peerWrite => s

/-- A held grant of another requester is on the line (R129). -/
def grantBlocks (s : State) (p : Nat) (r : OutReq) : Bool :=
  (getRp s p).grants.any (fun g => g.line == lineOfPa r.pa && (r.ctx.isSome || g.n != r.n))

/-- Core `r.n` holds a grant on the line of its request. -/
def hasGrant (s : State) (p : Nat) (r : OutReq) : Bool := (getRp s p).grants.any (fun g => g.line == lineOfPa r.pa && g.n == r.n)

/-- An LR takes a held grant on its line, for ARB_CTL.HOLD µs (R129, R315). -/
def giveGrant (s : State) (p : Nat) (r : OutReq) : State :=
  let g : Grant := { n := r.n, line := lineOfPa r.pa, until_ := portNow s p + fld s.arbCtl 32 16 * 1000 }
  modRp s p (fun x => { x with grants := x.grants.filter (fun y => !(y.n == r.n && y.line == g.line)) ++ [g] })

/-- A request at a root port that nothing holds: an address that no link claims ends as with UR, a link that is down as R388 says. -/
def outbound (s : State) (p : Nat) (r : OutReq) : State :=
  match linkOfAddr s p r.pa.toNat with
  | none => unreached (aer s p 0) r true
  | some l =>
    if !linkUp s p l then unreached s r false
    else if r.kind = .sc && !hasGrant s p r then scDone s r false
    else sendLink (if r.kind = .lr then giveGrant s p r else s) p r

/-- The stop of a port that is off or dead answers with AGENT_DOWN, stamped there (R21, R55): the requester ends its access as R388
says. -/
def portDown (s : State) (p : Nat) (r : OutReq) : State :=
  let (st, s) := shortStamp s (80 + p)
  unreached (received s r.src.toNat st) r false

/-- OUTBOUND_REQUEST (R19, R309, R387): requests to a line wait while a grant on it is held for another (R129), and each for its turn at
the port's arbiter. -/
def execOutboundRequest (port : BitVec 3) (r : OutReq) (s : State) : Host.Outcome State Fault Refusal :=
  let p := port.toNat
  if outBehind s port r then .next s
  else if 6 ≤ p || agentDown s (80 + p) then .next (portDown { s with outNet := s.outNet.erase (port, r) } p r)
  else if !arbAllows s (.rp port) (outRequester r) then .next s
  else
    let s := arbServed s (.rp port) (outRequester r)
    let s := received { s with outNet := s.outNet.erase (port, r) } (80 + p) r.short
    if grantBlocks s p r then .next (modRp s p (fun x => { x with waiting := x.waiting ++ [r] }))
    else .next (outbound s p r)

/-- OUTBOUND_COMPLETION (R388). -/
def execOutboundCompletion (port : BitVec 3) (n : BitVec 8) (c : Cpl) (s : State) : Host.Outcome State Fault Refusal :=
  let p := port.toNat
  match (getRp s p).outst.find? (fun e => e.1.n == n && e.1.idx == c.idx) with
  | none => .next s
  | some (r, t) =>
    let s := modRp s p (fun x => { x with outst := x.outst.erase (r, t) })
    let len := r.len.toNat
    let s := if c.ok then portBytes s p r.tdid.toNat 0 len else s
    let s := if !c.ok || c.ep then aer s p ((linkOfAddr s p r.pa.toNat).getD 0) else s
    if r.ctx.isSome then .next (cplTo s r.n.toNat r.idx (if c.ok then sub c.data 0 len else []) c.ep (!c.ok))
    else .next (readDone s r (if c.ok then (sub c.data 0 len).map (fun b => { b := b, p := c.ep }) else allOnes len false))

/-- CPL_TIMEOUT (R388): the oldest request of the requester has waited RP_CFG.CPLTO ms. -/
def execCplTimeout (port : BitVec 3) (n : BitVec 8) (s : State) : Host.Outcome State Fault Refusal :=
  let p := port.toNat
  match (getRp s p).outst.find? (fun e => e.1.n == n && decide (e.2 + fld (getRp s p).cfg 16 16 * 1000000 ≤ portNow s p)) with
  | none => .next s
  | some (r, t) =>
    let s := modRp s p (fun x => { x with outst := x.outst.erase (r, t) })
    let s := rpStatus s p 32 true
    let s := jrn s (80 + p) 0x67 r.tdid (bytesOf 1 p ++ bytesOf 1 n.toNat ++ bytesOf 8 r.pa.toNat)
    .next (unreached s r false)

/-- GRANT_REVOKE (R129, R315): the holder's sequence fails with status RETRY, and the requests that waited go on. -/
def execGrantRevoke (port : BitVec 3) (line : BitVec 46) (s : State) : Host.Outcome State Fault Refusal :=
  let p := port.toNat
  match (getRp s p).grants.find? (fun g => g.line == line && decide (g.until_ ≤ portNow s p)) with
  | none => .next s
  | some g =>
    let n := g.n.toNat
    let s := jrn s (80 + p) 0x2B 0 (bytesOf 8 (line.toNat * 64) ++ bytesOf 1 n)
    let s := modCore s n (fun c => match c.resv with
      | some r => if r.at_ = .port && lineOfPa r.pa = line then { c with resv := none } else c
      | none => c)
    .next (releaseGrant s p n line)

/-! ### Links (R399, R400, R505) -/

/-- LINK_DOWN (R399): without a disable by software its contexts halt, and with the last link the port is dead. -/
def execLinkDown (port : BitVec 3) (link : BitVec 2) (surprise : Bool) (s : State) : Host.Outcome State Fault Refusal :=
  let p := port.toNat
  let l := link.toNat
  if 6 ≤ p || !linkUp s p l then .next s else
  let s := modRp s p (fun x => { x with status := fldSet (fldSet x.status (8 * l + 7) 1 0) (8 * l + 3) 3 0,
                                        width := tset (fun _ => 0) x.width l 0 })
  let s := rpStatus s p (8 * l + 2) true
  let s := if surprise then rpStatus s p (8 * l + 1) true else s
  let s := jrn s (80 + p) 0x65 0 (bytesOf 1 p ++ bytesOf 1 l ++ bytesOf 1 (b2n surprise))
  let s := endOutst s p (fun r => linkOfAddr s p r.pa.toNat == some l)
  if !surprise then .next s else
  let s := haltPort s p (fun x => linkOfRid s p (fld x.ctl 0 16) == l)
  .next (if (List.range 4).any (fun j => linkUp s p j) then s else declareDead s (80 + p) none)

/-- LINK_UP (R385, R399): a link that exists, whose PE_PERST_N is released, trains. -/
def execLinkUp (port : BitVec 3) (link : BitVec 2) (rate : BitVec 3) (width : Nat) (s : State) : Host.Outcome State Fault Refusal :=
  let p := port.toNat
  let l := link.toNat
  if 6 ≤ p || !linkExists s p l || !(getRp s p).perst.getLsbD l || linkUp s p l then .next s else
  let s := modRp s p (fun x => { x with status := fldSet (fldSet x.status (8 * l + 7) 1 1) (8 * l + 3) 3 rate.toNat,
                                        width := tset (fun _ => 0) x.width l width })
  let s := rpStatus s p (8 * l + 2) true
  .next (jrn s (80 + p) 0x66 0 (bytesOf 1 p ++ bytesOf 1 l ++ bytesOf 1 rate.toNat ++ bytesOf 1 width))

/-- PRESENCE_CHANGE (R400). -/
def execPresenceChange (port : BitVec 3) (link : BitVec 2) (present : Bool) (s : State) : Host.Outcome State Fault Refusal :=
  let p := port.toNat
  let l := link.toNat
  if 6 ≤ p || !linkExists s p l || (getRp s p).status.getLsbD (8 * l + 6) == present then .next s else
  .next (rpStatus (rpStatus s p (8 * l + 6) present) p (8 * l + 2) true)

/-- PERST_RELEASE (R505): 100 ms after START_FILL, with PWR_OK_PCIE high, and with the port's power domain on. -/
def execPerstRelease (port : BitVec 3) (link : BitVec 2) (s : State) : Host.Outcome State Fault Refusal :=
  let p := port.toNat
  let l := link.toNat
  let later := match s.ks.st with
    | .cold => false
    | .filling => s.ks.filling.isSome && decide (s.ks.fillAt + 100000000 ≤ plumbOf s agKs)
    | _ => true
  if 6 ≤ p || !linkExists s p l || !later || !s.pins.pwrOk.getLsbD 3 || pdState s (368 + p) != 2 then .next s
  else .next (modRp s p (fun x => { x with perst := x.perst ||| BitVec.ofNat 4 (2 ^ l) }))

/-! ### Function contexts (R390, R391, R398) -/

/-- CTX_CTL fields that software writes. -/
def ctxMask : Word64 := 0x80000FFF0007FFFF

/-- A store to CTX_CTL that may proceed (R390, R391, R398): `v` holds the new EN, TDID, PORT and RID. A refused one changes
nothing; a rebinding takes the next epoch; requests of a context that is disabled or rebound are refused. -/
def ctxApply (s : State) (k : Nat) (v : Word64) (resume : Bool) : State :=
  let x := getCtx s k
  let w := maskIn x.ctl v ctxMask
  let dup := w.getLsbD 63 && s.ctxs.any (fun e => e.1 != k && ctxEn e.2 && fld e.2.ctl 0 19 == fld w 0 19)
  if dup || 5 < fld w 16 3 || !domValid s (fld w 32 12) then ctlErr s else
  let rebinds := w.getLsbD 63 && (!x.ctl.getLsbD 63 || fld w 32 12 != fld x.ctl 32 12 || fld w 0 19 != fld x.ctl 0 19)
  let w := if rebinds then fldSet w 48 8 ((fld w 48 8 + 1) % 256) else w
  let s := setCtx s k { x with ctl := w, lastBind := if rebinds then some (plumbOf s 80) else x.lastBind }
  let p := fld x.ctl 16 3
  let q := fld w 16 3
  let up := linkUp s q (linkOfRid s q (fld w 0 16))
  let s := if resume && w.getLsbD 62 && up then
      let y := getCtx s k
      setCtx s k { y with ctl := fldSet y.ctl 62 1 0, status := fldSet y.status 52 4 0, hrep := false }
    else s
  portGoOn s p

/-- A store to CTX_CTL would rebind its context (R391). -/
def ctxRebinds (s : State) (k : Nat) (v : Word64) : Bool :=
  let x := getCtx s k
  let w := maskIn x.ctl v ctxMask
  w.getLsbD 63 && (!x.ctl.getLsbD 63 || fld w 32 12 != fld x.ctl 32 12 || fld w 0 19 != fld x.ctl 0 19)

/-- A rebinding comes within 8 µs of the last one (R76). -/
def tooSoon (last : Option Nat) (now : Nat) : Bool := match last with | some t => decide (now < t + 8000) | none => false

/-! ### I/O invalidations (R396) -/

/-- An I/O TLB entry that a write of IOINV removes. -/
def ioinvHits (w : Word64) (e : IoTlb) : Bool :=
  let unit := fld w 48 12 + (if w.getLsbD 11 then 4096 else 0)
  match fld w 60 3 with
  | 1 => e.unit == unit && e.vpn == fld w 12 36 / 2 ^ (pageBits e.lvl - 12)
  | 2 => e.unit == unit
  | 3 => e.tdid.toNat == fld w 48 12
  | 4 => true
  | _ => false

/-- An access on its way to a peer whose address may come from such an entry. -/
def ioinvWaits (w : Word64) (r : OutReq) : Bool :=
  match r.ctx, fld w 60 3 with
  | none, _ => false
  | some k, 1 => !w.getLsbD 11 && k.toNat == fld w 48 12
  | some k, 2 => !w.getLsbD 11 && k.toNat == fld w 48 12
  | some _, 3 => r.tdid.toNat == fld w 48 12
  | some _, 4 => true
  | some _, _ => false

/-- A write of IOINV: DONE clears, and every I/O TLB loses the entries named. -/
def ioinvStart (s : State) (w : Word64) : State :=
  let s := (List.range 6).foldl (fun s p => if (getRp s p).iotlb.isEmpty then s else
    modRp s p (fun x => { x with iotlb := x.iotlb.filter (fun e => !ioinvHits w e) })) s
  { s with ioDone := false, dmaTlb := tmapv (fun _ => []) s.dmaTlb (fun _ t => t.filter (fun e => !ioinvHits w e)),
           ioPend := (peersOut s).filter (ioinvWaits w) }

/-! ### Releases (R296, R297) -/

/-- RELEASE_NOTICE. -/
def execReleaseNotice (point : Nat) (t : BitVec 12) (r : BitVec 2) (period : Nat) (s : State) : Host.Outcome State Fault Refusal :=
  let s := noticeTake s (noticeOf s point t r period false)
  if noticeApplies s point t.toNat r.toNat period then
    let s := releasePoint (setNotice s point t.toNat r.toNat period false) point t.toNat r.toNat
    .next (if 80 ≤ point && point < 86 then portGoOn s (point - 80) else s)
  else .next s

end Sys2Proof.Machine
end

