-- ==== Sys2Proof/Machine/Dma.lean ====
section
/-! DEFINITION. The DMA copy channels (R70, R77, R401 to R406). -/
namespace Sys2Proof.Machine

/-- The slice that hosts a channel's engine (R401). -/
def chAgent (ch : Nat) : Nat := 32 + 4 * (ch / 128)
/-- CH_CTL.EN, TDID and EPOCH; CH_STATUS.STATE. -/
def chEn (x : Chan) : Bool := x.ctl.getLsbD 63
def chTdid (x : Chan) : Tdid := x.ctl.extractLsb' 32 12
def chEpoch (x : Chan) : BitVec 8 := x.ctl.extractLsb' 48 8
def chState (x : Chan) : Nat := fld x.status 60 4
def chHead (x : Chan) : Nat := fld x.ptr 32 16
def chTail (x : Chan) : Nat := fld x.ptr 0 16

/-- The channel as a unit of I/O translation (R402). -/
def chUnit (x : Chan) (ch : Nat) : IoUnit := { unit := 4096 + ch, tdid := chTdid x, epoch := chEpoch x, io := x.io, agent := chAgent ch }

/-- The I/O virtual address of descriptor `i` (R402). -/
def descAddr (x : Chan) (i : Nat) : Nat := fld x.ring 12 36 * 4096 + 32 * i

/-- What the checks of one access give (R402, R405): a physical address, or an HCODE. -/
def chAddr (s : State) (x : Chan) (ch addr : Nat) (write : Bool) : Except Nat Nat × State :=
  match ioTranslate s (chUnit x ch) addr write with
  | (.fault, s) => (.error 2, s)
  | (.poison, s) => (.error 2, s)
  | (.pa pa, s) =>
    if !windowOk s (chAgent ch) (chTdid x).toNat pa (if write then .write else .read) then (.error 3, s)
    else match region s pa with | .dram => (.ok pa, s) | _ => (.error 3, s)

/-- The parts of a range that lie in one line each. -/
def linesOf : Nat → Nat → Nat → List (Nat × Nat)
  | 0, _, _ => []
  | f + 1, a, n => if n = 0 then [] else let k := Nat.min (64 - a % 64) n; (a, k) :: linesOf f ((a + k) % 2 ^ 64) (n - k)

/-- The checks of a range, part by part: physical parts, or the HCODE with the address of the failing access. -/
def chParts (x : Chan) (ch : Nat) (write : Bool) : List (Nat × Nat) → State → Except (Nat × Nat) (List (Nat × Nat)) × State
  | [], s => (.ok [], s)
  | (a, k) :: r, s =>
    match chAddr s x ch a write with
    | (.error c, s) => (.error (c, a), s)
    | (.ok pa, s) =>
      match chParts x ch write r s with
      | (.error e, s) => (.error e, s)
      | (.ok l, s) => (.ok ((pa, k) :: l), s)

/-- The bytes of physical parts, read for the channel's domain. -/
def chRead (s : State) (key agent : Nat) : List (Nat × Nat) → List PByte × State
  | [] => ([], s)
  | (pa, k) :: r =>
    let (b, s) := engReadBytes 2 s key pa k agent
    let (q, s) := chRead s key agent r
    (b ++ q, s)

/-- The channel halts (R405): the descriptor's STATUS takes HCODE through a completion, and HEAD stays on it. -/
def chHalt (s : State) (ch code addr : Nat) (irq : Bool) : State :=
  let x := getChan s ch
  let s := setChan s ch { x with status := fldSet (fldSet (fldSet x.status 60 4 3) 48 8 code) 0 48 (addr % 2 ^ 48), desc := none, done := 0,
                                 cpls := x.cpls ++ [{ epoch := chEpoch x, desc := BitVec.ofNat 64 (descAddr x (chHead x)),
                                                      status := BitVec.ofNat 8 code, irq := irq }] }
  jrn s (chAgent ch) 0x64 (chTdid x) (bytesOf 2 ch ++ bytesOf 1 code ++ bytesOf 8 addr)

/-- FLAGS.IRQ of a descriptor. -/
def descIrq (d : List Byte) : Bool := (d.getD 20 0).getLsbD 0

/-- What STATE is between descriptors (R403): ACTIVE while there is one to process. -/
def chRest (s : State) (x : Chan) : Nat :=
  if chEn x && !domPaused s (chTdid x).toNat && chHead x != chTail x then 1 else 0

/-- A descriptor is done (R404): HEAD advances and its completion is queued. -/
def descDone (s : State) (ch : Nat) (d : List Byte) : State :=
  let x := getChan s ch
  let h := (chHead x + 1) % 2 ^ (fld x.ring 0 4)
  let c : ChCpl := { epoch := chEpoch x, desc := BitVec.ofNat 64 (descAddr x (chHead x)), status := 1, irq := descIrq d }
  let y : Chan := { x with ptr := fldSet x.ptr 32 16 h, desc := none, done := 0, cpls := x.cpls ++ [c] }
  setChan s ch { y with status := fldSet y.status 60 4 (chRest s y) }

/-- The next descriptor is read and checked (R402, R405). -/
def descFetch (s : State) (ch : Nat) : State :=
  let x := getChan s ch
  let a := descAddr x (chHead x)
  match chAddr s x ch a false with
  | (.error c, s) => chHalt s ch c a false
  | (.ok pa, s) =>
    let (b, s) := engReadBytes 2 s (chTdid x).toNat pa 32 (chAgent ch)
    let d := b.map (·.b)
    if pany b then chHalt s ch 4 a false
    else if (d.getD 20 0).toNat / 2 ≠ 0 || le d 22 2 ≠ 0 then chHalt s ch 5 a (descIrq d)
    else
      let x := getChan s ch
      setChan s ch { x with desc := some d, done := 0, status := fldSet x.status 60 4 1 }

/-- One chunk (R403): it follows the destination's lines, passes its checks, reads, and then writes. -/
def chChunk (s : State) (ch : Nat) (d : List Byte) : State :=
  let x := getChan s ch
  let len := le d 16 4
  if len ≤ x.done then descDone s ch d else
  let src := (le d 0 8 + x.done) % 2 ^ 64
  let dst := (le d 8 8 + x.done) % 2 ^ 64
  let n := Nat.min (64 - dst % 64) (len - x.done)
  let t := (chTdid x).toNat
  let g := chAgent ch
  match chParts x ch false (linesOf 3 src n) s with
  | (.error (c, a), s) => chHalt s ch c a (descIrq d)
  | (.ok ps, s) =>
    match chAddr s x ch dst true with
    | (.error c, s) => chHalt s ch c dst (descIrq d)
    | (.ok pa, s) =>
      let (b, s) := chRead s t g ps
      if pany b then chHalt s ch 4 src (descIrq d) else
      let s := engWriteBytes 1 s t pa b g
      let y := getChan s ch
      let s := setChan s ch { y with done := x.done + n }
      if x.done + n = len then descDone s ch d else s

/-- A channel is held for its domain (R296). -/
def chDry (s : State) (x : Chan) (ch : Nat) : Bool := isDry s (chAgent ch) (chTdid x).toNat 1 || isDry s (chAgent ch) (chTdid x).toNat 3

/-- DMA_CHUNK (R403): the descriptor in process goes on by a chunk; otherwise the next one is begun, unless the channel is halted,
stopped, paused, or has none. -/
def dmaStep (s : State) (ch : Nat) : State :=
  let x := getChan s ch
  if chState x = 3 || chDry s x ch then s else
  match x.desc with
  | some d => chChunk s ch d
  | none =>
    if chRest s x = 0 then setChan s ch { x with status := fldSet x.status 60 4 0 }
    else
      let s := descFetch s ch
      match (getChan s ch).desc with
      | some d => chChunk s ch d
      | none => s

/-- DMA_CHUNK: the engine's arbiter takes the channels in turn by their domains (R309); a chunk that meets a line it cannot have comes
again (R259). -/
def execDmaChunk (ch : BitVec 10) (s : State) : Host.Outcome State Fault Refusal :=
  let k := ch.toNat
  let a : Arb := .dma (BitVec.ofNat 3 (k / 128))
  let d := (chTdid (getChan s k)).toNat
  if !arbAllows s a d then .next s
  else .next (engine (fun s => dmaStep (if chState (getChan s k) = 1 then arbServed s a d else s) k) s)

/-- A channel's oldest completion (R77, R404): the tag is compared with the channel's epoch. STATUS is written through the ring's
translation and window checks; where they fail, it is not written (log entry 21). -/
def dmaComplete (s : State) (k : Nat) : State :=
  let x := getChan s k
  match x.cpls with
  | [] => s
  | c :: r =>
    let s := setChan s k { x with cpls := r }
    if c.epoch ≠ chEpoch x then
      jrn s (chAgent k) 0x10 (chTdid x) (bytesOf 1 2 ++ bytesOf 2 k ++ bytesOf 1 c.epoch.toNat ++ bytesOf 1 (chEpoch x).toNat)
    else
      let s := match chAddr s x k (c.desc.toNat + 21) true with
        | (.ok pa, s) => engWriteBytes 1 s (chTdid x).toNat pa (sound [c.status]) (chAgent k)
        | (.error _, s) => s
      let id := fld x.ctl 0 13
      if c.irq && 64 ≤ id && id ≤ 8190 && srcTdid (getSrc s id) == (chTdid x).toNat then setPend s id else s

/-- DMA_COMPLETION; its write waits while the line cannot be had (R259). -/
def execDmaCompletion (ch : BitVec 10) (s : State) : Host.Outcome State Fault Refusal := .next (engine (fun s => dmaComplete s ch.toNat) s)

/-- CH_CTL fields that software writes. -/
def chMask : Word64 := 0x80000FFF00001FFF

/-- A store to CH_CTL would rebind its channel (R406). -/
def chRebinds (s : State) (ch : Nat) (v : Word64) : Bool :=
  let x := getChan s ch
  let w := maskIn x.ctl v chMask
  fld w 32 12 != fld x.ctl 32 12 && !chEn x && (chState x == 0 || chState x == 3) && domValid s (fld w 32 12)

/-- A store to CH_CTL that may proceed (R403, R405, R406): `v` holds the new EN, TDID and IRQ. -/
def chApply (s : State) (ch : Nat) (v : Word64) : State :=
  let x := getChan s ch
  let w := maskIn x.ctl v chMask
  let changes := fld w 32 12 != fld x.ctl 32 12
  let re := chRebinds s ch v
  let s := if changes && !re then ctlErr s else s
  let w := if changes && !re then fldSet w 32 12 (fld x.ctl 32 12) else if re then fldSet w 48 8 ((fld w 48 8 + 1) % 256) else w
  let y := { x with ctl := w, lastBind := if re then some (plumbOf s (chAgent ch)) else x.lastBind }
  let st := if re then 0 else chState x
  let st :=
    if w.getLsbD 63 then (if st = 3 then chRest s y else if y.desc.isSome then 1 else chRest s y)
    else if st = 3 then 3 else if y.desc.isSome then 2 else 0
  let y := if re || (w.getLsbD 63 && chState x = 3) then { y with desc := none, done := 0 } else y
  setChan s ch { y with status := fldSet y.status 60 4 st }

/-- The channels of a domain stop at the next descriptor boundary, or go on (R74, R403). -/
def chPause (s : State) (t : Nat) : State :=
  s.chans.foldl (fun s e =>
    let x := e.2
    if (chTdid x).toNat ≠ t || chState x = 3 || !chEn x then s else
    let st := if x.desc.isSome then (if domPaused s t then 2 else 1) else chRest s x
    setChan s e.1 { x with status := fldSet x.status 60 4 st }) s

end Sys2Proof.Machine
end

