-- ==== Sys2Proof/Machine/Journal.lean ====
section
/-! DEFINITION. The journal engine: records on their way, the ring, gaps, what is held while EN is 0, and sets of plumb time
(R322 to R327, R516). -/
namespace Sys2Proof.Machine

/-! ### The ring (R324, R325) -/

/-- JRN_CTL.EN, OVW and BASE. -/
def jrnEn (s : State) : Bool := s.jrn.ctl.getLsbD 63
def jrnOvw (s : State) : Bool := s.jrn.ctl.getLsbD 62
def jrnBase (s : State) : Nat := fld s.jrn.ctl 12 40 * 4096

/-- The 32 bytes of a record (R317). -/
def recBytes (r : JRec) : List Byte :=
  bytesOf 8 r.stamp ++ bytesOf 1 r.agent.toNat ++ [r.cls] ++ bytesOf 2 r.tdid.toNat ++ bytesOf 4 r.seq ++ sub r.payload 0 16

/-- A record is given its slot (R325); the fill level may raise the alert. -/
def ringPut (s : State) (r : JRec) : State :=
  let s := { s with jrn := { s.jrn with n := s.jrn.n + 1, flight := s.jrn.flight ++ [(s.jrn.n, r)] } }
  if ringAlert s then alert s 3 else s

/-- A record is dropped: it is counted, and the first of a run of drops is remembered (R325, R327). -/
def ringDropRec (s : State) (r : JRec) : State :=
  { s with jrn := { s.jrn with ringDrop := satAdd 32 s.jrn.ringDrop 1, gap := s.jrn.gap + 1,
                               gapAt := if s.jrn.gap = 0 then r.stamp else s.jrn.gapAt } }

/-- Space is free and records were dropped: one JRN_GAP record takes the next slot (R325). -/
def gapPlace (s : State) : State :=
  if s.jrn.gap = 0 || ringFull s then s else
  let x := getAgent s agJrn
  let st := stampOf s agJrn
  let s := setAgent (stamped s agJrn) agJrn { x with seq := x.seq + 1, last := st }
  let r : JRec := { stamp := st, agent := 87, cls := 2, tdid := 0, seq := x.seq + 1,
                    payload := bytesOf 4 (Nat.min 0xFFFFFFFF s.jrn.gap) ++ bytesOf 8 s.jrn.gapAt }
  ringPut { s with jrn := { s.jrn with gap := 0, gapAt := 0 } } r

/-- A record comes to the ring (R325), or is held while EN is 0 (R327). -/
def ringArrive (s : State) (r : JRec) : State :=
  if !jrnEn s then
    (if s.jrn.held.length < 1024 then { s with jrn := { s.jrn with held := s.jrn.held ++ [r] } } else ringDropRec s r)
  else
    let s := gapPlace s
    if !ringFull s then ringPut s r
    else if jrnOvw s then
      ringPut { s with jrn := { s.jrn with tail := s.jrn.tail + 1, ringDrop := satAdd 32 s.jrn.ringDrop 1 } } r
    else ringDropRec s r

/-- The oldest write in flight is performed (R324): HEAD follows. A ring that does not lie in DRAM takes no bytes (log entry 23). -/
def ringWritten (s : State) : State :=
  match s.jrn.flight with
  | [] => s
  | (k, r) :: rest =>
    let pa := jrnBase s + 32 * (k % ringCap s)
    let s := match region s pa with
      | .dram => engWriteBytes 2 s ovhKey pa (sound (recBytes r)) agJrn
      | _ => s
    { s with jrn := { s.jrn with head := k + 1, flight := rest } }

/-! ### Arrival and sets of plumb time (R516) -/

/-- The sets in progress with a record held behind the last one whose mark its agent has sent; none where it has sent none. -/
def heldBehind (r : JRec) : List SetHold → Option (List SetHold)
  | [] => none
  | h :: rest =>
    if h.marks.contains r.agent then
      some (match heldBehind r rest with | some l => h :: l | none => { h with post := h.post ++ [r] } :: rest)
    else none

/-- A record reaches the engine: while a set of plumb time is in progress, one that its agent stamped after the set is held. -/
def jrnArrive (s : State) (r : JRec) : State :=
  match heldBehind r s.jrn.sets with
  | some l => { s with jrn := { s.jrn with sets := l } }
  | none => ringArrive s r

/-- The hold of the earliest set ends: its PLUMB_SET record goes first, then the records stamped at or after it in arrival order. -/
def endSet (s : State) : State :=
  match s.jrn.sets with
  | [] => s
  | h :: rest =>
    let isSet := fun (r : JRec) => r.agent == 89 && r.cls == 0x0C
    (h.post.filter isSet ++ h.post.filter (fun r => !isSet r)).foldl ringArrive { s with jrn := { s.jrn with sets := rest } }

/-- A set has the mark of every agent in service, and its PLUMB_SET record. -/
def setReady (s : State) (h : SetHold) : Bool :=
  (List.range 90).all (fun a => agentDown s a || h.marks.contains (BitVec.ofNat 7 a)) && h.post.any (fun r => r.agent == 89 && r.cls == 0x0C)

/-- The sets whose holds are over end, the earlier first: at most those in progress. -/
def endReady : Nat → State → State
  | 0, s => s
  | k + 1, s => match s.jrn.sets with
    | h :: _ => if setReady s h then endReady k (endSet s) else s
    | [] => s

/-- A mark counts at the earliest set that has not had its agent's. -/
def addMark (a : BitVec 7) : List SetHold → List SetHold
  | [] => []
  | h :: rest => if h.marks.contains a then h :: addMark a rest else { h with marks := h.marks ++ [a] } :: rest

/-- SET_MARK (R516): the agent's mark arrives behind the records it stamped before the set. -/
def execSetMark (agent : Nat) (s : State) : Host.Outcome State Fault Refusal :=
  let x := getAgent s agent
  if !markReady x then .next s else
  let s := setAgent s agent { x with marks := x.marks.tail }
  if 90 ≤ agent then .next s else
  let s := { s with jrn := { s.jrn with sets := addMark (BitVec.ofNat 7 agent) s.jrn.sets } }
  .next (endReady s.jrn.sets.length s)

/-- JRN_SET_HOLD_EXPIRY (R516): 2 ms after the set. -/
def execJrnSetHoldExpiry (s : State) : Host.Outcome State Fault Refusal :=
  match s.jrn.sets with
  | h :: _ => if h.at_ + 2000000 ≤ plumbOf s agJrn then .next (endSet s) else .next s
  | [] => .next s

/-- JOURNAL_RECORD (R322): an agent's oldest record reaches the engine; none passes the agent's set mark. -/
def execJournalRecord (agent : Nat) (s : State) : Host.Outcome State Fault Refusal :=
  let x := getAgent s agent
  if markReady x then .next s else
  match x.queue with
  | [] => .next s
  | r :: rest =>
    let s := jrnArrive (setAgent s agent { x with queue := rest, marks := x.marks.map (· - 1) }) r
    .next (endReady s.jrn.sets.length s)

/-- RING_WRITE_DONE (R324). -/
def execRingWriteDone (s : State) : Host.Outcome State Fault Refusal := .next (engine ringWritten s)

/-! ### The registers (R325 to R327) -/

/-- The bits of JRN_CTL that software writes. -/
def jrnMask : Word64 := 0xC0FFFFFFFFFFF01F

/-- Every write in flight performed. -/
def ringFlush (s : State) : State := s.jrn.flight.foldl (fun s _ => ringWritten s) s

/-- EN is set (R327): HEAD and TAIL are 0, then come the held records and the JRN_GAP record of those dropped meanwhile. -/
def jrnStart (s : State) : State :=
  let h := s.jrn.held
  let g := s.jrn.gap
  let s := { s with jrn := { s.jrn with head := 0, tail := 0, n := 0, held := [], gap := 0 } }
  let s := h.foldl ringArrive s
  gapPlace { s with jrn := { s.jrn with gap := g } }

/-- JRN_CTL takes a value (R327). -/
def jrnCtlApply (s : State) (v : Word64) : State :=
  let old := s.jrn.ctl
  let w := maskIn old v jrnMask
  let badSz := fld w 0 5 < 16 || 32 < fld w 0 5
  let w := if badSz then fldSet w 0 5 (fld old 0 5) else w
  let moved := old.getLsbD 63 && (fld w 0 5 != fld old 0 5 || fld w 12 40 != fld old 12 40)
  let w := if moved then fldSet (fldSet w 0 5 (fld old 0 5)) 12 40 (fld old 12 40) else w
  let s := if badSz || moved then ctlErr s else s
  let start := w.getLsbD 63 && !old.getLsbD 63
  let s := if start then ringFlush s else s
  let s := { s with jrn := { s.jrn with ctl := w } }
  if start then jrnStart s else if jrnEn s && ringAlert s then alert s 3 else s

/-- JRN_TAIL takes a value (R326). -/
def jrnTailApply (s : State) (v : Word64) : State :=
  let k := v.toNat
  if s.jrn.head < k then ctlErr s
  else if k < s.jrn.tail then (if jrnOvw s then s else ctlErr s)
  else
    let s := { s with jrn := { s.jrn with tail := k } }
    if jrnEn s then gapPlace s else s

/-- JRN_STATUS takes a value: RINGDROP and QDROP lose the bits written as ones. -/
def jrnStatusApply (s : State) (v : Word64) : State :=
  let clr := fun (x n m : Nat) => x &&& (2 ^ n - 1 - m % 2 ^ n)
  { s with jrn := { s.jrn with ringDrop := clr s.jrn.ringDrop 32 (fld v 32 32), qDrop := clr s.jrn.qDrop 16 (fld v 16 16) } }

end Sys2Proof.Machine
end

