-- ==== Sys2Proof/Machine/Minutes.lean ====
section
/-! DEFINITION. The minute ledger: banks, final reports, the close of a minute, attribution of the rail energy, seals and the
chain (R328 to R341). -/
namespace Sys2Proof.Machine

/-! ### Boundaries and final reports (R329, R330) -/

/-- What a domain's record of the minute that ends will carry (R334, R335): FLAGS and EPOCH, for a domain that was VALID in it. -/
def flagsOf (s : State) (t : Nat) (d : Dom) : Option (BitVec 8 × BitVec 8) :=
  if domValid s t || d.mClosed then
    some (BitVec.ofNat 8 (b2n (d.mPaused || domPaused s t) + 2 * b2n d.mOpened + 4 * b2n d.mClosed + 16 * b2n d.mGrace + 32 * b2n (domRt s t)),
          domAcct s t)
  else none

/-- The flags of every domain captured at the boundary, and those of the new minute begun. -/
def captureFlags (s : State) : State :=
  let f := s.doms.foldl (fun f e => tset (fun _ => none) f e.1 (flagsOf s e.1 e.2)) (tset (fun _ => none) [] 0 (flagsOf s 0 (getDom s 0)))
  { s with led := { s.led with flags := f }
           doms := tmapv domInit s.doms (fun _ d => { d with mPaused := d.ctl.getLsbD 61, mOpened := false, mClosed := false, mGrace := false }) }

/-- MINUTE_BOUNDARY (R330): the agent switches banks and sends its final report. The engine's own boundary, which also ends the
minute for the flags of R334, waits for the close of the minute before. -/
def execMinuteBoundary (agent : Nat) (s : State) : Host.Outcome State Fault Refusal :=
  let m := minuteOf s agent
  if !serving s || 87 < agent || plumbOf s agent < (m + 1) * minuteNs || (agent = 87 && m ≠ s.led.minute) then .next s else
  let s := if agent = 87 then captureFlags s else s
  .next { s with led := { s.led with bank := tset (fun _ => 0) s.led.bank agent (m + 1)
                                     due := s.led.due ++ [(BitVec.ofNat 7 agent, m)] } }

/-- Two counts added. -/
def addCounts (a b : Counts) : Counts :=
  { tokens := a.tokens + b.tokens, drd := a.drd + b.drd, dwr := a.dwr + b.dwr, iob := a.iob + b.iob, occ := a.occ + b.occ, pj := a.pj + b.pj }

/-- The counts of an agent's bank of minute `m`: TDID and counts. -/
def bankCounts (s : State) (a m : Nat) : List (Nat × Counts) :=
  (s.led.agent.filter (fun e => e.1 / 8192 == a * 2 + m % 2)).map (fun e => (e.1 % 8192, e.2))

/-- FINAL_REPORT (R330): the counts go to the minute being gathered; a report for a minute that has closed is late. -/
def execFinalReport (agent : Nat) (minute : Nat) (s : State) : Host.Outcome State Fault Refusal :=
  let a := BitVec.ofNat 7 agent
  if !s.led.due.contains (a, minute) || s.led.minute < minute then .next s else
  let cs := bankCounts s agent minute
  let late := decide (minute < s.led.minute)
  let s := { s with led := { s.led with
    due := s.led.due.erase (a, minute)
    agent := s.led.agent.filter (fun e => e.1 / 8192 != agent * 2 + minute % 2)
    sum := cs.foldl (fun t e => tset (fun _ => {}) t e.1 (addCounts (tget (fun _ => {}) t e.1) e.2)) s.led.sum
    final := if late then s.led.final else s.led.final ++ [a]
    partial_ := if late then s.led.partial_ ++ cs.map (·.1) else s.led.partial_ } }
  .next (if late then jrn s agJrn 0x33 0 (bytesOf 1 agent ++ bytesOf 4 minute) else s)

/-- L3_OCC_SAMPLE (R331): the lines that each domain placed in a slice's L3. -/
def execL3OccSample (slice : BitVec 5) (s : State) : Host.Outcome State Fault Refusal :=
  let h := slice.toNat
  let a := 32 + h
  .next (if !serving s then s else
    (getSlice s h).l3.foldl (fun s e =>
      if e.2.valid then countLedAt s a e.2.tdid.toNat (plumbOf s a) (fun c => { c with occ := c.occ + 1 }) else s) s)

/-! ### Attribution (R332) -/

/-- The attribution of one minute: ESTIMATED, the factor k as a ratio, RAIL_UJ, and KPPM. -/
structure Share where
  est  : Bool
  num  : Nat
  den  : Nat
  rail : Nat
  kppm : Int
  deriving DecidableEq, Repr

/-- The nearest integer to a ratio, halves away from zero (log entry 24). -/
def roundDiv (n : Int) (d : Nat) : Int :=
  if 0 ≤ n then (2 * n + d) / (2 * d) else -((2 * (-n) + d) / (2 * d))

/-- k of R332 from the event energy E of the minute and the rails. -/
def energyShare (e : Nat) (rails : Option Nat) : Share :=
  match rails with
  | none => { est := true, num := 1, den := 1, rail := e, kppm := 0 }
  | some r =>
    if e = 0 then { est := false, num := 1, den := 1, rail := r, kppm := 0 }
    else if 10 * r < 9 * e || 11 * e < 10 * r then { est := true, num := 1, den := 1, rail := e, kppm := 0 }
    else { est := false, num := r, den := e, rail := r, kppm := roundDiv (((r : Int) - e) * 1000000) e }

/-! ### Records and the trailer (R334, R336 to R338) -/

/-- The first 16 bytes of a seal, or zeros with no key (R337). -/
def sealOf (key : Option (List Byte)) (l : List Byte) : List Byte :=
  match key with
  | some k => sub (hmac256 k l) 0 16
  | none => List.replicate 16 0

/-- Bytes 0 to 47 of a record (R334). -/
def recordBody (t m : Nat) (ep flags : BitVec 8) (c : Counts) (uj : Nat) : List Byte :=
  bytesOf 2 t ++ [ep, flags] ++ bytesOf 4 m ++ bytesOf 6 c.tokens ++ bytesOf 6 uj ++ bytesOf 6 c.drd ++ bytesOf 6 c.dwr ++
    bytesOf 6 c.iob ++ bytesOf 6 c.occ ++ bytesOf 4 0

/-- LED_CTL.EN, NSLOT and BASE. -/
def ledEn (s : State) : Bool := s.led.ctl.getLsbD 63
def ledSlots (s : State) : Nat := fld s.led.ctl 0 12
def ledBase (s : State) : Nat := fld s.led.ctl 12 40 * 4096

/-- Bytes written to a ledger slot, line by line; a slot that does not lie in DRAM takes none (log entry 23). -/
def ledWrite (s : State) (pa : Nat) (l : List Byte) : State :=
  match region s pa with
  | .dram => engWriteBytes (l.length / 64 + 1) s ovhKey pa (sound l) agJrn
  | _ => s

/-- The address of a slot (R336). -/
def slotAddr (s : State) (k : Nat) : Nat := ledBase s + k * 0x41000

/-- LEDGER_OVERRUN (R341): the slot holds a minute that has not been acknowledged. -/
def ledOverrun (s : State) (k : Nat) : State :=
  match tget (fun _ => 0) s.led.slots k with
  | 0 => s
  | m + 1 =>
    if fld s.led.ack 0 32 < m then
      let s := { s with led := { s.led with status := s.led.status ||| 0x4000000000000000 } }
      jrn (alert s 4) agJrn 0x31 0 (bytesOf 4 m)
    else s

/-- The minute that is gathered may close (R330, R340): the engine has passed its boundary, and every final report is in or 2 ms
have passed. -/
def closeReady (s : State) : Bool :=
  s.led.closing.isNone && decide (s.led.minute < minuteOf s agJrn) &&
    ((List.range 88).all (fun a => agentDown s a || s.led.final.contains (BitVec.ofNat 7 a)) ||
      decide ((s.led.minute + 1) * minuteNs + 2000000 ≤ plumbOf s agJrn))

/-- A close (R330, R332, R335, R340): the records are built and sealed, and written where LED_CTL.EN is 1. -/
def closeMinute (s : State) (rails : Option Nat) : State :=
  let L := s.led
  let m := L.minute
  let missing := !((List.range 88).all (fun a => agentDown s a || L.final.contains (BitVec.ofNat 7 a)))
  let ts := L.flags.filterMap (fun e => e.2.map (fun f => (e.1, f)))
  let has := fun t => ts.any (fun e => e.1 == t)
  let cnt := fun t => tget (fun _ => ({} : Counts)) L.sum t
  let other := (L.sum.filter (fun e => !has e.1))
  let ovhE := (other.map (fun e => e.2.pj / unitUJ)).foldl (· + ·) 0
  let ovhB := (other.map (fun e => e.2.drd + e.2.dwr)).foldl (· + ·) 0
  let E := ts.foldl (fun a e => a + (cnt e.1).pj / unitUJ) ovhE
  let sh := energyShare E rails
  let part := fun t => missing || L.partial_.contains t
  let uj := fun t => (cnt t).pj / unitUJ * sh.num / sh.den
  let sumUJ := ts.foldl (fun a e => a + uj e.1) 0
  let ovhUJ := if sh.est then ovhE else sh.rail - sumUJ
  let kgen : BitVec 8 := match L.nextKey with | some (_, _, g) => g | none => L.status.extractLsb' 40 8
  let recs := ts.map (fun e =>
    let fl := e.2.1 ||| BitVec.ofNat 8 (8 * b2n (part e.1) + 64 * b2n sh.est)
    let b := recordBody e.1 m e.2.2 fl (cnt e.1) (uj e.1)
    b ++ sealOf L.key b)
  let start := L.chain.isNone || L.seed.isSome
  let tf : Byte := BitVec.ofNat 8 (b2n start + 2 * b2n L.key.isNone + 4 * b2n sh.est + 8 * b2n (ts.any (fun e => part e.1)) + 16 * b2n L.seed.isSome)
  let prev := match L.seed with | some x => x | none => L.chain.getD (List.replicate 48 0)
  let slot := if ledEn s then some (m % Nat.max 1 (ledSlots s)) else none
  let head := bytesOf 4 m ++ bytesOf 2 recs.length ++ [tf, kgen] ++ bytesOf 8 sh.rail ++ bytesOf 8 ovhUJ ++ bytesOf 4 (ofInt 32 sh.kppm) ++
    bytesOf 4 0 ++ bytesOf 8 ovhB
  let s := { s with led := { L with
    closing := some { minute := m, recs := recs, head := head, tflags := tf, key := L.key, kgen := kgen, prev := prev, slot := slot }
    minute := m + 1, flags := [], final := [], partial_ := [], seed := none
    sum := L.sum.foldl (fun t e => tset (fun _ => {}) t e.1 { pj := e.2.pj % unitUJ }) [] } }
  match slot with
  | some k => recs.foldl (fun (x : State × Nat) r => (ledWrite x.1 (slotAddr s k + 64 * x.2) r, x.2 + 1)) (ledOverrun s k, 0) |>.1
  | none => s

/-- MINUTE_CLOSE: the rail energy latched at the boundary, with trims applied, or none where the rails are unavailable. -/
def execMinuteClose (railUJ : Option Nat) (s : State) : Host.Outcome State Fault Refusal :=
  .next (engine (fun s => if closeReady s then closeMinute s railUJ else s) s)

/-- The trailer is completed and written; LAST and MINUTE_SEALED take effect together (R336 to R340). A key installed during the
close comes into force (R339). -/
def sealMinute (s : State) (c : Closing) : State :=
  let st := stampOf s agJrn
  let b48 := c.head ++ bytesOf 8 st
  let chain := sha384 (c.prev ++ b48 ++ c.recs.flatten)
  let b96 := b48 ++ chain
  let trailer := b96 ++ sealOf c.key b96 ++ List.replicate 16 0
  let s := match c.slot with
    | some k => ledWrite { s with led := { s.led with slots := tset (fun _ => 0) s.led.slots k (c.minute + 1) } } (slotAddr s k + 0x40000) trailer
    | none => s
  let s := { s with led := { s.led with
    closing := none
    chain := c.slot.map (fun _ => chain)
    status := fldSet (s.led.status ||| 0x8000000000000000) 0 32 c.minute } }
  let s := match s.led.nextKey with
    | some (k, sd, _) => { s with led := { s.led with key := some k, nextKey := none, seed := if sd.isSome then sd else s.led.seed } }
    | none => s
  jrn s agJrn 0x30 0 (bytesOf 4 c.minute ++ bytesOf 2 c.recs.length ++ [c.tflags, c.kgen])

/-- MINUTE_SEALED. -/
def execMinuteSealed (s : State) : Host.Outcome State Fault Refusal :=
  match s.led.closing with
  | some c => .next (engine (fun s => sealMinute s c) s)
  | none => .next s

/-- A close is in progress: the engine has passed the boundary of a minute that is not sealed (R339). -/
def closeInProgress (s : State) : Bool := s.led.closing.isSome || decide (s.led.minute < minuteOf s agJrn)

/-- LED_ACK takes a value (R341): one above LAST leaves it and sets CTL_ERR. -/
def ledAckApply (s : State) (v : Word64) : State :=
  if fld s.led.status 0 32 < fld v 0 32 then ctlErr s
  else { s with led := { s.led with ack := BitVec.ofNat 64 (fld v 0 32) } }

end Sys2Proof.Machine
end

