-- ==== Sys2Proof/Machine/Power.lean ====
section
/-! DEFINITION. Power domains, the voltage sequencer, thermal limits and regulators (R441 to R460, R478). -/
namespace Sys2Proof.Machine

/-! ### Entries to off and power-up (R443 to R448) -/

/-- A PD_SWITCH record (R448), for a domain other than a core (log entry 25). -/
def pdRecord (s : State) (d st point : Nat) : State :=
  if d < 288 then s else jrn s agKs 0x78 0 (bytesOf 2 d ++ bytesOf 1 st ++ bytesOf 1 point)

/-- The logical core whose state a core's domain holds. -/
def pdCore (s : State) (d : Nat) : Option Nat := if d < 288 then (getPhys s d).logical.map (·.toNat) else none

/-- The saved copy of a core's state is made or discarded (R445, R446). -/
def setSaved (s : State) (n : Nat) (v : Bool) : State :=
  let k := BitVec.ofNat 8 n
  modCourse s (courseOf s n) (fun x => { x with saved := if v then (if x.saved.contains k then x.saved else x.saved ++ [k]) else x.saved.erase k })

/-- A vote has returned during an entry (R446): the domain goes on from its live state; ABORTS and LASTAB record the entry. -/
def pdAbandon (s : State) (d : Nat) : State :=
  let st := tget (fun _ => 0) s.offStep d
  let w := tget voteInit s.votes d
  let s := { s with votes := tset voteInit s.votes d (fldSet (fldSat w 16 16 1) 56 2 (st - 1)) }
  let s := match pdCore s d with | some n => setSaved s n false | none => s
  pdRecord (setPd s d 2) d 2 (st - 1)

/-- A domain's votes have changed (R443, R446): the last one withdrawn begins the entry to off, one that returns before C ends it,
and one held at an off domain begins power-up. -/
def voteEval (s : State) (d : Nat) : State :=
  let held := votesHeld s d
  match pdState s d with
  | 2 => if held then s else { setPd s d 1 with offStep := tset (fun _ => 0) s.offStep d 1 }
  | 1 => if held && tget (fun _ => 0) s.offStep d < 4 then pdAbandon s d else s
  | 0 => if held then setPd s d 3 else s
  | _ => s

/-- VOTE_CHANGE. -/
def execVoteChange (d : BitVec 9) (s : State) : Host.Outcome State Fault Refusal :=
  if 375 ≤ d.toNat then .next s else .next (voteEval s d.toNat)

/-- NAP_OFF_DELAY_EXPIRY (R443, R449): the nap has lasted OFFDLY with NAPOFF set, and the hardware vote is withdrawn. -/
def execNapOffDelayExpiry (n : BitVec 8) (s : State) : Host.Outcome State Fault Refusal :=
  match physOf s n.toNat with
  | some d => if (getCore s n.toNat).run = .nap && !coreVote s n.toNat then .next (voteEval s d) else .next s
  | none => .next s

/-- The domain's outstanding work has completed (R445, step 1). -/
def pdDrained (s : State) (d : Nat) : Bool :=
  if d < 288 then (match pdCore s d with | some n => drained (getCore s n) | none => true)
  else if d < 320 then
    let c := d - 288
    let x := getCourse s c
    let g : BitVec 7 := BitVec.ofNat 7 c
    x.wb.isEmpty && x.reqs.isEmpty && x.heldFwd.isEmpty && !s.net.any (fun m => m.src == g || m.dst == g) &&
      !x.l2.any (fun e => e.2.st ≠ .i && lineBusy s e.2.line)
  else if 368 ≤ d && d < 374 then
    let x := getRp s (d - 368)
    x.outst.isEmpty && x.inq.isEmpty && x.grants.isEmpty && x.waiting.isEmpty && x.held.isEmpty && !s.outNet.any (fun e => e.1.toNat == d - 368)
  else true

/-- A course's L2 gives its lines up (R264, R445): dirty ones go to their homes, at the DRAM charged to overhead (R285), and the
directory forgets the course. -/
def flushCourse (s : State) (c : Nat) : State :=
  let one : BitVec 32 := BitVec.ofNat 32 (2 ^ c)
  let s := (getCourse s c).l2.foldl (fun s e =>
    let l := e.2.line
    if e.2.st = .i then s else
    let s := if e.2.st ≠ .m then s else
      let s := homeSet s l e.2.data
      if (l3Find (getSlice s (homeOfLine l)) l).isSome then s else dramCharge s (channelOf l) ovhKey l true (32 + homeOfLine l)
    match dirFind (getSlice s (homeOfLine l)) l with
    | some (k, x) => if e.2.st = .s && x.holders != one then setDir s (homeOfLine l) k { x with holders := x.holders &&& ~~~one }
                     else dirFree s (homeOfLine l) l
    | none => s) s
  modCourse s c (fun x => { x with l2 := [] })

/-- Step 2 of R445: state saved. -/
def pdSave (s : State) (d : Nat) : State :=
  if 288 ≤ d && d < 320 then flushCourse s (d - 288)
  else match pdCore s d with | some n => setSaved s n true | none => s

/-- An entry at or after C: a core is off from here on (R446, R449). -/
def pdPassC (s : State) (d : Nat) : State :=
  match pdCore s d with
  | some n => modCore s n (fun c => { c with run := if c.run = .nap || c.run = .off then .off else c.run, corePwr := fldSat c.corePwr 32 16 1 })
  | none => s

/-- What loses power with the switch (R449, R451). -/
def pdCut (s : State) (d : Nat) : State :=
  match pdCore s d with
  | some n => modCore s n coldStart
  | none => if 368 ≤ d && d < 374 then modRp s (d - 368) (fun x => { x with iotlb := [] }) else s

/-- POWER_OFF_ENTRY (R445): the entry goes on to its next point: A once the domain has drained, B with its state saved, C with the
clamps set, and then the switch opens. -/
def execPowerOffEntry (d : BitVec 9) (s : State) : Host.Outcome State Fault Refusal :=
  let k := d.toNat
  if pdState s k ≠ 1 then .next s else
  let go := fun (s : State) (n : Nat) => { s with offStep := tset (fun _ => 0) s.offStep k n }
  match tget (fun _ => 0) s.offStep k with
  | 1 => if votesHeld s k then .next (pdAbandon s k) else if pdDrained s k then .next (go s 2) else .next s
  | 2 => if votesHeld s k then .next (pdAbandon s k) else .next (go (pdSave s k) 3)
  | 3 => if votesHeld s k then .next (pdAbandon s k) else .next (go (pdPassC s k) 4)
  | _ => .next (pdRecord (setPd (pdCut s k) k 0) k 0 0)

/-- Power-up of a core that comes back from off (R219, R447, R451): its patch is loaded, its state restored, and it wakes. -/
def coreUp (s : State) (d n : Nat) (rb : Bool × Bool) : State :=
  let good := loadGood s rb
  let s := loadPatch s d n good
  if !good then unhouse s n
  else
    let s := setSaved (setVote (setPd s d 2) d 2 false) n false
    let s := modCore s n coldStart
    if (getCore s n).run = .off then wakeCore s n 2 else s

/-- POWER_UP (R447). -/
def execPowerUp (d : BitVec 9) (readback : Bool × Bool) (s : State) : Host.Outcome State Fault Refusal :=
  let k := d.toNat
  if 375 ≤ k || !votesHeld s k || (pdState s k ≠ 0 && pdState s k ≠ 3) then .next s else
  match pdCore s k with
  | some n => if pdState s (288 + k / 9) = 2 then .next (advance (coreUp s k n readback) n) else .next s
  | none =>
    let s := pdRecord (setVote (setPd s k 2) k 2 false) k 2 0
    .next (if 288 ≤ k && k < 320 then windowsBack s (k - 288) else if 368 ≤ k && k < 374 then windowsBack s (k - 288) else s)

/-! ### The sequencer (R452, R453, R478) -/

/-- The completion margin in force set. -/
def setMargin (s : State) (c : Nat) (m : Int) : State :=
  modCourse s c (fun x => { x with margin := if m = calFuse (0xA0 + c) then none else some m })

/-- A margin change that waits is applied while the voltage rests (R478): a higher one lowers EFF first, a lower one raises it
after the change. -/
def marginEval (s : State) (c : Nat) : State :=
  let new := calEff s (0xA0 + c)
  let old := marginOf s c
  if vMoving s c || new = old then s
  else if old < new then
    let k := supported s c (vNow s c) * (100 + old).toNat / (100 + new).toNat
    let s := (servingCores s c).foldl (fun s n => if (getCore s n).eff ≠ 0 && k < (getCore s n).eff.toNat then setEff s n k else s) s
    setMargin s c new
  else effRaise (setMargin s c new) c

/-- The rate that a core's counter reports in NAT (R34, R39): on a core in service, up to 125 °C, it lies between 0.88 and 1.12
times the table's rate for the course's voltage and temperature and is never below 0.70 G words/s (175 of NAT's units). A reading
outside is taken at the nearer limit (log entry 29). -/
def natReading (s : State) (c : Nat) (x : Core) (v : BitVec 10) : BitVec 10 :=
  if !inService x || 1000 < (getCourse s c).temp8 then v else
    let r := rateAt s c (vNow s c) { x with nat := 0 }
    let lo := Nat.max 175 ((88 * r.1 + 400 * r.2 - 1) / (400 * r.2))
    BitVec.ofNat 10 (Nat.max lo (Nat.min v.toNat (112 * r.1 / (400 * r.2))))

/-- SEQ_SAMPLE (R452): the sequencer reads its course's temperature and the natural rates of its cores. -/
def execSeqSample (course : BitVec 5) (nat : List (BitVec 8 × BitVec 10)) (s : State) : Host.Outcome State Fault Refusal :=
  let c := course.toNat
  let s := match tget (fun _ => 0) s.temps c with
    | 0 => s
    | t => modCourse s c (fun x => { x with temp8 := (t : Int) - 2000 })
  let s := nat.foldl (fun s e => if courseOf s e.1.toNat = c
    then modCore s e.1.toNat (fun x => { x with nat := natReading s c x e.2 }) else s) s
  .next (seqEval (modCourse s c (fun x => { x with natV := vNow s c })) c)

/-- VOLTAGE_STEP (R452, R453): one step toward the target; after the last step of a rise the course settles. -/
def execVoltageStep (course : BitVec 5) (s : State) : Host.Outcome State Fault Refusal :=
  let c := course.toNat
  let s := seqEval s c
  let v := vNow s c
  let t := (getCourse s c).vtarget
  let put := fun (s : State) (k : Nat) (st : Option Nat) => modCourse s c (fun x => { x with vcourse := fldSet x.vcourse 16 8 k, settle := st })
  if v < t then .next (put s (v + 1) (if v + 1 = t then some (plumbOf s c) else none))
  else if t < v then
    let s := put (effLower s c t) (v - 1) none
    .next (if v - 1 = t then marginEval (effRaise s c) c else s)
  else .next (if vMoving s c then s else marginEval s c)

/-- VOLTAGE_SETTLED (R453): 2 µs after the last rising step. -/
def execVoltageSettled (course : BitVec 5) (s : State) : Host.Outcome State Fault Refusal :=
  let c := course.toNat
  match (getCourse s c).settle with
  | some t =>
    if t + 2000 ≤ plumbOf s c then
      let s := modCourse s c (fun x => { x with settle := none })
      .next (marginEval (seqEval s c) c)
    else .next s
  | none => .next s

/-! ### Sensors and limits (R455, R456) -/

/-- THERM_CTL limits in °C. -/
def thCrit (s : State) : Int := fld s.thermCtl 24 8
def thThrot (s : State) : Int := fld s.thermCtl 16 8
def thWarn (s : State) : Int := fld s.thermCtl 8 8
def thHyst (s : State) : Int := fld s.thermCtl 0 8

/-- A THERMAL record, made by the block that the sensor belongs to. -/
def thermRecord (s : State) (sensor : Nat) (t8 : Int) (event : Nat) : State :=
  jrn s sensor 0x79 0 (bytesOf 1 sensor ++ bytesOf 2 (ofInt 16 (t8 / 8)) ++ bytesOf 1 event)

/-- One limit of R456 at a reading: its status bit at every reading, the alert and the record at a crossing. -/
def thermLimit (s : State) (sensor : Nat) (t8 lim : Int) (bit gbit event : Nat) : State :=
  let was := tget (fun _ => 0) s.crossed sensor
  let on := was / 2 ^ bit % 2 = 1
  if 8 * lim ≤ t8 then
    let s := { s with gstat := s.gstat ||| BitVec.ofNat 64 (2 ^ gbit) }
    if on then s else thermRecord (alert { s with crossed := tset (fun _ => 0) s.crossed sensor (was + 2 ^ bit) } 11) sensor t8 event
  else if t8 < 8 * (lim - thHyst s) && on then { s with crossed := tset (fun _ => 0) s.crossed sensor (was - 2 ^ bit) }
  else s

/-- TMAX and TSRC follow the readings. -/
def thermMax (s : State) : State :=
  match s.temps with
  | [] => s
  | e :: r =>
    let m := r.foldl (fun (a : Nat × Nat) x => if a.2 < x.2 then x else a) e
    { s with thermSt := fldSet (fldSet s.thermSt 40 8 (ofInt 8 (((m.2 : Int) - 2000) / 8))) 32 8 m.1 }

/-- The raw reading with the fuse offset only, at or above 135 °C (R456, R475). -/
def tripLevel (sensor : Nat) (raw : Int) : Bool := decide (1080 ≤ raw + calFuse sensor)

/-- SENSOR_READING (R456, R475): `raw` in 1/8 °C, as the sensor gives it. -/
def execSensorReading (sensor : Nat) (raw : Int) (s : State) : Host.Outcome State Fault Refusal :=
  if 86 ≤ sensor then .next s else
  let t8 := raw + calEff s sensor
  let hot := if tripLevel sensor raw then (match tget (fun _ => 0) s.hot sensor with | 0 => s.plumb.now + 1 | k => k) else 0
  let s := { s with temps := tset (fun _ => 0) s.temps sensor (t8 + 2000).toNat, hot := tset (fun _ => 0) s.hot sensor hot }
  .next (thermMax (thermLimit (thermLimit s sensor t8 (thWarn s) 0 2 0) sensor t8 (thCrit s) 1 3 3))

/-- THERMTRIP (R456, R502): the reading has been held for 10 µs. -/
def execThermtrip (sensor : Nat) (raw : Int) (s : State) : Host.Outcome State Fault Refusal :=
  let held := match tget (fun _ => 0) s.hot sensor with | 0 => false | k => decide (k - 1 + 10000 ≤ s.plumb.now)
  if sensor < 86 && tripLevel sensor raw && (held || !s.plumb.counting) then
    let s := { s with ks := { s.ks with tripped := true } }
    .next (if s.ks.st = .cold then s else enterCold s false)
  else .next s

/-- The last reading of a sensor, in 1/8 °C; 0 before the first. -/
def sensorTemp (s : State) (k : Nat) : Int :=
  let t : Nat := tget (fun _ => 0) s.temps k
  if t = 0 then 0 else (t : Int) - 2000

/-- The throttle of one course (R455). -/
def throttleCourse (s : State) (hi : Bool) (c : Nat) : State :=
  let t8 : Int := sensorTemp s c
  let hot : Int := thThrot s - thHyst s
  let x := getCourse s c
  let k : Nat :=
    if 8 * thCrit s ≤ t8 then x.capT - 1
    else if 8 * thThrot s ≤ t8 ∨ hi = true then Nat.max (x.capT - 1) (vreq s c (·.pl))
    else if t8 < 8 * hot then Nat.min (x.capT + 1) 40
    else x.capT
  let s := setCourse s c { x with capT := k }
  let s := { s with thermSt := fldSet s.thermSt c 1 (b2n (k < 40)) }
  let s := if 40 ≤ x.capT && k < 40 then thermRecord (alert s 11) c t8 1
           else if x.capT < 40 && 40 ≤ k then thermRecord s c t8 2 else s
  if k = x.capT then s else seqEval s c

/-- THROTTLE_TICK (R455): `chipUW` is the chip power over the last 1 ms, in µW. -/
def execThrottleTick (chipUW : Nat) (s : State) : Host.Outcome State Fault Refusal :=
  let hi := decide (fld s.planCtl 0 16 * 1050000 < chipUW)
  let s := { s with gstat := fldSet s.gstat 5 1 (b2n hi) }
  .next ((List.range 32).foldl (fun s c => throttleCourse s hi c) s)

/-! ### Regulators (R457, R458) -/

/-- A STATUS_WORD reports a fault (R458): any bit but OFF and POWER_GOOD (log entry 26). -/
def statusFault (w : BitVec 16) : Bool := (w &&& 0xF7BF) != 0

/-- One regulator's poll (R458). -/
def pollOne (s : State) (i : Nat) (a : Option RegRead) : State :=
  let w := tget (fun _ => 0) s.pmbMap i
  if fld w 8 8 = 0 then s else
  let s := { s with pmbMap := tset (fun _ => 0) s.pmbMap i (fldSet w 63 1 (b2n a.isSome)) }
  match a with
  | some r =>
    let s := { s with regs := tset (fun _ => none) s.regs i (some r), noAns := tset (fun _ => 0) s.noAns i 0 }
    if statusFault r.status then
      jrn { s with gstat := s.gstat ||| 0x40 } agKs 0x7A 0 (bytesOf 1 i ++ bytesOf 2 r.status.toNat ++ bytesOf 1 0)
    else s
  | none =>
    let k := tget (fun _ => 0) s.noAns i + 1
    let s := { s with noAns := tset (fun _ => 0) s.noAns i k }
    if k = 3 then jrn { s with gstat := s.gstat ||| 0x80 } agKs 0x7A 0 (bytesOf 1 i ++ bytesOf 2 0 ++ bytesOf 1 1) else s

/-- PMBUS_POLL. -/
def execPmbusPoll (answers : List (Option RegRead)) (s : State) : Host.Outcome State Fault Refusal :=
  if s.ks.st = .cold then .next s else
  .next ((List.range 8).foldl (fun s i => pollOne s i (answers.getD i none)) s)

end Sys2Proof.Machine
end

