-- ==== Sys2Proof/Machine/KsCmds.lean ====
section
/-! DEFINITION. The Keystone's opcodes of groups 0 to 4 and 6: queries, configuration, operation, domains, power and security
(R60, R216 to R218, R426 to R438, R474 to R476, R490). -/
namespace Sys2Proof.Machine

/-! ### Commands and stores at one register (R30) -/

/-- The write that reached a register last was of the other kind, a core's store or a Keystone command, within 1 µs: the two arrive
together (R30). Its stamp and the core. -/
def ctlPair (s : State) (off : Nat) (ks : Bool) : Option (Nat × Logical) :=
  match tget (fun _ => none) s.ctlLast off with
  | some (t, st, k, m) => if k ≠ ks && s.plumb.now ≤ t + 1000 then some (st, m) else none
  | none => none

/-- A write takes effect: it is alone, or its causal stamp is not the earlier one (R30). The spec does not say what two EQUAL stamps
do; here the second to arrive takes effect (DESIGN CHOICE, log entry 140). -/
def ctlTakes (s : State) (off : Nat) (ks : Bool) (stamp : Nat) : Bool :=
  match ctlPair s off ks with
  | some (st, _) => decide (st ≤ stamp)
  | none => true

/-- A write of a control register by the Keystone (`ks`) or by core `n`, with its causal stamp: two of them within 1 µs end with
the later stamp's value, and one CTL_COLLIDE record is made (R30); equal stamps as `ctlTakes` says (log entry 140). -/
def ctlMeet (s : State) (off : Nat) (ks : Bool) (n stamp : Nat) (f : State → State) : State :=
  let p := ctlPair s off ks
  let s := if ctlTakes s off ks stamp then f s else s
  let s := { s with ctlLast := tset (fun _ => none) s.ctlLast off (some (s.plumb.now, stamp, ks, BitVec.ofNat 8 n)) }
  match p with
  | none => s
  | some (_, m) =>
    let c := if ks then m.toNat else n
    jrn s agJrn 0x14 0 (bytesOf 4 off ++ bytesOf 1 c ++ bytesOf 8 (regRead s c off).toNat)

/-- The Keystone sets a register (R30). -/
def ksSet (s : State) (off : Nat) (f : State → State) : State := ctlMeet s off true 0 (stampOf s agKs) f

/-! ### Queries (R426 to R430, R435) -/

/-- CSTATE of a physical core (R428). -/
def coreState (s : State) (p : Nat) : Nat :=
  let x := getPhys s p
  match x.st, x.logical with
  | .spare, _ => 0 | .dead, _ => 4
  | _, some n => (match (getCore s n.toNat).run with
      | .notStarted => 1 | .halted => 3 | .off => 5 | _ => if (getCore s n.toNat).dead.isSome then 4 else 2)
  | .ready, none => 1 | .running, none => 2 | .halted, none => 3 | .off, none => 5

/-- GET_STATE (R426). -/
def execGetState (s : State) : Host.Outcome State Fault Refusal :=
  .next (ksRun s 0x0001 (· == 0) { c := true, f := true, b := true, s := true, failed := true } (fun s p =>
    ok s p (bytesOf 1 (devCode s.ks.st) ++ bytesOf 1 (phaseCode s) ++ [s.ks.bootst, 0] ++ bytesOf 4 (degr s) ++ bytesOf 8 s.plumb.now ++
      bytesOf 4 (fld s.led.status 0 32) ++ bytesOf 4 (match s.ks.staged with | some x => x.level.toNat | none => 0))))

/-- IDENTIFY (R427). -/
def execIdentify (s : State) : Host.Outcome State Fault Refusal :=
  .next (ksRun s 0x0002 (· == 0) { c := true, f := true, b := true, s := true, failed := true } (fun s p =>
    let ver := if s.ks.st = .cold then 0 else match s.ks.boot with | some b => b.version.toNat | none => 0
    ok s p (bytesOf 8 Config.deviceId.toNat ++ bytesOf 8 Config.uid.toNat ++ bytesOf 4 ver ++ bytesOf 4 Config.fwFloor.toNat ++
      [Config.romRev, 0, 0, 0] ++ bytesOf 4 Config.patchFloor.toNat)))

/-- The 12 bytes of one physical core (R428). -/
def coreEntry (s : State) (p : Nat) : List Byte :=
  let x := getPhys s p
  let u := match x.logical with | some n => (getCore s n.toNat).upatch | none => x.upatch
  bytesOf 2 p ++ bytesOf 2 (match x.logical with | some n => n.toNat | none => 0xFFFF) ++ bytesOf 1 (coreState s p) ++
    bytesOf 1 (fld u 24 8) ++ bytesOf 1 (fld u 0 3) ++ [0] ++ bytesOf 4 (fld u 32 32)

/-- GET_CORES (R428). -/
def execGetCores (s : State) : Host.Outcome State Fault Refusal :=
  .next (ksRun s 0x0003 (· == 4) { f := true, b := true, s := true, failed := true } (fun s p =>
    let a := le p.payload 0 2
    let k := le p.payload 2 2
    if 288 ≤ a then badParam s p 0
    else if k = 0 || 288 < a + k then badParam s p 2
    else ok s p ((List.range k).flatMap (fun i => coreEntry s (a + i)))))

/-- ALERTS (R429, R439). -/
def execAlerts (s : State) : Host.Outcome State Fault Refusal :=
  .next (ksRun s 0x0004 (fun n => n == 0 || n == 8) { c := true, f := true, b := true, s := true, failed := true } (fun s p =>
    let s := if p.payload.isEmpty then s else
      let s := clearAlerts s (BitVec.ofNat 32 (le p.payload 0 4))
      { s with ks := { s.ks with mask := BitVec.ofNat 32 (le p.payload 4 4) } }
    ok s p (bytesOf 4 s.ks.pending.toNat ++ bytesOf 4 s.ks.mask.toNat)))

/-- The packet of READ_MINUTE: part 0xFFFF is the trailer, the others 64 entries each (R430). -/
def readMinute (s : State) (p : Packet) : State :=
  let m := le p.payload 0 4
  let part := le p.payload 4 2
  let k := m % Nat.max 1 (ledSlots s)
  let a := slotAddr s k
  if tget (fun _ => 0) s.led.slots k ≠ m + 1 then badParam s p 0
  else if (p.payload.getD 6 0) ≠ 0 then badParam s p 6
  else if (p.payload.getD 7 0) ≠ 0 then badParam s p 7
  else
    let (t, s) := engReadBytes 3 s ovhKey (a + 0x40000) 128 agKs
    let t := t.map (·.b)
    if part = 0xFFFF then ok s p t
    else
      let n := le t 4 2
      if n ≤ 64 * part then badParam s p 4
      else
        let (r, s) := engReadBytes 66 s ovhKey (a + 4096 * part) (64 * Nat.min 64 (n - 64 * part)) agKs
        ok s p (r.map (·.b))

/-- READ_MINUTE (R430): the slot as DRAM holds it; the command waits for its lines (R259). -/
def execReadMinute (s : State) : Host.Outcome State Fault Refusal :=
  .next (engine (fun s => ksRun s 0x0005 (· == 8) { b := true, s := true } readMinute) s)

/-- ACK_MINUTE (R430). -/
def execAckMinute (s : State) : Host.Outcome State Fault Refusal :=
  .next (ksRun s 0x0006 (· == 4) { b := true, s := true } (fun s p =>
    let m := le p.payload 0 4
    if fld s.led.status 0 32 < m then badParam s p 0
    else ok (ksSet s 0x30110 (fun s => ledAckApply s (BitVec.ofNat 64 m))) p []))

/-! ### Configuration (R48, R49, R431, R474 to R476) -/

/-- SET_PLUMB (R48, R431, R516). -/
def execSetPlumb (s : State) : Host.Outcome State Fault Refusal :=
  .next (ksRun s 0x0101 (· == 8) { f := true } (fun s p =>
    let old := s.plumb.now
    ok (setPlumbTime s (le p.payload 0 8)) p (bytesOf 8 old)))

/-- PLUMB_CTL takes a mode and an edge (R49, R52): a change to SLEW begins the wait for an edge. -/
def setPps (s : State) (mode edge : Nat) : State :=
  let was := ppsMode s
  let s := { s with plumb := { s.plumb with ctl := fldSet (fldSet s.plumb.ctl 0 2 mode) 3 1 edge } }
  let s := if mode = 2 && was ≠ 2 then { s with plumb := { s.plumb with edgeAt := s.plumb.now } } else s
  if mode = 2 then s else setPstat { s with plumb := { s.plumb with slew := 0 } } 3 false

/-- SET_PPS (R49, R431). -/
def execSetPps (s : State) : Host.Outcome State Fault Refusal :=
  .next (ksRun s 0x0102 (· == 2) { f := true, b := true, s := true } (fun s p =>
    let mode := le p.payload 0 1
    let edge := le p.payload 1 1
    if 3 < mode then badParam s p 0
    else if 1 < edge then badParam s p 1
    else if mode = 1 && s.ks.st ≠ .filling then badState s p 7 0
    else ok (ksSet s 0x20008 (fun s => setPps s mode edge)) p []))

/-- The quantities that act when their trim changes: a completion margin (R478). -/
def trimActs (s : State) (i : Nat) : State := if 0xA0 ≤ i && i ≤ 0xBF then marginEval s (i - 0xA0) else s

/-- SET_TRIM (R474 to R476). -/
def execSetTrim (s : State) : Host.Outcome State Fault Refusal :=
  .next (ksRun s 0x0103 (· == 8) { f := true, b := true, s := true } (fun s p =>
    let i := le p.payload 0 2
    let v := toSigned 32 (le p.payload 4 4)
    match calRange i with
    | none => badParam s p 0
    | some (lo, hi) =>
      if p.payload.getD 2 0 ≠ 0 then badParam s p 2
      else if p.payload.getD 3 0 ≠ 0 then badParam s p 3
      else if v < -1048575 || 1048575 < v then badParam s p 4
      else
        let s := ksSet s (0xD000 + 8 * i) (fun s => { s with trims := tset (fun _ => 0) s.trims i v })
        let sum := calFuse i + v
        let s := jrn s agKs 0x82 0 (bytesOf 1 i ++ bytesOf 4 (ofInt 32 v) ++ bytesOf 4 (ofInt 32 (calEff s i)) ++
          bytesOf 1 (b2n (sum < lo || hi < sum)) ++ bytesOf 1 (match p.path with | .serial => 0 | .mailbox => 1))
        ok (trimActs s i) p (bytesOf 4 (ofInt 32 (calEff s i)))))

/-- SET_MEMCFG (R431). -/
def execSetMemcfg (s : State) : Host.Outcome State Fault Refusal :=
  .next (ksRun s 0x0104 (· == 2) { cfg := true } (fun s p =>
    let a := p.payload.getD 0 0
    let b := p.payload.getD 1 0
    if 2 < a.toNat then badParam s p 0
    else if 1 < b.toNat then badParam s p 1
    else ok { s with ks := { s.ks with maxSpeed := a, wantSpare := b == 1 } } p []))

/-- SET_PCIE (R385, R431). -/
def execSetPcie (s : State) : Host.Outcome State Fault Refusal :=
  .next (ksRun s 0x0105 (· == 4) { cfg := true } (fun s p =>
    let port := le p.payload 0 1
    let split := le p.payload 1 1
    let rate := le p.payload 2 1
    if 5 < port then badParam s p 0
    else if 3 < split then badParam s p 1
    else if rate < 1 || 5 < rate then badParam s p 2
    else if p.payload.getD 3 0 ≠ 0 then badParam s p 3
    else ok (modRp s port (fun x => { x with cfg := fldSet (fldSet x.cfg 0 2 split) 8 3 rate })) p []))

/-- START_FILL (R431, R439, R489, R508): ACCEPTED; the switched supplies are commanded on and their PWR_OK inputs sampled. -/
def execStartFill (s : State) : Host.Outcome State Fault Refusal :=
  .next (ksRun s 0x0106 (· == 0) { cfg := true } (fun s p =>
    let s := { s with ks := { s.ks with phase := .training, filling := some p, fillAt := s.plumb.now }
                      pins := { s.pins with sampled := true } }
    finish s p 1 []))

/-! ### Operation (R432) -/

/-- SERVE (R419, R432). -/
def execServe (s : State) : Host.Outcome State Fault Refusal :=
  .next (ksRun s 0x0201 (· == 0) { b := true } (fun s p => ok (setDev s (if degr s = 0 then .serving else .degraded) 1) p []))

/-- RESET (R432): the reply comes first; COLD is entered when it has been read, or 10 ms later. -/
def execReset (s : State) : Host.Outcome State Fault Refusal :=
  .next (ksRun s 0x0202 (· == 0) { f := true, b := true, s := true, failed := true } (fun s p =>
    ok { s with ks := { s.ks with resetAt := some (plumbOf s agKs) }, pins := { s.pins with sampled := false } } p []))

/-- MBOX_ALLOW (R409, R432). -/
def execMboxAllow (s : State) : Host.Outcome State Fault Refusal :=
  .next (ksRun s 0x0203 (· == 1) { f := true, b := true, s := true } (fun s p =>
    let v := p.payload.getD 0 0
    if v.getLsbD 7 then badParam s p 0
    else
      let s := ksSet s 0x10010 (fun s => { s with ks := { s.ks with allow := v } })
      ok s p [s.ks.allow]))

/-! ### Domains (R60, R73, R76, R289, R291, R433, R434) -/

/-- The offset of the first bad byte of a DOM_OPEN or DOM_BUDGET payload (R433). -/
def domParam (l : List Byte) : Option Nat :=
  let bad := fun (i : Nat) (m : Byte) => if l.getD i 0 &&& m ≠ 0 then [i] else []
  let t := le l 0 2
  ((if t = 0 || 4095 < t then [0] else []) ++ bad 2 0xF0 ++ bad 3 0xFE ++
    (List.range 4).flatMap (fun r => bad (4 + 8 * r + 6) 0xFF ++ bad (4 + 8 * r + 7) 0x7F) ++
    (if 2 < le l 39 1 then [39] else [])).head?

/-- Real-time domains other than `t` that are open (R73). -/
def rtOthers (s : State) (t : Nat) : Nat := ((validDomains s).filter (fun d => d != t && domRt s d)).length

/-- A hub source of class F targets a domain (R60, R73). -/
def classFTargets (s : State) (t : Nat) : Bool := s.srcs.any (fun e => e.2.w.getLsbD 16 && srcTdid e.2 == t)

/-- The offsets of a domain's registers. -/
def domOff (t : Nat) : Nat := 0x200000 + 0x200 * t
def budOff (t : Nat) : Nat := 0x410000 + 0x80 * t

/-- DOM_CTL as an opening leaves it (R60, R433): PAUSED clear, VALID set, ACCT_EPOCH one further. -/
def openedCtl (w : Word64) : Word64 := fldSet (fldSet (fldSet w 61 1 0) 63 1 1) 40 8 ((fld w 40 8 + 1) % 256)

/-- The fields of R433 written: PCLASS and RT, at an opening the rest of DOM_CTL, the ceilings and BWT. -/
def domWrite (s : State) (t : Nat) (l : List Byte) (rt opens : Bool) : State :=
  let s := ksSet s (domOff t) (fun s => modDom s t (fun d =>
    let w := fldSet (fldSet d.ctl 56 4 (le l 2 1)) 62 1 (b2n rt)
    { d with ctl := if opens then openedCtl w else w }))
  let ceil := fun (r : Nat) => BitVec.ofNat 64 (le l (4 + 8 * r) 8)
  let s := ksSet s (budOff t) (fun s => modBud s t (fun b => { b with c0 := ceil 0 }))
  let s := ksSet s (budOff t + 8) (fun s => modBud s t (fun b => { b with c1 := ceil 1 }))
  let s := ksSet s (budOff t + 16) (fun s => modBud s t (fun b => { b with c2 := ceil 2 }))
  let s := ksSet s (budOff t + 24) (fun s => modBud s t (fun b => { b with c3 := ceil 3 }))
  let w := fun (x : Word64) => fldSet (fldSet (fldSet (fldSet x 8 8 (le l 36 1)) 16 8 (le l 37 1)) 24 8 (le l 38 1)) 32 2 (le l 39 1)
  ksSet s (budOff t + 32) (fun s => modBud s t (fun b => { b with wt := w b.wt }))

/-- The minute in which a domain opens or closes. -/
def thisMinute (s : State) : Nat := minuteOf s agJrn

/-- A window with EN = 0. -/
def winOff (w : Word128) : Word128 := w &&& ~~~(0x8000000000000000 : Word128)

/-- The offset of WINDOW[w] of a domain (R68). -/
def winRegOff (t w : Nat) : Nat := domOff t + 0x100 + 16 * w

/-- WINDOW[w] of a domain to EN = 0, in the table and at its holders (R433). -/
def clearWindow (s : State) (t w : Nat) : State :=
  let s := modDom s t (fun d => { d with win := tset (fun _ => 0) d.win w (winOff (tget (fun _ => 0) d.win w))
                                         winHi := tset (fun _ => none) d.winHi w none })
  { s with winHeld := tmapv (fun _ => 0) s.winHeld (fun k x => if k % 65536 = t * 16 + w then winOff x else x) }

/-- Every window of a domain to EN = 0 (R433), each a register that the Keystone sets (R30). -/
def clearWindows (s : State) (t : Nat) : State :=
  (List.range 16).foldl (fun s w => ksSet s (winRegOff t w) (fun s => clearWindow s t w)) s

/-- DOM_OPEN takes effect (R60, R291, R433). -/
def domOpened (s : State) (p : Packet) : State :=
  let t := le p.payload 0 2
  let s := domWrite s t p.payload ((p.payload.getD 3 0).getLsbD 0) true
  let s := clearWindows s t
  let s := modDom s t (fun d => { d with mOpened := true, mPaused := false, lastBind := some s.plumb.now })
  let s := openAccount s t
  ok s p (bytesOf 1 (domAcct s t).toNat ++ [0, 0, 0] ++ bytesOf 4 (thisMinute s))

/-- A domain's close fell in a minute that has not been sealed (R60). -/
def unsealedClose (s : State) (t : Nat) : Option Nat :=
  match (getDom s t).closed with
  | some m => if s.led.status.getLsbD 63 && m ≤ fld s.led.status 0 32 then none else some m
  | none => none

/-- The rebinding delay of an account has not passed (R76). -/
def accountHeld (s : State) (t : Nat) : Bool :=
  match (getDom s t).lastBind with | some b => decide (s.plumb.now < b + 8000) | none => false

/-- DOM_OPEN (R433): one within 8 µs of the account's last rebinding is held (R76). -/
def execDomOpen (s : State) : Host.Outcome State Fault Refusal :=
  .next (ksRun s 0x0301 (· == 40) { s := true } (fun s p =>
    let t := le p.payload 0 2
    match domParam p.payload with
    | some o => badParam s p o
    | none =>
      if domValid s t then badState s p 3 t
      else match unsealedClose s t with
        | some m => badState s p 6 m
        | none =>
          if (p.payload.getD 3 0).getLsbD 0 && 12 ≤ rtOthers s t then finish s p 0x0C (bytesOf 4 t)
          else if accountHeld s t then { s with ks := { s.ks with heldOpen := some p } }
          else domOpened s p))

/-- DOM_CLOSE (R60, R433). -/
def execDomClose (s : State) : Host.Outcome State Fault Refusal :=
  .next (ksRun s 0x0302 (· == 2) { s := true } (fun s p =>
    let t := le p.payload 0 2
    if t = 0 || 4095 < t then badParam s p 0
    else if !domValid s t || domCores s t ≠ 0 || domUnits s t ≠ 0 || classFTargets s t then badState s p 3 t
    else
      let m := thisMinute s
      let s := modDom s t (fun d => { d with mPaused := d.mPaused || d.ctl.getLsbD 61, mClosed := true, closed := some m })
      let s := ksSet s (domOff t) (fun s => modDom s t (fun d => { d with ctl := fldSet d.ctl 61 3 0 }))
      ok s p (bytesOf 4 m)))

/-- DOM_BUDGET (R433). -/
def execDomBudget (s : State) : Host.Outcome State Fault Refusal :=
  .next (ksRun s 0x0303 (· == 40) { s := true } (fun s p =>
    let t := le p.payload 0 2
    match domParam p.payload with
    | some o => badParam s p o
    | none =>
      let rt := (p.payload.getD 3 0).getLsbD 0
      if !domValid s t then badState s p 3 t
      else if rt && 12 ≤ rtOthers s t then finish s p 0x0C (bytesOf 4 t)
      else if !rt && domRt s t && classFTargets s t then badState s p 3 t
      else ok (domWrite s t p.payload rt false) p []))

/-! ### Power (R435) -/

/-- SET_POWER (R288, R304, R435). -/
def execSetPower (s : State) : Host.Outcome State Fault Refusal :=
  .next (ksRun s 0x0401 (· == 8) { f := true, b := true, s := true } (fun s p =>
    let cap := le p.payload 0 2
    let res := le p.payload 2 2
    let per := le p.payload 4 2
    if cap < 180 || 480 < cap then badParam s p 0
    else if cap ≤ res then badParam s p 2
    else if per < 1 || 1000 < per || 600000 % per ≠ 0 then badParam s p 4
    else if p.payload.getD 6 0 ≠ 0 then badParam s p 6
    else if p.payload.getD 7 0 ≠ 0 then badParam s p 7
    else
      let s := ksSet s 0x400008 (fun s => { s with planCtl := fldSet (fldSet s.planCtl 0 16 cap) 16 16 res })
      ok (ksSet s 0x400000 (fun s => { s with budCtl := fldSet s.budCtl 0 10 per })) p []))

/-- The 8 bytes of one regulator (R435, R458). -/
def regEntry (s : State) (i : Nat) : List Byte :=
  match tget (fun _ => none) s.regs i with
  | some r => bytesOf 1 (b2n (tget (fun _ => 0) s.noAns i < 3)) ++ [r.tempC] ++ bytesOf 2 r.voutMv.toNat ++ bytesOf 2 r.iout10.toNat ++
      bytesOf 2 r.status.toNat
  | none => List.replicate 8 0

/-- GET_POWER (R435). -/
def execGetPower (s : State) : Host.Outcome State Fault Refusal :=
  .next (ksRun s 0x0402 (· == 0) { f := true, b := true, s := true, failed := true } (fun s p =>
    ok s p (bytesOf 2 (fld s.planCtl 0 16) ++ bytesOf 2 (fld s.planCtl 16 16) ++ bytesOf 2 (fld s.budCtl 48 10) ++ [0, 0] ++
      (List.range 8).flatMap (regEntry s))))

/-! ### Security (R214 to R218, R338, R339, R438) -/

/-- A microword of a patch passes R210 and R214. -/
def microOk (w : BitVec 64) : Bool :=
  let slot := fun (lo : Nat) => decide (fld w lo 6 < 0x19)
  fld w 60 3 != 7 && slot 48 && slot 42 && slot 36 && (w.getLsbD 63 || decide (fld w 48 6 < 0x10)) &&
    (fld w 60 3 == 4 || fld w 0 20 == 0) && decide (fld w 0 14 ≤ 0x31FF) && !Config.microBad w

/-- A match entry passes R217. -/
def matchOk (w : BitVec 64) : Bool := fld w 41 22 == 0 && fld w 14 18 == 0 && decide (fld w 0 14 ≤ 0x2FFF)

/-- No two enabled entries share a ROM address (R215). -/
def matchDistinct : List (BitVec 64) → Bool
  | [] => true
  | w :: r => !(w.getLsbD 63 && r.any (fun x => x.getLsbD 63 && fld x 0 14 == fld w 0 14)) && matchDistinct r

/-- The plaintext of a patch image passes R214, R215 and R217. -/
def patchBodyOk (img body : List Byte) : Bool :=
  let nw := le img 12 2
  let nm := le img 14 1
  let m := (List.range 32).map (fun i => BitVec.ofNat 64 (le body (8 * i) 8))
  let u := (List.range 512).map (fun i => BitVec.ofNat 64 (le body (256 + 8 * i) 8))
  decide (1 ≤ le img 8 4) && decide (nw ≤ 512) && decide (nm ≤ 32) && (m.drop nm).all (· == 0) && (u.drop nw).all (· == 0) &&
    (m.take nm).all matchOk && matchDistinct m && (u.take nw).all microOk

/-- The status of a patch image by the checks of R218. -/
def patchStatus (img body : List Byte) : Nat :=
  if sub img 0 4 ≠ [0x4C, 0x50, 0x41, 0x54] || le img 4 2 ≠ 1 || img.getD 6 0 ≠ 0xB1 || img.getD 7 0 ≠ 0 || img.getD 15 0 ≠ 0 ||
      le img 28 4 ≠ 0 then 9
  else if !Config.patchSigOk img then 10
  else if le img 8 4 < Config.patchFloor.toNat then 11
  else if !Config.patchTagOk img then 10
  else if !patchBodyOk img body then 9 else 0

/-- A patch image is checked and staged (R218). -/
def stagePatch (s : State) (img : List Byte) : Nat × State :=
  let body := (List.range 4352).map (Config.patchPlain img)
  let st := patchStatus img body
  if st ≠ 0 then (st, jrn s agKs 0x1A 0 (bytesOf 2 st))
  else
    let c := crc32c body
    let s := { s with ks := { s.ks with staged := some { level := BitVec.ofNat 32 (le img 8 4), crc := BitVec.ofNat 32 c, body := body } } }
    (0, jrn s agKs 0x19 0 (bytesOf 4 (le img 8 4) ++ bytesOf 4 c))

/-- PATCH_STAGE (R218, R438). -/
def execPatchStage (s : State) : Host.Outcome State Fault Refusal :=
  .next (ksRun s 0x0601 (· == 4496) { f := true, b := true, s := true } (fun s p =>
    match stagePatch s p.payload with
    | (0, s) => ok s p (match s.ks.staged with | some x => bytesOf 4 x.level.toNat ++ bytesOf 4 x.crc.toNat | none => [])
    | (st, s) => finish s p st []))

/-- A seal key, and a seed if any, installed (R338, R339). -/
def installKey (s : State) (key : List Byte) (seed : Option (List Byte)) : State :=
  let old : BitVec 8 := s.led.status.extractLsb' 40 8
  let st := fldSet (fldSet s.led.status 40 8 ((old.toNat + 1) % 256)) 61 1 0
  if serving s && closeInProgress s then
    let (sd, g) := match s.led.nextKey with
      | some (_, x, g) => (if seed.isSome then seed else x, g)
      | none => (seed, old)
    { s with led := { s.led with status := st, nextKey := some (key, sd, g) } }
  else { s with led := { s.led with status := st, key := some key, seed := if seed.isSome then seed else s.led.seed } }

/-- SEAL_KEY (R339, R438). -/
def execSealKey (s : State) : Host.Outcome State Fault Refusal :=
  .next (ksRun s 0x0602 (fun n => n == 32 || n == 80) { f := true, b := true, s := true } (fun s p =>
    let first := if serving s then thisMinute s else s.plumb.now / minuteNs
    let s := installKey s (p.payload.take 32) (if p.payload.length = 80 then some (p.payload.drop 32) else none)
    let g := fld s.led.status 40 8
    let s := jrn s agKs 0x32 0 (bytesOf 1 g ++ bytesOf 4 first)
    ok s p (bytesOf 1 g ++ [0, 0, 0] ++ bytesOf 4 first)))

/-- LEDGER_CFG (R336, R438). -/
def execLedgerCfg (s : State) : Host.Outcome State Fault Refusal :=
  .next (ksRun s 0x0603 (· == 12) { b := true, s := true } (fun s p =>
    let n := le p.payload 2 2
    let base := le p.payload 4 8
    if 1 < le p.payload 0 1 then badParam s p 0
    else if p.payload.getD 1 0 ≠ 0 then badParam s p 1
    else if n < 2 || 4095 < n then badParam s p 2
    else if base % 4096 ≠ 0 then badParam s p (if base % 256 ≠ 0 then 4 else 5)
    else if s.dramTop.toNat < base + n * 0x41000 then badParam s p 4
    else ok (ksSet s 0x30100 (fun s => { s with led := { s.led with ctl := fldSet (BitVec.ofNat 64 base ||| BitVec.ofNat 64 n) 63 1 (le p.payload 0 1) } })) p []))

end Sys2Proof.Machine
end

