-- ==== Sys2Proof/Machine/KsMaint.lean ====
section
/-! DEFINITION. The Keystone's maintenance opcodes and what ends them (R168, R219, R225, R373, R379, R436, R437, R461 to R470). -/
namespace Sys2Proof.Machine

/-! ### Starting a core (R219, R225, R436, R489) -/

/-- A power domain that a command needs comes up (R443, R447). -/
def powerOn (s : State) (d : Nat) : State := if pdState s d = 2 then s else pdRecord (setPd s d 2) d 2 0

/-- Logical core `n`, on physical core `p`, begins at H in domain 0 at an offset in SG0, with the hub's view of it as at reset
(R62, R178, R225). -/
def startCore (s : State) (p n : Nat) (pc : Word64) : State :=
  let s := powerOn s (288 + p / 9)
  let s := setPd (setVote s p 1 false) p 2
  let s := setPhys s p { getPhys s p with st := .running }
  let s := modCore s n (fun c => { coldStart c with pc := pc, run := .run, unst := false })
  let s := { s with pairs := tmapv (fun _ => 0) s.pairs (fun _ v => if v = n + 1 then 0 else v) }
  let s := modHub s n (fun h => { hubInit n with unclS := h.unclS, unclH := h.unclH })
  advance (hubEval s n) n

/-- CORE_START (R436): the staged patch is loaded with its readbacks; a core that fails it is dead and the number goes to a spare. -/
def execCoreStart (readback : Bool × Bool) (s : State) : Host.Outcome State Fault Refusal :=
  .next (ksRun s 0x0503 (· == 16) { b := true, s := true } (fun s p =>
    let n := le p.payload 0 1
    match ((List.range 7).map (· + 1)).find? (fun i => p.payload.getD i 0 ≠ 0) with
    | some i => badParam s p i
    | none =>
      match physOf s n with
      | none => badState s p 5 n
      | some d =>
        if (getCore s n).run ≠ .notStarted || (getPhys s d).st = .dead then badState s p 5 n
        else if loadGood s readback then
          ok (startCore (loadPatch s d n true) d n (BitVec.ofNat 64 (le p.payload 8 8))) p []
        else finish (loadPatch s d n false) p 0x0D (bytesOf 4 n)))

/-! ### Rotation and return of a core (R436, R461 to R465) -/

/-- CORE_ROTATE (R436, R461): steps 1 to 3; it is answered when the switch is done. -/
def execCoreRotate (readback : Bool × Bool) (s : State) : Host.Outcome State Fault Refusal :=
  .next (ksRun s 0x0501 (· == 2) { s := true } (fun s p =>
    let n := le p.payload 0 1
    let c := courseOf s n
    if p.payload.getD 1 0 ≠ 0 then badParam s p 1
    else if courseBusy s c then badState s p 4 n
    else match physOf s n, spareOf s c with
      | _, none => finish s p 0x0C (bytesOf 4 n)
      | none, some _ => badState s p 5 n
      | some a, some b =>
        match spareUp s n b readback with
        | (false, s) => finish (rotateRecord s n a b 0 0 true) p 0x0D (bytesOf 4 n)
        | (true, s) =>
          let s := setPhys s b { getPhys s b with st := .ready }
          rotBegin s n { n := BitVec.ofNat 8 n, from_ := a, to_ := b, reason := 0, packet := some p, started := plumbOf s agKs }))

/-- CORE_RETURN (R436, R465): the core is powered by the Keystone's vote alone while its self-test runs. -/
def execCoreReturn (s : State) : Host.Outcome State Fault Refusal :=
  .next (ksRun s 0x0502 (· == 2) { s := true } (fun s p =>
    let d := le p.payload 0 2
    if 288 ≤ d then badParam s p 0
    else if (getPhys s d).st ≠ .dead && (getPhys s d).st ≠ .off then badState s p 5 d
    else
      let s := setPd (setVote s d 1 true) d 2
      { s with ks := { s.ks with coreRet := some (d, p) } }))

/-- CORE_TEST_DONE (R465). -/
def execCoreTestDone (pass : Bool) (s : State) : Host.Outcome State Fault Refusal :=
  match s.ks.coreRet with
  | none => .next s
  | some (d, p) =>
    let s := { s with ks := { s.ks with coreRet := none } }
    let s := setPd (setVote s d 1 false) d 0
    let x := getPhys s d
    let other := (spareOf s (d / 9)).isSome
    let res := if !pass then 2 else if other then 1 else 0
    let s := setPhys s d { x with st := if !pass then .dead else if other then .off else .spare, reserve := pass && other, logical := none }
    let s := syncFault (jrn s agKs 0x7D 0 (bytesOf 2 d ++ bytesOf 1 res))
    .next (if pass then ok s p [] else finish s p 0x0D (bytesOf 4 d))

/-! ### Dead agents and their return (R277, R436, R437, R466 to R468) -/

/-- A course or a root port. -/
def deadable (a : Nat) : Bool := decide (a < 32) || (decide (80 ≤ a) && decide (a < 86))

/-- COH_DEAD holds an agent's bit. -/
def isDead (s : State) (a : Nat) : Bool := if a < 32 then s.cohDead.getLsbD a else s.cohDead.getLsbD (a - 48)

/-- AGENT_DEAD (R277, R436, R437). -/
def execAgentDead (s : State) : Host.Outcome State Fault Refusal :=
  .next (ksRun s 0x0504 (· == 1) { s := true } (fun s p =>
    let a := le p.payload 0 1
    if !deadable a then badParam s p 0
    else if isDead s a && !s.ks.agentRet.any (fun e => e.1.toNat == a) then badState s p 5 a
    else ok (declareDead s a (some 1)) p []))

/-- AGENT_RETURN (R436, R467, R468): ACCEPTED; the agent's domain is cycled under the Keystone's vote. -/
def execAgentReturn (s : State) : Host.Outcome State Fault Refusal :=
  .next (ksRun s 0x0505 (· == 1) { s := true } (fun s p =>
    let a := le p.payload 0 1
    if !deadable a then badParam s p 0
    else if s.ks.agentRet.any (fun e => e.1.toNat == a) then badState s p 4 a
    else if !isDead s a then badState s p 5 a
    else
      let s := powerOn (setVote s (288 + a) 1 true) (288 + a)
      finish { s with ks := { s.ks with agentRet := s.ks.agentRet ++ [(BitVec.ofNat 7 a, p)] } } p 1 []))

/-- The passing cores of a course take its logical numbers in ascending order; one further passing core is the spare, and failing
ones are dead (R467, R491). Answers how many numbers are housed. -/
def houseCourse (s : State) (c : Nat) (good : Nat → Bool) : Nat × State :=
  let ps := (List.range 9).map (fun i => 9 * c + i)
  ps.foldl (fun (a : Nat × State) p =>
    let (k, s) := a
    if !good (p % 9) then (k, setPhys s p { st := .dead })
    else if k < 8 then
      let n := 8 * c + k
      let x := getCore s n
      (k + 1, setCore (setPhys s p { st := .ready, logical := some (BitVec.ofNat 8 n) }) n
        { coreInit n with corePwr := x.corePwr, upatch := x.upatch })
    else (k, if (spareOf s c).isSome then setPhys s p { st := .off } else setPhys s p { st := .spare })) (0, s)

/-- AGENT_RETURN_DONE (R467, R468): the oldest return in progress ends; `cores` are the cores of a course that passed. -/
def execAgentReturnDone (pass : Bool) (cores : BitVec 9) (s : State) : Host.Outcome State Fault Refusal :=
  match s.ks.agentRet with
  | [] => .next s
  | (g, p) :: rest =>
    let a := g.toNat
    let s := { s with ks := { s.ks with agentRet := rest } }
    let s := setVote s (288 + a) 1 false
    let rec_ := fun (s : State) (res k : Nat) => jrn s agKs 0x7E 0 (bytesOf 1 a ++ bytesOf 1 res ++ bytesOf 1 k)
    if !pass then .next (syncFault (operationDone (rec_ s 1 0) p 0x0D))
    else
      let s := { s with cohDead := s.cohDead &&& ~~~(BitVec.ofNat 64 (2 ^ (if a < 32 then a else a - 48))) }
      let s := setAgent s a { getAgent s a with recvHi := 0, last := 0 }
      let s := windowsBack s a
      let (k, s) := if a < 32 then houseCourse s a (fun i => cores.getLsbD i)
                    else (0, modRp s (a - 80) (fun x => { x with status := 0, width := [] }))
      .next (syncFault (operationDone (rec_ s 0 k) p 0))

/-! ### Spare ranks and marks (R373, R379, R436) -/

/-- Why a channel refuses a spare entry: its status, with the reason or offset. -/
def spareRefuses (s : State) (m : Nat) : Option Nat :=
  let x := getMc s m
  if fld x.cfg 17 5 = 0x1F then some 5 else if spareState x ≠ 0 then some 4 else none

/-- SPARE_START (R379, R436). -/
def execSpareStart (s : State) : Host.Outcome State Fault Refusal :=
  .next (ksRun s 0x0506 (· == 4) { s := true } (fun s p =>
    let ch := le p.payload 0 1
    let src := le p.payload 1 1
    let bw := le p.payload 2 1
    let ms := if ch = 0xFF then List.range 16 else [ch]
    if 15 < ch && ch ≠ 0xFF then badParam s p 0
    else if ms.any (fun m => (logicalRank (getMc s m) src).isNone) then badParam s p 1
    else if bw < 1 || 25 < bw then badParam s p 2
    else if p.payload.getD 3 0 ≠ 0 then badParam s p 3
    else match ms.findSome? (fun m => (spareRefuses s m).map (fun r => (m, r))) with
      | some (m, r) => badState s p r m
      | none =>
        let s := ms.foldl (fun s m =>
          let s := modMc s m (fun x => { x with spare := fldSet (fldSet (fldSet x.spare 48 5 src) 32 8 bw) 40 5 (fld x.cfg 17 5) })
          setSpare { s with ks := { s.ks with spares := s.ks.spares ++ [(BitVec.ofNat 4 m, p)] } } m 1) s
        finish s p 1 []))

/-- SPARE_ACK (R379, R436). -/
def execSpareAck (s : State) : Host.Outcome State Fault Refusal :=
  .next (ksRun s 0x0507 (· == 1) { s := true } (fun s p =>
    let m := le p.payload 0 1
    if 15 < m then badParam s p 0
    else if spareState (getMc s m) ≠ 4 then badState s p 5 m
    else ok (modMc (setSpare s m 0) m (fun x => { x with spare := fldSet x.spare 40 5 0x1F })) p []))

/-- DEV_MARK (R373, R436): a mark by the Keystone is journaled as MC_MARK; an unmark is not. -/
def execDevMark (s : State) : Host.Outcome State Fault Refusal :=
  .next (ksRun s 0x0508 (· == 4) { s := true } (fun s p =>
    let m := le p.payload 0 1
    let r := le p.payload 1 1
    let sc := le p.payload 2 1
    let d := le p.payload 3 1
    if 15 < m then badParam s p 0
    else if 15 < r then badParam s p 1
    else if 1 < sc then badParam s p 2
    else if 9 < d && d ≠ 0xFF then badParam s p 3
    else if d = 0xFF then ok (setMark s m r sc none) p []
    else match markOf (getMc s m) r sc with
      | some k => if k = d then ok s p [] else badState s p 5 m
      | none => ok (markRecord (setMark s m r sc (some d)) m r sc d 1) p []))

/-- KTEST (R168, R436). -/
def execKtest (s : State) : Host.Outcome State Fault Refusal :=
  .next (ksRun s 0x0509 (· == 2) { b := true, s := true } (fun s p =>
    let n := le p.payload 0 1
    let v := le p.payload 1 1
    if 1 < v then badParam s p 1
    else ok (modCore s n (fun c => { c with pctl := if v = 1 then c.pctl ||| 0x40 else c.pctl &&& 0xBF })) p []))

end Sys2Proof.Machine
end

