-- ==== Sys2Proof/Machine/Startup.lean ====
section
/-! DEFINITION. Reset, the boot image, the phases of FILLING, the release of logical core 0, the PWR_OK inputs and the test access
port (R44, R357, R358, R366, R376, R426, R486 to R510). -/
namespace Sys2Proof.Machine

/-! ### Reset (R502, R503, R506) -/

/-- The boundary register drives pins (R506): an EXTEST is selected while RESET_N is low. -/
def tapDrive (s : State) : State :=
  let on := !s.pins.resetN && (s.pins.tap == .extest || s.pins.tap == .extestPulse || s.pins.tap == .extestTrain)
  { s with pins := { s.pins with driven := if on then some s.pins.bound else none } }

/-- RESET_N_ASSERT (R502, R503). -/
def execResetNAssert (s : State) : Host.Outcome State Fault Refusal :=
  let s := { s with pins := { s.pins with resetN := false }, ks := { s.ks with tripped := false } }
  .next (tapDrive (enterCold s true))

/-- RESET_RELEASE (R503, R506): with PWR_OK_AON high the Keystone leaves its reset and runs its boot ROM. With TESTEN high the ROM
does not run and nothing in the manual is guaranteed. -/
def execResetRelease (s : State) : Host.Outcome State Fault Refusal :=
  if s.pins.testen then .fault .testMode
  else if !s.ks.inReset || !s.pins.pwrOk.getLsbD 0 then .next s
  else .next (tapDrive { s with ks := { s.ks with inReset := false }, pins := { s.pins with resetN := true, flash := true } })

/-! ### The boot image (R486 to R488, R493) -/

/-- A body of an image lies within its bounds (R487). -/
def bodyIn (total off n : Nat) : Bool := decide (128 ≤ off) && decide (off + n ≤ total - 96)

/-- The BOOTST that the checks of R488 give a copy; 1 where it passes. -/
def bootCheck (l : List Byte) : Nat :=
  let h := l.take 128
  let total := le l 12 4
  let po := le l 24 4
  if h.all (· == 0xFF) || h.all (· == 0) then 2
  else if !(sub l 0 4 == [0x4C, 0x42, 0x46, 0x57] && le l 4 2 == 1 && l.getD 6 0 == 0xB1 && decide ((l.getD 7 0).toNat < 4) &&
      (sub l 52 76).all (· == 0) && decide (4096 ≤ total) && decide (total ≤ 0x2000000) && decide (total ≤ l.length) &&
      bodyIn total (le l 16 4) (le l 20 4) && (po == 0 || bodyIn total po 4496) && decide (1 ≤ le l 32 4) &&
      bodyIn total (le l 28 4) (le l 32 4) && le l 36 8 % 4096 == 0) then 3
  else if !Config.bootSigOk (l.take total) then 3
  else if le l 8 4 < Config.fwFloor.toNat then 4 else 1

/-- The bodies of a copy that has passed (R487). -/
def bootOf (l : List Byte) : Boot :=
  let part := fun (o n : Nat) => (l.drop o).take n
  { version := BitVec.ofNat 32 (le l 8 4), ks := part (le l 16 4) (le l 20 4),
    patch := if le l 24 4 = 0 then [] else part (le l 24 4) 4496,
    host := part (le l 28 4) (le l 32 4), load := BitVec.ofNat 64 (le l 36 8), entry := BitVec.ofNat 64 (le l 44 8) }

/-- BOOT_IMAGE_CHECKED (R486, R488): the primary copy is tried first, then the secondary; none where its addresses lie beyond the
end of the flash. -/
def execBootImageChecked (primary : List (BitVec 8)) (secondary : Option (List (BitVec 8))) (s : State) : Host.Outcome State Fault Refusal :=
  if s.ks.st ≠ .cold || s.ks.inReset || s.ks.bootst ≠ 0 then .next s else
  let put := fun (k : Nat) (b : Option Boot) => { s with ks := { s.ks with bootst := BitVec.ofNat 8 k, boot := b } }
  if bootCheck primary = 1 then .next (put 1 (some (bootOf primary)))
  else match secondary with
    | some l => if bootCheck l = 1 then .next (put 1 (some (bootOf l))) else .next (put (bootCheck l) none)
    | none => .next (put 2 none)

/-- PLUMB_LOCK_TIMEOUT (R493). -/
def execPlumbLockTimeout (s : State) : Host.Outcome State Fault Refusal :=
  if s.ks.st = .cold && !s.ks.inReset && !s.plumb.counting then .next { s with ks := { s.ks with bootst := 5, boot := none } } else .next s

/-! ### FILLING (R489, R490, R494, R495) -/

/-- A failure of start-up (R494). -/
def fillFailed (s : State) (code : Nat) : State :=
  let p := s.ks.filling
  let s := { s with ks := { s.ks with phase := .failed, bootst := BitVec.ofNat 8 code, filling := none } }
  match p with
  | some p => operationDone s p 0x0D
  | none => s

/-- FILLING is in a phase. -/
def inPhase (s : State) (p : Phase) : Bool := s.ks.st == .filling && s.ks.phase == p

/-- ENTER_FILLING (R419, R443, R457, R489, R495, R504): what the boot firmware does before it takes commands. Records made in COLD
are lost (R492). -/
def execEnterFilling (s : State) : Host.Outcome State Fault Refusal :=
  match s.ks.boot with
  | none => .next s
  | some b =>
    if s.ks.st ≠ .cold || s.ks.inReset || s.ks.bootst ≠ 1 || !s.plumb.counting then .next s else
    let s := { s with agents := [], jrn := {}, pins := { s.pins with flash := false }, ks := { s.ks with phase := .config, mask := 0xFFFFFFFF }
                      pmbMap := (List.range 8).foldl (fun t i => tset (fun _ => 0) t i ((Config.pmbMapOf b.ks i &&& 0xFF7F).setWidth 64)) [] }
    let s := setDev s .filling 0
    let s := (List.range 55).foldl (fun s i => setVote s (320 + i) 1 true) s
    .next (if b.patch.isEmpty then s else (stagePatch s b.patch).2)

/-- PWR_OK_CHANGE (R419, R502, R503, R508): groups 0 always on, 1 core, 2 memory, 3 PCIe; one that falls while it counts enters
COLD. -/
def execPwrOkChange (group : BitVec 2) (high : Bool) (s : State) : Host.Outcome State Fault Refusal :=
  let g := group.toNat
  let bit : BitVec 4 := BitVec.ofNat 4 (2 ^ g)
  let was := s.pins.pwrOk.getLsbD g
  let counts := g == 0 || s.pins.sampled
  let s := { s with pins := { s.pins with pwrOk := if high then s.pins.pwrOk ||| bit else s.pins.pwrOk &&& ~~~bit } }
  if high || !was || !counts then .next s
  else if g = 0 then .next (enterCold { s with ks := { s.ks with tripped := false } } true)
  else .next (enterCold s false)

/-- PWR_OK_TIMEOUT (R494). -/
def execPwrOkTimeout (s : State) : Host.Outcome State Fault Refusal :=
  if inPhase s .training && s.pins.pwrOk ≠ 0xF && s.ks.fillAt + 20000000 ≤ s.plumb.now then .next (fillFailed s 0x10) else .next s

/-- GiB in one rank (R357, R361). -/
def rankGiB (c : ChanSpd) : Nat := (if c.x8 then 16 else 32) * (match c.density.toNat with | 0 => 2 | 1 => 3 | _ => 4) / 2

/-- A channel that R357 supports and that is populated like channel 0 (R358). -/
def spdOk (c0 c : ChanSpd) : Bool :=
  let cap := rankGiB c * c.ranks.toNat
  c.supported && (c.dimms == 1 || c.dimms == 2) && c.dimms == c0.dimms && c.x8 == c0.x8 && c.density == c0.density && c.density != 3 &&
    c.stack == c0.stack && c.stack != 3 && c.ranks == c0.ranks && c.speed == c0.speed && decide (1 ≤ c.ranks.toNat) && decide (c.ranks.toNat ≤ 16) &&
    decide (16 * c.dimms.toNat ≤ cap) && decide (cap ≤ 256 * c.dimms.toNat)

/-- A failed training attempt of a channel (R366). -/
def trainFailed (s : State) (m : Nat) (ranks : List (BitVec 8)) : State :=
  if ranks.isEmpty then s else
  ranks.foldl (fun s r => jrn s (64 + m) 0x52 0 (bytesOf 1 m ++ [r, 0, 1])) (modMc s m (fun x => { x with status := x.status ||| 0x80 }))

/-- MC_CFG of a channel (R358, R359, R431). -/
def mcCfg (s : State) (c : ChanSpd) : Word64 :=
  let ranks := c.ranks.toNat
  let n := if s.ks.wantSpare then ranks - 1 else ranks
  let top := if c.dimms = 2 || c.stack = 2 then 1 else 2
  let speed := Nat.min (Nat.min c.speed.toNat s.ks.maxSpeed.toNat) top
  BitVec.ofNat 64 (rankGiB c * n * 2 ^ 32 + ranks * 2 ^ 27 + n * 2 ^ 22 + (if s.ks.wantSpare then ranks - 1 else 0x1F) * 2 ^ 17 +
    c.density.toNat * 2 ^ 15 + b2n c.x8 * 2 ^ 14 + c.stack.toNat * 2 ^ 12 + b2n (c.dimms == 2) * 2 ^ 11 + speed)

/-- TRAINING_DONE (R358, R359, R366, R489): the supplies are good; each channel is checked, trained, and configured. -/
def execTrainingDone (spd : List ChanSpd) (s : State) : Host.Outcome State Fault Refusal :=
  if !inPhase s .training || s.pins.pwrOk ≠ 0xF then .next s else
  let c0 := spd.getD 0 { supported := false }
  if spd.length ≠ 16 || !spd.all (spdOk c0) || (s.ks.wantSpare && c0.ranks.toNat ≤ 1) then .next (fillFailed s 0x11) else
  let s := (List.range 16).foldl (fun s m =>
    let c := spd.getD m {}
    let s := trainFailed s m c.failed1
    if c.failed1.isEmpty then s else trainFailed s m c.failed2) s
  if spd.any (fun c => !c.failed1.isEmpty && !c.failed2.isEmpty) then .next (fillFailed s 0x12) else
  let w := mcCfg s c0
  let s := (List.range 16).foldl (fun s m => modMc s m (fun x => { x with cfg := w, spare := fldSet x.spare 40 5 (fld w 17 5) })) s
  .next { s with dramTop := (w.extractLsb' 32 10).setWidth 64 <<< 34, ks := { s.ks with phase := .fill } }

/-- FILL_DONE (R376, R494): every line of every rank holds zeros. -/
def execFillDone (ok : Bool) (s : State) : Host.Outcome State Fault Refusal :=
  if !inPhase s .fill then .next s
  else if !ok then .next (fillFailed s 0x13)
  else .next { s with mem := [], memPoison := [], ks := { s.ks with phase := .init } }

/-- Caches, directories, trackers and TLBs cleared (R489, step 8). -/
def clearCaches (s : State) : State :=
  let s := { s with courses := tmapv (fun _ => {}) s.courses (fun _ x => { x with l2 := [], wb := [], reqs := [], heldFwd := [] })
                    slices := tmapv (fun _ => {}) s.slices (fun _ x => { x with dir := [], dirLru := [], l3 := [], trk := [], queue := [], landing := [] }) }
  mapCores s (fun _ c => { c with itlb := [], dtlb := [], l2tlb := [], wcache := [], l1d := [], l1i := [] })

/-- A logical number that its course has no core for (R420, R491): its start state waits in the save store. -/
def noCore (s : State) (n : Nat) : State :=
  if (physOf s n).isSome then s else
  let s := modCore s n (fun c => { c with run := .unhoused, unst := true })
  modCourse s (logCourse n) (fun x => { x with saved := x.saved ++ [BitVec.ofNat 8 n] })

/-- INIT_DONE (R489, R491, R494): `failing` are the physical cores that failed their self-test. -/
def execInitDone (failing : List Nat) (s : State) : Host.Outcome State Fault Refusal :=
  if !inPhase s .init || (physOf s 0).isSome then .next s else
  let s := clearCaches s
  let s := (List.range 32).foldl (fun s c => (houseCourse s c (fun i => !failing.contains (9 * c + i))).2) s
  if (physOf s 0).isNone then .next (fillFailed s 0x14) else
  let s := (List.range 256).foldl noCore s
  match s.ks.boot with
  | some b => if s.dramTop.toNat < b.load.toNat + b.host.length then .next (fillFailed s 0x15) else .next s
  | none => .next (fillFailed s 0x15)

/-- The budget and ledger rules begin (R432, R492): the present minute is the first, and domain 0's account opens. -/
def beginAccounts (s : State) : State :=
  let m := s.plumb.now / minuteNs
  let s := { s with led := { s.led with bank := (List.range 88).foldl (fun t a => tset (fun _ => 0) t a m) [], minute := m, agent := [], sum := [], due := [], final := [] }
                    budAt := s.plumb.now / periodNs s * periodNs s, ovhE := 0, usage := [], energy := [] }
  openAccount s 0

/-- The core that logical number 0 starts on (R219, R489, R494): its own, or the spare where that fails its patch load. -/
def core0Phys (s : State) (rbs : List (Bool × Bool)) : Option Nat × State :=
  match physOf s 0 with
  | none => (none, s)
  | some a =>
    if loadGood s (rbs.getD 0 (true, true)) then (some a, loadPatch s a 0 true)
    else
      let s := loadPatch s a 0 false
      let s := setPhys s a { getPhys s a with logical := none }
      match spareOf s 0 with
      | none => (none, s)
      | some b =>
        let s := setPhys s b { getPhys s b with logical := some 0, st := .ready }
        if loadGood s (rbs.getD 1 (true, true)) then (some b, loadPatch s b 0 true) else (none, loadPatch s b 0 false)

/-- CORE0_RELEASE (R50, R419, R489, R494): the host image is copied as overhead traffic, the device enters BOOTING, and logical core 0
begins at HOST_ENTRY. -/
def execCore0Release (readbacks : List (Bool × Bool)) (s : State) : Host.Outcome State Fault Refusal := .next (engine (fun s =>
  match s.ks.boot with
  | none => s
  | some b =>
    if !inPhase s .init || (physOf s 0).isNone then s else
    let s := engWriteBytes (b.host.length / 64 + 2) s ovhKey b.load.toNat (sound b.host) agKs
    match core0Phys s readbacks with
    | (none, s) => fillFailed s 0x16
    | (some p, s) =>
      let q := s.ks.filling
      let s := abandonStep s
      let s := setDev { s with ks := { s.ks with phase := .config, filling := none } } .booting 0
      let s := (List.range 55).foldl (fun s i => setVote s (320 + i) 1 false) (beginAccounts s)
      let s := startCore s p 0 b.entry
      syncFault (match q with | some q => operationDone s q 0 | none => s)) s)

/-! ### The test access port (R506) -/

/-- IDCODE (R506). -/
def tapIdcodeValue : BitVec 32 := 0x10256A73

/-- The data register that the port's instruction selects. -/
def tapRegister (s : State) : List Bool :=
  match s.pins.tap with
  | .idcode => (List.range 32).map (fun i => tapIdcodeValue.getLsbD i)
  | .bypass => [false]
  | _ => s.pins.bound

/-- The port takes an instruction. -/
def tapSelect (s : State) (i : TapIr) : State := tapDrive { s with pins := { s.pins with tap := i } }

/-- TAP_IDCODE. -/
def execTapIdcode (s : State) : Host.Outcome State Fault Refusal := .next (tapSelect s .idcode)
/-- TAP_BYPASS. -/
def execTapBypass (s : State) : Host.Outcome State Fault Refusal := .next (tapSelect s .bypass)
/-- TAP_SAMPLE_PRELOAD: the boundary register takes the pins' states, or what is shifted in. -/
def execTapSamplePreload (cells : List Bool) (s : State) : Host.Outcome State Fault Refusal :=
  .next (tapSelect { s with pins := { s.pins with bound := cells } } .sample)
/-- TAP_EXTEST. -/
def execTapExtest (s : State) : Host.Outcome State Fault Refusal := .next (tapSelect s .extest)
/-- TAP_EXTEST_PULSE. -/
def execTapExtestPulse (s : State) : Host.Outcome State Fault Refusal := .next (tapSelect s .extestPulse)
/-- TAP_EXTEST_TRAIN. -/
def execTapExtestTrain (s : State) : Host.Outcome State Fault Refusal := .next (tapSelect s .extestTrain)

end Sys2Proof.Machine
end

