-- ==== Sys2Proof/Machine/CtlWrite.lean ====
section
/-! DEFINITION. What a core's store does to a control register (R9, R27 to R30 and the register descriptions of every chapter).
`wv` is the store's value in its place in the 8-byte register and `wm` the bits that the store writes. -/
namespace Sys2Proof.Machine

/-- The store's value in its place in the 8-byte register. -/
def stVal (st : CtlStore) : Word64 :=
  if st.width = 8 then st.val else if st.off.toNat % 8 = 0 then st.val &&& 0xFFFFFFFF else (st.val &&& 0xFFFFFFFF) <<< (32 : Nat)

/-- The bits of the 8-byte register that the store writes. -/
def stMask (st : CtlStore) : Word64 :=
  if st.width = 8 then 0xFFFFFFFFFFFFFFFF else if st.off.toNat % 8 = 0 then 0xFFFFFFFF else 0xFFFFFFFF00000000

/-- The offset of the 8-byte register. -/
def stReg (st : CtlStore) : Nat := st.off.toNat / 8 * 8

/-- The RW fields of `mask` take the bits written (R8). -/
def rw (old wv wm mask : Word64) : Word64 := maskIn old wv (wm &&& mask)

/-- The W1C fields of `mask` lose the bits written as ones (R8). -/
def w1c (old wv wm mask : Word64) : Word64 := old &&& ~~~(wv &&& wm &&& mask)

/-- Fields whose new value a rule refuses keep their old one, and CTL_ERR sets; each is given by whether it is refused, its
lowest bit and its width. -/
def judged (s : State) (old new : Word64) (fs : List (Bool × Nat × Nat)) : State × Word64 :=
  (if fs.any (·.1) then ctlErr s else s,
   fs.foldl (fun w f => if f.1 then fldSet w f.2.1 f.2.2 (fld old f.2.1 f.2.2) else w) new)

/-! ### Global control -/

/-- PMASK[n] (R71). -/
def putPmask (s : State) (i : Nat) (wv wm : Word64) : State :=
  let old := pmask s i
  let w := rw old wv wm 0xFFFFFFFF
  let (s, w) := judged s old w [(fld w 16 16 == 0, 16, 16), (fld w 0 16 == 0, 0, 16)]
  { s with pmask := tset (fun _ => 0xFFFFFFFF) s.pmask i w }

/-- COH_CTL (R284). -/
def putCoh (s : State) (wv wm : Word64) : State :=
  let w := rw s.cohCtl wv wm 0x0000FFFF00FF0F0F
  let (s, w) := judged s s.cohCtl w [(decide (fld w 32 16 < 100), 32, 16), (fld w 16 8 == 0, 16, 8)]
  { s with cohCtl := w }

/-- THERM_CTL (R459): the three limits are judged together, HYST on its own. -/
def putTherm (s : State) (wv wm : Word64) : State :=
  let w := rw s.thermCtl wv wm 0xFFFFFFFF
  let bad := !(decide (fld w 8 8 ≤ fld w 16 8) && decide (fld w 16 8 ≤ fld w 24 8) && decide (fld w 24 8 ≤ 125))
  let (s, w) := judged s s.thermCtl w [(bad, 8, 24), (fld w 0 8 == 0 || decide (20 < fld w 0 8), 0, 8)]
  { s with thermCtl := w }

/-- CORE_PWR[n] (R449, R459). -/
def putCorePwr (s : State) (n : Nat) (wv wm : Word64) : State :=
  let old := (getCore s n).corePwr
  let w := w1c (rw old wv wm 0xFFFF0001) wv wm 0x0000FFFF00000000
  let (s, w) := judged s old w [(fld w 16 16 == 0, 16, 16)]
  let s := modCore s n (fun c => { c with corePwr := w })
  match physOf s n with
  | some d => voteEval s d
  | none => s

/-- PWR_VOTE[d] (R443, R459). -/
def putVote (s : State) (d : Nat) (wv wm : Word64) : State :=
  let old := tget voteInit s.votes d
  let w := w1c (rw old wv wm (if 368 ≤ d && d < 374 then 1 else 0)) wv wm 0xFFFF0000
  let (s, w) := judged s old w [(old.getLsbD 0 && !w.getLsbD 0 && hwVote s d, 0, 1)]
  voteEval { s with votes := tset voteInit s.votes d w } d

/-- PM_GLOBAL (R482 to R484). -/
def putPmGlobal (s : State) (wv wm : Word64) : State :=
  pmGlobalApply s (maskIn (s.pmGlobal &&& 0x4000000000000000) wv (wm &&& 0xE000000000000000))

/-- The global control block (offsets below 64 KiB). -/
def writeGlobal (s : State) (off : Nat) (wv wm : Word64) : State :=
  if off = 0x10 then { s with gstat := w1c s.gstat wv wm 0xCF }
  else if off = 0x18 then putTherm s wv wm
  else if off = 0x30 then { s with faultCtl := rw s.faultCtl wv wm 0xFF }
  else if off = 0x38 then syncFault { s with faultSt := w1c s.faultSt wv wm 0xE0 }
  else if off = 0x200 then putCoh s wv wm
  else if off = 0xE000 then putPmGlobal s wv wm
  else match regIdx off 0x100 8 16 with
  | some i => putPmask s i wv wm
  | none => match regIdx off 0x800 8 256 with
  | some n => putCorePwr s n wv wm
  | none => match regIdx off 0x1000 8 256 with
  | some n => modCore s n (fun c => { c with upatch := w1c c.upatch wv wm 4 })
  | none => match regIdx off 0x2000 8 256 with
  | some n => { s with hptb := tset (fun _ => 0) s.hptb n (rw (tget (fun _ => 0) s.hptb n) wv wm 0x800FFFFFFFFFF000) }
  | none => match regIdx off 0xC000 8 375 with
  | some d => putVote s d wv wm
  | none => s

/-! ### The mailbox (R413) -/

/-- The bytes of a store into the command buffer, from offset `o`. -/
def bufStore (t : Tbl Byte) (o : Nat) (wv wm : Word64) : Tbl Byte :=
  (List.range 8).foldl (fun t i =>
    if wm.getLsbD (8 * i) then tset (fun _ => 0) t (o + i) (wv.extractLsb' (8 * i) 8) else t) t

/-- MB_CTL: LEN, then GO submits that many bytes of the command buffer. -/
def putMbCtl (s : State) (wv wm : Word64) : State :=
  let len := (rw (BitVec.ofNat 64 s.ks.mbLen.toNat) wv wm 0x1FFF).extractLsb' 0 13
  let s := { s with ks := { s.ks with mbLen := len } }
  if (wv &&& wm).getLsbD 63 then submit s .mailbox ((List.range len.toNat).map (fun i => tget (fun _ => 0) s.ks.mbCmd i)) else s

/-- MB_STATUS: READY, RXERR and OVERRUN are cleared by ones; READY releases the reply. -/
def putMbStatus (s : State) (wv wm : Word64) : State :=
  let w := wv &&& wm
  let m := s.ks.mailbox
  { s with ks := { s.ks with mailbox := { m with
      reply := if w.getLsbD 0 then none else m.reply, rxerr := m.rxerr && !w.getLsbD 2, overrun := m.overrun && !w.getLsbD 3 } } }

/-- The in-band mailbox (offsets within its 64 KiB); its reply buffer is the Keystone's alone to write (log entry 28). -/
def writeMailbox (s : State) (off : Nat) (wv wm : Word64) : State :=
  if off = 0x0 then putMbCtl s wv wm
  else if off = 0x8 then putMbStatus s wv wm
  else if 0x1000 ≤ off && off < 0x3000 then { s with ks := { s.ks with mbCmd := bufStore s.ks.mbCmd (off - 0x1000) wv wm } }
  else s

/-! ### Plumb, journal and hub -/

/-- PLUMB_STATUS (R49): SKEW_ERR and REF_LOST. -/
def writePlumb (s : State) (off : Nat) (wv wm : Word64) : State :=
  if off = 0x10 then { s with plumb := { s.plumb with status := w1c s.plumb.status wv wm 0xC0 } } else s

/-- The journal engine's registers (R325 to R327, R341). -/
def writeJournal (s : State) (off : Nat) (wv wm : Word64) : State :=
  if off = 0x0 then jrnCtlApply s (maskIn s.jrn.ctl wv wm)
  else if off = 0x10 then jrnTailApply s (maskIn (BitVec.ofNat 64 s.jrn.tail) wv wm)
  else if off = 0x18 then jrnStatusApply s (wv &&& wm)
  else if off = 0x108 then { s with led := { s.led with status := w1c s.led.status wv wm 0x4000000000000000 } }
  else if off = 0x110 then ledAckApply s (maskIn s.led.ack wv wm)
  else s

/-- HCLAIM[n] (R350): TH keeps its value where the store does not write it. -/
def putHclaim (s : State) (n : Nat) (wv wm : Word64) : State :=
  threshWrite s n .h (maskIn (BitVec.ofNat 64 (getHub s n).thH.toNat) wv wm)

/-- The interrupt hub (offsets within its 1 MiB). -/
def writeHub (s : State) (off : Nat) (wv wm : Word64) : State :=
  if off = 0x10 then setPend s (fld (wv &&& wm) 0 13)
  else if off = 0x18 then clrPend s (fld (wv &&& wm) 0 13)
  else if off = 0x20 then { s with hubSt := w1c s.hubSt wv wm 0xFFFFFFFF00000000 }
  else match regIdx off 0x1000 8 256 with
  | some n => putHclaim s n wv wm
  | none => match regIdx off 0x4000 8 4096 with
  | some k => { s with msimap := tset (fun _ => 0) s.msimap k (rw (tget (fun _ => 0) s.msimap k) wv wm 0x80001FFF00001FFF) }
  | none => match regIdx off 0x20000 8 8191 with
  | some id => srcWrite s id (maskIn (getSrc s id).w wv wm)
  | none => s

/-! ### The tenant domain table -/

/-- A WFE or WAITT of core `n` ends by the event that came while its domain was paused (R74, R146, R147). -/
def eventOnResume (s : State) (n : Nat) : State :=
  match (getCore s n).run with
  | .wfe | .waitt _ _ => if (getCore s n).evflag then modCore (wakeCore s n 1) n (fun c => { c with evflag := false }) else s
  | _ => s

/-- The cores of a domain go on (R74), and the hub chooses again for them. -/
def advanceDom (s : State) (t : Nat) : State :=
  s.cores.foldl (fun s e => if e.2.dom.toNat = t then advance (hubEval (eventOnResume s e.1) e.1) e.1 else s) s

/-- DOM_CTL of domain `t` (R61, R71, R73, R74). -/
def putDomCtl (s : State) (t : Nat) (wv wm : Word64) : State :=
  let old := (getDom s t).ctl
  let w := rw old wv wm (if t = 0 then 0x0F00000000000000 else 0x6F00000000000000)
  let sets := w.getLsbD 62 && !old.getLsbD 62 && (!old.getLsbD 63 || decide (12 ≤ rtOthers s t))
  let clears := old.getLsbD 62 && !w.getLsbD 62 && classFTargets s t
  let (s, w) := judged s old w [(sets || clears, 62, 1)]
  let s := modDom s t (fun d => { d with ctl := w, mPaused := d.mPaused || w.getLsbD 61 })
  if w.getLsbD 61 = old.getLsbD 61 then s
  else if w.getLsbD 61 then chPause s t
  else advanceDom (chPause s t) t

/-- The holders of windows (R69): courses, root ports, and slices that host DMA engines, by agent ID. -/
def winHolders : List Nat := List.range 32 ++ (List.range 6).map (· + 80) ++ (List.range 8).map (fun e => 32 + 4 * e)

/-- FREADY of every core bound to the domain clears (R201). -/
def clearFready (s : State) (t : Nat) : State := mapCores s (fun _ c => if c.dom.toNat = t then { c with fready := false } else c)

/-- A store of core `n` at offset `off` to half `h` of a domain's windows (R69): an upper half is held, a lower half applies both and
goes to every holder, stamped. Whether the store has been performed at once is the second result. -/
def putWindow (s : State) (n off t h : Nat) (wv wm : Word64) : State × Bool :=
  let w := h / 2
  let cur := tget (fun _ => 0) (getDom s t).win w
  if t = 0 then (s, true)
  else if h % 2 = 1 then
    let base := (tget (fun _ => none) (getDom s t).winHi w).getD (cur.extractLsb' 64 64)
    (modDom s t (fun d => { d with winHi := tset (fun _ => none) d.winHi w (some (rw base wv wm 0x000FFFFFFFFFF000)) }), true)
  else
    let lo := rw (cur.extractLsb' 0 64) wv wm 0x800FFFFFFFFFF007
    let hi := (tget (fun _ => none) (getDom s t).winHi w).getD (cur.extractLsb' 64 64)
    let v : Word128 := BitVec.append hi lo
    let s := modDom s t (fun d => { d with win := tset (fun _ => 0) d.win w v, winHi := tset (fun _ => none) d.winHi w none })
    let s := clearFready s t
    let (st, s) := shortStamp s agKs
    ({ s with winMsgs := s.winMsgs ++ winHolders.map (fun x => (x, t * 16 + w, v, BitVec.ofNat 8 n, off, st)) }, false)

/-- The tenant domain table but for its windows (offsets within its 2 MiB). -/
def writeDomain (s : State) (off : Nat) (wv wm : Word64) : State :=
  let t := off / 0x200
  if off % 0x200 = 0 then putDomCtl s t wv wm
  else if off % 0x200 = 8 then modDom s t (fun d => { d with status := w1c d.status wv wm 0xFFFFFFFF00000000 })
  else s

/-! ### Budgets, arbiters and planner -/

/-- BUD_CTL (R288, R316). -/
def putBudCtl (s : State) (wv wm : Word64) : State :=
  let w := rw s.budCtl wv wm 0x0000FFFF03FF03FF
  let p := fld w 0 10
  let (s, w) := judged s s.budCtl w
    [(p == 0 || decide (1000 < p) || 600000 % p != 0, 0, 10), (fld w 16 10 == 0, 16, 10)]
  { s with budCtl := w }

/-- PLAN_CTL (R304): a change of MANUAL changes the targets of every course (R308, R452). -/
def putPlanCtl (s : State) (wv wm : Word64) : State :=
  let old := s.planCtl
  let s := { s with planCtl := rw old wv wm 0x80FF03FF00000000 }
  if s.planCtl.getLsbD 63 = old.getLsbD 63 then s else (List.range 32).foldl seqEval s

/-- ARB_CTL (R311, R316). -/
def putArbCtl (s : State) (wv wm : Word64) : State :=
  let w := rw s.arbCtl wv wm 0x0000FFFF000000FF
  let (s, w) := judged s s.arbCtl w [(fld w 32 16 == 0, 32, 16), (fld w 0 8 == 0, 0, 8)]
  { s with arbCtl := w }

/-- VCOURSE[c] (R305, R308, R316). -/
def putVcourse (s : State) (c : Nat) (wv wm : Word64) : State :=
  let old := (getCourse s c).vcourse
  let w := rw old wv wm 0xFFFF
  let (s, w) := judged s old w [(decide (40 < fld w 8 8), 8, 8), (decide (40 < fld w 0 8), 0, 8)]
  seqEval (modCourse s c (fun x => { x with vcourse := w })) c

/-- BWT of a domain (R309, R311). -/
def putBwt (s : State) (t : Nat) (wv wm : Word64) : State :=
  let old := (getBud s t).wt
  let w := rw old wv wm 0x00000003FFFFFF00
  let (s, w) := judged s old w [(fld w 32 2 == 3, 32, 2)]
  modBud s t (fun b => { b with wt := w })

/-- A domain's budget registers by offset (R289, R294, R304). -/
def putBud (s : State) (t o : Nat) (wv wm : Word64) : State :=
  let c := fun (x : Word64) => rw x wv wm 0x8000FFFFFFFFFFFF
  match o with
  | 0x00 => modBud s t (fun b => { b with c0 := c b.c0 })
  | 0x08 => modBud s t (fun b => { b with c1 := c b.c1 })
  | 0x10 => modBud s t (fun b => { b with c2 := c b.c2 })
  | 0x18 => modBud s t (fun b => { b with c3 := c b.c3 })
  | 0x20 => putBwt s t wv wm
  | 0x28 => modBud s t (fun b => { b with stat := w1c b.stat wv wm 0xFFFFFFFF })
  | 0x30 => modBud s t (fun b => { b with ecred := rw b.ecred wv wm 0x0000FFFFFFFFFFFF })
  | _ => s

/-- Budgets, arbiters and planner (offsets within their 1 MiB). -/
def writeBudget (s : State) (off : Nat) (wv wm : Word64) : State :=
  if off = 0x0 then putBudCtl s wv wm
  else if off = 0x8 then putPlanCtl s wv wm
  else if off = 0x10 then { s with planSt := w1c s.planSt wv wm 0xFF00 }
  else if off = 0x18 then putArbCtl s wv wm
  else match regIdx off 0x100 8 32 with
  | some c => putVcourse s c wv wm
  | none => if 0x10000 ≤ off && off < 0x10000 + 4096 * 0x80 then putBud s ((off - 0x10000) / 0x80) ((off - 0x10000) % 0x80) wv wm else s

/-! ### Courses, slices, controllers and ports -/

/-- The registers of a counter bank (R479, R481). -/
def writeBank (s : State) (b off : Nat) (wv wm : Word64) : State :=
  match regIdx off 0 8 (if 64 ≤ b then 19 else 16) with
  | none => s
  | some r =>
    let put := fun (m : Word64) => bkSet s b r (rw (bkGet s b r) wv wm m)
    if r < 4 then put 0x0000FFFFFFFFFFFF
    else if r < 8 then put 0xFF000000000000FF
    else if r < 12 then s
    else if r = 12 then put 0x00000FFF0000007F
    else if r < 15 then put 0x000FFFFFFFFFFFC0
    else if r = 15 then bkSet s b 15 (w1c (bkGet s b 15) wv wm 0x1F)
    else if r = 16 then bwCtlApply s b (maskIn (bkGet s b 16) wv wm)
    else s

/-- A course's block. -/
def writeCourse (s : State) (c off : Nat) (wv wm : Word64) : State :=
  if off = 0x800 then modCourse s c (fun x => { x with err := w1c x.err wv wm 0xFFFFFFFFFFFF0001 })
  else if 0x900 ≤ off then writeBank s c (off - 0x900) wv wm else s

/-- SLICE_TRK (R284): ones in TRK_PEAK set it to TRK_BUSY. -/
def putSliceTrk (s : State) (h : Nat) (wv wm : Word64) : State :=
  let busy := fld (trkWord s h) 0 10
  modSlice s h (fun x =>
    let w := w1c x.trkReg wv wm 0xFFFFFFFF00000000
    { x with trkReg := if fld (wv &&& wm) 16 10 = 0 then w else fldSet w 16 10 busy })

/-- CH_RING and CH_PTR.TAIL (R402, R407): a new TAIL may leave descriptors ready. -/
def putChan (s : State) (k o : Nat) (wv wm : Word64) : State :=
  let x := getChan s k
  match o with
  | 0x08 => setChan s k { x with io := rw x.io wv wm 0x800FFFFFFFFFF000 }
  | 0x10 =>
    let w := rw x.ring wv wm 0x0000FFFFFFFFF00F
    let (s, w) := judged s x.ring w [(fld w 0 4 == 0, 0, 4)]
    setChan s k { x with ring := w }
  | 0x18 =>
    let w := rw x.ptr wv wm 0xFFFF
    let (s, w) := judged s x.ptr w [(decide (2 ^ fld x.ring 0 4 ≤ fld w 0 16), 0, 16)]
    let y := { x with ptr := w }
    setChan s k (if chState x = 0 then { y with status := fldSet y.status 60 4 (chRest s y) } else y)
  | _ => s

/-- A slice's block, but for CH_CTL. -/
def writeSlice (s : State) (c off : Nat) (wv wm : Word64) : State :=
  if off = 0x800 then modSlice s c (fun x => { x with err := w1c x.err wv wm 0xFFFFFFFFFFFFFF00 })
  else if off = 0x808 then putSliceTrk s c wv wm
  else match chanAt c off with
  | some (k, o) => putChan s k o wv wm
  | none => if 0x900 ≤ off then writeBank s (32 + c) (off - 0x900) wv wm else s

/-- MC_CTL (R367, R382). -/
def putMcCtl (s : State) (m : Nat) (wv wm : Word64) : State :=
  let old := (getMc s m).ctl
  let w := rw old wv wm 0x0001FF0003FFFF01
  let (s, w) := judged s old w
    [(decide (fld w 40 9 < 10) || decide (500 < fld w 40 9), 40, 9), (fld w 16 10 == 0, 16, 10)]
  modMc s m (fun x => { x with ctl := w })

/-- SCRUB_CTL (R377, R382). -/
def putScrub (s : State) (m : Nat) (wv wm : Word64) : State :=
  let old := (getMc s m).scrub
  let w := rw old wv wm 0xC000FFFF0000FFFF
  let (s, w) := judged s old w
    [(fld w 32 16 == 0 || decide (1024 < fld w 32 16), 32, 16), (fld w 0 16 == 0, 0, 16)]
  modMc s m (fun x => { x with scrub := w })

/-- A memory controller's block. -/
def writeMc (s : State) (m off : Nat) (wv wm : Word64) : State :=
  if off = 0x08 then putMcCtl s m wv wm
  else if off = 0x10 then putScrub s m wv wm
  else if off = 0x20 then modMc s m (fun x => { x with status := w1c x.status wv wm 0xFC })
  else if off = 0x28 then modMc s m (fun x => { x with errcnt := w1c x.errcnt wv wm 0xFFFFFFFFFFFFFFFF })
  else match regIdx off 0x40 8 16 with
  | some r => modMc s m (fun x => { x with rank := tset (fun _ => 0) x.rank r (w1c (tget (fun _ => 0) x.rank r) wv wm 0xFFFF000000000000) })
  | none => if 0x100 ≤ off then writeBank s (64 + m) (off - 0x100) wv wm else s

/-- RP_CFG (R388, R407). -/
def putRpCfg (s : State) (p : Nat) (wv wm : Word64) : State :=
  let old := (getRp s p).cfg
  let w := rw old wv wm 0xFFFF0000
  let (s, w) := judged s old w [(fld w 16 16 == 0, 16, 16)]
  modRp s p (fun x => { x with cfg := w })

/-- A function context's registers but for CTX_CTL (R392, R395, R397). -/
def putCtx (s : State) (k o : Nat) (wv wm : Word64) : State :=
  let x := getCtx s k
  match o with
  | 0x08 => setCtx s k { x with io := rw x.io wv wm 0x800FFFFFFFFFF000 }
  | 0x10 => setCtx s k { x with bar := rw x.bar wv wm 0xBFFFFE00001FFFFF }
  | 0x18 => setCtx s k { x with status := w1c x.status wv wm 0xFF00000000000000 }
  | _ => s

/-- A root port's block, but for CTX_CTL and IOINV. -/
def writePort (s : State) (p off : Nat) (wv wm : Word64) : State :=
  if off = 0x0 then putRpCfg s p wv wm
  else if off = 0x8 then modRp s p (fun x => { x with status := w1c x.status wv wm 0x0000000707070707 })
  else if p = 0 && 0x80000 ≤ off && off < 0x80000 + 4096 * 0x20 then putCtx s ((off - 0x80000) / 0x20) ((off - 0x80000) % 0x20) wv wm
  else if 0x200 ≤ off && off < 0x80000 then writeBank s (80 + p) (off - 0x200) wv wm else s

/-- A store to the 8-byte register at an offset that is a multiple of 8 (R27), but for those that `ctlPerform` treats. -/
def regWrite (s : State) (off : Nat) (wv wm : Word64) : State :=
  if off < 0x10000 then writeGlobal s off wv wm
  else if off < 0x20000 then writeMailbox s (off - 0x10000) wv wm
  else if off < 0x30000 then writePlumb s (off - 0x20000) wv wm
  else if off < 0x40000 then writeJournal s (off - 0x30000) wv wm
  else if off < 0x100000 then s
  else if off < 0x200000 then writeHub s (off - 0x100000) wv wm
  else if off < 0x400000 then writeDomain s (off - 0x200000) wv wm
  else if off < 0x500000 then writeBudget s (off - 0x400000) wv wm
  else if off < 0x1000000 then s
  else if off < 0x1200000 then writeCourse s ((off - 0x1000000) / 0x10000) (off % 0x10000) wv wm
  else if off < 0x2000000 then s
  else if off < 0x2200000 then writeSlice s ((off - 0x2000000) / 0x10000) (off % 0x10000) wv wm
  else if off < 0x3000000 then s
  else if off < 0x3100000 then writeMc s ((off - 0x3000000) / 0x10000) (off % 0x10000) wv wm
  else if off < 0x4000000 then s
  else if off < 0x4600000 then writePort s ((off - 0x4000000) / 0x100000) (off % 0x100000) wv wm
  else s

/-- A store to configuration space (R386): the registers of a root port function that the rules name; what a device does with one
is outside the device. -/
def cfgStore (s : State) (o : Nat) (v : Word64) : State :=
  let dev := o / 0x8000 % 32
  let reg := o % 0x1000
  if o / 0x100000 = 0 && dev < 24 && linkExists s (dev / 4) (dev % 4) && o / 0x1000 % 8 = 0 && cfgMask reg ≠ 0 then
    let w := (cfgWord s (o / 4) &&& ~~~(cfgMask reg)) ||| (v.extractLsb' 0 32 &&& cfgMask reg)
    { s with cfgSpace := tset (fun _ => none) s.cfgSpace (o / 4) (some w) }
  else s

end Sys2Proof.Machine
end

