-- ==== Sys2Proof/Machine/CtlCmds.lean ====
section
/-! DEFINITION. Stores to control registers as they reach their blocks (R27 to R30), and the commands that have rows of their own
among them: windows (R69), domains (R71 to R74), the hub (R343 to R352), the journal ring (R326, R327), contexts and I/O
invalidations (R391, R396, R398), channels (R402 to R406), the mailbox (R413), freezes and snapshots (R482, R483), and the end of
the 8 µs of R76. -/
namespace Sys2Proof.Machine

/-- The agent whose block a register lies in, of those that have an agent ID (R17, R29). -/
def ctlAgent (off : Nat) : Option Nat :=
  if off < 0x10000 then none
  else if off < 0x20000 then some agKs
  else if off < 0x30000 then some agPlumb
  else if off < 0x40000 then some agJrn
  else if 0x100000 ≤ off && off < 0x200000 then some agHub
  else if 0x1000000 ≤ off && off < 0x1200000 then some ((off - 0x1000000) / 0x10000)
  else if 0x2000000 ≤ off && off < 0x2200000 then some (32 + (off - 0x2000000) / 0x10000)
  else if 0x3000000 ≤ off && off < 0x3100000 then some (64 + (off - 0x3000000) / 0x10000)
  else if 0x4000000 ≤ off && off < 0x4600000 then some (80 + (off - 0x4000000) / 0x100000)
  else none

/-- A core's store to a control register has been performed: it leaves the store buffer (R121, R156). -/
def ctlDone (s : State) (n off : Nat) : State :=
  match (getCore s n).sb with
  | e :: _ => if e.sent && e.pa.toNat == ctlBase + off then advance (popStore s n) n else s
  | [] => s

/-! ### Which register a store writes -/

/-- The domain whose DOM_CTL a store writes. -/
def stDomCtl (st : CtlStore) : Option Nat :=
  let o := stReg st
  if 0x200000 ≤ o && o < 0x400000 && (o - 0x200000) % 0x200 = 0 then some ((o - 0x200000) / 0x200) else none

/-- The domain and half (two for each window) of the WINDOW that a store writes. -/
def stWindow (st : CtlStore) : Option (Nat × Nat) :=
  let o := stReg st
  if 0x200000 ≤ o && o < 0x400000 then
    (regIdx ((o - 0x200000) % 0x200) 0x100 8 32).map (fun h => ((o - 0x200000) / 0x200, h)) else none

/-- The context and the offset among its registers that a store writes. -/
def stCtx (st : CtlStore) : Option (Nat × Nat) :=
  let o := stReg st
  if 0x4080000 ≤ o && o < 0x4080000 + 4096 * 0x20 then some ((o - 0x4080000) / 0x20, (o - 0x4080000) % 0x20) else none

/-- The channel and the offset among its registers that a store writes. -/
def stChan (st : CtlStore) : Option (Nat × Nat) :=
  let o := stReg st
  if 0x2000000 ≤ o && o < 0x2200000 then chanAt ((o - 0x2000000) / 0x10000) (o % 0x10000) else none

/-- The core whose HCLAIM a store writes. -/
def stHclaim (st : CtlStore) : Option Nat := regIdx (stReg st) 0x101000 8 256

/-- The store writes IOINV. -/
def stIoinv (st : CtlStore) : Bool := stReg st == 0x4000100

/-- A bit that the store writes, if it writes it. -/
def stBit (st : CtlStore) (b : Nat) : Option Bool := if (stMask st).getLsbD b then some ((stVal st).getLsbD b) else none

/-! ### Contexts and channels (R76, R391, R403, R406) -/

/-- CTX_CTL as a store would leave its fields. -/
def ctxVal (s : State) (k : Nat) (st : CtlStore) : Word64 := maskIn (getCtx s k).ctl (stVal st) (stMask st)

/-- A store to CTX_CTL is performed and completes. -/
def ctxPerform (s : State) (k : Nat) (st : CtlStore) : State :=
  ctlDone (ctxApply s k (ctxVal s k st) (stBit st 60 == some true)) st.n.toNat st.off.toNat

/-- It must wait: it rebinds within 8 µs of the last rebinding, or another waits before it (R76). -/
def ctxWaits (s : State) (k : Nat) (st : CtlStore) : Bool :=
  ctxRebinds s k (ctxVal s k st) && tooSoon (getCtx s k).lastBind (plumbOf s 80)

/-- A store to CTX_CTL arrives. -/
def ctxStore (s : State) (k : Nat) (st : CtlStore) : State :=
  let x := getCtx s k
  if !x.heldW.isEmpty || ctxWaits s k st then setCtx s k { x with heldW := x.heldW ++ [st] } else ctxPerform s k st

/-- The held stores of a context that need wait no longer are performed in order. -/
def ctxGo : Nat → State → Nat → State
  | 0, s, _ => s
  | f + 1, s, k =>
    match (getCtx s k).heldW with
    | [] => s
    | st :: r => if ctxWaits s k st then s else ctxGo f (ctxPerform (setCtx s k { getCtx s k with heldW := r }) k st) k

/-- CH_CTL as a store would leave its fields. -/
def chVal (s : State) (k : Nat) (st : CtlStore) : Word64 := maskIn (getChan s k).ctl (stVal st) (stMask st)

/-- A store to CH_CTL is performed and completes. -/
def chPerform (s : State) (k : Nat) (st : CtlStore) : State :=
  ctlDone (chApply s k (chVal s k st)) st.n.toNat st.off.toNat

/-- It must wait (R76). -/
def chWaits (s : State) (k : Nat) (st : CtlStore) : Bool :=
  chRebinds s k (chVal s k st) && tooSoon (getChan s k).lastBind (plumbOf s (chAgent k))

/-- A store to CH_CTL arrives. -/
def chStore (s : State) (k : Nat) (st : CtlStore) : State :=
  let x := getChan s k
  if !x.heldW.isEmpty || chWaits s k st then setChan s k { x with heldW := x.heldW ++ [st] } else chPerform s k st

/-- The held stores of a channel that need wait no longer are performed in order. -/
def chGo : Nat → State → Nat → State
  | 0, s, _ => s
  | f + 1, s, k =>
    match (getChan s k).heldW with
    | [] => s
    | st :: r => if chWaits s k st then s else chGo f (chPerform (setChan s k { getChan s k with heldW := r }) k st) k

/-! ### A store reaches its block -/

/-- A store to IOINV: while DONE = 0 it waits (R396). -/
def ioinvStore (s : State) (st : CtlStore) : State :=
  if s.ioDone then ctlDone (ioinvStart s (stVal st &&& stMask st)) st.n.toNat st.off.toNat
  else { s with ioWait := s.ioWait ++ [st] }

/-- A store to half `h` of a WINDOW (R30, R69): one that a later Keystone command overrules changes nothing; a lower half is
completed by its holders. -/
def windowStore (s : State) (st : CtlStore) (t h : Nat) : State :=
  let n := st.n.toNat
  let off := st.off.toNat
  let reg := winRegOff t (h / 2)
  let now := !ctlTakes s reg false st.stamp || (putWindow s n off t h (stVal st) (stMask st)).2
  let s := ctlMeet s reg false n st.stamp (fun s => (putWindow s n off t h (stVal st) (stMask st)).1)
  if now then ctlDone s n off else s

/-- A store that R29 lets through. -/
def ctlPerform (s : State) (st : CtlStore) : State :=
  let n := st.n.toNat
  let off := st.off.toNat
  if cfgBase ≤ off then ctlDone (if off < cfgBase + 0x10000000 then cfgStore s (off - cfgBase) st.val else s) n off
  else match stWindow st with
  | some (t, h) => windowStore s st t h
  | none => match stCtx st with
  | some (k, 0) => ctxStore s k st
  | _ => match stChan st with
  | some (k, 0) => chStore s k st
  | _ =>
    if stIoinv st then ioinvStore s st
    else ctlDone (ctlMeet s (stReg st) false n st.stamp (fun s => regWrite s (stReg st) (stVal st) (stMask st))) n off

/-- Where a store goes: its agent, or the block of one that has no agent ID (R29), the domain table, the budgets or a bus. -/
def ctlDest (st : CtlStore) : Option Nat × Nat :=
  match ctlAgent st.off.toNat with
  | some a => (some a, 0)
  | none => (none, st.off.toNat / 0x200000)

/-- An earlier store of the course to the same place is still on its way: messages between two agents keep their order (R19). -/
def ctlBehind (s : State) (st : CtlStore) : Bool :=
  s.ctlNet.contains st &&
    (s.ctlNet.takeWhile (· != st)).any (fun x => courseOf s x.n.toNat == courseOf s st.n.toNat && ctlDest x == ctlDest st)

/-- A store to a control register reaches its block (R29, R30). Where the block's stop answers AGENT_DOWN the store is dropped, and is still
performed (R21, R388; log entry 142). -/
def ctlArrive (s : State) (st : CtlStore) : State :=
  let s := { s with ctlNet := s.ctlNet.erase st }
  if ctlWidthOk st.off.toNat st.width && ctlDown s st.off.toNat then ctlDone s st.n.toNat st.off.toNat else
  let s := match ctlAgent st.off.toNat with
    | some a => received s a (BitVec.ofNat 24 st.stamp)
    | none => s
  if ctlWidthOk st.off.toNat st.width then ctlPerform s st
  else ctlDone (ctlAccess s st.n.toNat st.width st.off.toNat) st.n.toNat st.off.toNat

/-! ### The rows -/

/-- The store is one of those that a row names; one whose effect needs a line that is busy waits (R259). -/
def whenStore (p : Bool) (st : CtlStore) (s : State) : Host.Outcome State Fault Refusal :=
  if p && !ctlBehind s st then .next (engine (fun s => ctlArrive s st) s) else .next s

/-- A store to a WINDOW half: 0 lower, 1 upper. -/
def isWindowHalf (st : CtlStore) (h : Nat) : Bool :=
  ctlWidthOk st.off.toNat st.width && (match stWindow st with | some (_, k) => k % 2 == h | none => false)
def isPmask (st : CtlStore) : Bool := ctlWidthOk st.off.toNat st.width && (regIdx (stReg st) 0x100 8 16).isSome
/-- A store to DOM_CTL that writes PAUSED with a value. -/
def isPause (st : CtlStore) (v : Bool) : Bool := ctlWidthOk st.off.toNat st.width && (stDomCtl st).isSome && stBit st 61 == some v
/-- A store to DOM_CTL that would change RT. -/
def isRtWrite (s : State) (st : CtlStore) : Bool :=
  ctlWidthOk st.off.toNat st.width && (match stDomCtl st with
    | some t => (match stBit st 62 with | some v => v != (getDom s t).ctl.getLsbD 62 | none => false) | none => false)
/-- A store to DOM_CTL that would change PAUSED to `v`. -/
def isPauseChange (s : State) (st : CtlStore) (v : Bool) : Bool :=
  isPause st v && (match stDomCtl st with | some t => (getDom s t).ctl.getLsbD 61 != v | none => false)
def isHubReg (st : CtlStore) (o : Nat) : Bool := ctlWidthOk st.off.toNat st.width && stReg st == 0x100000 + o
def isSrc (st : CtlStore) : Bool := ctlWidthOk st.off.toNat st.width && (regIdx (stReg st) 0x120000 8 8191).isSome
/-- The operation of a store to HCLAIM: 1 claim, 2 end of interrupt, 0 none (R350). -/
def hclaimOp (st : CtlStore) : Option Nat :=
  if ctlWidthOk st.off.toNat st.width && (stHclaim st).isSome then
    some (match fld (stVal st &&& stMask st) 62 2 with | 1 => 1 | 2 => 2 | _ => 0) else none
def isJrnReg (st : CtlStore) (o : Nat) : Bool := ctlWidthOk st.off.toNat st.width && stReg st == 0x30000 + o
/-- A store to CTX_CTL that rebinds its context (R391). -/
def isCtxBind (s : State) (st : CtlStore) : Bool :=
  ctlWidthOk st.off.toNat st.width && (match stCtx st with | some (k, 0) => ctxRebinds s k (ctxVal s k st) | _ => false)
/-- A store to CTX_CTL with RESUME = 1 (R398). -/
def isCtxResume (st : CtlStore) : Bool :=
  ctlWidthOk st.off.toNat st.width && (match stCtx st with | some (_, 0) => stBit st 60 == some true | _ => false)
/-- A store to IOINV with a scope (R396). -/
def isIoinv (st : CtlStore) (scope : Nat) : Bool :=
  ctlWidthOk st.off.toNat st.width && stIoinv st && fld (stVal st &&& stMask st) 60 3 == scope
/-- A store to CH_CTL that writes EN with a value (R403). -/
def isChEn (st : CtlStore) (v : Bool) : Bool :=
  ctlWidthOk st.off.toNat st.width && (match stChan st with | some (_, 0) => stBit st 63 == some v | _ => false)
/-- A store to CH_CTL that would change TDID (R406). -/
def isChTdid (s : State) (st : CtlStore) : Bool :=
  ctlWidthOk st.off.toNat st.width &&
    (match stChan st with | some (k, 0) => fld (chVal s k st) 32 12 != fld (getChan s k).ctl 32 12 | _ => false)
def isChTail (st : CtlStore) : Bool :=
  ctlWidthOk st.off.toNat st.width && (match stChan st with | some (_, 0x18) => true | _ => false)
def isMbGo (st : CtlStore) : Bool := ctlWidthOk st.off.toNat st.width && stReg st == 0x10000 && stBit st 63 == some true
def isMbReady (st : CtlStore) : Bool := ctlWidthOk st.off.toNat st.width && stReg st == 0x10008 && stBit st 0 == some true
def isPmGlobal (st : CtlStore) : Bool := ctlWidthOk st.off.toNat st.width && stReg st == 0xE000
/-- A store to PM_GLOBAL that changes FREEZE (R482). -/
def isFreeze (s : State) (st : CtlStore) : Bool :=
  isPmGlobal st && (match stBit st 62 with | some v => v != s.pmGlobal.getLsbD 62 | none => false)
def isSnap (st : CtlStore) : Bool := isPmGlobal st && stBit st 63 == some true

/-- The store has a row of its own. -/
def ownRow (s : State) (st : CtlStore) : Bool :=
  isWindowHalf st 0 || isWindowHalf st 1 || isPmask st || isPauseChange s st true || isPauseChange s st false || isRtWrite s st ||
    isHubReg st 0x10 || isHubReg st 0x18 || isSrc st || (hclaimOp st).isSome || isJrnReg st 0 || isJrnReg st 0x10 ||
    isCtxBind s st || isCtxResume st || (1 ≤ fld (stVal st &&& stMask st) 60 3 && fld (stVal st &&& stMask st) 60 3 ≤ 4 && isIoinv st (fld (stVal st &&& stMask st) 60 3)) ||
    isChEn st true || isChEn st false || isChTdid s st || isChTail st || isMbGo st || isMbReady st || isFreeze s st || isSnap st

/-- CTL_WRITE (R29, R30). -/
def execCtlWrite (st : CtlStore) (s : State) : Host.Outcome State Fault Refusal := whenStore (!ownRow s st) st s

/-- WINDOW_LOWER_WRITE (R69, R201). -/
def execWindowLowerWrite (st : CtlStore) (s : State) : Host.Outcome State Fault Refusal := whenStore (isWindowHalf st 0) st s

/-- WINDOW_UPPER_WRITE (R69). -/
def execWindowUpperWrite (st : CtlStore) (s : State) : Host.Outcome State Fault Refusal := whenStore (isWindowHalf st 1) st s

/-- WINDOW_HOLDER_UPDATE (R19, R69): the oldest value on its way to the holder is taken; the store completes when no holder still has
to take it. For a holder that is off or dead its stop answers, and it takes no value (R21; log entry 139). -/
def execWindowHolderUpdate (holder : Nat) (t : BitVec 12) (w : BitVec 4) (s : State) : Host.Outcome State Fault Refusal :=
  let key := t.toNat * 16 + w.toNat
  match s.winMsgs.find? (fun m => m.1 == holder) with
  | none => .next s
  | some m =>
    if m.2.1 ≠ key then .next s else
    let s := { s with winMsgs := s.winMsgs.erase m }
    let s := if agentDown s holder then s else
      { received s holder m.2.2.2.2.2 with winHeld := tset (fun _ => 0) s.winHeld (holder * 65536 + key) m.2.2.1 }
    if s.winMsgs.any (fun x => x.2.1 == key && x.2.2.2 == m.2.2.2) then .next s
    else .next (ctlDone s m.2.2.2.1.toNat m.2.2.2.2.1)

/-- PMASK_WRITE (R71). -/
def execPmaskWrite (st : CtlStore) (s : State) : Host.Outcome State Fault Refusal := whenStore (isPmask st) st s

/-- DOM_PAUSE (R74). -/
def execDomPause (st : CtlStore) (s : State) : Host.Outcome State Fault Refusal := whenStore (isPause st true) st s

/-- DOM_UNPAUSE (R74). -/
def execDomUnpause (st : CtlStore) (s : State) : Host.Outcome State Fault Refusal := whenStore (isPause st false) st s

/-- DOM_RT_WRITE (R73). -/
def execDomRtWrite (st : CtlStore) (s : State) : Host.Outcome State Fault Refusal :=
  whenStore (ctlWidthOk st.off.toNat st.width && (stDomCtl st).isSome && (stBit st 62).isSome) st s

/-- HUB_SETPEND (R343). -/
def execHubSetpend (st : CtlStore) (s : State) : Host.Outcome State Fault Refusal := whenStore (isHubReg st 0x10) st s

/-- HUB_CLRPEND (R351, R356). -/
def execHubClrpend (st : CtlStore) (s : State) : Host.Outcome State Fault Refusal := whenStore (isHubReg st 0x18) st s

/-- SRC_WRITE (R344, R349). -/
def execSrcWrite (st : CtlStore) (s : State) : Host.Outcome State Fault Refusal := whenStore (isSrc st) st s

/-- H_THRESHOLD (R350). -/
def execHThreshold (st : CtlStore) (s : State) : Host.Outcome State Fault Refusal := whenStore (hclaimOp st == some 0) st s

/-- H_CLAIM (R351). -/
def execHClaim (st : CtlStore) (s : State) : Host.Outcome State Fault Refusal := whenStore (hclaimOp st == some 1) st s

/-- H_EOI (R352). -/
def execHEoi (st : CtlStore) (s : State) : Host.Outcome State Fault Refusal := whenStore (hclaimOp st == some 2) st s

/-- JRN_CTL_WRITE (R327). -/
def execJrnCtlWrite (st : CtlStore) (s : State) : Host.Outcome State Fault Refusal := whenStore (isJrnReg st 0) st s

/-- JRN_TAIL_WRITE (R326). -/
def execJrnTailWrite (st : CtlStore) (s : State) : Host.Outcome State Fault Refusal := whenStore (isJrnReg st 0x10) st s

/-- CTX_BIND (R390, R391). -/
def execCtxBind (st : CtlStore) (s : State) : Host.Outcome State Fault Refusal := whenStore (isCtxBind s st) st s

/-- CTX_RESUME (R398). -/
def execCtxResume (st : CtlStore) (s : State) : Host.Outcome State Fault Refusal := whenStore (isCtxResume st) st s

/-- IOINV_PAGE (R396). -/
def execIoinvPage (st : CtlStore) (s : State) : Host.Outcome State Fault Refusal := whenStore (isIoinv st 1) st s

/-- IOINV_UNIT (R396). -/
def execIoinvUnit (st : CtlStore) (s : State) : Host.Outcome State Fault Refusal := whenStore (isIoinv st 2) st s

/-- IOINV_DOMAIN (R396). -/
def execIoinvDomain (st : CtlStore) (s : State) : Host.Outcome State Fault Refusal := whenStore (isIoinv st 3) st s

/-- IOINV_ALL (R396). -/
def execIoinvAll (st : CtlStore) (s : State) : Host.Outcome State Fault Refusal := whenStore (isIoinv st 4) st s

/-- IOINV_DONE (R396): no access that took its address from a removed entry is outstanding; a write that waited for DONE is
performed. -/
def execIoinvDone (s : State) : Host.Outcome State Fault Refusal :=
  if s.ioDone || s.ioPend.any (fun r => (peersOut s).contains r) then .next s
  else
    let s := { s with ioDone := true, ioPend := [] }
    match s.ioWait with
    | [] => .next s
    | st :: r => .next (ioinvStore { s with ioWait := r } st)

/-- CH_ENABLE (R403). -/
def execChEnable (st : CtlStore) (s : State) : Host.Outcome State Fault Refusal := whenStore (isChEn st true) st s

/-- CH_DISABLE (R403). -/
def execChDisable (st : CtlStore) (s : State) : Host.Outcome State Fault Refusal := whenStore (isChEn st false) st s

/-- CH_TDID_WRITE (R406). -/
def execChTdidWrite (st : CtlStore) (s : State) : Host.Outcome State Fault Refusal := whenStore (isChTdid s st) st s

/-- CH_TAIL_WRITE (R402, R407). -/
def execChTailWrite (st : CtlStore) (s : State) : Host.Outcome State Fault Refusal := whenStore (isChTail st) st s

/-- MB_GO (R413). -/
def execMbGo (st : CtlStore) (s : State) : Host.Outcome State Fault Refusal := whenStore (isMbGo st) st s

/-- MB_READY_RELEASE (R413). -/
def execMbReadyRelease (st : CtlStore) (s : State) : Host.Outcome State Fault Refusal := whenStore (isMbReady st) st s

/-- FREEZE_WRITE (R482). -/
def execFreezeWrite (st : CtlStore) (s : State) : Host.Outcome State Fault Refusal := whenStore (isFreeze s st) st s

/-- SNAP_WRITE (R483, R484). -/
def execSnapWrite (st : CtlStore) (s : State) : Host.Outcome State Fault Refusal := whenStore (isSnap st) st s

/-- REBIND_DELAY_EXPIRY (R76): what waited for its 8 µs since the unit's last rebinding goes on, if they have passed. -/
def execRebindDelayExpiry (u : RebindUnit) (s : State) : Host.Outcome State Fault Refusal :=
  match u with
  | .core n =>
    if (getCore s n.toNat).busy = .bindWait && !bindTooSoon s n.toNat then
      .next (advance (modCore s n.toNat (fun c => { c with busy := .none })) n.toNat)
    else .next s
  | .context k => .next (ctxGo (getCtx s k.toNat).heldW.length s k.toNat)
  | .channel c => .next (chGo (getChan s c.toNat).heldW.length s c.toNat)
  | .account t =>
    match s.ks.heldOpen with
    | some p =>
      if le p.payload 0 2 = t.toNat && !accountHeld s t.toNat then
        let s := { s with ks := { s.ks with heldOpen := none } }
        .next (if (p.payload.getD 3 0).getLsbD 0 && 12 ≤ rtOthers s t.toNat then finish s p 0x0C (bytesOf 4 t.toNat) else domOpened s p)
      else .next s
    | none => .next s

end Sys2Proof.Machine
end

