-- ==== Sys2Proof/Machine/ExecBranch.lean ====
section
/-! DEFINITION. The branch and system syllables (R108, R142 to R148). -/
namespace Sys2Proof.Machine

/-- BR (R142): Conditional or unconditional branch by displacement. -/
def execBr (y : Syl) (s : State) : Host.Outcome State Fault Refusal := .next (stage (.br y) y s)
/-- JR (R142): Transfers to the address in G[A]. -/
def execJr (y : Syl) (s : State) : Host.Outcome State Fault Refusal := .next (stage (.jr y) y s)
/-- CALL (R142): Writes the link, pushes the return stack and branches by displacement. -/
def execCall (y : Syl) (s : State) : Host.Outcome State Fault Refusal := .next (stage (.call y) y s)
/-- CALLR (R142): Writes the link, pushes the return stack and transfers to G[B]. -/
def execCallr (y : Syl) (s : State) : Host.Outcome State Fault Refusal := .next (stage (.callr y) y s)
/-- RET (R142): Transfers to G[A] and pops the return stack. -/
def execRet (y : Syl) (s : State) : Host.Outcome State Fault Refusal := .next (stage (.ret y) y s)
/-- SYSCALL (R142): Traps with cause 0x30 and TRAPPC at the next word. -/
def execSyscall (y : Syl) (s : State) : Host.Outcome State Fault Refusal := .next (stage (.syscall y) y s)
/-- HYPERCALL (R142): Traps to H with cause 0x31 and TRAPPC at the next word. -/
def execHypercall (y : Syl) (s : State) : Host.Outcome State Fault Refusal := .next (stage (.hypercall y) y s)
/-- BREAK (R142): Traps with cause 0x38 and TRAPPC at this word. -/
def execBrk (y : Syl) (s : State) : Host.Outcome State Fault Refusal := .next (stage (.brk y) y s)
/-- RFE (R205): Returns from a trap, restoring level and IE and clearing the busy bit. -/
def execRfe (y : Syl) (s : State) : Host.Outcome State Fault Refusal := .next (stage (.rfe y) y s)
/-- MFS (R143): Reads a system register into G[D]. -/
def execMfs (y : Syl) (s : State) : Host.Outcome State Fault Refusal := .next (stage (.mfs y) y s)
/-- MTS (R143): Writes a system register that has no row of its own once older words commit. -/
def execMts (y : Syl) (s : State) : Host.Outcome State Fault Refusal := .next (stage (.mts y) y s)
/-- MTS_TDID (R62): Rebinds the core to a domain and virtual core, incrementing EPOCH.CORE and reporting to the hub. -/
def execMtsTdid (y : Syl) (s : State) : Host.Outcome State Fault Refusal := .next (stage (.mtsTdid y) y s)
/-- MTS_REIN (R39): Writes REIN.PACE and PL and drives the course sequencer to adjust EFF and voltage. -/
def execMtsRein (y : Syl) (s : State) : Host.Outcome State Fault Refusal := .next (stage (.mtsRein y) y s)
/-- MTS_LOCKHELD (R301): Writes LOCKHELD.HELD; a zero ends any grace in progress. -/
def execMtsLockheld (y : Syl) (s : State) : Host.Outcome State Fault Refusal := .next (stage (.mtsLockheld y) y s)
/-- MTS_TMODE (R201): Writes TMODE, TENTRY or TDESC of level S, clears FREADY and starts a class F entry buffer fill. -/
def execMtsTmode (y : Syl) (s : State) : Host.Outcome State Fault Refusal := .next (stage (.mtsTmode y) y s)
/-- MTS_PCTL (R177): Writes PCTL and refetches the words beyond it under the new mode. -/
def execMtsPctl (y : Syl) (s : State) : Host.Outcome State Fault Refusal := .next (stage (.mtsPctl y) y s)
/-- MTS_EVMASK (R355): Writes event group membership, held by the hub when the MTS commits. -/
def execMtsEvmask (y : Syl) (s : State) : Host.Outcome State Fault Refusal := .next (stage (.mtsEvmask y) y s)
/-- S_THRESHOLD (R350): An MTS to THRESH with no operation sets the S threshold at the hub. -/
def execSThreshold (y : Syl) (s : State) : Host.Outcome State Fault Refusal := .next (stage (.sThreshold y) y s)
/-- S_CLAIM (R351): An MTS to THRESH with OP claim claims the most recent unclaimed S interrupt. -/
def execSClaim (y : Syl) (s : State) : Host.Outcome State Fault Refusal := .next (stage (.sClaim y) y s)
/-- S_EOI (R352): An MTS to THRESH with OP end of interrupt ends the named S source. -/
def execSEoi (y : Syl) (s : State) : Host.Outcome State Fault Refusal := .next (stage (.sEoi y) y s)
/-- WFE (R146): Consumes the event flag or waits for it or an interrupt wake. -/
def execWfe (y : Syl) (s : State) : Host.Outcome State Fault Refusal := .next (stage (.wfe y) y s)
/-- SEV (R145): Sends one event to a virtual core or event group of the sender's domain. -/
def execSev (y : Syl) (s : State) : Host.Outcome State Fault Refusal := .next (stage (.sev y) y s)
/-- WAITT (R147): Waits until a plumb deadline, an event or an interrupt wake and reports the reason. -/
def execWaitt (y : Syl) (s : State) : Host.Outcome State Fault Refusal := .next (stage (.waitt y) y s)
/-- NAP (R148): Places the core in the nap state until an interrupt wake. -/
def execNap (y : Syl) (s : State) : Host.Outcome State Fault Refusal := .next (stage (.nap y) y s)
/-- RDTIME (R142): Reads plumb time from the course replica into G[D]. -/
def execRdtime (y : Syl) (s : State) : Host.Outcome State Fault Refusal := .next (stage (.rdtime y) y s)
/-- PFLUSH (R142): Discards branch predictor state and words fetched beyond it. -/
def execPflush (y : Syl) (s : State) : Host.Outcome State Fault Refusal := .next (stage (.pflush y) y s)
/-- PBAR (R171): Sets or clears PBARRED and refetches under the new mode. -/
def execPbar (y : Syl) (s : State) : Host.Outcome State Fault Refusal := .next (stage (.pbar y) y s)

end Sys2Proof.Machine
end

