-- ==== Sys2Proof/Machine/ExecInteger.lean ====
section
/-! DEFINITION. The integer syllables (R105, R112 to R114): each joins the words at DE, and its word issues, waits or faults there. -/
namespace Sys2Proof.Machine

/-- NOP (R112): A0 or A1 operation that does nothing. -/
def execNop (y : Syl) (s : State) : Host.Outcome State Fault Refusal := .next (stage (.nop y) y s)
/-- ADD (R112): Writes a + b modulo 2^w to G[D]. -/
def execAdd (y : Syl) (s : State) : Host.Outcome State Fault Refusal := .next (stage (.add y) y s)
/-- SUB (R112): Writes a − b modulo 2^w to G[D]. -/
def execSub (y : Syl) (s : State) : Host.Outcome State Fault Refusal := .next (stage (.sub y) y s)
/-- AND (R112): Writes the bitwise AND of a and b to G[D]. -/
def execAnd (y : Syl) (s : State) : Host.Outcome State Fault Refusal := .next (stage (.and y) y s)
/-- OR (R112): Writes the bitwise OR of a and b to G[D]. -/
def execOr (y : Syl) (s : State) : Host.Outcome State Fault Refusal := .next (stage (.or y) y s)
/-- XOR (R112): Writes the bitwise XOR of a and b to G[D]. -/
def execXor (y : Syl) (s : State) : Host.Outcome State Fault Refusal := .next (stage (.xor y) y s)
/-- ANDN (R112): Writes a AND NOT b to G[D]. -/
def execAndn (y : Syl) (s : State) : Host.Outcome State Fault Refusal := .next (stage (.andn y) y s)
/-- SHL (R112): Writes a shifted left by the count to G[D]. -/
def execShl (y : Syl) (s : State) : Host.Outcome State Fault Refusal := .next (stage (.shl y) y s)
/-- SHR (R112): Writes a shifted right logically by the count to G[D]. -/
def execShr (y : Syl) (s : State) : Host.Outcome State Fault Refusal := .next (stage (.shr y) y s)
/-- SAR (R112): Writes a shifted right arithmetically by the count to G[D]. -/
def execSar (y : Syl) (s : State) : Host.Outcome State Fault Refusal := .next (stage (.sar y) y s)
/-- ROR (R112): Writes a rotated right by the count within w bits to G[D]. -/
def execRor (y : Syl) (s : State) : Host.Outcome State Fault Refusal := .next (stage (.ror y) y s)
/-- CMPEQ (R112): Writes 1 to G[D] if a equals b, otherwise 0. -/
def execCmpeq (y : Syl) (s : State) : Host.Outcome State Fault Refusal := .next (stage (.cmpeq y) y s)
/-- CMPLT (R112): Writes 1 to G[D] if a is below b signed, otherwise 0. -/
def execCmplt (y : Syl) (s : State) : Host.Outcome State Fault Refusal := .next (stage (.cmplt y) y s)
/-- CMPLTU (R112): Writes 1 to G[D] if a is below b unsigned, otherwise 0. -/
def execCmpltu (y : Syl) (s : State) : Host.Outcome State Fault Refusal := .next (stage (.cmpltu y) y s)
/-- MIN (R112): Writes the signed minimum of a and b to G[D]. -/
def execMin (y : Syl) (s : State) : Host.Outcome State Fault Refusal := .next (stage (.min y) y s)
/-- MAX (R112): Writes the signed maximum of a and b to G[D]. -/
def execMax (y : Syl) (s : State) : Host.Outcome State Fault Refusal := .next (stage (.max y) y s)
/-- MINU (R112): Writes the unsigned minimum of a and b to G[D]. -/
def execMinu (y : Syl) (s : State) : Host.Outcome State Fault Refusal := .next (stage (.minu y) y s)
/-- MAXU (R112): Writes the unsigned maximum of a and b to G[D]. -/
def execMaxu (y : Syl) (s : State) : Host.Outcome State Fault Refusal := .next (stage (.maxu y) y s)
/-- CLZ (R112): Writes the count of leading zeros of a to G[D]. -/
def execClz (y : Syl) (s : State) : Host.Outcome State Fault Refusal := .next (stage (.clz y) y s)
/-- CTZ (R112): Writes the count of trailing zeros of a to G[D]. -/
def execCtz (y : Syl) (s : State) : Host.Outcome State Fault Refusal := .next (stage (.ctz y) y s)
/-- POPC (R112): Writes the count of ones in a to G[D]. -/
def execPopc (y : Syl) (s : State) : Host.Outcome State Fault Refusal := .next (stage (.popc y) y s)
/-- LDI (R112): Writes the sign-extended immediate to G[D]. -/
def execLdi (y : Syl) (s : State) : Host.Outcome State Fault Refusal := .next (stage (.ldi y) y s)
/-- LDHI (R112): Writes the immediate into bits 63:30 above a[29:0] to G[D]. -/
def execLdhi (y : Syl) (s : State) : Host.Outcome State Fault Refusal := .next (stage (.ldhi y) y s)
/-- MUL (R112): Writes the low w bits of a × b to G[D]. -/
def execMul (y : Syl) (s : State) : Host.Outcome State Fault Refusal := .next (stage (.mul y) y s)
/-- MULH (R112): Writes the high w bits of the signed product to G[D]. -/
def execMulh (y : Syl) (s : State) : Host.Outcome State Fault Refusal := .next (stage (.mulh y) y s)
/-- MULHU (R112): Writes the high w bits of the unsigned product to G[D]. -/
def execMulhu (y : Syl) (s : State) : Host.Outcome State Fault Refusal := .next (stage (.mulhu y) y s)
/-- DIV (R114): Writes the signed quotient truncated toward zero to G[D]. -/
def execDiv (y : Syl) (s : State) : Host.Outcome State Fault Refusal := .next (stage (.div y) y s)
/-- DIVU (R114): Writes the unsigned quotient to G[D]. -/
def execDivu (y : Syl) (s : State) : Host.Outcome State Fault Refusal := .next (stage (.divu y) y s)
/-- REM (R114): Writes the signed remainder to G[D]. -/
def execRem (y : Syl) (s : State) : Host.Outcome State Fault Refusal := .next (stage (.rem y) y s)
/-- REMU (R114): Writes the unsigned remainder to G[D]. -/
def execRemu (y : Syl) (s : State) : Host.Outcome State Fault Refusal := .next (stage (.remu y) y s)

end Sys2Proof.Machine
end

