-- ==== Sys2Proof/Machine/ExecMemory.lean ====
section
/-! DEFINITION. The memory, atomic, block-repeat and maintenance syllables (R106, R115 to R139). -/
namespace Sys2Proof.Machine

/-- LD8S (R118): Loads one byte sign-extended into G[D]. -/
def execLd8s (y : Syl) (s : State) : Host.Outcome State Fault Refusal := .next (stage (.ld8s y) y s)
/-- LD8U (R118): Loads one byte zero-extended into G[D]. -/
def execLd8u (y : Syl) (s : State) : Host.Outcome State Fault Refusal := .next (stage (.ld8u y) y s)
/-- LD16S (R118): Loads two bytes sign-extended into G[D]. -/
def execLd16s (y : Syl) (s : State) : Host.Outcome State Fault Refusal := .next (stage (.ld16s y) y s)
/-- LD16U (R118): Loads two bytes zero-extended into G[D]. -/
def execLd16u (y : Syl) (s : State) : Host.Outcome State Fault Refusal := .next (stage (.ld16u y) y s)
/-- LD32S (R118): Loads four bytes sign-extended into G[D]. -/
def execLd32s (y : Syl) (s : State) : Host.Outcome State Fault Refusal := .next (stage (.ld32s y) y s)
/-- LD32U (R118): Loads four bytes zero-extended into G[D]. -/
def execLd32u (y : Syl) (s : State) : Host.Outcome State Fault Refusal := .next (stage (.ld32u y) y s)
/-- LD64 (R118): Loads eight bytes into G[D]. -/
def execLd64 (y : Syl) (s : State) : Host.Outcome State Fault Refusal := .next (stage (.ld64 y) y s)
/-- LDV (R118): Loads sixteen bytes into V[D]. -/
def execLdv (y : Syl) (s : State) : Host.Outcome State Fault Refusal := .next (stage (.ldv y) y s)
/-- ST8 (R118): Places a one-byte store of G[D] in the store buffer. -/
def execSt8 (y : Syl) (s : State) : Host.Outcome State Fault Refusal := .next (stage (.st8 y) y s)
/-- ST16 (R118): Places a two-byte store of G[D] in the store buffer. -/
def execSt16 (y : Syl) (s : State) : Host.Outcome State Fault Refusal := .next (stage (.st16 y) y s)
/-- ST32 (R118): Places a four-byte store of G[D] in the store buffer. -/
def execSt32 (y : Syl) (s : State) : Host.Outcome State Fault Refusal := .next (stage (.st32 y) y s)
/-- ST64 (R118): Places an eight-byte store of G[D] in the store buffer. -/
def execSt64 (y : Syl) (s : State) : Host.Outcome State Fault Refusal := .next (stage (.st64 y) y s)
/-- STV (R118): Places a sixteen-byte store of V[D] in the store buffer. -/
def execStv (y : Syl) (s : State) : Host.Outcome State Fault Refusal := .next (stage (.stv y) y s)
/-- ASWAP (R123): Atomically swaps 8 bytes and returns the old value. -/
def execAswap (y : Syl) (s : State) : Host.Outcome State Fault Refusal := .next (stage (.aswap y) y s)
/-- AADD (R123): Atomically adds to 8 bytes and returns the old value. -/
def execAadd (y : Syl) (s : State) : Host.Outcome State Fault Refusal := .next (stage (.aadd y) y s)
/-- AMIN (R123): Atomic signed minimum on 8 bytes, returning the old value. -/
def execAmin (y : Syl) (s : State) : Host.Outcome State Fault Refusal := .next (stage (.amin y) y s)
/-- AMAX (R123): Atomic signed maximum on 8 bytes, returning the old value. -/
def execAmax (y : Syl) (s : State) : Host.Outcome State Fault Refusal := .next (stage (.amax y) y s)
/-- AMINU (R123): Atomic unsigned minimum on 8 bytes, returning the old value. -/
def execAminu (y : Syl) (s : State) : Host.Outcome State Fault Refusal := .next (stage (.aminu y) y s)
/-- AMAXU (R123): Atomic unsigned maximum on 8 bytes, returning the old value. -/
def execAmaxu (y : Syl) (s : State) : Host.Outcome State Fault Refusal := .next (stage (.amaxu y) y s)
/-- ASWAPW (R123): Atomically swaps 4 bytes and returns the old value sign-extended. -/
def execAswapw (y : Syl) (s : State) : Host.Outcome State Fault Refusal := .next (stage (.aswapw y) y s)
/-- AADDW (R123): Atomically adds to 4 bytes and returns the old value sign-extended. -/
def execAaddw (y : Syl) (s : State) : Host.Outcome State Fault Refusal := .next (stage (.aaddw y) y s)
/-- AMINW (R123): Atomic signed minimum on 4 bytes. -/
def execAminw (y : Syl) (s : State) : Host.Outcome State Fault Refusal := .next (stage (.aminw y) y s)
/-- AMAXW (R123): Atomic signed maximum on 4 bytes. -/
def execAmaxw (y : Syl) (s : State) : Host.Outcome State Fault Refusal := .next (stage (.amaxw y) y s)
/-- AMINUW (R123): Atomic unsigned minimum on 4 bytes, old value zero-extended. -/
def execAminuw (y : Syl) (s : State) : Host.Outcome State Fault Refusal := .next (stage (.aminuw y) y s)
/-- AMAXUW (R123): Atomic unsigned maximum on 4 bytes, old value zero-extended. -/
def execAmaxuw (y : Syl) (s : State) : Host.Outcome State Fault Refusal := .next (stage (.amaxuw y) y s)
/-- LR (R126): Loads 8 bytes and sets the core's reservation, or opens a locked sequence in a PCIe window. -/
def execLr (y : Syl) (s : State) : Host.Outcome State Fault Refusal := .next (stage (.lr y) y s)
/-- SC (R126): Stores 8 bytes only if the reservation holds and reports success or failure in G[D]. -/
def execSc (y : Syl) (s : State) : Host.Outcome State Fault Refusal := .next (stage (.sc y) y s)
/-- FENCE (R122): Orders older accesses of the selected kinds before younger ones. -/
def execFence (y : Syl) (s : State) : Host.Outcome State Fault Refusal := .next (stage (.fence y) y s)
/-- MOVB (R130): Starts a block copy of G4 elements from the G5 region to the G6 region. -/
def execMovb (y : Syl) (s : State) : Host.Outcome State Fault Refusal := .next (stage (.movb y) y s)
/-- SETB (R130): Starts a block fill of the G6 region with G7. -/
def execSetb (y : Syl) (s : State) : Host.Outcome State Fault Refusal := .next (stage (.setb y) y s)
/-- CMPB (R130): Starts a block compare of the G5 and G6 regions. -/
def execCmpb (y : Syl) (s : State) : Host.Outcome State Fault Refusal := .next (stage (.cmpb y) y s)
/-- SCANB (R130): Starts a block scan of the G5 region for G7. -/
def execScanb (y : Syl) (s : State) : Host.Outcome State Fault Refusal := .next (stage (.scanb y) y s)
/-- CFLUSH (R135): Writes back and invalidates the line in every cache of the coherent domain. -/
def execCflush (y : Syl) (s : State) : Host.Outcome State Fault Refusal := .next (stage (.cflush y) y s)
/-- CCLEAN (R135): Writes a dirty copy of the line to memory, leaving copies valid. -/
def execCclean (y : Syl) (s : State) : Host.Outcome State Fault Refusal := .next (stage (.cclean y) y s)
/-- CINV (R135): Invalidates every copy of the line, discarding dirty data. -/
def execCinv (y : Syl) (s : State) : Host.Outcome State Fault Refusal := .next (stage (.cinv y) y s)
/-- PREF (R135): Reads the line into the course L2, or is dropped. -/
def execPref (y : Syl) (s : State) : Host.Outcome State Fault Refusal := .next (stage (.pref y) y s)
/-- ICINV (R135): Invalidates the line in every in-service L1I and discards words fetched beyond it. -/
def execIcinv (y : Syl) (s : State) : Host.Outcome State Fault Refusal := .next (stage (.icinv y) y s)
/-- TLBI (R242): Broadcasts removal of TLB and walk cache entries for a linear page. -/
def execTlbi (y : Syl) (s : State) : Host.Outcome State Fault Refusal := .next (stage (.tlbi y) y s)
/-- TLBID (R242): Broadcasts removal of every TLB and walk cache entry of a TDID tag. -/
def execTlbid (y : Syl) (s : State) : Host.Outcome State Fault Refusal := .next (stage (.tlbid y) y s)
/-- TLBIA (R242): Broadcasts removal of every TLB and walk cache entry. -/
def execTlbia (y : Syl) (s : State) : Host.Outcome State Fault Refusal := .next (stage (.tlbia y) y s)
/-- TLBLK (R240): Translates an address and installs the entry locked in the core's L2 TLB. -/
def execTlblk (y : Syl) (s : State) : Host.Outcome State Fault Refusal := .next (stage (.tlblk y) y s)
/-- TLBULK (R137): Clears the lock on the core's entries for a linear page. -/
def execTlbulk (y : Syl) (s : State) : Host.Outcome State Fault Refusal := .next (stage (.tlbulk y) y s)
/-- LSEG (R223): Loads a segment register from a 16-byte descriptor after checking it. -/
def execLseg (y : Syl) (s : State) : Host.Outcome State Fault Refusal := .next (stage (.lseg y) y s)

end Sys2Proof.Machine
end

