-- ==== Sys2Proof/Machine/ExecVector.lean ====
section
/-! DEFINITION. The vector and floating-point syllables (R107, R140, R141). -/
namespace Sys2Proof.Machine

/-- VADD (R140): Adds vector elements modulo 2^e. -/
def execVadd (y : Syl) (s : State) : Host.Outcome State Fault Refusal := .next (stage (.vadd y) y s)
/-- VSUB (R140): Subtracts vector elements modulo 2^e. -/
def execVsub (y : Syl) (s : State) : Host.Outcome State Fault Refusal := .next (stage (.vsub y) y s)
/-- VAND (R140): Bitwise AND on 128 bits. -/
def execVand (y : Syl) (s : State) : Host.Outcome State Fault Refusal := .next (stage (.vand y) y s)
/-- VOR (R140): Bitwise OR on 128 bits. -/
def execVor (y : Syl) (s : State) : Host.Outcome State Fault Refusal := .next (stage (.vor y) y s)
/-- VXOR (R140): Bitwise XOR on 128 bits. -/
def execVxor (y : Syl) (s : State) : Host.Outcome State Fault Refusal := .next (stage (.vxor y) y s)
/-- VSHL (R140): Shifts each element left by its own count. -/
def execVshl (y : Syl) (s : State) : Host.Outcome State Fault Refusal := .next (stage (.vshl y) y s)
/-- VSHR (R140): Shifts each element right logically by its own count. -/
def execVshr (y : Syl) (s : State) : Host.Outcome State Fault Refusal := .next (stage (.vshr y) y s)
/-- VMIN (R140): Signed element-wise minimum. -/
def execVmin (y : Syl) (s : State) : Host.Outcome State Fault Refusal := .next (stage (.vmin y) y s)
/-- VMAX (R140): Signed element-wise maximum. -/
def execVmax (y : Syl) (s : State) : Host.Outcome State Fault Refusal := .next (stage (.vmax y) y s)
/-- VCMPEQ (R140): Element mask of equality. -/
def execVcmpeq (y : Syl) (s : State) : Host.Outcome State Fault Refusal := .next (stage (.vcmpeq y) y s)
/-- VCMPGT (R140): Element mask of signed greater-than. -/
def execVcmpgt (y : Syl) (s : State) : Host.Outcome State Fault Refusal := .next (stage (.vcmpgt y) y s)
/-- FADD (R141): IEEE 754 element addition rounded by RM. -/
def execFadd (y : Syl) (s : State) : Host.Outcome State Fault Refusal := .next (stage (.fadd y) y s)
/-- FSUB (R141): IEEE 754 element subtraction rounded by RM. -/
def execFsub (y : Syl) (s : State) : Host.Outcome State Fault Refusal := .next (stage (.fsub y) y s)
/-- FMUL (R141): IEEE 754 element multiplication rounded by RM. -/
def execFmul (y : Syl) (s : State) : Host.Outcome State Fault Refusal := .next (stage (.fmul y) y s)
/-- FDIV (R141): IEEE 754 element division on the unpipelined divider. -/
def execFdiv (y : Syl) (s : State) : Host.Outcome State Fault Refusal := .next (stage (.fdiv y) y s)
/-- FSQRT (R141): IEEE 754 element square root on the unpipelined divider. -/
def execFsqrt (y : Syl) (s : State) : Host.Outcome State Fault Refusal := .next (stage (.fsqrt y) y s)
/-- FMA (R141): Fused multiply-add V[D] + V[A] × V[B], rounded once. -/
def execFma (y : Syl) (s : State) : Host.Outcome State Fault Refusal := .next (stage (.fma y) y s)
/-- FMS (R141): Fused multiply-subtract V[D] − V[A] × V[B], rounded once. -/
def execFms (y : Syl) (s : State) : Host.Outcome State Fault Refusal := .next (stage (.fms y) y s)
/-- FMIN (R141): Floating-point minimum with the NaN and signed-zero rules. -/
def execFmin (y : Syl) (s : State) : Host.Outcome State Fault Refusal := .next (stage (.fmin y) y s)
/-- FMAX (R141): Floating-point maximum with the NaN and signed-zero rules. -/
def execFmax (y : Syl) (s : State) : Host.Outcome State Fault Refusal := .next (stage (.fmax y) y s)
/-- FCMPEQ (R140): Element mask of floating-point equality. -/
def execFcmpeq (y : Syl) (s : State) : Host.Outcome State Fault Refusal := .next (stage (.fcmpeq y) y s)
/-- FCMPLT (R140): Element mask of floating-point less-than. -/
def execFcmplt (y : Syl) (s : State) : Host.Outcome State Fault Refusal := .next (stage (.fcmplt y) y s)
/-- FCVTIF (R140): Converts signed integers to floats of the same width. -/
def execFcvtif (y : Syl) (s : State) : Host.Outcome State Fault Refusal := .next (stage (.fcvtif y) y s)
/-- FCVTFI (R141): Converts floats to signed integers with saturation and NaN to 0. -/
def execFcvtfi (y : Syl) (s : State) : Host.Outcome State Fault Refusal := .next (stage (.fcvtfi y) y s)
/-- VMOV (R140): Copies V[A] to V[D]. -/
def execVmov (y : Syl) (s : State) : Host.Outcome State Fault Refusal := .next (stage (.vmov y) y s)
/-- VINSG (R140): Inserts G[A] into element B of V[D]. -/
def execVinsg (y : Syl) (s : State) : Host.Outcome State Fault Refusal := .next (stage (.vinsg y) y s)
/-- VEXTG (R140): Extracts element B of V[A] sign-extended into G[D]. -/
def execVextg (y : Syl) (s : State) : Host.Outcome State Fault Refusal := .next (stage (.vextg y) y s)
/-- VSPLAT (R140): Broadcasts G[A] to every element of V[D]. -/
def execVsplat (y : Syl) (s : State) : Host.Outcome State Fault Refusal := .next (stage (.vsplat y) y s)
/-- VSHUF (R140): Selects bytes of V[A] by the bytes of V[B]. -/
def execVshuf (y : Syl) (s : State) : Host.Outcome State Fault Refusal := .next (stage (.vshuf y) y s)

end Sys2Proof.Machine
end

