-- ==== Sys2Proof/Machine/Dispatch.lean ====
section
/-! DEFINITION. One arm for each command of the opcode table, in its order: a direct call of its meaning. -/
namespace Sys2Proof.Machine

/-- The effect of a command on everything but the queue of waiting commands. -/
def exec (i : Instr) (s : State) : Host.Outcome State Fault Refusal :=
  match i with
  | .nop y => Sys2Proof.Machine.execNop y s
  | .add y => Sys2Proof.Machine.execAdd y s
  | .sub y => Sys2Proof.Machine.execSub y s
  | .and y => Sys2Proof.Machine.execAnd y s
  | .or y => Sys2Proof.Machine.execOr y s
  | .xor y => Sys2Proof.Machine.execXor y s
  | .andn y => Sys2Proof.Machine.execAndn y s
  | .shl y => Sys2Proof.Machine.execShl y s
  | .shr y => Sys2Proof.Machine.execShr y s
  | .sar y => Sys2Proof.Machine.execSar y s
  | .ror y => Sys2Proof.Machine.execRor y s
  | .cmpeq y => Sys2Proof.Machine.execCmpeq y s
  | .cmplt y => Sys2Proof.Machine.execCmplt y s
  | .cmpltu y => Sys2Proof.Machine.execCmpltu y s
  | .min y => Sys2Proof.Machine.execMin y s
  | .max y => Sys2Proof.Machine.execMax y s
  | .minu y => Sys2Proof.Machine.execMinu y s
  | .maxu y => Sys2Proof.Machine.execMaxu y s
  | .clz y => Sys2Proof.Machine.execClz y s
  | .ctz y => Sys2Proof.Machine.execCtz y s
  | .popc y => Sys2Proof.Machine.execPopc y s
  | .ldi y => Sys2Proof.Machine.execLdi y s
  | .ldhi y => Sys2Proof.Machine.execLdhi y s
  | .mul y => Sys2Proof.Machine.execMul y s
  | .mulh y => Sys2Proof.Machine.execMulh y s
  | .mulhu y => Sys2Proof.Machine.execMulhu y s
  | .div y => Sys2Proof.Machine.execDiv y s
  | .divu y => Sys2Proof.Machine.execDivu y s
  | .rem y => Sys2Proof.Machine.execRem y s
  | .remu y => Sys2Proof.Machine.execRemu y s
  | .ld8s y => Sys2Proof.Machine.execLd8s y s
  | .ld8u y => Sys2Proof.Machine.execLd8u y s
  | .ld16s y => Sys2Proof.Machine.execLd16s y s
  | .ld16u y => Sys2Proof.Machine.execLd16u y s
  | .ld32s y => Sys2Proof.Machine.execLd32s y s
  | .ld32u y => Sys2Proof.Machine.execLd32u y s
  | .ld64 y => Sys2Proof.Machine.execLd64 y s
  | .ldv y => Sys2Proof.Machine.execLdv y s
  | .st8 y => Sys2Proof.Machine.execSt8 y s
  | .st16 y => Sys2Proof.Machine.execSt16 y s
  | .st32 y => Sys2Proof.Machine.execSt32 y s
  | .st64 y => Sys2Proof.Machine.execSt64 y s
  | .stv y => Sys2Proof.Machine.execStv y s
  | .aswap y => Sys2Proof.Machine.execAswap y s
  | .aadd y => Sys2Proof.Machine.execAadd y s
  | .amin y => Sys2Proof.Machine.execAmin y s
  | .amax y => Sys2Proof.Machine.execAmax y s
  | .aminu y => Sys2Proof.Machine.execAminu y s
  | .amaxu y => Sys2Proof.Machine.execAmaxu y s
  | .aswapw y => Sys2Proof.Machine.execAswapw y s
  | .aaddw y => Sys2Proof.Machine.execAaddw y s
  | .aminw y => Sys2Proof.Machine.execAminw y s
  | .amaxw y => Sys2Proof.Machine.execAmaxw y s
  | .aminuw y => Sys2Proof.Machine.execAminuw y s
  | .amaxuw y => Sys2Proof.Machine.execAmaxuw y s
  | .lr y => Sys2Proof.Machine.execLr y s
  | .sc y => Sys2Proof.Machine.execSc y s
  | .fence y => Sys2Proof.Machine.execFence y s
  | .movb y => Sys2Proof.Machine.execMovb y s
  | .setb y => Sys2Proof.Machine.execSetb y s
  | .cmpb y => Sys2Proof.Machine.execCmpb y s
  | .scanb y => Sys2Proof.Machine.execScanb y s
  | .blockChunk n parityErr => Sys2Proof.Machine.execBlockChunk n parityErr s
  | .cflush y => Sys2Proof.Machine.execCflush y s
  | .cclean y => Sys2Proof.Machine.execCclean y s
  | .cinv y => Sys2Proof.Machine.execCinv y s
  | .pref y => Sys2Proof.Machine.execPref y s
  | .icinv y => Sys2Proof.Machine.execIcinv y s
  | .tlbi y => Sys2Proof.Machine.execTlbi y s
  | .tlbid y => Sys2Proof.Machine.execTlbid y s
  | .tlbia y => Sys2Proof.Machine.execTlbia y s
  | .tlblk y => Sys2Proof.Machine.execTlblk y s
  | .tlbulk y => Sys2Proof.Machine.execTlbulk y s
  | .lseg y => Sys2Proof.Machine.execLseg y s
  | .vadd y => Sys2Proof.Machine.execVadd y s
  | .vsub y => Sys2Proof.Machine.execVsub y s
  | .vand y => Sys2Proof.Machine.execVand y s
  | .vor y => Sys2Proof.Machine.execVor y s
  | .vxor y => Sys2Proof.Machine.execVxor y s
  | .vshl y => Sys2Proof.Machine.execVshl y s
  | .vshr y => Sys2Proof.Machine.execVshr y s
  | .vmin y => Sys2Proof.Machine.execVmin y s
  | .vmax y => Sys2Proof.Machine.execVmax y s
  | .vcmpeq y => Sys2Proof.Machine.execVcmpeq y s
  | .vcmpgt y => Sys2Proof.Machine.execVcmpgt y s
  | .fadd y => Sys2Proof.Machine.execFadd y s
  | .fsub y => Sys2Proof.Machine.execFsub y s
  | .fmul y => Sys2Proof.Machine.execFmul y s
  | .fdiv y => Sys2Proof.Machine.execFdiv y s
  | .fsqrt y => Sys2Proof.Machine.execFsqrt y s
  | .fma y => Sys2Proof.Machine.execFma y s
  | .fms y => Sys2Proof.Machine.execFms y s
  | .fmin y => Sys2Proof.Machine.execFmin y s
  | .fmax y => Sys2Proof.Machine.execFmax y s
  | .fcmpeq y => Sys2Proof.Machine.execFcmpeq y s
  | .fcmplt y => Sys2Proof.Machine.execFcmplt y s
  | .fcvtif y => Sys2Proof.Machine.execFcvtif y s
  | .fcvtfi y => Sys2Proof.Machine.execFcvtfi y s
  | .vmov y => Sys2Proof.Machine.execVmov y s
  | .vinsg y => Sys2Proof.Machine.execVinsg y s
  | .vextg y => Sys2Proof.Machine.execVextg y s
  | .vsplat y => Sys2Proof.Machine.execVsplat y s
  | .vshuf y => Sys2Proof.Machine.execVshuf y s
  | .br y => Sys2Proof.Machine.execBr y s
  | .jr y => Sys2Proof.Machine.execJr y s
  | .call y => Sys2Proof.Machine.execCall y s
  | .callr y => Sys2Proof.Machine.execCallr y s
  | .ret y => Sys2Proof.Machine.execRet y s
  | .syscall y => Sys2Proof.Machine.execSyscall y s
  | .hypercall y => Sys2Proof.Machine.execHypercall y s
  | .brk y => Sys2Proof.Machine.execBrk y s
  | .rfe y => Sys2Proof.Machine.execRfe y s
  | .rfeFrameCommit n => Sys2Proof.Machine.execRfeFrameCommit n s
  | .mfs y => Sys2Proof.Machine.execMfs y s
  | .mts y => Sys2Proof.Machine.execMts y s
  | .mtsTdid y => Sys2Proof.Machine.execMtsTdid y s
  | .rebindDelayExpiry u => Sys2Proof.Machine.execRebindDelayExpiry u s
  | .mtsRein y => Sys2Proof.Machine.execMtsRein y s
  | .mtsLockheld y => Sys2Proof.Machine.execMtsLockheld y s
  | .mtsTmode y => Sys2Proof.Machine.execMtsTmode y s
  | .classFFillDone n => Sys2Proof.Machine.execClassFFillDone n s
  | .mtsPctl y => Sys2Proof.Machine.execMtsPctl y s
  | .mtsEvmask y => Sys2Proof.Machine.execMtsEvmask y s
  | .sThreshold y => Sys2Proof.Machine.execSThreshold y s
  | .sClaim y => Sys2Proof.Machine.execSClaim y s
  | .sEoi y => Sys2Proof.Machine.execSEoi y s
  | .wfe y => Sys2Proof.Machine.execWfe y s
  | .sev y => Sys2Proof.Machine.execSev y s
  | .waitt y => Sys2Proof.Machine.execWaitt y s
  | .waittDeadline n => Sys2Proof.Machine.execWaittDeadline n s
  | .nap y => Sys2Proof.Machine.execNap y s
  | .rdtime y => Sys2Proof.Machine.execRdtime y s
  | .pflush y => Sys2Proof.Machine.execPflush y s
  | .pbar y => Sys2Proof.Machine.execPbar y s
  | .warmUpEnd n => Sys2Proof.Machine.execWarmUpEnd n s
  | .l1iMissFill n => Sys2Proof.Machine.execL1iMissFill n s
  | .loadDataReturn n j => Sys2Proof.Machine.execLoadDataReturn n j s
  | .resultWrite n j => Sys2Proof.Machine.execResultWrite n j s
  | .storeDrain n => Sys2Proof.Machine.execStoreDrain n s
  | .walkEntryRead n => Sys2Proof.Machine.execWalkEntryRead n s
  | .exceptionEntry n => Sys2Proof.Machine.execExceptionEntry n s
  | .trapEntryCommit n => Sys2Proof.Machine.execTrapEntryCommit n s
  | .interruptOffer n o => Sys2Proof.Machine.execInterruptOffer n o s
  | .classPEntry n => Sys2Proof.Machine.execClassPEntry n s
  | .classFEntry n => Sys2Proof.Machine.execClassFEntry n s
  | .eventArrival n epoch sender => Sys2Proof.Machine.execEventArrival n epoch sender s
  | .paceGeneratorTick n => Sys2Proof.Machine.execPaceGeneratorTick n s
  | .reservationHoldExpiry n => Sys2Proof.Machine.execReservationHoldExpiry n s
  | .rdS m => Sys2Proof.Machine.execRdS m s
  | .rdO m => Sys2Proof.Machine.execRdO m s
  | .upg m => Sys2Proof.Machine.execUpg m s
  | .hrd m => Sys2Proof.Machine.execHrd m s
  | .hwr m => Sys2Proof.Machine.execHwr m s
  | .hat m => Sys2Proof.Machine.execHat m s
  | .hlr m => Sys2Proof.Machine.execHlr m s
  | .hsc m => Sys2Proof.Machine.execHsc m s
  | .flushReq m => Sys2Proof.Machine.execFlushReq m s
  | .cleanReq m => Sys2Proof.Machine.execCleanReq m s
  | .invReq m => Sys2Proof.Machine.execInvReq m s
  | .fwdS m => Sys2Proof.Machine.execFwdS m s
  | .fwdO m => Sys2Proof.Machine.execFwdO m s
  | .inv m => Sys2Proof.Machine.execInv m s
  | .binv m => Sys2Proof.Machine.execBinv m s
  | .flush m => Sys2Proof.Machine.execFlush m s
  | .clean m => Sys2Proof.Machine.execClean m s
  | .setScrub m => Sys2Proof.Machine.execSetScrub m s
  | .setScrubAck m => Sys2Proof.Machine.execSetScrubAck m s
  | .dataS m => Sys2Proof.Machine.execDataS m s
  | .dataE m => Sys2Proof.Machine.execDataE m s
  | .dataO m => Sys2Proof.Machine.execDataO m s
  | .dataNf m => Sys2Proof.Machine.execDataNf m s
  | .grant m => Sys2Proof.Machine.execGrant m s
  | .fwdAck m => Sys2Proof.Machine.execFwdAck m s
  | .wbPending m => Sys2Proof.Machine.execWbPending m s
  | .invAck m => Sys2Proof.Machine.execInvAck m s
  | .binvAck m => Sys2Proof.Machine.execBinvAck m s
  | .wb m => Sys2Proof.Machine.execWb m s
  | .vic m => Sys2Proof.Machine.execVic m s
  | .evn m => Sys2Proof.Machine.execEvn m s
  | .wbAck m => Sys2Proof.Machine.execWbAck m s
  | .hDone m => Sys2Proof.Machine.execHDone m s
  | .retry m => Sys2Proof.Machine.execRetry m s
  | .retryBackoffExpiry agent line => Sys2Proof.Machine.execRetryBackoffExpiry agent line s
  | .claimExpiry slice set => Sys2Proof.Machine.execClaimExpiry slice set s
  | .messageToDownAgent m => Sys2Proof.Machine.execMessageToDownAgent m s
  | .agentDown m => Sys2Proof.Machine.execAgentDown m s
  | .deadAgentTimeout slice line agent => Sys2Proof.Machine.execDeadAgentTimeout slice line agent s
  | .deadAgentNotice slice agent => Sys2Proof.Machine.execDeadAgentNotice slice agent s
  | .homeStall course line => Sys2Proof.Machine.execHomeStall course line s
  | .tlbInvalidation n j => Sys2Proof.Machine.execTlbInvalidation n j s
  | .tlbInvAck n from_ => Sys2Proof.Machine.execTlbInvAck n from_ s
  | .icinvBroadcast course n line => Sys2Proof.Machine.execIcinvBroadcast course n line s
  | .windowLowerWrite st => Sys2Proof.Machine.execWindowLowerWrite st s
  | .windowUpperWrite st => Sys2Proof.Machine.execWindowUpperWrite st s
  | .windowHolderUpdate holder t w => Sys2Proof.Machine.execWindowHolderUpdate holder t w s
  | .pmaskWrite st => Sys2Proof.Machine.execPmaskWrite st s
  | .domPause st => Sys2Proof.Machine.execDomPause st s
  | .domUnpause st => Sys2Proof.Machine.execDomUnpause st s
  | .domRtWrite st => Sys2Proof.Machine.execDomRtWrite st s
  | .ctlWrite st => Sys2Proof.Machine.execCtlWrite st s
  | .hubSetpend st => Sys2Proof.Machine.execHubSetpend st s
  | .hubClrpend st => Sys2Proof.Machine.execHubClrpend st s
  | .srcWrite st => Sys2Proof.Machine.execSrcWrite st s
  | .hThreshold st => Sys2Proof.Machine.execHThreshold st s
  | .hClaim st => Sys2Proof.Machine.execHClaim st s
  | .hEoi st => Sys2Proof.Machine.execHEoi st s
  | .msiMessage k epoch data => Sys2Proof.Machine.execMsiMessage k epoch data s
  | .levelLineChange id => Sys2Proof.Machine.execLevelLineChange id s
  | .offerAnswer n id a => Sys2Proof.Machine.execOfferAnswer n id a s
  | .bindingReport n => Sys2Proof.Machine.execBindingReport n s
  | .coreStateReport n => Sys2Proof.Machine.execCoreStateReport n s
  | .sevMessage tdid group target => Sys2Proof.Machine.execSevMessage tdid group target s
  | .plumbLock => Sys2Proof.Machine.execPlumbLock s
  | .plumbSync devs => Sys2Proof.Machine.execPlumbSync devs s
  | .ppsEdge rising => Sys2Proof.Machine.execPpsEdge rising s
  | .ppsLost => Sys2Proof.Machine.execPpsLost s
  | .refLost => Sys2Proof.Machine.execRefLost s
  | .refReturn => Sys2Proof.Machine.execRefReturn s
  | .setStampHoldEnd agent => Sys2Proof.Machine.execSetStampHoldEnd agent s
  | .setMark agent => Sys2Proof.Machine.execSetMark agent s
  | .jrnSetHoldExpiry => Sys2Proof.Machine.execJrnSetHoldExpiry s
  | .journalRecord agent => Sys2Proof.Machine.execJournalRecord agent s
  | .ringWriteDone => Sys2Proof.Machine.execRingWriteDone s
  | .jrnCtlWrite st => Sys2Proof.Machine.execJrnCtlWrite st s
  | .jrnTailWrite st => Sys2Proof.Machine.execJrnTailWrite st s
  | .minuteBoundary agent => Sys2Proof.Machine.execMinuteBoundary agent s
  | .finalReport agent minute => Sys2Proof.Machine.execFinalReport agent minute s
  | .minuteClose railUJ => Sys2Proof.Machine.execMinuteClose railUJ s
  | .minuteSealed => Sys2Proof.Machine.execMinuteSealed s
  | .l3OccSample slice => Sys2Proof.Machine.execL3OccSample slice s
  | .leaseLow n => Sys2Proof.Machine.execLeaseLow n s
  | .leaseDraw n => Sys2Proof.Machine.execLeaseDraw n s
  | .leaseGrant n => Sys2Proof.Machine.execLeaseGrant n s
  | .leaseExhausted n => Sys2Proof.Machine.execLeaseExhausted n s
  | .graceOut n => Sys2Proof.Machine.execGraceOut n s
  | .leaseReturn n => Sys2Proof.Machine.execLeaseReturn n s
  | .usageReportDue agent t => Sys2Proof.Machine.execUsageReportDue agent t s
  | .usageReport r => Sys2Proof.Machine.execUsageReport r s
  | .dryNotice point t r period => Sys2Proof.Machine.execDryNotice point t r period s
  | .releaseNotice point t r period => Sys2Proof.Machine.execReleaseNotice point t r period s
  | .periodBoundary => Sys2Proof.Machine.execPeriodBoundary s
  | .refill t epoch credits => Sys2Proof.Machine.execRefill t epoch credits s
  | .energyPlan leakMW => Sys2Proof.Machine.execEnergyPlan leakMW s
  | .arbWindowRefill arb => Sys2Proof.Machine.execArbWindowRefill arb s
  | .arbPhase arb => Sys2Proof.Machine.execArbPhase arb s
  | .grantRevoke port line => Sys2Proof.Machine.execGrantRevoke port line s
  | .memoryRequest ch r => Sys2Proof.Machine.execMemoryRequest ch r s
  | .dramReadDone ch id errs => Sys2Proof.Machine.execDramReadDone ch id errs s
  | .refreshDue ch rank => Sys2Proof.Machine.execRefreshDue ch rank s
  | .dimmTempPoll ch temps => Sys2Proof.Machine.execDimmTempPoll ch temps s
  | .retrainStep ch rank step pass => Sys2Proof.Machine.execRetrainStep ch rank step pass s
  | .panicStart ch => Sys2Proof.Machine.execPanicStart ch s
  | .scrubLine ch errs => Sys2Proof.Machine.execScrubLine ch errs s
  | .spareStateDone ch => Sys2Proof.Machine.execSpareStateDone ch s
  | .inboundTlp port t => Sys2Proof.Machine.execInboundTlp port t s
  | .outboundCompletion port n c => Sys2Proof.Machine.execOutboundCompletion port n c s
  | .cplTimeout port n => Sys2Proof.Machine.execCplTimeout port n s
  | .linkDown port link surprise => Sys2Proof.Machine.execLinkDown port link surprise s
  | .linkUp port link rate width => Sys2Proof.Machine.execLinkUp port link rate width s
  | .presenceChange port link present => Sys2Proof.Machine.execPresenceChange port link present s
  | .perstRelease port link => Sys2Proof.Machine.execPerstRelease port link s
  | .ctxBind st => Sys2Proof.Machine.execCtxBind st s
  | .ctxResume st => Sys2Proof.Machine.execCtxResume st s
  | .ioinvPage st => Sys2Proof.Machine.execIoinvPage st s
  | .ioinvUnit st => Sys2Proof.Machine.execIoinvUnit st s
  | .ioinvDomain st => Sys2Proof.Machine.execIoinvDomain st s
  | .ioinvAll st => Sys2Proof.Machine.execIoinvAll st s
  | .ioinvDone => Sys2Proof.Machine.execIoinvDone s
  | .chEnable st => Sys2Proof.Machine.execChEnable st s
  | .chDisable st => Sys2Proof.Machine.execChDisable st s
  | .chTdidWrite st => Sys2Proof.Machine.execChTdidWrite st s
  | .chTailWrite st => Sys2Proof.Machine.execChTailWrite st s
  | .dmaChunk ch => Sys2Proof.Machine.execDmaChunk ch s
  | .dmaCompletion ch => Sys2Proof.Machine.execDmaCompletion ch s
  | .kspWrite bytes => Sys2Proof.Machine.execKspWrite bytes s
  | .kspRead clocked => Sys2Proof.Machine.execKspRead clocked s
  | .kspStatus => Sys2Proof.Machine.execKspStatus s
  | .mbGo st => Sys2Proof.Machine.execMbGo st s
  | .mbReadyRelease st => Sys2Proof.Machine.execMbReadyRelease st s
  | .getState => Sys2Proof.Machine.execGetState s
  | .identify => Sys2Proof.Machine.execIdentify s
  | .getCores => Sys2Proof.Machine.execGetCores s
  | .alerts => Sys2Proof.Machine.execAlerts s
  | .readMinute => Sys2Proof.Machine.execReadMinute s
  | .ackMinute => Sys2Proof.Machine.execAckMinute s
  | .setPlumb => Sys2Proof.Machine.execSetPlumb s
  | .setPps => Sys2Proof.Machine.execSetPps s
  | .setTrim => Sys2Proof.Machine.execSetTrim s
  | .setMemcfg => Sys2Proof.Machine.execSetMemcfg s
  | .setPcie => Sys2Proof.Machine.execSetPcie s
  | .startFill => Sys2Proof.Machine.execStartFill s
  | .serve => Sys2Proof.Machine.execServe s
  | .reset => Sys2Proof.Machine.execReset s
  | .mboxAllow => Sys2Proof.Machine.execMboxAllow s
  | .domOpen => Sys2Proof.Machine.execDomOpen s
  | .domClose => Sys2Proof.Machine.execDomClose s
  | .domBudget => Sys2Proof.Machine.execDomBudget s
  | .setPower => Sys2Proof.Machine.execSetPower s
  | .getPower => Sys2Proof.Machine.execGetPower s
  | .coreRotate readback => Sys2Proof.Machine.execCoreRotate readback s
  | .rotationSwitch n => Sys2Proof.Machine.execRotationSwitch n s
  | .autoRotation n readback => Sys2Proof.Machine.execAutoRotation n readback s
  | .coreReturn => Sys2Proof.Machine.execCoreReturn s
  | .coreStart readback => Sys2Proof.Machine.execCoreStart readback s
  | .agentDead => Sys2Proof.Machine.execAgentDead s
  | .agentReturn => Sys2Proof.Machine.execAgentReturn s
  | .agentReturnDone pass cores => Sys2Proof.Machine.execAgentReturnDone pass cores s
  | .spareStart => Sys2Proof.Machine.execSpareStart s
  | .spareAck => Sys2Proof.Machine.execSpareAck s
  | .devMark => Sys2Proof.Machine.execDevMark s
  | .ktest => Sys2Proof.Machine.execKtest s
  | .patchStage => Sys2Proof.Machine.execPatchStage s
  | .sealKey => Sys2Proof.Machine.execSealKey s
  | .ledgerCfg => Sys2Proof.Machine.execLedgerCfg s
  | .resetRelease => Sys2Proof.Machine.execResetRelease s
  | .bootImageChecked primary secondary => Sys2Proof.Machine.execBootImageChecked primary secondary s
  | .enterFilling => Sys2Proof.Machine.execEnterFilling s
  | .pwrOkChange group high => Sys2Proof.Machine.execPwrOkChange group high s
  | .trainingDone spd => Sys2Proof.Machine.execTrainingDone spd s
  | .fillDone ok => Sys2Proof.Machine.execFillDone ok s
  | .initDone failing => Sys2Proof.Machine.execInitDone failing s
  | .core0Release readbacks => Sys2Proof.Machine.execCore0Release readbacks s
  | .resetNAssert => Sys2Proof.Machine.execResetNAssert s
  | .sensorReading sensor raw => Sys2Proof.Machine.execSensorReading sensor raw s
  | .thermtrip sensor raw => Sys2Proof.Machine.execThermtrip sensor raw s
  | .throttleTick chipUW => Sys2Proof.Machine.execThrottleTick chipUW s
  | .seqSample course nat => Sys2Proof.Machine.execSeqSample course nat s
  | .voltageStep course => Sys2Proof.Machine.execVoltageStep course s
  | .voltageSettled course => Sys2Proof.Machine.execVoltageSettled course s
  | .pmbusPoll answers => Sys2Proof.Machine.execPmbusPoll answers s
  | .voteChange d => Sys2Proof.Machine.execVoteChange d s
  | .powerOffEntry d => Sys2Proof.Machine.execPowerOffEntry d s
  | .powerUp d readback => Sys2Proof.Machine.execPowerUp d readback s
  | .napOffDelayExpiry n => Sys2Proof.Machine.execNapOffDelayExpiry n s
  | .freezeWrite st => Sys2Proof.Machine.execFreezeWrite st s
  | .snapWrite st => Sys2Proof.Machine.execSnapWrite st s
  | .counterInstant bank => Sys2Proof.Machine.execCounterInstant bank s
  | .bwWindowBoundary bank => Sys2Proof.Machine.execBwWindowBoundary bank s
  | .tapIdcode => Sys2Proof.Machine.execTapIdcode s
  | .tapBypass => Sys2Proof.Machine.execTapBypass s
  | .tapSamplePreload cells => Sys2Proof.Machine.execTapSamplePreload cells s
  | .tapExtest => Sys2Proof.Machine.execTapExtest s
  | .tapExtestPulse => Sys2Proof.Machine.execTapExtestPulse s
  | .tapExtestTrain => Sys2Proof.Machine.execTapExtestTrain s
  | .plumbLockTimeout => Sys2Proof.Machine.execPlumbLockTimeout s
  | .pwrOkTimeout => Sys2Proof.Machine.execPwrOkTimeout s
  | .resetWaitExpiry => Sys2Proof.Machine.execResetWaitExpiry s
  | .coreTestDone pass => Sys2Proof.Machine.execCoreTestDone pass s
  | .icinvAck n course => Sys2Proof.Machine.execIcinvAck n course s
  | .outboundRequest port r => Sys2Proof.Machine.execOutboundRequest port r s
  | .memoryAnswer slice a => Sys2Proof.Machine.execMemoryAnswer slice a s
  | .kspBadTransactionCode code => Sys2Proof.Machine.execKspBadTransactionCode code s
  | .spareCopyStep ch errs => Sys2Proof.Machine.execSpareCopyStep ch errs s

end Sys2Proof.Machine
end

