-- ==== Sys2Proof/WellFormed.lean ====
section
/-! DEFINITION. Which commands a sender can form: bounds on operands that their types do not already give (R17, R29, R95, R257,
R309, R385, R392, R443, R479). Where an operand's value is judged by the device itself, it is not judged here. -/
namespace Sys2Proof

/-- A store of 1 to 16 bytes within the control region, whose stamp fits its field (R22, R29). -/
def storeOk (st : CtlStore) : Bool := decide (1 ≤ st.width) && decide (st.width ≤ 16) && decide (st.off.toNat + st.width ≤ 2 ^ 40) && decide (st.stamp < 2 ^ 64)

/-- Unit A1 is named only by an integer operation (R89, R112), and a syllable with a name of the tables is no odd one. -/
def sylOk (integer : Bool) (y : Syl) : Bool := (integer || !y.a1) && y.odd.isNone

/-- The OP values that the tables of a unit list (R105 to R108). -/
def listedOps (u : Nat) : List Nat :=
  match u with
  | 0 | 1 => [0, 2, 3, 4, 5, 6, 7, 8, 9, 10, 11, 12, 13, 14, 16, 17, 18, 19, 20, 21, 22, 24, 25, 32, 33, 34, 35, 36, 37, 38]
  | 2 => [0, 1, 2, 3, 4, 5, 6, 7, 8, 9, 10, 11, 12, 16, 17, 18, 19, 20, 21, 24, 25, 26, 27, 28, 29, 30, 31, 32, 40, 41, 42, 43, 48, 49, 50, 51, 52, 56, 57, 58, 59, 60, 62]
  | 3 => [0, 1, 2, 3, 4, 5, 6, 7, 8, 9, 10, 16, 17, 18, 19, 20, 21, 22, 23, 24, 25, 26, 27, 28, 32, 33, 34, 35, 36]
  | 4 => [0, 1, 2, 3, 4, 8, 9, 10, 11, 16, 17, 24, 25, 26, 27, 28, 32, 33]
  | _ => []

/-- NOP, or a syllable that names no operation (R89, R90, R100): a reserved unit code, an X syllable, an unlisted OP value. -/
def nopOk (y : Syl) : Bool :=
  match y.odd with
  | none => true
  | some (.unit u) => u.toNat == 5 || u.toNat == 6
  | some .x => true
  | some (.op u op) => decide (u.toNat < 5) && !(listedOps u.toNat).contains op.toNat

/-- Agents are numbered 0 to 89 (R17). -/
def agentOk (a : Nat) : Bool := decide (a < 90)

/-- A message names agents that exist and, where its kind carries a line, holds one (R17, R257). -/
def msgOk (carries : Bool) (m : Msg) : Bool :=
  agentOk m.src.toNat && agentOk m.dst.toNat && agentOk m.req.toNat && (!carries || m.data.isSome) &&
    (match m.atomic with | some a => (a.wid == 4 || a.wid == 8) && a.off.toNat % a.wid == 0 | none => true)

/-- Root ports are numbered 0 to 5 (R384). -/
def portOk (p : BitVec 3) : Bool := decide (p.toNat < 6)

/-- Power domains are numbered 0 to 374 (R441). -/
def domainOk (d : BitVec 9) : Bool := decide (d.toNat < 375)

/-- The holders of windows: courses, root ports, slices that host DMA engines (R69). -/
def holderOk (h : Nat) : Bool := decide (h < 32) || (decide (80 ≤ h) && decide (h < 86)) || (decide (32 ≤ h) && decide (h < 64) && h % 4 == 0)

/-- Stall points: agents, and cores from 256 on (R294, R296). -/
def pointOk (p : Nat) : Bool := decide (p < 90) || (decide (256 ≤ p) && decide (p < 512))

/-- A list of a given length. -/
def lengthIs {α : Type} (n : Nat) (l : List α) : Bool := l.length == n

/-- Temperature sensors are numbered 0 to 85 (R455, R474). -/
def sensorOk (k : Nat) : Bool := decide (k < 86)

/-- Stops are numbered 0 to 89 (R17, R18). -/
def devsOk (l : List (BitVec 7 × Int)) : Bool := l.all (fun e => decide (e.1.toNat < 90))

/-- Minute indices have 32 bits (R328). -/
def minuteOk (m : Nat) : Bool := decide (m < 2 ^ 32)

/-- A course has at most nine cores (R15). -/
def natOk (l : List (BitVec 8 × BitVec 10)) : Bool := decide (l.length ≤ 9)

/-- Physical cores are numbered 0 to 287 (R15). -/
def coresOk (l : List Nat) : Bool := l.all (fun p => decide (p < 288))

/-- The link widths of R385. -/
def linkWidthOk (w : Nat) : Bool := w == 1 || w == 2 || w == 4 || w == 8 || w == 16

/-- A memory request comes from an agent that exists (R17, R362). -/
def reqOk (r : MemReq) : Bool := agentOk r.src.toNat

/-- A request at a root port is of 1 to 64 bytes, and a write carries as many (R387, R397). -/
def outOk (r : OutReq) : Bool :=
  decide (1 ≤ r.len.toNat) && decide (r.len.toNat ≤ 64) &&
    (match r.kind with
     | .store | .sc | .peerWrite => r.data.length == r.len.toNat
     | .load | .lr | .peerRead => r.data.isEmpty)

/-- An inbound TLP carries at most 4,096 bytes, a write as many as it names (R392). -/
def tlpOk (t : Tlp) : Bool :=
  decide (t.len.toNat ≤ 4096) && (match t.kind with | .write => t.data.length == t.len.toNat | .read => t.data.isEmpty | .other => true)

/-- A usage report comes from an agent that exists; amount and stamp have 64 bits (R296). -/
def usageOk (r : UsageRep) : Bool := agentOk r.agent.toNat && decide (r.amount < 2 ^ 64) && decide (r.stamp < 2 ^ 64)

/-- A completion carries at most 64 bytes (R387, R388). -/
def cplOk (c : Cpl) : Bool := decide (c.data.length ≤ 64)

/-- A counter bank that exists (R479). -/
def bankOk : Bank → Bool
  | .port p => portOk p
  | .core _ => true | .course _ => true | .slice _ => true | .channel _ => true

/-- An arbiter that exists (R309). -/
def arbOk : Arb → Bool
  | .rp p => portOk p
  | .mc _ => true | .dma _ => true

/-- A command that a sender can form. -/
def Instr.wf : Instr → Bool
  | .nop y => nopOk y
  | .add y => sylOk true y
  | .sub y => sylOk true y
  | .and y => sylOk true y
  | .or y => sylOk true y
  | .xor y => sylOk true y
  | .andn y => sylOk true y
  | .shl y => sylOk true y
  | .shr y => sylOk true y
  | .sar y => sylOk true y
  | .ror y => sylOk true y
  | .cmpeq y => sylOk true y
  | .cmplt y => sylOk true y
  | .cmpltu y => sylOk true y
  | .min y => sylOk true y
  | .max y => sylOk true y
  | .minu y => sylOk true y
  | .maxu y => sylOk true y
  | .clz y => sylOk true y
  | .ctz y => sylOk true y
  | .popc y => sylOk true y
  | .ldi y => sylOk true y
  | .ldhi y => sylOk true y
  | .mul y => sylOk true y
  | .mulh y => sylOk true y
  | .mulhu y => sylOk true y
  | .div y => sylOk true y
  | .divu y => sylOk true y
  | .rem y => sylOk true y
  | .remu y => sylOk true y
  | .ld8s y => sylOk false y
  | .ld8u y => sylOk false y
  | .ld16s y => sylOk false y
  | .ld16u y => sylOk false y
  | .ld32s y => sylOk false y
  | .ld32u y => sylOk false y
  | .ld64 y => sylOk false y
  | .ldv y => sylOk false y
  | .st8 y => sylOk false y
  | .st16 y => sylOk false y
  | .st32 y => sylOk false y
  | .st64 y => sylOk false y
  | .stv y => sylOk false y
  | .aswap y => sylOk false y
  | .aadd y => sylOk false y
  | .amin y => sylOk false y
  | .amax y => sylOk false y
  | .aminu y => sylOk false y
  | .amaxu y => sylOk false y
  | .aswapw y => sylOk false y
  | .aaddw y => sylOk false y
  | .aminw y => sylOk false y
  | .amaxw y => sylOk false y
  | .aminuw y => sylOk false y
  | .amaxuw y => sylOk false y
  | .lr y => sylOk false y
  | .sc y => sylOk false y
  | .fence y => sylOk false y
  | .movb y => sylOk false y
  | .setb y => sylOk false y
  | .cmpb y => sylOk false y
  | .scanb y => sylOk false y
  | .blockChunk _ _ => true
  | .cflush y => sylOk false y
  | .cclean y => sylOk false y
  | .cinv y => sylOk false y
  | .pref y => sylOk false y
  | .icinv y => sylOk false y
  | .tlbi y => sylOk false y
  | .tlbid y => sylOk false y
  | .tlbia y => sylOk false y
  | .tlblk y => sylOk false y
  | .tlbulk y => sylOk false y
  | .lseg y => sylOk false y
  | .vadd y => sylOk false y
  | .vsub y => sylOk false y
  | .vand y => sylOk false y
  | .vor y => sylOk false y
  | .vxor y => sylOk false y
  | .vshl y => sylOk false y
  | .vshr y => sylOk false y
  | .vmin y => sylOk false y
  | .vmax y => sylOk false y
  | .vcmpeq y => sylOk false y
  | .vcmpgt y => sylOk false y
  | .fadd y => sylOk false y
  | .fsub y => sylOk false y
  | .fmul y => sylOk false y
  | .fdiv y => sylOk false y
  | .fsqrt y => sylOk false y
  | .fma y => sylOk false y
  | .fms y => sylOk false y
  | .fmin y => sylOk false y
  | .fmax y => sylOk false y
  | .fcmpeq y => sylOk false y
  | .fcmplt y => sylOk false y
  | .fcvtif y => sylOk false y
  | .fcvtfi y => sylOk false y
  | .vmov y => sylOk false y
  | .vinsg y => sylOk false y
  | .vextg y => sylOk false y
  | .vsplat y => sylOk false y
  | .vshuf y => sylOk false y
  | .br y => sylOk false y
  | .jr y => sylOk false y
  | .call y => sylOk false y
  | .callr y => sylOk false y
  | .ret y => sylOk false y
  | .syscall y => sylOk false y
  | .hypercall y => sylOk false y
  | .brk y => sylOk false y
  | .rfe y => sylOk false y
  | .rfeFrameCommit _ => true
  | .mfs y => sylOk false y
  | .mts y => sylOk false y
  | .mtsTdid y => sylOk false y
  | .rebindDelayExpiry _ => true
  | .mtsRein y => sylOk false y
  | .mtsLockheld y => sylOk false y
  | .mtsTmode y => sylOk false y
  | .classFFillDone _ => true
  | .mtsPctl y => sylOk false y
  | .mtsEvmask y => sylOk false y
  | .sThreshold y => sylOk false y
  | .sClaim y => sylOk false y
  | .sEoi y => sylOk false y
  | .wfe y => sylOk false y
  | .sev y => sylOk false y
  | .waitt y => sylOk false y
  | .waittDeadline _ => true
  | .nap y => sylOk false y
  | .rdtime y => sylOk false y
  | .pflush y => sylOk false y
  | .pbar y => sylOk false y
  | .warmUpEnd _ => true
  | .l1iMissFill _ => true
  | .loadDataReturn _ _ => true
  | .resultWrite _ _ => true
  | .storeDrain _ => true
  | .walkEntryRead _ => true
  | .exceptionEntry _ => true
  | .trapEntryCommit _ => true
  | .interruptOffer _ _ => true
  | .classPEntry _ => true
  | .classFEntry _ => true
  | .eventArrival _ _ _ => true
  | .paceGeneratorTick _ => true
  | .reservationHoldExpiry _ => true
  | .rdS m => msgOk false m
  | .rdO m => msgOk false m
  | .upg m => msgOk false m
  | .hrd m => msgOk false m
  | .hwr m => msgOk true m
  | .hat m => msgOk false m
  | .hlr m => msgOk false m
  | .hsc m => msgOk false m
  | .flushReq m => msgOk false m
  | .cleanReq m => msgOk false m
  | .invReq m => msgOk false m
  | .fwdS m => msgOk false m
  | .fwdO m => msgOk false m
  | .inv m => msgOk false m
  | .binv m => msgOk false m
  | .flush m => msgOk false m
  | .clean m => msgOk false m
  | .setScrub m => msgOk false m
  | .setScrubAck m => msgOk false m
  | .dataS m => msgOk true m
  | .dataE m => msgOk true m
  | .dataO m => msgOk true m
  | .dataNf m => msgOk true m
  | .grant m => msgOk false m
  | .fwdAck m => msgOk false m
  | .wbPending m => msgOk false m
  | .invAck m => msgOk false m
  | .binvAck m => msgOk false m
  | .wb m => msgOk true m
  | .vic m => msgOk true m
  | .evn m => msgOk false m
  | .wbAck m => msgOk false m
  | .hDone m => msgOk false m
  | .retry m => msgOk false m
  | .retryBackoffExpiry agent _ => agentOk agent
  | .claimExpiry _ _ => true
  | .messageToDownAgent m => msgOk false m
  | .agentDown m => msgOk false m
  | .deadAgentTimeout _ _ agent => agentOk agent
  | .deadAgentNotice _ agent => agentOk agent
  | .homeStall _ _ => true
  | .tlbInvalidation _ _ => true
  | .tlbInvAck _ _ => true
  | .icinvBroadcast _ _ _ => true
  | .windowLowerWrite st => storeOk st
  | .windowUpperWrite st => storeOk st
  | .windowHolderUpdate holder _ _ => holderOk holder
  | .pmaskWrite st => storeOk st
  | .domPause st => storeOk st
  | .domUnpause st => storeOk st
  | .domRtWrite st => storeOk st
  | .ctlWrite st => storeOk st
  | .hubSetpend st => storeOk st
  | .hubClrpend st => storeOk st
  | .srcWrite st => storeOk st
  | .hThreshold st => storeOk st
  | .hClaim st => storeOk st
  | .hEoi st => storeOk st
  | .msiMessage _ _ _ => true
  | .levelLineChange _ => true
  | .offerAnswer _ _ _ => true
  | .bindingReport _ => true
  | .coreStateReport _ => true
  | .sevMessage _ _ _ => true
  | .plumbLock => true
  | .plumbSync devs => devsOk devs
  | .ppsEdge _ => true
  | .ppsLost => true
  | .refLost => true
  | .refReturn => true
  | .setStampHoldEnd agent => agentOk agent
  | .setMark agent => agentOk agent
  | .jrnSetHoldExpiry => true
  | .journalRecord agent => agentOk agent
  | .ringWriteDone => true
  | .jrnCtlWrite st => storeOk st
  | .jrnTailWrite st => storeOk st
  | .minuteBoundary agent => agentOk agent
  | .finalReport agent minute => agentOk agent && minuteOk minute
  | .minuteClose _ => true
  | .minuteSealed => true
  | .l3OccSample _ => true
  | .leaseLow _ => true
  | .leaseDraw _ => true
  | .leaseGrant _ => true
  | .leaseExhausted _ => true
  | .graceOut _ => true
  | .leaseReturn _ => true
  | .usageReportDue agent _ => agentOk agent
  | .usageReport r => usageOk r
  | .dryNotice point _ _ _ => pointOk point
  | .releaseNotice point _ _ _ => pointOk point
  | .periodBoundary => true
  | .refill _ _ credits => lengthIs 4 credits
  | .energyPlan leakMW => lengthIs 32 leakMW
  | .arbWindowRefill arb => arbOk arb
  | .arbPhase arb => arbOk arb
  | .grantRevoke port _ => portOk port
  | .memoryRequest _ r => reqOk r
  | .dramReadDone _ _ _ => true
  | .refreshDue _ _ => true
  | .dimmTempPoll _ temps => lengthIs 2 temps
  | .retrainStep _ _ _ _ => true
  | .panicStart _ => true
  | .scrubLine _ _ => true
  | .spareStateDone _ => true
  | .inboundTlp port t => portOk port && tlpOk t
  | .outboundCompletion port _ c => portOk port && cplOk c
  | .cplTimeout port _ => portOk port
  | .linkDown port _ _ => portOk port
  | .linkUp port _ _ width => portOk port && linkWidthOk width
  | .presenceChange port _ _ => portOk port
  | .perstRelease port _ => portOk port
  | .ctxBind st => storeOk st
  | .ctxResume st => storeOk st
  | .ioinvPage st => storeOk st
  | .ioinvUnit st => storeOk st
  | .ioinvDomain st => storeOk st
  | .ioinvAll st => storeOk st
  | .ioinvDone => true
  | .chEnable st => storeOk st
  | .chDisable st => storeOk st
  | .chTdidWrite st => storeOk st
  | .chTailWrite st => storeOk st
  | .dmaChunk _ => true
  | .dmaCompletion _ => true
  | .kspWrite _ => true
  | .kspRead _ => true
  | .kspStatus => true
  | .mbGo st => storeOk st
  | .mbReadyRelease st => storeOk st
  | .getState => true
  | .identify => true
  | .getCores => true
  | .alerts => true
  | .readMinute => true
  | .ackMinute => true
  | .setPlumb => true
  | .setPps => true
  | .setTrim => true
  | .setMemcfg => true
  | .setPcie => true
  | .startFill => true
  | .serve => true
  | .reset => true
  | .mboxAllow => true
  | .domOpen => true
  | .domClose => true
  | .domBudget => true
  | .setPower => true
  | .getPower => true
  | .coreRotate _ => true
  | .rotationSwitch _ => true
  | .autoRotation _ _ => true
  | .coreReturn => true
  | .coreStart _ => true
  | .agentDead => true
  | .agentReturn => true
  | .agentReturnDone _ _ => true
  | .spareStart => true
  | .spareAck => true
  | .devMark => true
  | .ktest => true
  | .patchStage => true
  | .sealKey => true
  | .ledgerCfg => true
  | .resetRelease => true
  | .bootImageChecked _ _ => true
  | .enterFilling => true
  | .pwrOkChange _ _ => true
  | .trainingDone spd => lengthIs 16 spd
  | .fillDone _ => true
  | .initDone failing => coresOk failing
  | .core0Release _ => true
  | .resetNAssert => true
  | .sensorReading sensor _ => sensorOk sensor
  | .thermtrip sensor _ => sensorOk sensor
  | .throttleTick _ => true
  | .seqSample _ nat => natOk nat
  | .voltageStep _ => true
  | .voltageSettled _ => true
  | .pmbusPoll answers => lengthIs 8 answers
  | .voteChange d => domainOk d
  | .powerOffEntry d => domainOk d
  | .powerUp d _ => domainOk d
  | .napOffDelayExpiry _ => true
  | .freezeWrite st => storeOk st
  | .snapWrite st => storeOk st
  | .counterInstant bank => bankOk bank
  | .bwWindowBoundary bank => bankOk bank
  | .tapIdcode => true
  | .tapBypass => true
  | .tapSamplePreload _ => true
  | .tapExtest => true
  | .tapExtestPulse => true
  | .tapExtestTrain => true
  | .plumbLockTimeout => true
  | .pwrOkTimeout => true
  | .resetWaitExpiry => true
  | .coreTestDone _ => true
  | .icinvAck _ _ => true
  | .outboundRequest port r => portOk port && outOk r
  | .memoryAnswer _ _ => true
  | .kspBadTransactionCode _ => true
  | .spareCopyStep _ _ => true

end Sys2Proof
end

