-- ==== Sys2Proof/Safety.lean ====
section
/-! DEFINITION. What counts as a safe run, the invariant that every step keeps, and the terms in which the statements speak of a
core: when a word issues, and what of a core a word is said to change or to leave. -/
namespace Sys2Proof

/-- The machine after a step, if it goes on. -/
def next? (o : Host.Outcome Machine.State Machine.Fault Machine.Refusal) : Option Machine.State :=
  match o with
  | .next s => some s
  | .fault _ => none
  | .refused _ => none

/-- Memory is in its canonical form. -/
def memCanonical (s : Machine.State) : Prop := Machine.Memory.wf s.mem = true

/-- A run of `k` steps from a state meets no fault and no refusal. -/
def SafeFor : Nat → Machine.State → Prop
  | 0, _ => True
  | k + 1, s => ∃ t, Machine.step s = .next t ∧ SafeFor k t

namespace Machine

/-! ### When a word issues (R90, R97, R150) -/

/-- The state once a syllable has joined the words at DE. -/
def reached (i : Instr) (y : Syl) (s : State) : State :=
  setCore s y.n.toNat { getCore s y.n.toNat with word := (getCore s y.n.toNat).word ++ [i] }
/-- The word at DE then. -/
def wordAt (i : Instr) (y : Syl) (s : State) : HeadWord := headWord (getCore (reached i y s) y.n.toNat)
/-- The fetch of that word: what it gives, and the state after it. -/
def fetchAt (i : Instr) (y : Syl) (s : State) : Got Unit × State :=
  fetchWord y.n.toNat (extent (wordAt i y s)) 0 (reached i y s)
/-- The checks of its M syllable at X2, after the fetch. -/
def x2At (i : Instr) (y : Syl) (s : State) : Got MRes × State := wordM (fetchAt i y s).2 y.n.toNat (wordAt i y s)
/-- What those checks found: linear address, parts, and the descriptor of an LSEG. -/
def x2Res (i : Instr) (y : Syl) (s : State) : MRes := match (x2At i y s).1 with | .ok m => m | _ => {}

/-- DE has a place for a syllable: the core takes words and holds fewer than five (R90, R159). -/
def takesSyl (y : Syl) (s : State) : Bool :=
  takesWords (getCore s y.n.toNat) && decide (wordCount (getCore s y.n.toNat).word 0 < 5)

/-- Nothing that issue itself must wait for holds the word back: no owed opportunity, no result of short latency, no earlier try that has
issued it, and a token is there (R150, R153, R154). -/
def readyAt (i : Instr) (y : Syl) (s : State) : Bool :=
  let c := getCore s y.n.toNat
  takesSyl y s && mayTry (reached i y s) y.n.toNat && !c.atX2 && c.owe == 0 && pendHold c (wordAt i y s) == 0 &&
    tokenReady c (coreTime s y.n.toNat)

/-- The word that the syllable ends passes every check of R97 up to X2, nothing holds it, and no micro-routine that it runs meets a parity
error (R221). -/
def passesChecks (i : Instr) (y : Syl) (s : State) : Bool :=
  readyAt i y s && (wordAt i y s).rest.isEmpty &&
  (match (fetchAt i y s).1 with | .ok _ => true | _ => false) &&
  (encTrap (getCore (fetchAt i y s).2 y.n.toNat) (wordAt i y s)).isNone &&
  !held (fetchAt i y s).2 y.n.toNat (wordAt i y s) &&
  !(bindWord (wordAt i y s) && bindTooSoon (fetchAt i y s).2 y.n.toNat) &&
  (match (x2At i y s).1 with | .ok _ => true | _ => false) && !wordParity (x2At i y s).2 y.n.toNat (wordAt i y s) (x2Res i y s)

/-- The word issues at once: it passes its checks, and it is no RFE, whose return has checks of its own (R205). -/
def issues (i : Instr) (y : Syl) (s : State) : Bool := passesChecks i y s && !rfeWord (wordAt i y s)

/-- The syllable names an operation of its table and forms a word by itself, and that word issues. -/
def issuesAlone (i : Instr) (y : Syl) (s : State) : Bool := y.odd.isNone && y.s && (getCore s y.n.toNat).word.isEmpty && issues i y s

/-- The state in which an issued word commits. -/
def issued (i : Instr) (y : Syl) (s : State) : State :=
  commitWord (x2At i y s).2 y.n.toNat (wordAt i y s) (x2Res i y s) none

/-- The word that the syllable ends is complete, fetched and free to be tried: what it comes to is for its own checks. -/
def fetchesWord (i : Instr) (y : Syl) (s : State) : Bool :=
  readyAt i y s && (match (fetchAt i y s).1 with | .ok _ => true | _ => false)

/-- The syllable names an operation of its table and forms a word by itself, which is fetched and free to be tried. -/
def fetchesAlone (i : Instr) (y : Syl) (s : State) : Bool := y.odd.isNone && y.s && (getCore s y.n.toNat).word.isEmpty && fetchesWord i y s

/-- The trap of rows 2 to 6 of R97 that the word has at DE. -/
def trapFound (i : Instr) (y : Syl) (s : State) : Option Trap :=
  if fetchesWord i y s then encTrap (getCore (fetchAt i y s).2 y.n.toNat) (wordAt i y s) else none

/-! ### What a word changes -/

/-- A core but for what fetch and the token of any word move: TLBs, tokens with their source and event counts, the words at DE and what
holds them. -/
def archOf (c : Core) : Core :=
  { c with itlb := [], dtlb := [], l2tlb := [], bank := 0, lease := 0, graceLeft := 0, used := 0, pm := [], word := [],
           ulines := [], fresh := none, busy := .none, warmLeft := 0, pend := [], limAt := 0, plNow := false, effGen := 0, paceAt := 0,
           atX2 := false, uaddr := none, fcode := none, tie := none }

/-- A core but also for its branch prediction, its accesses and results on their way, and what they have brought: the
registers that a program names, its mode, and its run state. -/
def regsOf (c : Core) : Core :=
  { archOf c with pred := {}, owe := 0, accs := [], results := [], nextIdx := 0, resv := none, l1d := [], l1i := [], sb := [], walk := none,
                  wcache := [], nf := [], gen := 0, fetching := none, l1dBad := [], l1iBad := [] }

/-- Everything else of the device is as it was, but for tokens, energy and event counts: the other cores, every byte of DRAM,
caches, controllers, ports, I/O contexts and channels, domains, windows, messages, Keystone, the pins and plumb time. -/
structure ElseSame (n : Nat) (s t : State) : Prop where
  cores   : ∀ k, k ≠ n → getCore t k = getCore s k
  bytes   : ∀ a, memRead t a = memRead s a
  poison  : t.memPoison = s.memPoison
  courses : t.courses = s.courses
  slices  : t.slices = s.slices
  mcs     : t.mcs = s.mcs
  rps     : t.rps = s.rps
  doms    : t.doms = s.doms
  held    : t.winHeld = s.winHeld
  net     : t.net = s.net
  ctlNet  : t.ctlNet = s.ctlNet
  outNet  : t.outNet = s.outNet
  phys    : t.phys = s.phys
  ctxs    : t.ctxs = s.ctxs
  chans   : t.chans = s.chans
  cfgSpace: t.cfgSpace = s.cfgSpace
  winMsgs : t.winMsgs = s.winMsgs
  sevs    : t.sevs = s.sevs
  memNet  : t.memNet = s.memNet
  memAns  : t.memAns = s.memAns
  msis    : t.msis = s.msis
  invNet  : t.invNet = s.invNet
  ks      : t.ks = s.ks
  pins    : t.pins = s.pins
  plumb   : t.plumb = s.plumb

/-- Every register of the other cores and every byte of DRAM are as they were. -/
structure RegsSame (n : Nat) (s t : State) : Prop where
  cores : ∀ k, k ≠ n → regsOf (getCore t k) = regsOf (getCore s k)
  bytes : ∀ a, memRead t a = memRead s a

/-- Every register of every core and every byte of DRAM are as they were. -/
structure RegsKept (s t : State) : Prop where
  cores : ∀ k, regsOf (getCore t k) = regsOf (getCore s k)
  bytes : ∀ a, memRead t a = memRead s a

/-- The core past a word of one syllable: the PC has moved on (R143). -/
def pastWord (y : Syl) (c : Core) : Core := { c with pc := c.pc + BitVec.ofNat 64 (4 * sylLen y) }

/-- The syllable, alone in its word, changes its core as `f` says, and nothing else. -/
def Does (i : Instr) (y : Syl) (s : State) (f : Core → Core) : Prop :=
  issuesAlone i y s = true → ∃ t, exec i s = .next t ∧
    archOf (getCore t y.n.toNat) = archOf (f (pastWord y (getCore s y.n.toNat))) ∧ ElseSame y.n.toNat s t

/-- The syllable writes a value, without a mark, to the register G[D] (R81, R93, R193). -/
def WritesG (i : Instr) (y : Syl) (s : State) (v : Word64) : Prop := Does i y s (fun c => writeG c y.d { v := v })

/-- The syllable writes a value, without a mark, to the register V[D] (R82, R93, R193). -/
def WritesV (i : Instr) (y : Syl) (s : State) (v : Word128) : Prop := Does i y s (fun c => writeV c (vNum y.d) { v := v })

/-- The syllable gives its unit a result for `d` that is written later (R110, R152). -/
def WritesLater (i : Instr) (y : Syl) (s : State) (r : Core → PendRes) : Prop :=
  Does i y s (fun c => { c with results := c.results ++ [r c], nextIdx := c.nextIdx + 1 })

/-- The syllable, alone in its word, changes its core as `f` says but for branch prediction and lost issue opportunities, and
nothing else. -/
def Turns (i : Instr) (y : Syl) (s : State) (f : Core → Core) : Prop :=
  issuesAlone i y s = true → ∃ t, exec i s = .next t ∧ ElseSame y.n.toNat s t ∧
    archOf (getCore t y.n.toNat) = archOf { f (pastWord y (getCore s y.n.toNat)) with
      pred := (getCore t y.n.toNat).pred, owe := (getCore t y.n.toNat).owe }

/-! ### What a memory syllable does -/

/-- What the store buffer does for a part of a load: nothing for one of a device page (R119, R157). -/
def partFwd (s : State) (n : Nat) (p : Part) : Fwd := if p.mt = .device then .read else forward (getCore s n).sb p.pa.toNat p.len

/-- A part of a load can be answered at once: a store in the store buffer gives all of it, or its line is in the core's L1D, with good
parity, and in its course's L2, and no older load has its bytes still to read (R118, R120, R157, R251). -/
def partAtHand (s : State) (n : Nat) (p : Part) : Bool :=
  let c := getCore s n
  match partFwd s n p with
  | .data _ => true
  | .wait _ => false
  | .read => p.mt == .cached && c.l1d.contains (lineOfPa p.pa) && !c.l1dBad.contains (lineOfPa p.pa) && !olderSame c c.nextIdx p &&
      (l2Find (getCourse s (courseOf s n)) (lineOfPa p.pa)).isSome

/-- The bytes of a part as the course's L2 holds them. -/
def l2Bytes (s : State) (n : Nat) (p : Part) : List PByte :=
  match l2Find (getCourse s (courseOf s n)) (lineOfPa p.pa) with
  | some (_, x) => lineRead x.data (p.pa.toNat % 64) p.len
  | none => []

/-- The bytes that a part at hand brings. -/
def partBytes (s : State) (n : Nat) (p : Part) : List PByte :=
  match partFwd s n p with
  | .data b => b
  | _ => l2Bytes s n p

/-- The course's L2 holds the part's line, in a cached page of DRAM, and can read it (R251). -/
def inL2 (s : State) (n : Nat) (p : Part) : Prop :=
  p.mt = .cached ∧ region s p.pa.toNat = .dram ∧ ∃ w x, l2Find (getCourse s (courseOf s n)) (lineOfPa p.pa) = some (w, x) ∧ x.ue = 0

/-- The value of a load of `w` bytes: the bytes in order, the lowest address lowest, extended with zeros or the sign (R118). -/
def loadedValue (w : Nat) (sg : Bool) (b : List PByte) : Nat := if sg then ofInt 64 (toSigned (8 * w) (pnat b)) else pnat b

/-- The syllable, alone in its word, sends an access: no register changes, the access has the core's next number, and if it is
the core's only one it waits with what the syllable gave it. -/
def SendsAcc (i : Instr) (y : Syl) (s : State) (k : AccKind) (dst : Dst) (w : Nat) (sg : Bool) (opnd : Word64) : Prop :=
  issuesAlone i y s = true → ∃ t, exec i s = .next t ∧ RegsSame y.n.toNat s t ∧
    regsOf (getCore t y.n.toNat) = regsOf (pastWord y (getCore s y.n.toNat)) ∧
    (getCore t y.n.toNat).accs.map (·.idx) = (getCore s y.n.toNat).accs.map (·.idx) ++ [(getCore s y.n.toNat).nextIdx] ∧
    ((getCore s y.n.toNat).accs = [] → ∃ a, (getCore t y.n.toNat).accs = [a] ∧ a.kind = k ∧ a.dst = dst ∧ a.width = w ∧ a.signed = sg ∧
      a.opnd = opnd ∧ a.parts.map (fun p => (p.pa, p.len, p.mt)) = (x2Res i y s).parts.map (fun p => (p.pa, p.len, p.mt)))

/-- The syllable, alone in its word, loads `w` bytes (R118, R152, R157): it writes its register when its part is answered at once, and
otherwise sends an access. The two halves of a split load are read together before it commits (R117, R208), from the course's L2 where
that holds both lines. -/
def Loads (i : Instr) (y : Syl) (s : State) (dst : Dst) (w : Nat) (sg : Bool) : Prop :=
  let m := x2Res i y s
  (m.data = none → m.parts.all (partAtHand s y.n.toNat) = true →
    Does i y s (fun c => writeDst c dst (loadedValue w sg (m.parts.flatMap (partBytes s y.n.toNat)))
      (pany (m.parts.flatMap (partBytes s y.n.toNat))))) ∧
  (m.data = none → m.parts.all (partAtHand s y.n.toNat) = false → SendsAcc i y s .load dst w sg 0) ∧
  (∀ b, m.data = some b → issuesAlone i y s = true →
    (∃ t, exec i s = .next t ∧ RegsSame y.n.toNat s t ∧
      regsOf (getCore t y.n.toNat) = regsOf (writeDst (pastWord y (getCore s y.n.toNat)) dst (loadedValue w sg b) (pany b))) ∧
    ((∀ p ∈ m.parts, inL2 s y.n.toNat p) → b = m.parts.flatMap (l2Bytes s y.n.toNat)))

/-- A word of one syllable sends a message of its own on the way to other agents, stamped when it is sent (R22, R54); no register changes
but the PC. -/
def SendsWord (i : Instr) (y : Syl) (s : State) (P : BitVec 24 → State → Prop) : Prop :=
  issuesAlone i y s = true → ∃ t st, exec i s = .next t ∧ RegsSame y.n.toNat s t ∧
    regsOf (getCore t y.n.toNat) = regsOf (pastWord y (getCore s y.n.toNat)) ∧ P st t

/-- The checks of a block-repeat operation's next chunk have passed and its reads are there, without a mark (R131): `cnt` elements, the
parts of its regions, and the bytes read; the state before it commits. -/
def chunkReady (s : State) (n : Nat) (b : Blk) (cnt : Nat) (p5 p6 : List Part) (d : List PByte) (s3 : State) : Prop :=
  ∃ u s2, routineFetch s n (blkRoutine b) = some u ∧
    blkParts (modCore s n (fun c => { c with uaddr := some u })) n b = (.ok (cnt, p5, p6), s2) ∧ blkFull s2 n b p6 = false ∧
    microRead n .load (tagOf (getCore s n)) (epochTag (getCore s n)) ((getCore s n).level == .h)
      (p5 ++ (if b.op == .cmpb then p6 else [])) (blkUse s2 n b (p5 ++ p6)) = (some d, s3) ∧ pany d = false

/-- The elements that such a chunk does: all of a copy or a fill, and of a compare or a scan those before the first that ends it (R130,
R131). -/
def chunkDone (c : Core) (b : Blk) (cnt : Nat) (d : List PByte) : Nat :=
  let x := d.take (cnt * b.esz)
  let y := d.drop (cnt * b.esz)
  match b.op with
  | .movb | .setb => cnt
  | .cmpb => blkPass b.esz x (fun i => pnat ((y.drop (i * b.esz)).take b.esz)) cnt 0 true
  | .scanb => blkPass b.esz x (fun _ => (readG c 7).v.toNat % 2 ^ (8 * b.esz)) cnt 0 false

/-- The bytes that it stores. -/
def chunkStores (c : Core) (b : Blk) (cnt : Nat) (d : List PByte) : List PByte :=
  match b.op with
  | .movb => d.take (cnt * b.esz)
  | .setb => (List.range cnt).flatMap (fun _ => pbytes b.esz (readG c 7).v.toNat false)
  | .cmpb | .scanb => []

/-- The syllable, alone in its word, puts its bytes in the core's store buffer, one entry for each part (R117, R118, R155). -/
def Stores (i : Instr) (y : Syl) (s : State) (b : List PByte) : Prop :=
  Does i y s (fun c => { c with sb := c.sb ++ storeEntries c (x2Res i y s).parts b })

/-! ### Coherence -/

/-- Nothing waits at a home, and no reservation there holds the message back; its requester is up, and no message before it on the mortar
must arrive first (R19). What the home holds of the line has no error (R251). -/
def homeIdle (s : State) (h : Nat) (m : Msg) : Prop :=
  (getSlice s h).trk = [] ∧ (getSlice s h).queue = [] ∧ (getSlice s h).landing = [] ∧ (getSlice s h).scrubs = [] ∧ homeHeld s h m = false ∧
  agentDown s m.req.toNat = false ∧ overtakes s m = false ∧
  (∀ w e, dirFind (getSlice s h) m.line = some (w, e) → e.ce = false ∧ e.ue = false) ∧
  (∀ w e, l3Find (getSlice s h) m.line = some (w, e) → e.ce = 0 ∧ e.ue = 0)

/-- A command takes its message off the mortar and sends one other. -/
def Answers (i : Instr) (s : State) (m : Msg) (P : Msg → State → Prop) : Prop :=
  ∃ t r, exec i s = .next t ∧ RegsKept s t ∧ t.net = s.net.erase m ++ [r] ∧ P r t

/-- A course has no access, no store and no forward that waits: what a message brings there moves nothing else on. -/
def courseIdle (s : State) (c : Nat) : Prop :=
  (getCourse s c).heldFwd = [] ∧ ∀ n ∈ coresOf s c, (getCore s n).accs = []

/-- The frame of an RFE with SEG = 1, where its data is there and has no mark (R205, R206). -/
def frameRead (s : State) (n : Nat) : Option (Word128 × Word128) :=
  let c := getCore s n
  match segCheck (readSg c 7) ((2 ^ 64 - 31 + fld (readSg c 7) 64 64) % 2 ^ 64) 32 .read c.level with
  | .error _ => none
  | .ok lin =>
    match checkLin s n .read c.level false lin 32 with
    | (.ok _ ps, s) =>
      match (microRead n .load (tagOf c) (epochTag c) (c.level == .h) ps s).1 with
      | some b => if pany b then none else some (BitVec.ofNat 128 (pnat (b.take 16)), BitVec.ofNat 128 (pnat (b.drop 16)))
      | none => none
    | _ => none

/-! ### Control registers, engines and the blocks about the cores -/

/-- The command completes; no register of a core and no byte of DRAM changes. -/
def Completes (i : Instr) (s : State) (P : State → Prop) : Prop := ∃ t, exec i s = .next t ∧ RegsKept s t ∧ P t

/-- A store to a control register is performed and completes (R29, R121), its block having changed the state as `P` says; no register of
a core and no byte of DRAM changes. -/
def CtlDone (i : Instr) (st : CtlStore) (s : State) (P : State → Prop) : Prop :=
  ∃ u, exec i s = .next (ctlDone u st.n.toNat st.off.toNat) ∧ RegsKept s u ∧ P u

/-- The Keystone was the last to set the register at an offset (R30). -/
def ksLastAt (s : State) (off : Nat) : Bool := match tget (fun _ => none) s.ctlLast off with | some (_, _, k, _) => k | none => false

/-- A store reaches its register now and meets no Keystone command there: no earlier store of its course to the same place is on its
way (R19), and the Keystone was not the last to set the register (R30). -/
def storeArrives (s : State) (st : CtlStore) : Prop := ctlBehind s st = false ∧ ksLastAt s (stReg st) = false

/-- Every byte of DRAM outside the lines that `n` bytes from `pa` lie in is as it was. -/
def KeepsOutside (pa n : Nat) (s t : State) : Prop := ∀ a, a / 64 < pa / 64 ∨ (pa + n - 1) / 64 < a / 64 → memRead t a = memRead s a

/-- The line is in DRAM and nowhere else: no cache holds it. -/
def OnlyInDram (s : State) (l : LineNo) : Prop :=
  (∀ c, l2Find (getCourse s c) l = none) ∧ l3Find (getSlice s (homeOfLine l)) l = none

/-- The check bits show no uncorrectable error of a line in a course or in the directory (R251). -/
def lineSound (s : State) (l : LineNo) : Bool :=
  (List.range 32).all (fun c => match l2Find (getCourse s c) l with | some (_, e) => e.ue == 0 | none => true) &&
  (match dirFind (getSlice s (homeOfLine l)) l with | some (_, e) => !e.ue | none => true)

/-- Agent `a` can read a line now (R251, R259, R271): no transaction is open on it, its home has a tracker for the agent, and its check
bits stop nothing. -/
def readable (s : State) (l : LineNo) (a : Nat) : Bool :=
  (engBlocked s l a false).isNone && (engBlocked (engServed s a) l a false).isNone && lineSound s l &&
  (match l3Find (getSlice s (homeOfLine l)) l with | some (_, e) => e.ue == 0 | none => true)

/-- Every line that `n` bytes from `pa` lie in is free for agent `a` to write: no transaction is open on it, its home has a tracker for
the agent, no reservation holds it, and its check bits stop nothing (R128, R251, R259, R271). -/
def linesFree (s : State) (pa n a : Nat) : Bool :=
  (List.range ((pa + n - 1) / 64 + 1 - pa / 64)).all (fun i =>
    let l := BitVec.ofNat 46 (pa / 64 + i)
    (engBlocked s l a true).isNone && (engBlocked (engServed s a) l a true).isNone && lineSound s l)

/-- A line that was only in DRAM now holds these bytes from an offset on, and what it held elsewhere. -/
def LineTakes (s t : State) (pa : Nat) (b : List PByte) : Prop :=
  OnlyInDram s (BitVec.ofNat 46 (pa / 64)) → memLine t (BitVec.ofNat 46 (pa / 64)) =
    lineMerge (memLine s (BitVec.ofNat 46 (pa / 64))) (lineOf (pa % 64) b).1 (lineOf (pa % 64) b).2

/-- The Keystone is to execute this packet next: it heads the queue, its CRC is right, its path may send it, and it repeats no
sequence number (R409, R410, R416, R417). -/
def atFront (s : State) (p : Packet) : Bool :=
  s.ks.queue.head? == some p && !s.ks.inReset && !s.ks.running && s.ks.resetAt.isNone && crc32c (packetBody p) == p.crc.toNat && !denied s p &&
    isOpcode p.opcode.toNat && (match (pathOf s p.path).last with | some (q, _, _) => q != p.seq | none => true)

/-- The command ends the execution of a packet with a status, a payload and `P`, and answers what is then in front that no command
executes; `q` are the packets that then wait. -/
def KsAnswers (i : Instr) (s : State) (p : Packet) (q : List Packet) (st : Nat) (P : State → List Byte → Prop) : Prop :=
  ∃ u b, exec i s = .next (ksGoOn u) ∧ u.ks.running = false ∧ u.ks.queue = q ∧ (pathOf u p.path).reply = some (replyBytes u p st b) ∧ P u b

/-- A core was the last to set a control register, of those that the Keystone sets (R30). -/
def coreLast (s : State) (off : Nat) : Bool :=
  match tget (fun _ => none) s.ctlLast off with | some (_, _, k, _) => !k | none => false

/-- The device serves (R418). -/
def devServes (s : State) : Prop := s.ks.st = .serving ∨ s.ks.st = .degraded
/-- The device has left FILLING (R418). -/
def started (s : State) : Prop := s.ks.st = .booting ∨ devServes s
/-- The device takes settings: it has started, or it fills and has not failed (R418, R424, R494). -/
def settable (s : State) : Prop := started s ∨ (s.ks.st = .filling ∧ s.ks.phase ≠ .failed)

end Machine

end Sys2Proof
end

