-- ==== Sys2Proof/Certificates/Slice0/Obligations.lean ====
section
/-! DEFINITION. The statements about the model: what each command does, what it leaves, and what every step keeps. -/
open Sys2Proof Sys2Proof.Machine


/-! ### The machine as a whole -/

/-- With a command at the front of the queue, a step is that command's effect on the state with the rest of the queue. -/
def Obligations.StepRunsTheFrontCommand : Prop := ∀ (c : Instr) (s : State) (q : List Instr),
  step { s with pending := c :: q } = exec c { s with pending := q }

/-- The model's choice (log entry 1): on an empty queue a step is one tick of plumb time, which goes on: it puts nothing in the queue,
leaves every byte of DRAM, and every general register of a core with no word at DE. With the plumb not counting nothing happens; with no
slewing to do it counts one nanosecond. -/
def Obligations.EmptyQueueStepIsATick : Prop := ∀ (s : State), s.pending = [] →
  ∃ t, step s = .next t ∧ t.pending = [] ∧ (∀ a, memRead t a = memRead s a) ∧
    (∀ n, (getCore s n).word = [] → ∀ r b, readGb (getCore t n) r b = readGb (getCore s n) r b) ∧
    (s.plumb.counting = false → t = s) ∧
    (s.plumb.counting = true → s.plumb.slew = 0 → t.plumb.now = s.plumb.now + 1)

/-- No command changes the queue behind it. -/
def Obligations.CommandsLeaveTheQueue : Prop := ∀ (c : Instr) (s t : State), exec c s = .next t → t.pending = s.pending

/-- The memory of the state after reset is in its canonical form. What reset leaves, of what the spec gives (R44, R59, R62, R178, R289, R366,
R418). -/
def Obligations.ResetLeavesTheStatedValues : Prop :=
  (
    memCanonical State.reset) ∧
  (
    let s := State.reset
    s.pending = [] ∧ s.ks.st = .cold ∧ s.ks.queue = [] ∧ s.plumb.counting = false ∧ s.dramTop = 0 ∧ s.cohDead = 0 ∧ s.gstat = 0 ∧ s.jrn.head = 0 ∧ s.jrn.tail = 0 ∧
    (∀ n, (getCore s n).level = .h ∧ (getCore s n).ie = false ∧ (getCore s n).dom = 0 ∧ (getCore s n).epoch = 0 ∧ (getCore s n).resv = none) ∧
    domValid s 0 = true ∧ (∀ t, t ≠ 0 → domValid s t = false) ∧ (∀ t, balance s t 0 = 0 ∧ (getBud s t).c0 = 0x8000000000000000) ∧
    (∀ k, srcPrio (getSrc s k) = 0 ∧ (getSrc s k).inserv = none) ∧ (∀ k, pmask s k = 0xFFFFFFFF) ∧ (∀ k, ctxEn (getCtx s k) = false) ∧
    ∀ k, chEn (getChan s k) = false ∧ chState (getChan s k) = 0)

/-- Every step from a state with canonical memory that goes on leads to a state with canonical memory. -/
def Obligations.StepKeepsMemoryCanonical : Prop := ∀ (s t : State), memCanonical s → step s = .next t → memCanonical t

/-- A line of DRAM reads as it was last written, and writing it leaves every byte outside it. -/
def Obligations.LineReadsWhatWasWritten : Prop := ∀ (s : State) (l : LineNo) (d : LineData) (a : Nat),
  memRead (memSetLine s l d) a = if a / 64 = l.toNat then lineByte d (a % 64) else memRead s a

/-! ### Words (R90 to R99) -/

/-- The last syllable of a word that passes every check issues the word: the next state is the word's commit (R93, R96, R151). A syllable that
does not end its word joins the words at DE, and nothing else happens (R90). -/
def Obligations.WordsFormAndCommit : Prop :=
  (
    ∀ (i : Instr) (y : Syl) (f : Syl → Core → Staged) (s : State),
    sylOf i = some (y, f) → issues i y s = true → exec i s = .next (issued i y s)) ∧
  (
    ∀ (i : Instr) (y : Syl) (f : Syl → Core → Staged) (s : State),
    sylOf i = some (y, f) → takesSyl y s = true → (headWord (getCore s y.n.toNat)).complete = false →
    (wordAt i y s).complete = false → exec i s = .next (reached i y s))

/-- A word that breaks rows 2 to 6 of R97 records its trap and writes no register: the trap is precise (R97, R99). A privileged syllable alone
in its word, at a level below its own, takes cause 0x03 there (R97, R105 to R108). -/
def Obligations.FaultsRecordTheirTrap : Prop :=
  (
    ∀ (i : Instr) (y : Syl) (f : Syl → Core → Staged) (s : State) (p : Trap),
    sylOf i = some (y, f) → trapFound i y s = some p → p.code ≠ 0x20 →
    ∃ t, exec i s = .next t ∧ p.pc = (getCore s y.n.toNat).pc ∧ RegsSame y.n.toNat s t ∧
      regsOf (getCore t y.n.toNat) = regsOf { getCore s y.n.toNat with trap := some p } ∧
      ((wordAt i y s).rest = [] → archOf (getCore t y.n.toNat) = archOf { getCore s y.n.toNat with trap := some p } ∧
        ElseSame y.n.toNat s t)) ∧
  (
    ∀ (i : Instr) (y : Syl) (f : Syl → Core → Staged) (s : State) (p : Trap),
    sylOf i = some (y, f) → y.odd = none → y.s = true → (getCore s y.n.toNat).word = [] → trapFound i y s = some p →
    (f y (getCore s y.n.toNat)).badX = false → (f y (getCore s y.n.toNat)).reserved = false →
    lvlNum (getCore s y.n.toNat).level < lvlNum (f y (getCore s y.n.toNat)).minLevel → p.code = 0x03)

/-! ### Integer operations (R112 to R114) -/

/-- The results of the A0 and A1 operations (R92, R112), at the full width and in the 32-bit forms (R113). Multiplication writes the low or
the high half of the product at once (R112). Division gives its unit the quotient or the remainder, which G[D] takes later (R110, R114). -/
def Obligations.IntegerResults : Prop :=
  (
    ∀ (y : Syl) (s : State),
    let a := (readG (getCore s y.n.toNat) y.a).v
    let b := opB y (getCore s y.n.toNat)
    Does (.nop y) y s (fun c => c) ∧
    WritesG (.add y) y s (atWidth y.q (fun _ a b => a + b) a b) ∧
    WritesG (.sub y) y s (atWidth y.q (fun _ a b => a - b) a b) ∧
    WritesG (.and y) y s (atWidth y.q (fun _ a b => a &&& b) a b) ∧
    WritesG (.or y) y s (atWidth y.q (fun _ a b => a ||| b) a b) ∧
    WritesG (.xor y) y s (atWidth y.q (fun _ a b => a ^^^ b) a b) ∧
    WritesG (.andn y) y s (atWidth y.q (fun _ a b => a &&& ~~~b) a b) ∧
    WritesG (.shl y) y s (atWidth y.q (fun w a b => a <<< (b.toNat % w)) a b) ∧
    WritesG (.shr y) y s (atWidth y.q (fun w a b => a >>> (b.toNat % w)) a b) ∧
    WritesG (.sar y) y s (atWidth y.q (fun w a b => a.sshiftRight (b.toNat % w)) a b) ∧
    WritesG (.ror y) y s (atWidth y.q (fun w a b => a.rotateRight (b.toNat % w)) a b) ∧
    WritesG (.cmpeq y) y s (atWidth y.q (fun _ a b => if a = b then 1 else 0) a b) ∧
    WritesG (.cmplt y) y s (atWidth y.q (fun _ a b => if a.toInt < b.toInt then 1 else 0) a b) ∧
    WritesG (.cmpltu y) y s (atWidth y.q (fun _ a b => if a.toNat < b.toNat then 1 else 0) a b) ∧
    WritesG (.min y) y s (atWidth y.q (fun _ a b => if a.toInt < b.toInt then a else b) a b) ∧
    WritesG (.max y) y s (atWidth y.q (fun _ a b => if a.toInt < b.toInt then b else a) a b) ∧
    WritesG (.minu y) y s (atWidth y.q (fun _ a b => if a.toNat < b.toNat then a else b) a b) ∧
    WritesG (.maxu y) y s (atWidth y.q (fun _ a b => if a.toNat < b.toNat then b else a) a b) ∧
    WritesG (.clz y) y s (atWidth y.q (fun w a _ => BitVec.ofNat w (clzOf w a)) a b) ∧
    WritesG (.ctz y) y s (atWidth y.q (fun w a _ => BitVec.ofNat w (ctzOf w a)) a b) ∧
    WritesG (.popc y) y s (atWidth y.q (fun w a _ => BitVec.ofNat w (popOf w a)) a b) ∧
    WritesG (.ldi y) y s (immOf y y.b) ∧
    WritesG (.ldhi y) y s ((immOf y y.b).extractLsb' 0 34 ++ a.extractLsb' 0 30)) ∧
  (
    ∀ (y : Syl) (s : State),
    let a := (readG (getCore s y.n.toNat) y.a).v
    let b := opB y (getCore s y.n.toNat)
    WritesG (.mul y) y s (atWidth y.q (fun _ a b => a * b) a b) ∧
    WritesG (.mulh y) y s (atWidth y.q (fun w a b => BitVec.ofInt w (a.toInt * b.toInt / 2 ^ w)) a b) ∧
    WritesG (.mulhu y) y s (atWidth y.q (fun w a b => BitVec.ofNat w (a.toNat * b.toNat / 2 ^ w)) a b)) ∧
  (
    ∀ (y : Syl) (s : State),
    let a := (readG (getCore s y.n.toNat) y.a).v
    let b := opB y (getCore s y.n.toNat)
    let later := fun (i : Instr) (v : Word64) => WritesLater i y s (fun c => { idx := c.nextIdx, dst := gDst c y.d, g := v })
    later (.div y) (atWidth y.q (fun w a b => if b = 0 then BitVec.allOnes w else BitVec.ofInt w (a.toInt.tdiv b.toInt)) a b) ∧
    later (.divu y) (atWidth y.q (fun w a b => if b = 0 then BitVec.allOnes w else BitVec.ofNat w (a.toNat / b.toNat)) a b) ∧
    later (.rem y) (atWidth y.q (fun w a b => if b = 0 then a else BitVec.ofInt w (a.toInt.tmod b.toInt)) a b) ∧
    later (.remu y) (atWidth y.q (fun w a b => if b = 0 then a else BitVec.ofNat w (a.toNat % b.toNat)) a b))

/-- What CLZ, CTZ and POPC count (R112). -/
def Obligations.BitCountsCount : Prop := ∀ (w : Nat) (a : BitVec w),
  clzOf w a ≤ w ∧ (∀ j, w - clzOf w a ≤ j → a.getLsbD j = false) ∧ (clzOf w a < w → a.getLsbD (w - 1 - clzOf w a) = true) ∧
  ctzOf w a ≤ w ∧ (∀ j, j < ctzOf w a → a.getLsbD j = false) ∧ (ctzOf w a < w → a.getLsbD (ctzOf w a) = true) ∧
  popOf w a = ((List.range w).map (fun j => if a.getLsbD j then 1 else 0)).sum

/-! ### Vectors and floating point (R140, R141) -/

/-- The integer vector operations (R82, R103, R140): elements of size `e` combined one by one. The floating-point operations (R103, R141):
element by element, rounded as RM says; FDIV and FSQRT give the divider a result that V[D] takes later. -/
def Obligations.VectorAndFloatResults : Prop :=
  (
    ∀ (y : Syl) (s : State),
    let c := getCore s y.n.toNat
    let a := (readV c (vNum y.a)).v
    let b := (readV c (vNum y.b)).v
    let d := (readV c (vNum y.d)).v
    let e := fE y
    let g := (readG c y.a).v
    let each := fun (i : Instr) (f : Nat → Nat → Nat) => WritesV i y s (vOfElts e (fun k => f (vElt a e k) (vElt b e k)))
    each (.vadd y) (fun a b => (a + b) % 2 ^ e) ∧
    each (.vsub y) (fun a b => (a + 2 ^ e - b) % 2 ^ e) ∧
    WritesV (.vand y) y s (a &&& b) ∧
    WritesV (.vor y) y s (a ||| b) ∧
    WritesV (.vxor y) y s (a ^^^ b) ∧
    each (.vshl y) (fun a b => a * 2 ^ (b % e) % 2 ^ e) ∧
    each (.vshr y) (fun a b => a / 2 ^ (b % e)) ∧
    each (.vmin y) (fun a b => if toSigned e a < toSigned e b then a else b) ∧
    each (.vmax y) (fun a b => if toSigned e a < toSigned e b then b else a) ∧
    each (.vcmpeq y) (fun a b => if a = b then 2 ^ e - 1 else 0) ∧
    each (.vcmpgt y) (fun a b => if toSigned e b < toSigned e a then 2 ^ e - 1 else 0) ∧
    WritesV (.vmov y) y s a ∧
    WritesV (.vinsg y) y s (vOfElts e (fun k => if k = y.b.toNat then g.toNat % 2 ^ e else vElt d e k)) ∧
    WritesG (.vextg y) y s (BitVec.ofInt 64 (toSigned e (vElt a e y.b.toNat))) ∧
    WritesV (.vsplat y) y s (vOfElts e (fun _ => g.toNat % 2 ^ e)) ∧
    WritesV (.vshuf y) y s (vOfElts 8 (fun k => if 128 ≤ vElt b 8 k then 0 else vElt a 8 (vElt b 8 k % 16)))) ∧
  (
    ∀ (y : Syl) (s : State),
    let c := getCore s y.n.toNat
    let e := fE y
    let rm := fRm y
    let a := fun k => vElt (readV c (vNum y.a)).v e k
    let b := fun k => vElt (readV c (vNum y.b)).v e k
    let d := fun k => vElt (readV c (vNum y.d)).v e k
    let later := fun (i : Instr) (f : Nat → Nat) => WritesLater i y s (fun c => { idx := c.nextIdx, dst := .v (vNum y.d), v := vOfElts e f })
    WritesV (.fadd y) y s (vOfElts e (fun k => fAdd e rm (a k) (b k))) ∧
    WritesV (.fsub y) y s (vOfElts e (fun k => fSub e rm (a k) (b k))) ∧
    WritesV (.fmul y) y s (vOfElts e (fun k => fMul e rm (a k) (b k))) ∧
    later (.fdiv y) (fun k => fDiv e rm (a k) (b k)) ∧
    later (.fsqrt y) (fun k => fSqrt e rm (a k)) ∧
    WritesV (.fma y) y s (vOfElts e (fun k => fFma e rm (d k) (a k) (b k))) ∧
    WritesV (.fms y) y s (vOfElts e (fun k => fFms e rm (d k) (a k) (b k))) ∧
    WritesV (.fmin y) y s (vOfElts e (fun k => fMinMax false e (a k) (b k))) ∧
    WritesV (.fmax y) y s (vOfElts e (fun k => fMinMax true e (a k) (b k))) ∧
    WritesV (.fcmpeq y) y s (vOfElts e (fun k => fCmpEq e (a k) (b k))) ∧
    WritesV (.fcmplt y) y s (vOfElts e (fun k => fCmpLt e (a k) (b k))) ∧
    WritesV (.fcvtif y) y s (vOfElts e (fun k => fFromInt e rm (a k))) ∧
    WritesV (.fcvtfi y) y s (vOfElts e (fun k => fToInt e rm (a k))))

/-! ### Memory syllables (R115 to R139) -/

/-- The loads (R118, R152, R157): the width and extension of each, and where its value goes. The stores (R118, R155): the low bytes of the
register, lowest first, with its mark, enter the store buffer at the addresses that the word's checks found; every byte of DRAM and every
register but the PC stay. The atomics, LR and SC send their access (R123, R126): the operation, its width, the extension of the old value,
the operand of G[B]. -/
def Obligations.LoadsStoresAndAtomics : Prop :=
  (
    ∀ (y : Syl) (s : State),
    let g := gDst (getCore s y.n.toNat) y.d
    Loads (.ld8s y) y s g 1 true ∧ Loads (.ld8u y) y s g 1 false ∧ Loads (.ld16s y) y s g 2 true ∧ Loads (.ld16u y) y s g 2 false ∧
    Loads (.ld32s y) y s g 4 true ∧ Loads (.ld32u y) y s g 4 false ∧ Loads (.ld64 y) y s g 8 false ∧
    Loads (.ldv y) y s (.v (vNum y.d)) 16 false) ∧
  (
    ∀ (y : Syl) (s : State),
    let x := readG (getCore s y.n.toNat) y.d
    let v := readV (getCore s y.n.toNat) (vNum y.d)
    Stores (.st8 y) y s (pbytes 1 x.v.toNat x.p) ∧ Stores (.st16 y) y s (pbytes 2 x.v.toNat x.p) ∧
    Stores (.st32 y) y s (pbytes 4 x.v.toNat x.p) ∧ Stores (.st64 y) y s (pbytes 8 x.v.toNat x.p) ∧
    Stores (.stv y) y s (pbytes 16 v.v.toNat v.p)) ∧
  (
    ∀ (y : Syl) (s : State),
    let g := gDst (getCore s y.n.toNat) y.d
    let b := (readG (getCore s y.n.toNat) y.b).v
    SendsAcc (.aswap y) y s (.atomic .swap) g 8 false b ∧ SendsAcc (.aadd y) y s (.atomic .add) g 8 false b ∧
    SendsAcc (.amin y) y s (.atomic .min) g 8 false b ∧ SendsAcc (.amax y) y s (.atomic .max) g 8 false b ∧
    SendsAcc (.aminu y) y s (.atomic .minu) g 8 false b ∧ SendsAcc (.amaxu y) y s (.atomic .maxu) g 8 false b ∧
    SendsAcc (.aswapw y) y s (.atomic .swap) g 4 true b ∧ SendsAcc (.aaddw y) y s (.atomic .add) g 4 true b ∧
    SendsAcc (.aminw y) y s (.atomic .min) g 4 true b ∧ SendsAcc (.amaxw y) y s (.atomic .max) g 4 true b ∧
    SendsAcc (.aminuw y) y s (.atomic .minu) g 4 false b ∧ SendsAcc (.amaxuw y) y s (.atomic .maxu) g 4 false b ∧
    SendsAcc (.lr y) y s .lr g 8 false 0 ∧ SendsAcc (.sc y) y s .sc g 8 false b)

/-- An issued FENCE orders and changes nothing else (R122); a block-repeat operation with a count of zero ends at once, and any other begins
with the PC at its own word and ten lost issue opportunities (R130 to R134). PREF, TLBLK and TLBULK complete and write no register and no byte of DRAM (R135, R137, R240);
LSEG writes the segment register with the descriptor that its checks read (R139, R223). -/
def Obligations.FencesBlocksAndSegments : Prop :=
  (
    ∀ (y : Syl) (s : State),
    let c := getCore s y.n.toNat
    let begins := fun (i : Instr) (op : BlkOp) => Does i y s (fun x => if (readG c 4).v = 0 then x else
      { x with blk := some { op := op, esz := 2 ^ (y.b.toNat % 4), seg5 := qSeg y, seg6 := y.a.setWidth 3 }, pc := c.pc,
               owe := x.owe + 10 })
    Does (.fence y) y s (fun x => x) ∧ begins (.movb y) .movb ∧ begins (.setb y) .setb ∧ begins (.cmpb y) .cmpb ∧ begins (.scanb y) .scanb) ∧
  (
    ∀ (y : Syl) (s : State),
    let n := y.n.toNat
    let quiet := fun (i : Instr) => issuesAlone i y s = true → ∃ t, exec i s = .next t ∧ RegsSame n s t ∧
      regsOf (getCore t n) = regsOf (pastWord y (getCore s n))
    quiet (.pref y) ∧ quiet (.tlblk y) ∧ quiet (.tlbulk y) ∧
    (issuesAlone (.lseg y) y s = true → ∃ t, exec (.lseg y) s = .next t ∧ RegsSame n s t ∧
      sgBad (x2Res (.lseg y) y s).desc = false ∧
      regsOf (getCore t n) = regsOf (writeSg (pastWord y (getCore s n)) (y.d.setWidth 3) (x2Res (.lseg y) y s).desc)))

/-- CFLUSH, CCLEAN and CINV send their request to the line's home and hold issue for it; a line that is not DRAM needs nothing (R135, R136).
ICINV holds issue until every course with a core in service has invalidated the line; TLBI, TLBID and TLBIA send their removal to every
core that holds TLBs, and hold issue (R135, R137, R242). -/
def Obligations.MaintenanceAndInvalidations : Prop :=
  (
    ∀ (y : Syl) (s : State) (p : Part) (r : List Part),
    let n := y.n.toNat
    let asks := fun (i : Instr) (k : MsgKind) => issuesAlone i y s = true → (x2Res i y s).parts = p :: r →
      ∃ t, exec i s = .next t ∧ RegsSame n s t ∧ regsOf (getCore t n) = regsOf (pastWord y (getCore s n)) ∧
        (region s p.pa.toNat = .dram → (getCore t n).busy = .maint (lineOfPa p.pa) ∧
          ∃ m, t.net = s.net ++ [m] ∧ m.kind = k ∧ m.line = lineOfPa p.pa ∧ m.core = some y.n ∧ m.tdid = tagOf (getCore s n)) ∧
        (region s p.pa.toNat ≠ .dram → (getCore t n).busy = .none ∧ t.net = s.net)
    asks (.cflush y) .flushReq ∧ asks (.cclean y) .cleanReq ∧ asks (.cinv y) .invReq) ∧
  (
    ∀ (y : Syl) (s : State),
    let n := y.n.toNat
    let c := getCore s n
    let sends := fun (i : Instr) (sc : InvScope) => SendsWord i y s (fun st t =>
      t.invNet = s.invNet ++ ((List.range 256).filter (fun k => holdsTlb (getCore s k))).map
        (fun k => (BitVec.ofNat 8 k, { from_ := y.n, scope := sc, tdid := tagOf c, epoch := epochTag c, short := st })) ∧
      ∃ w, (getCore t n).busy = .tlb w)
    sends (.tlbi y) (.page (tagOf (getCore s n)) ((getCore s n).level != .h) (BitVec.ofNat 48 (x2Res (.tlbi y) y s).lin)) ∧
    sends (.tlbid y) (.domain ((readG (getCore s n) y.a).v.setWidth 12)) ∧
    sends (.tlbia y) .all ∧
    (∀ p r, (x2Res (.icinv y) y s).parts = p :: r → SendsWord (.icinv y) y s (fun st t =>
      (region s p.pa.toNat = .dram → (∃ w, (getCore t n).busy = .icinv w) ∧
        t.icNet = s.icNet ++ ((List.range 32).filter (fun k => (coresOf s k).any (fun j => inService (getCore s j)))).map
          (fun k => (y.n, BitVec.ofNat 5 k, lineOfPa p.pa, st))) ∧
      (region s p.pa.toNat ≠ .dram → (getCore t n).busy = .none ∧ t.icNet = s.icNet))))

/-! ### Branch and system syllables (R142 to R148) -/

/-- Branches and calls (R92, R104, R142): the PC after each, and the link register. -/
def Obligations.BranchResults : Prop := ∀ (y : Syl) (s : State),
  let c := getCore s y.n.toNat
  let a := (readG c y.a).v
  let b := (readG c y.b).v
  let rel := c.pc + 4 * immOf y y.d
  let next := (pastWord y c).pc
  let code := (y.q.extractLsb' 0 3).toNat
  let holds := (code = 0 ∧ a = b) ∨ (code = 1 ∧ a ≠ b) ∨ (code = 2 ∧ a.toInt < b.toInt) ∨ (code = 3 ∧ b.toInt ≤ a.toInt) ∨
    (code = 4 ∧ a.toNat < b.toNat) ∨ (code = 5 ∧ b.toNat ≤ a.toNat) ∨ code = 6
  (holds → Turns (.br y) y s (fun x => { x with pc := rel })) ∧
  (¬holds → Turns (.br y) y s (fun x => x)) ∧
  Turns (.jr y) y s (fun x => { x with pc := a &&& ~~~3 }) ∧
  Turns (.call y) y s (fun x => { writeG x y.a { v := next } with pc := rel }) ∧
  Turns (.callr y) y s (fun x => { writeG x y.a { v := next } with pc := b &&& ~~~3 }) ∧
  Turns (.ret y) y s (fun x => { x with pc := a &&& ~~~3 })

/-- SYSCALL and HYPERCALL record their trap with the next word's address, and the code (R142). BREAK records cause 0x38 with its own word's
address and its code; no register changes (R142). RFE of a plain frame (R205): level, IE and PC come from the level's TRAPST and TRAPPC,
the level's busy bit clears, the reservation is dropped. -/
def Obligations.SystemCallsAndReturns : Prop :=
  (
    ∀ (y : Syl) (s : State),
    let trap := fun (code : BitVec 8) (c : Core) => { c with trap := some { code := code, addr := y.b.setWidth 64, pc := c.pc } }
    Does (.syscall y) y s (trap 0x30) ∧ Does (.hypercall y) y s (trap 0x31)) ∧
  (
    ∀ (y : Syl) (s : State), y.s = true → (getCore s y.n.toNat).word = [] →
    y.x = none → y.q = 0 → y.a = 0 → y.d = 0 → fetchesAlone (.brk y) y s = true →
    ∃ t, exec (.brk y) s = .next t ∧ ElseSame y.n.toNat s t ∧ archOf (getCore t y.n.toNat) =
      archOf { getCore s y.n.toNat with trap := some { code := 0x38, addr := y.b.setWidth 64, pc := (getCore s y.n.toNat).pc } }) ∧
  (
    ∀ (y : Syl) (s : State) (l : Level),
    let n := y.n.toNat
    let c := getCore s n
    let b := bankOf c c.level
    y.odd = none → y.s = true → c.word = [] → passesChecks (.rfe y) y s = true → lvlOf (fld b.trapSt 0 2) = some l → lvlNum l ≤ lvlNum c.level →
    b.trapSt.getLsbD 5 = false →
    ∃ t, exec (.rfe y) s = .next t ∧ RegsSame n s t ∧ (getCore t n).resv = none ∧ (getCore t n).pred = {} ∧
      regsOf (getCore t n) = regsOf { c with level := l, ie := b.trapSt.getLsbD 2, pc := b.trapPc, sbusy := c.sbusy && c.level == .h,
                                             hbusy := c.hbusy && c.level != .h })

/-- MFS (R86, R143): what each register reads as. -/
def Obligations.SystemRegisterReads : Prop := ∀ (y : Syl) (s : State),
  let c := getCore s y.n.toNat
  let k := sysNum y
  ∃ v : Reg, Does (.mfs y) y s (fun x => writeG x y.d v) ∧
    (k = 0x000 → v = { v := statusWord c }) ∧
    (1 ≤ k ∧ k ≤ 4 → v = { v := trapReg (bankOf c c.level) k }) ∧
    (9 ≤ k ∧ k ≤ 0xC → v = { v := trapReg c.trapS (k - 8) }) ∧
    (k = 0x011 → v = { v := tmode1Word c }) ∧
    (k = 0x013 → v = { v := if c.mode3 then 1 else 0 }) ∧
    (k = 0x015 → v = { v := c.tentry1 }) ∧ (k = 0x017 → v = { v := c.tentry3 }) ∧
    (k = 0x019 → v = { v := c.tdesc1 }) ∧ (k = 0x01B → v = { v := c.tdesc3 }) ∧
    (k = 0x01C → v = { v := c.troute }) ∧ (k = 0x020 → v = { v := c.ptbase }) ∧
    (k = 0x030 → v.p = false ∧ v.v.getLsbD 63 = c.ingrace ∧ v.v.extractLsb' 0 16 = c.held) ∧
    (k = 0x040 → v = { v := c.evmask }) ∧ (k = 0x090 → v = { v := tdidWord c }) ∧ (k = 0x091 → v = { v := epochWord c }) ∧
    (k = 0x0A0 → v = { v := reinWord c }) ∧
    (∀ r b, bankNum k = some (r, b) → v = readGb c r b)

/-- MTS of the registers that only the core holds (R143): what each becomes; reserved bits keep their value. The MTS rows of LOCKHELD, TMODE
and its companions, and PCTL (R177, R201, R301). -/
def Obligations.SystemRegisterWrites : Prop :=
  (
    ∀ (y : Syl) (s : State),
    let c := getCore s y.n.toNat
    let x := readG c y.d
    let w := x.v
    let puts := fun (f : Core → Core) => Does (.mts y) y s f
    let k := sysNum y
    (k = 0x000 → puts (fun c => { c with ie := w.getLsbD 2 })) ∧
    (1 ≤ k ∧ k ≤ 4 → puts (fun c => setBank c c.level (setTrapReg (bankOf c c.level) k w))) ∧
    (9 ≤ k ∧ k ≤ 0xC → puts (fun c => { c with trapS := setTrapReg c.trapS (k - 8) w })) ∧
    (k = 0x013 → puts (fun c => { c with mode3 := w.getLsbD 0 })) ∧
    (k = 0x017 → puts (fun c => { c with tentry3 := w &&& ~~~3 })) ∧
    (k = 0x01B → puts (fun c => { c with tdesc3 := w &&& 0xFFFFFFFFE000 })) ∧
    (k = 0x01C → puts (fun c => { c with troute := (w &&& trouteMask) ||| trouteFixed })) ∧
    (k = 0x020 → puts (fun c => { c with ptbase := w &&& 0x8FFFFFFFFFFFF000 })) ∧
    (∀ r b, bankNum k = some (r, b) → puts (fun c => writeGb c r b x)) ∧
    (k = 0x119 → issuesAlone (.mts y) y s = true → ∃ t, exec (.mts y) s = .next t ∧ pmGet (getCore t y.n.toNat) 25 = w &&& 0xFFF)) ∧
  (
    ∀ (y : Syl) (s : State),
    let w := (readG (getCore s y.n.toNat) y.d).v
    let fills := fun (c : Core) => { c with fready := false, ffill := true, fbuf := none }
    Does (.mtsLockheld y) y s (fun c => { c with held := w.extractLsb' 0 16, ingrace := c.ingrace && w.extractLsb' 0 16 != 0 }) ∧
    (sysNum y = 0x011 → Does (.mtsTmode y) y s (fun c => fills { c with mode1 := w.getLsbD 0 })) ∧
    (sysNum y = 0x015 → Does (.mtsTmode y) y s (fun c => fills { c with tentry1 := w &&& ~~~3 })) ∧
    (sysNum y = 0x019 → Does (.mtsTmode y) y s (fun c => fills { c with tdesc1 := w &&& 0xFFFFFFFFE000 })) ∧
    Does (.mtsPctl y) y s (fun c => { c with pctl := (c.pctl &&& 0xF0) ||| (w.extractLsb' 0 8 &&& 0x0F) }))

/-- The MTS rows that reach the hub (R350 to R352, R355): the event groups, the threshold, a claim with nothing to claim or of the most
recent acceptance, and an end of interrupt. -/
def Obligations.HubRegisterWrites : Prop := ∀ (y : Syl) (s : State),
  let n := y.n.toNat
  let w := (readG (getCore s n) y.d).v
  let does := fun (i : Instr) (P : State → Prop) => issuesAlone i y s = true →
    ∃ t, exec i s = .next t ∧ RegsSame n s t ∧ P t
  does (.mtsEvmask y) (fun t => regsOf (getCore t n) = regsOf { pastWord y (getCore s n) with evmask := w } ∧ (getHub t n).evmask = w) ∧
  (fld w 62 2 = 0 → does (.sThreshold y) (fun t => regsOf (getCore t n) = regsOf { pastWord y (getCore s n) with th := w.extractLsb' 0 8 } ∧
    (getHub t n).thS = w.extractLsb' 0 8)) ∧
  (fld w 62 2 = 1 → (getHub s n).unclS = [] → does (.sClaim y) (fun t => (getHub t n).idS = 0x1FFF)) ∧
  (fld w 62 2 = 1 → ∀ id rest p, (getHub s n).unclS = id :: rest → (getSrc s id.toNat).inserv = some (y.n, .s, p) →
    srcPrio (getSrc s id.toNat) ≠ 0 → (getSrc s id.toNat).clr = false → 64 ≤ id.toNat →
    does (.sClaim y) (fun t => (getHub t n).idS = id ∧ (getHub t n).unclS = rest)) ∧
  (fld w 62 2 = 2 → ∀ p, (getSrc s (fld w 16 13)).inserv = some (y.n, .s, p) → fld w 16 13 ≠ 8191 →
    does (.sEoi y) (fun t => (getSrc t (fld w 16 13)).inserv = none))

/-- MTS to TDID (R62 to R64): the core takes a valid domain, its virtual core and the next epoch, and holds issue for the hub; a domain that
is not valid leaves its binding and its general registers, and still clears the event flag and the class F entry buffer (R63). MTS to REIN (R39): PACE and PL are as written, SLIP clears where 1 is written,
and no general or vector register and no byte of DRAM changes. -/
def Obligations.RebindingAndReining : Prop :=
  (
    ∀ (y : Syl) (s : State),
    let n := y.n.toNat
    let c := getCore s n
    let w := (readG c y.d).v
    issuesAlone (.mtsTdid y) y s = true →
    ∃ t, exec (.mtsTdid y) s = .next t ∧ RegsSame n s t ∧
      (domValid s (w.extractLsb' 0 12).toNat = true → (getCore t n).dom = w.extractLsb' 0 12 ∧
        (w.extractLsb' 0 12 ≠ 0 → (getCore t n).vcore = w.extractLsb' 16 8) ∧ (getCore t n).epoch = c.epoch + 1 ∧ (getCore t n).resv = none ∧
        (getCore t n).pred = {} ∧ (getCore t n).evflag = false ∧ (getCore t n).lease = 0 ∧ (getCore t n).busy = .bind) ∧
      (domValid s (w.extractLsb' 0 12).toNat = false → regsOf (getCore t n) =
        regsOf { pastWord y c with evflag := false, fready := false, ffill := false, fbuf := none }) ∧
      ∀ r b, readGb (getCore t n) r b = readGb c r b) ∧
  (
    ∀ (y : Syl) (s : State),
    let n := y.n.toNat
    let c := getCore s n
    let w := (readG c y.d).v
    issuesAlone (.mtsRein y) y s = true →
    ∃ t, exec (.mtsRein y) s = .next t ∧ (getCore t n).pace = w.extractLsb' 0 10 ∧ (getCore t n).pl = w.getLsbD 16 ∧
      (getCore t n).slip = (c.slip && !w.getLsbD 63) ∧ (∀ a, memRead t a = memRead s a) ∧
      ∀ k r b, readGb (getCore t k) r b = readGb (getCore s k) r b)

/-- Waiting (R146 to R148) of a core with no delivery on offer: WFE and WAITT end at once on the event flag, WAITT on a deadline that has
passed; otherwise the core waits, and NAP waits with its L1 caches empty. SEV sends one event, to a virtual core or an event group, from
the sender's domain (R145); RDTIME reads plumb time (R142); PFLUSH empties the predictor (R142); PBAR sets or clears PBARRED (R171). -/
def Obligations.WaitingAndEventSyllables : Prop :=
  (
    ∀ (y : Syl) (s : State),
    let n := y.n.toNat
    let c := getCore s n
    let d := (readG c y.a).v
    let waits := fun (i : Instr) (r : Run) => issuesAlone i y s = true → c.offer = none → ∃ t, exec i s = .next t ∧ RegsSame n s t ∧
      (getCore t n).resv = none ∧ regsOf (getCore t n) = regsOf { pastWord y c with run := r, napAt := (getCore t n).napAt } ∧
      (r = .nap → (getCore t n).l1i = [] ∧ (getCore t n).l1d = [])
    (c.evflag = true → Does (.wfe y) y s (fun x => { x with evflag := false })) ∧
    (c.evflag = false → waits (.wfe y) .wfe) ∧
    (c.evflag = true → Does (.waitt y) y s (fun x => writeG { x with evflag := false } y.d { v := 1 })) ∧
    (c.evflag = false → d.toNat ≤ coreTime s n → Does (.waitt y) y s (fun x => writeG x y.d { v := 0 })) ∧
    (c.evflag = false → coreTime s n < d.toNat → waits (.waitt y) (.waitt y.d d)) ∧
    waits (.nap y) .nap) ∧
  (
    ∀ (y : Syl) (s : State),
    let n := y.n.toNat
    let c := getCore s n
    SendsWord (.sev y) y s (fun st t => archOf (getCore t n) = archOf (pastWord y c) ∧
      t.sevs = s.sevs ++ [(tagOf c, y.b.getLsbD 0, (readG c y.a).v.setWidth 8, st)]) ∧
    WritesG (.rdtime y) y s (BitVec.ofNat 64 (coreTime s n)) ∧
    Does (.pflush y) y s (fun x => { x with pred := {} }) ∧
    Does (.pbar y) y s (fun x => { x with pctl := if y.b.getLsbD 0 then x.pctl &&& ~~~0x10 else x.pctl ||| 0x10 }))

/-! ### What reaches a core (R126 to R159, R236, R242) -/

/-- A load's data and a unit's result reach their register with their mark, and are outstanding no longer (R118, R123, R126, R152, R153,
R193); what is not outstanding changes nothing. A drain of the store buffer (R119, R121, R155, R156): the oldest store is performed on a
writable line of the course's L2 and leaves the buffer; to a root port, to the control region or to an uncached page it is sent and
marked. No register and no byte of DRAM changes. -/
def Obligations.ResultsAndStoresArePerformed : Prop :=
  (
    ∀ (n : BitVec 8) (j : Nat) (s : State),
    let k := n.toNat
    let c := getCore s k
    (∀ a, c.accs.find? (fun a => a.idx == j) = some a → accDone a = true →
      ∃ t, exec (.loadDataReturn n j) s = .next (advance t k) ∧ RegsSame k s t ∧
        regsOf (getCore t k) = regsOf (writeDst c a.dst (accValue a).1 (accValue a).2) ∧ (getCore t k).accs.all (fun x => x.idx != j) = true) ∧
    (c.accs.find? (fun a => a.idx == j) = none → exec (.loadDataReturn n j) s = .next s) ∧
    (∀ r, c.results.find? (fun r => r.idx == j) = some r →
      ∃ t, exec (.resultWrite n j) s = .next (advance t k) ∧ ElseSame k s t ∧
        getCore t k = writeDst { c with results := c.results.filter (fun x => x.idx != j) } r.dst
          (match r.dst with | .v _ => r.v.toNat | _ => r.g.toNat) false) ∧
    (c.results.find? (fun r => r.idx == j) = none → exec (.resultWrite n j) s = .next s)) ∧
  (
    ∀ (n : BitVec 8) (s : State),
    let k := n.toNat
    let c := getCore s k
    ∃ t, exec (.storeDrain n) s = .next (advance t k) ∧ RegsKept s t ∧
      (c.sb = [] → t = s) ∧
      (∀ e r, c.sb = e :: r → e.sent = false →
        (∀ p, region s e.pa.toNat = .port p → storeBlocked c e true = false →
          (getCore t k).sb = { e with sent := true } :: r ∧ ∃ pre m, t.outNet = pre ++ s.outNet ++ [(BitVec.ofNat 3 p, m)] ∧
            m.kind = .store ∧ m.pa = e.pa ∧ m.data = e.bytes.map (·.b) ∧ m.tdid = e.tdid ∧ m.epoch = e.epoch ∧
            (c.resv = none → pre = [])) ∧
        (region s e.pa.toNat = .ctl → e.cont = false → storeBlocked c e true = false →
          (getCore t k).sb = { e with sent := true } :: r ∧ ∃ m, t.ctlNet = s.ctlNet ++ [m] ∧
            m.width = (if e.whole = 0 then e.bytes.length else e.whole) ∧ m.val = BitVec.ofNat 64 (pnat e.bytes) ∧
            m.tdid = e.tdid ∧ m.epoch = e.epoch) ∧
        (region s e.pa.toNat = .dram → storeBlocked c e (e.mt == .device) = false → e.mt ≠ .cached →
          (getCore t k).sb = { e with sent := true } :: r ∧ ∃ m, m ∈ t.net ∧ m.kind = .hwr ∧ m.line = lineOfPa e.pa) ∧
        (∀ w x, region s e.pa.toNat = .dram → storeBlocked c e false = false → e.mt = .cached →
          l2Find (getCourse s (courseOf s k)) (lineOfPa e.pa) = some (w, x) → x.st ≠ .s → x.ue = 0 →
          (getCore t k).sb = r ∧ ∃ x', x'.st = .m ∧ x'.line = x.line ∧ tget (fun _ => {}) (getCourse t (courseOf s k)).l2 w = x')))

/-- Fills and walks (R159, R167, R201, R232 to R238): a code line that the course's L2 holds enters the L1I. A walk reads its entry: a
pointer leads one level down, a leaf with the rights ends the walk and is held in the L2 TLB, a bad entry is PAGE_ABSENT at the address of
the access. A fill of the class F entry buffer in mode 0 takes the handler's line. None of them changes a general register or a byte of
DRAM, and warm-up ends with its count at zero. -/
def Obligations.FillsAndWalksEnd : Prop := ∀ (n : BitVec 8) (s : State),
  let k := n.toNat
  let c := getCore s k
  (∃ t, exec (.l1iMissFill n) s = .next (advance t k) ∧ RegsKept s t ∧
    ∀ l w x, c.fetching = some (l, .cached) → region s (paOfLine l).toNat = .dram →
      l2Find (getCourse s (courseOf s k)) l = some (w, x) → x.ue = 0 →
      (getCore t k).fetching = none ∧ (l, packLine (lineRead x.data 0 64)) ∈ (getCore t k).l1i) ∧
  (∃ t, exec (.walkEntryRead n) s = .next (advance t k) ∧ (c.walk = none → t = s) ∧ (∀ a, memRead t a = memRead s a) ∧
    (∀ j r b, readGb (getCore t j) r b = readGb (getCore s j) r b) ∧
    ∀ w q x,
      let ea := w.table.toNat * 4096 + 8 * (w.lin.toNat / 2 ^ pageBits w.lvl % 512)
      let b := lineRead x.data (ea % 64) 8
      let pte : Word64 := BitVec.ofNat 64 (pnat b)
      c.walk = some w → c.sb = [] → region s ea = .dram → windowOk s (courseOf s k) w.tag.toNat ea .read = true →
      l2Find (getCourse s (courseOf s k)) (lineOfPa (BitVec.ofNat 52 ea)) = some (q, x) → x.ue = 0 → pany b = false →
      (pteBad pte w.lvl = false → pteLeaf pte = false →
        (getCore t k).walk = some { w with lvl := w.lvl - 1, table := pte.extractLsb' 12 40 }) ∧
      (pteBad pte w.lvl = false → pteLeaf pte = true → rightsOk pte w.kind w.at_ = true → w.why ≠ .pref →
        (getCore t k).walk = none ∧ ∃ e ∈ (getCore t k).l2tlb, e.pte = pte ∧ e.lvl = w.lvl ∧
          e.vpn = w.lin.toNat / 2 ^ pageBits w.lvl ∧ e.guest = w.guest ∧ e.tag = w.tag ∧ e.asn = w.asn) ∧
      (pteBad pte w.lvl = true → w.why = .data → c.entry = none →
        (getCore t k).walk = none ∧ (getCore t k).trap = some { code := 0x10, addr := w.lin.setWidth 64, pc := c.pc })) ∧
  (c.warm = true → c.warmLeft = 0 →
    ∃ t, exec (.warmUpEnd n) s = .next (advance t k) ∧ ElseSame k s t ∧ getCore t k = { c with warm := false }) ∧
  (c.warm = false ∨ c.warmLeft ≠ 0 → exec (.warmUpEnd n) s = .next s) ∧
  (∀ lin l0 p s1 q x, c.ffill = true → c.mode1 = false → segCheck (readSg c 0) c.tentry1.toNat 4 .fetch .s = .ok lin →
    checkPart s k .fetch .s false (lin / 64 * 64) 64 = (.ok l0 [p], s1) → inL2 s k p →
    l2Find (getCourse s (courseOf s k)) (lineOfPa p.pa) = some (q, x) → pany (lineRead x.data (p.pa.toNat % 64) 64) = false →
    ∃ t f, exec (.classFFillDone n) s = .next t ∧ RegsSame k s t ∧ (getCore t k).fready = true ∧ (getCore t k).ffill = false ∧
      (getCore t k).fbuf = some f ∧ f.handler = c.tentry1 ∧ f.seg = false ∧ f.line = lineOfPa p.pa ∧
      f.data = packLine (lineRead x.data (p.pa.toNat % 64) 64)) ∧
  (c.ffill = false → exec (.classFFillDone n) s = .next s) ∧
  (c.ffill = true → c.fready = false → c.ffail = false → ∃ t, exec (.classFFillDone n) s = .next t ∧ RegsSame k s t ∧
    ((getCore t k).fready = true → (getCore t k).ffill = false ∧ ∃ f, (getCore t k).fbuf = some f ∧ (c.mode1 = false → f.handler = c.tentry1)) ∧
    ((getCore t k).ffail = true → (getCore t k).ffill = false))

/-! ### Traps, deliveries and events (R180 to R207, R144 to R147) -/

/-- A recorded trap reaches CM (R182, R188, R192): the entry begins at H when the core is at H or TROUTE says so, at H with REDIR when S is
busy, and otherwise at S; a level whose busy bit is set makes it a double trap, and the core stops. An entry in mode 0 commits (R83, R178,
R180, R188): the level's cause, return address, status and address are saved, IE clears, the level and its busy bit are set, and the PC is
the level's entry address. An RFE with SEG = 1 whose frame is there and legal (R205, R206): SG0 and SG7 come from the frame, and level, IE
and PC from the level's TRAPST and TRAPPC. -/
def Obligations.EntriesAndReturnsCommit : Prop :=
  (
    ∀ (n : BitVec 8) (s : State) (p : Trap),
    let k := n.toNat
    let c := getCore s k
    let toH := c.level = .h ∨ c.troute.getLsbD p.code.toNat = true
    c.trap = some p → c.dead = none → c.entry = none →
    ∃ t, exec (.exceptionEntry n) s = .next t ∧ RegsSame k s t ∧
      ((toH ∨ c.sbusy = true) → c.hbusy = true → (getCore t k).dead = some p.code) ∧
      ((toH ∨ c.sbusy = true) → c.hbusy = false → ∃ e, regsOf (getCore t k) = regsOf { c with trap := none, entry := some e, fresh := none } ∧
        e.trap = p ∧ e.lvl = .h ∧ (e.redir = true ↔ ¬toH)) ∧
      (¬toH → c.sbusy = false → ∃ e, regsOf (getCore t k) = regsOf { c with trap := none, entry := some e, fresh := none } ∧
        e.trap = p ∧ e.lvl = .s ∧ e.redir = false)) ∧
  (
    ∀ (n : BitVec 8) (s : State) (e : Entry),
    let k := n.toNat
    let c := getCore s k
    let b : TrapBank := {
      cause := match e.offer with | some o => BitVec.ofNat 64 (2 ^ 63 + o.id.toNat) | none => e.trap.code.setWidth 64
      trapPc := e.trap.pc
      trapSt := trapStWord e.orig.toNat (match e.offer with | some o => o.clsF | none => false) e.aband false e.entryf e.redir c.ie c.level
      tAddr := e.trap.addr }
    c.dead = none → c.entry = some e → (if e.lvl = .h then c.mode3 else c.mode1) = false →
    ∃ t, exec (.trapEntryCommit n) s = .next t ∧ RegsSame k s t ∧ (getCore t k).resv = none ∧ (getCore t k).word = [] ∧
      regsOf (getCore t k) = regsOf { setBank c e.lvl b with
        level := e.lvl, ie := false, sbusy := c.sbusy || e.lvl == .s, hbusy := c.hbusy || e.lvl == .h,
        pc := if e.lvl = .h then c.tentry3 else c.tentry1, entry := none, blk := none }) ∧
  (
    ∀ (y : Syl) (s : State) (a z : Word128) (l : Level),
    let k := y.n.toNat
    let c := getCore s k
    let b := bankOf c c.level
    y.odd = none → y.s = true → y.x = none → y.q = 0 → c.word = [.rfe y] → c.busy = .rfe → c.walk = none → c.trap = none →
    (routineFetch s k 7).isSome = true → frameRead s k = some (a, z) → sgBad a = false → sgBad z = false → lvlOf (fld b.trapSt 0 2) = some l →
    ∃ t, exec (.rfeFrameCommit y.n) s = .next (advance t k) ∧ RegsSame k s t ∧
      regsOf (getCore t k) = regsOf { writeSg (writeSg c 0 a) 7 z with
        level := l, ie := b.trapSt.getLsbD 2, pc := b.trapPc, sbusy := c.sbusy && c.level == .h, hbusy := c.hbusy && c.level != .h })

/-- Deliveries (R192, R196, R199, R348, R354): a stopped core refuses one; any other core holds it, and a waiting core that it passes goes on.
At an acceptance point it is accepted and an entry begins, or it is refused or stale; each is answered to the hub. A class F delivery is
entered from the entry buffer (R181, R201 to R204): the trap registers of S name the source and the interrupted word, S is entered with IE
clear at the buffer's handler, and 28 issue opportunities are owed. -/
def Obligations.DeliveriesAreJudgedAndEntered : Prop :=
  (
    ∀ (n : BitVec 8) (s : State) (o : Offer),
    let k := n.toNat
    let c := getCore s k
    let stopped := c.dead ≠ none ∨ c.rot = true ∨ c.run = .halted ∨ c.run = .unhoused ∨ c.run = .notStarted
    let free := c.dead = none ∧ c.rot = false ∧ c.entry = none ∧ c.fresh = none ∧ c.trap = none ∧ c.busy = .none ∧ c.atX2 = false ∧
      (∀ b, c.blk = some b → b.stop = true) ∧ (o.clsF && c.fready) = false
    let gives := fun (a : Answer) (f : Core → Core) => ∃ t, exec (.classPEntry n) s = .next (advance t k) ∧ RegsSame k s t ∧
      regsOf (getCore t k) = regsOf (f c) ∧ ∃ st, t.answers = s.answers ++ [(n, o.id, a, st)]
    (stopped → ∃ t st, exec (.interruptOffer n o) s = .next (advance t k) ∧ RegsKept s t ∧ t.answers = s.answers ++ [(n, o.id, .refuse, st)]) ∧
    (¬stopped → ∃ t, exec (.interruptOffer n o) s = .next (advance t k) ∧ (getCore t k).offer = some o ∧ t.answers = s.answers ∧
      (waiting c = false → (getCore t k).run = c.run) ∧
      (waiting c = true → judge s k c o true none = .accept → (getCore t k).run = .run) ∧
      (waiting c = true → judge s k c o true none ≠ .accept → (getCore t k).run = c.run)) ∧
    (c.offer = some o → free → c.run = .run → judge s k c o false none = .accept → gives .accept (fun c =>
      { c with offer := none, blk := none, entry := some { kind := .classP, offer := some o, lvl := offerLevel o, trap := { code := 0, addr := 0, pc := c.pc } } })) ∧
    (c.offer = some o → free → judge s k c o false none = .refuse → gives .refuse (fun c => { c with offer := none })) ∧
    (c.offer = some o → free → judge s k c o false none = .stale → gives .stale (fun c => { c with offer := none }))) ∧
  (
    ∀ (n : BitVec 8) (s : State) (o : Offer) (f : FBuf),
    let k := n.toNat
    let c := getCore s k
    c.offer = some o → o.clsF = true → c.fready = true → c.fbuf = some f → f.seg = false → c.entry = none → c.fresh = none → c.blk = none →
    classFOk c = true → judge s k c o false none = .accept →
    ∃ t st, exec (.classFEntry n) s = .next (advance t k) ∧ RegsSame k s t ∧ (getCore t k).owe = 28 ∧
      t.answers = s.answers ++ [(n, o.id, .accept, st)] ∧
      regsOf (getCore t k) = regsOf { c with
        trapS := { cause := BitVec.ofNat 64 (2 ^ 63 + o.id.toNat), trapPc := c.pc,
                   trapSt := trapStWord 0 true false false false false c.ie c.level, tAddr := 0 }
        offer := none, level := .s, ie := false, sbusy := true, pc := f.handler })

/-- Events and deadlines (R77, R144, R146, R147): an event of the core's own epoch sets its flag, or ends its WFE or WAITT with reason 1; one
of another epoch is dropped; a WAITT ends at its deadline with reason 0, and not before, and an event of the same ns makes the reason 1.
One nanosecond of the pace generator (R40 to R43), for each of the core's replica of plumb time and no other: PACE × 4 thousandths of a token accrue, each whole token enters the bank up to 8, and one that finds it full sets SLIP; a core that
waits or stalls on a budget banks none. -/
def Obligations.EventsDeadlinesAndPace : Prop :=
  (
    ∀ (n : BitVec 8) (ep : BitVec 8) (from_ : BitVec 12) (s : State),
    let k := n.toNat
    let c := getCore s k
    let gives := fun (f : Core → Core) => ∃ t, exec (.eventArrival n ep from_) s = .next (advance t k) ∧ RegsSame k s t ∧
      regsOf (getCore t k) = regsOf (f c)
    c.run ≠ .unhoused → (c.level = .h ∨ domPaused s c.dom.toNat = false) →
    (c.epoch ≠ ep → gives (fun c => c)) ∧
    (c.epoch = ep → c.run = .run → (∀ r t, c.tie = some (r, t) → t ≠ coreTime s k) → gives (fun c => { c with evflag := true })) ∧
    (∀ r, c.epoch = ep → c.run = .run → c.tie = some (r, coreTime s k) → gives (fun c => writeG c r { v := 1 })) ∧
    (c.epoch = ep → c.run = .wfe → gives (fun c => { c with run := .run })) ∧
    (∀ r d, c.epoch = ep → c.run = .waitt r d → gives (fun c => { writeG c r { v := 1 } with run := .run })) ∧
    (∀ r d, c.run = .waitt r d → coreTime s k < d.toNat → exec (.waittDeadline n) s = .next s) ∧
    (∀ r d, c.run = .waitt r d → d.toNat ≤ coreTime s k → ∃ t, exec (.waittDeadline n) s = .next (advance t k) ∧ RegsSame k s t ∧
      regsOf (getCore t k) = regsOf { writeG c r { v := 0 } with run := .run })) ∧
  (
    ∀ (n : BitVec 8) (s : State),
    let k := n.toNat
    let c := getCore s k
    let idle := c.run ≠ .run ∨ (c.level ≠ .h ∧ c.stall ≠ 0 ∧ c.ingrace = false)
    let e := if c.effGen = 0 then c.eff else c.effGen
    let sum := c.acc + 4 * e.toNat
    let m := Nat.min 6 (sum / 1000)
    (paceDue s k = false → exec (.paceGeneratorTick n) s = .next s) ∧
    (paceDue s k = true → ∃ t, exec (.paceGeneratorTick n) s = .next (advance t k) ∧ RegsSame k s t ∧
      (getCore t k).acc = sum - 1000 * m ∧ (getCore t k).paceAt = c.paceAt + 1 ∧
      (getCore t k).effGen = (if 1000 ≤ sum then c.eff else e) ∧
      (idle → (getCore t k).bank = c.bank ∧ (getCore t k).slip = c.slip) ∧
      (¬idle → (getCore t k).bank = Nat.max c.bank (Nat.min 8 (c.bank + m)) ∧ (getCore t k).slip = (c.slip || decide (8 - c.bank < m)))))

/-- A chunk of a block-repeat operation (R130 to R132, R134): G4 falls by the elements done, the regions it uses move up by their size, every
other general register and every byte of DRAM stay; one whose checks pass and whose data is there does its elements, and its stores enter
the store buffer; a parity error of patch memory stops the core (R221). Invalidations at a core (R135,
R242, R243): every entry that one covers leaves the TLBs and the walk cache, and its acknowledgement is owed; ICINV takes its line from
the L1I of every core of the course; the last acknowledgement lets the executing core go on. -/
def Obligations.ChunksAndInvalidations : Prop :=
  (
    ∀ (n : BitVec 8) (s : State),
    let k := n.toNat
    let c := getCore s k
    (∀ e, c.blk = none → exec (.blockChunk n e) s = .next s) ∧
    (∀ b, c.blk = some b → ∃ t u done, exec (.blockChunk n false) s = .next u ∧ (u = t ∨ u = advance t k) ∧ done ≤ 64 ∧
      (∀ a, memRead t a = memRead s a) ∧ (∀ j, j ≠ k → regsOf (getCore t j) = regsOf (getCore s j)) ∧
      (readG (getCore t k) 4).v = (readG c 4).v - BitVec.ofNat 64 done ∧
      (readG (getCore t k) 5).v = (readG c 5).v + (if b.op = .setb then 0 else BitVec.ofNat 64 (done * b.esz)) ∧
      (readG (getCore t k) 6).v = (readG c 6).v + (if b.op = .scanb then 0 else BitVec.ofNat 64 (done * b.esz)) ∧
      ∀ r, r ≠ 4 → r ≠ 5 → r ≠ 6 → readG (getCore t k) r = readG c r) ∧
    (∀ b cnt p5 p6 d s3, c.blk = some b → b.stop = false → c.run = .run → c.dead = none → c.rot = false → c.trap = none → c.entry = none →
      c.offer = none → c.walk = none → c.owe = 0 → (c.level = .h ∨ domPaused s c.dom.toNat = false) → chunkReady s k b cnt p5 p6 d s3 →
      ∃ u, exec (.blockChunk n false) s = .next (advance u k) ∧
        (readG (getCore u k) 4).v = (readG c 4).v - BitVec.ofNat 64 (chunkDone c b cnt d) ∧
        (getCore u k).sb = c.sb ++ (if b.op = .movb ∨ b.op = .setb then blkEntries c 65 p6 (chunkStores c b cnt d) else []) ∧
        (b.op = .movb ∨ b.op = .setb → ((readG c 4).v = BitVec.ofNat 64 cnt → (getCore u k).blk = none ∧ (getCore u k).pc = c.pc + 4))) ∧
    (∀ b, c.blk = some b → c.run = .run → c.dead = none → c.rot = false → c.trap = none → c.entry = none → c.offer = none → c.walk = none →
      (c.level = .h ∨ domPaused s c.dom.toNat = false) → ∃ t, exec (.blockChunk n true) s = .next t ∧ (getCore t k).dead = some 0 ∧
        (getCore t k).upatch.getLsbD 2 = true)) ∧
  (
    ∀ (n m : BitVec 8) (v : TlbInv) (course : BitVec 5) (line : LineNo) (s : State),
    let k := n.toNat
    let c := getCore s k
    let gone := fun (e : TlbEnt) => invHits v.scope e.guest e.tag e.lvl e.vpn = false
    (∃ t, exec (.tlbInvalidation n v) s = .next (advance t k) ∧ t.invNet = s.invNet.erase (n, v) ∧
      (∀ e ∈ (getCore t k).itlb, gone e) ∧ (∀ e ∈ (getCore t k).dtlb, gone e) ∧ (∀ e ∈ (getCore t k).l2tlb, gone e) ∧
      (∀ e ∈ (getCore t k).wcache, invHits v.scope e.guest e.tag e.lvl e.vpn = false) ∧
      (getCore t k).ackWait = c.ackWait ++ [(v.from_, c.accs.map (·.idx), c.sb.length, linesAsked s k)] ∧
      (∀ r b, readGb (getCore t k) r b = readGb c r b) ∧ ∀ a, memRead t a = memRead s a) ∧
    (∀ w, c.busy = .tlb w → s.invNet = [] → (getCore s m.toNat).ackWait = [] →
      ∃ t, exec (.tlbInvAck n m) s = .next (advance t k) ∧ RegsKept s t ∧
        (getCore t k).busy = (if w &&& ~~~(BitVec.ofNat 256 (2 ^ m.toNat)) = 0 then .none else .tlb (w &&& ~~~(BitVec.ofNat 256 (2 ^ m.toNat))))) ∧
    (∃ t, exec (.icinvBroadcast course n line) s = .next t ∧ RegsKept s t ∧
      ∀ j ∈ coresOf s course.toNat, ∀ e ∈ (getCore t j).l1i, e.1 ≠ line) ∧
    (∀ w, c.busy = .icinv w → s.icNet = [] → ∃ t, exec (.icinvAck n course) s = .next (advance t k) ∧ RegsKept s t ∧
      (getCore t k).busy = (if w &&& ~~~(BitVec.ofNat 32 (2 ^ course.toNat)) = 0 then .none else .icinv (w &&& ~~~(BitVec.ofNat 32 (2 ^ course.toNat))))))

/-! ### Coherence (R253 to R283) -/

/-- A request at an idle home (R259 to R267): an owner is forwarded to; a line without a holder is served from the L3, or from memory, and
the directory takes its owner; a conditional store without its reservation fails. No register and no byte of DRAM changes. -/
def Obligations.HomeServesRequests : Prop := ∀ (m : Msg) (s : State),
  let h := (m.dst.toNat - 32) % 32
  let dir := dirFind (getSlice s h) m.line
  let l3 := l3Find (getSlice s h) m.line
  let fwd := fun (i : Instr) (k o : MsgKind) => ∀ w e, dir = some (w, e) → e.st = .owned → homeIdle s h (ofKind m k) →
    Answers i s (ofKind m k) (fun r _ => r.kind = o ∧ r.line = m.line ∧ r.dst.toNat = e.holders.toNat % 32)
  let takes := fun (i : Instr) (k : MsgKind) => ∀ w x, homeIdle s h (ofKind m k) → dir = none → l3 = some (w, x) →
    (∃ d, dirAlloc s h m.line m.aclass.toNat m.req = .way d) →
    Answers i s (ofKind m k) (fun r t => r.kind = (if x.dirty then .dataO else .dataE) ∧ r.data = some x.data ∧ r.dst = m.req ∧
      ∃ d e, dirFind (getSlice t h) m.line = some (d, e) ∧ e.st = .owned ∧ e.holders = BitVec.ofNat 32 m.req.toNat)
  let maint := fun (i : Instr) (k o : MsgKind) => homeIdle s h (ofKind m k) → upCourses s ≠ [] →
    ∃ t, exec i s = .next t ∧ RegsKept s t ∧
      (t.net.drop (s.net.erase (ofKind m k)).length).map (fun r => (r.kind, r.line, r.dst)) =
        (upCourses s).map (fun c => (o, m.line, BitVec.ofNat 7 c))
  fwd (.rdS m) .rdS .fwdS ∧ fwd (.hrd m) .hrd .fwdS ∧ fwd (.hlr m) .hlr .fwdS ∧ fwd (.rdO m) .rdO .fwdO ∧ fwd (.upg m) .upg .fwdO ∧
  fwd (.hwr m) .hwr .fwdO ∧ fwd (.hat m) .hat .fwdO ∧ fwd (.cleanReq m) .cleanReq .clean ∧
  takes (.rdO m) .rdO ∧ takes (.upg m) .upg ∧ (m.use = .load → takes (.rdS m) .rdS) ∧
  (∀ w x, homeIdle s h (ofKind m .hrd) → dir = none → l3 = some (w, x) →
    Answers (.hrd m) s (ofKind m .hrd) (fun r _ => r.kind = .hDone ∧ r.data = some x.data ∧ r.dst = m.req)) ∧
  (homeIdle s h (ofKind m .hrd) → dir = none → l3 = none → ∃ t r, exec (.hrd m) s = .next t ∧ RegsKept s t ∧
    t.memNet = s.memNet ++ [(BitVec.ofNat 4 (channelOf m.line), r)] ∧ r.line = m.line ∧ r.write = false) ∧
  (∀ w x n, m.core = some n → homeIdle s h (ofKind m .hlr) → dir = none → l3 = some (w, x) →
    Answers (.hlr m) s (ofKind m .hlr) (fun r t => r.kind = .hDone ∧ r.data = some x.data ∧
      tget (fun _ => 0) (getSlice t h).resv n.toNat = m.line.toNat + 1)) ∧
  (∀ w x, homeIdle s h (ofKind m .hwr) → dir = none → l3 = some (w, x) →
    Answers (.hwr m) s (ofKind m .hwr) (fun r t => r.kind = .hDone ∧ r.dst = m.req ∧
      tget (fun _ => {}) (getSlice t h).l3 w = { x with data := lineMerge x.data (m.data.getD {}) m.mask, dirty := true })) ∧
  (homeIdle s h (ofKind m .hwr) → dir = none → l3 = none → ∃ t r, exec (.hwr m) s = .next t ∧ RegsKept s t ∧
    t.memNet = s.memNet ++ [(BitVec.ofNat 4 (channelOf m.line), r)] ∧ r.line = m.line ∧ r.write = true ∧ r.data = m.data.getD {} ∧ r.mask = m.mask) ∧
  (∀ w x a, m.atomic = some a → homeIdle s h (ofKind m .hat) → dir = none → l3 = some (w, x) →
    Answers (.hat m) s (ofKind m .hat) (fun r t => r.kind = .hDone ∧ r.data = some x.data ∧
      tget (fun _ => {}) (getSlice t h).l3 w = { x with data := atomicLine a x.data, dirty := true })) ∧
  (∀ n, m.core = some n → homeIdle s h (ofKind m .hsc) → tget (fun _ => 0) (getSlice s h).resv n.toNat ≠ m.line.toNat + 1 →
    Answers (.hsc m) s (ofKind m .hsc) (fun r _ => r.kind = .hDone ∧ r.ok = false ∧ r.dst = m.req)) ∧
  maint (.flushReq m) .flushReq .flush ∧ maint (.invReq m) .invReq .inv

/-- A forward at a course that holds its line and holds nothing back (R261 to R270, R274): the line becomes S, E or is dropped, the
requester gets its data from the owner, and the home its answer; a set scrub of a course without lines of the set is acknowledged.
A single-bit error of the line is corrected on the way (R251). -/
def Obligations.CourseAnswersForwards : Prop := ∀ (m : Msg) (s : State) (w : Nat) (x : L2Line),
  let c := m.dst.toNat % 32
  let arrives := fun (k : MsgKind) => agentDown s m.dst.toNat = false ∧ overtakes s (ofKind m k) = false
  let ready := fun (k : MsgKind) => arrives k ∧ mayAnswer s c (ofKind m k) = true ∧
    (getCourse s c).wb = [] ∧ l2Find (getCourse s c) m.line = some (w, x) ∧ x.ue = 0
  let gone := fun (t : State) => (tget (fun _ => {}) (getCourse t c).l2 w).st = .i
  let becomes := fun (st : L2St) (t : State) => tget (fun _ => {}) (getCourse t c).l2 w = { x with st := st, ce := 0 }
  let own := if x.st = .m then some x.data else none
  let acks := fun (i : Instr) (k a : MsgKind) (d : Option LineData) (P : State → Prop) => ready k →
    Answers i s (ofKind m k) (fun r t => r.kind = a ∧ r.dst = m.src ∧ r.data = d ∧ P t)
  (m.origin ≠ .rdS → acks (.fwdS m) .fwdS .fwdAck own (becomes .s)) ∧
  (m.origin = .rdS → ready .fwdS → ∃ t r a, exec (.fwdS m) s = .next t ∧ RegsKept s t ∧
    t.net = s.net.erase (ofKind m .fwdS) ++ [r, a] ∧ r.kind = .dataS ∧ r.dst = m.req ∧ r.data = some x.data ∧ a.kind = .fwdAck ∧ a.dst = m.src ∧
    a.data = own ∧ becomes .s t) ∧
  (m.origin = .rdO ∨ m.origin = .upg → ready .fwdO → ∃ t r a, exec (.fwdO m) s = .next t ∧ RegsKept s t ∧
    t.net = s.net.erase (ofKind m .fwdO) ++ [r, a] ∧ r.kind = .dataO ∧ r.dst = m.req ∧ r.data = some x.data ∧ a.kind = .fwdAck ∧
    a.dst = m.src ∧ gone t) ∧
  (m.origin ≠ .rdO → m.origin ≠ .upg → acks (.fwdO m) .fwdO .fwdAck own gone) ∧
  acks (.inv m) .inv .invAck none gone ∧ acks (.binv m) .binv .binvAck own gone ∧ acks (.flush m) .flush .fwdAck own gone ∧
  acks (.clean m) .clean .fwdAck own (becomes (if x.st = .m then .e else x.st)) ∧
  (arrives .setScrub → ofKind m .setScrub ∈ s.net → scrubLines s c ((m.src.toNat - 32) % 32) m.set = [] →
    Answers (.setScrub m) s (ofKind m .setScrub) (fun r _ => r.kind = .setScrubAck ∧ r.dst = m.src ∧ r.set = m.set))

/-- Data, grants and completions at a course (R260 to R266, R273, R275): data is installed in the state that it grants, an upgrade makes
the line writable, a completion ends its store, maintenance operation or conditional store, a writeback is freed, and a request that
is turned away waits. A request of an engine or a root port ends or waits in the same way (R271, R275). -/
def Obligations.DataAndGrantsArrive : Prop := ∀ (m : Msg) (s : State),
  let c := m.dst.toNat % 32
  let up := fun (k : MsgKind) => agentDown s m.dst.toNat = false ∧ overtakes s (ofKind m k) = false
  let data := fun (i : Instr) (k : MsgKind) (st : L2St) => up k → courseIdle s c → m.core = none →
    (l2Install s c m.line (m.data.getD {}) st m.tdid = none → exec i s = .next s) ∧
    (l2Install s c m.line (m.data.getD {}) st m.tdid ≠ none → ∃ t w x, exec i s = .next t ∧ RegsKept s t ∧
      tget (fun _ => {}) (getCourse t c).l2 w = x ∧ x.st = st ∧ x.line = m.line ∧ x.data = m.data.getD {} ∧
      ∀ r ∈ (getCourse t c).reqs, r.msg.line = m.line → forCopy r.msg.kind = false)
  let done := fun (P : Nat → State → Prop) => ∀ n : Logical, up .hDone → m.dst.toNat < 32 → m.core = some n → (getCourse s c).heldFwd = [] →
    ∃ t, exec (.hDone m) s = .next (advance t n.toNat) ∧ (∀ a, memRead t a = memRead s a) ∧ P n.toNat t
  let waits := fun (a : Nat) (l : List OpenReq) => ∃ r ∈ l, r.msg.kind = m.origin ∧ r.msg.line = m.line ∧
    (∃ e, r.backoff = some e ∧ plumbOf s a ≤ e) ∧ 0 < r.retries
  data (.dataS m) .dataS .s ∧ data (.dataE m) .dataE .e ∧ data (.dataO m) .dataO (if m.dirty then .m else .e) ∧
  (∀ w x, up .grant → courseIdle s c → m.core = none → l2Find (getCourse s c) m.line = some (w, x) → x.st = .s →
    ∃ t, exec (.grant m) s = .next t ∧ RegsKept s t ∧ tget (fun _ => {}) (getCourse t c).l2 w = { x with st := if m.dirty then .m else .e }) ∧
  (∀ n : Logical, up .dataNf → m.core = some n → m.use = .load → m.idx ≠ (getCore s n.toNat).gen →
    ∃ t, exec (.dataNf m) s = .next (advance t n.toNat) ∧ RegsKept s t ∧
      ∀ a ∈ (getCore t n.toNat).accs, a.idx = m.idx → ∀ p ∈ a.parts, lineOfPa p.pa = m.line → p.data ≠ none) ∧
  (m.use = .maint → done (fun n t => (getCore s n).busy = .maint m.line → (getCore t n).busy = .none)) ∧
  (m.use = .store → done (fun n t => ∀ e r, (getCore s n).sb = e :: r → e.sent = true → lineOfPa e.pa = m.line → (getCore t n).sb = r)) ∧
  (m.use = .sc → done (fun n t => ∀ a ∈ (getCore t n).accs, a.idx = m.idx → a.scOk = some m.ok)) ∧
  (32 ≤ m.dst.toNat → overtakes s (ofKind m .hDone) = false → ∃ t, exec (.hDone m) s = .next t ∧ RegsKept s t ∧
    ∀ r ∈ t.engReqs, r.msg.src = m.dst → r.msg.line = m.line → r.msg.idx ≠ m.idx) ∧
  (∀ b r, up .wbAck → (getCourse s c).heldFwd = [] → (getCourse s c).wb = b :: r → b.line = m.line →
    ∃ t, exec (.wbAck m) s = .next t ∧ RegsKept s t ∧ (getCourse t c).wb = r) ∧
  (up .retry → m.dst.toNat < 32 → m.use = .pref → ∃ t, exec (.retry m) s = .next t ∧ RegsKept s t ∧
    ∀ r ∈ (getCourse t c).reqs, r.msg.line = m.line → forCopy r.msg.kind = false) ∧
  (up .retry → m.dst.toNat < 32 → m.use ≠ .pref → ∃ t, exec (.retry m) s = .next t ∧ RegsKept s t ∧ waits c (getCourse t c).reqs) ∧
  (32 ≤ m.dst.toNat → overtakes s (ofKind m .retry) = false → ∃ t, exec (.retry m) s = .next t ∧ RegsKept s t ∧ waits m.dst.toNat t.engReqs)

/-- Answers and writebacks at a home where nothing else waits (R260 to R270, R274, R283): an answer with others outstanding is counted; the
last one makes the requester the owner, grants its upgrade or frees the victim's entry; a writeback is taken to the L3 and
acknowledged, an eviction notice takes its sender from the entry; memory's answer ends a read; the last scrub answer clears the set. -/
def Obligations.AnswersCloseTransactions : Prop := ∀ (m : Msg) (s : State) (x : Tracker) (a : MemAns) (g : BitVec 5),
  let h := (m.dst.toNat - 32) % 32
  let alone := fun (h : Nat) => (getSlice s h).queue = [] ∧ (getSlice s h).landing = [] ∧ (getSlice s h).scrubs = []
  let quiet := fun (k : MsgKind) => overtakes s (ofKind m k) = false ∧ alone h ∧ (getSlice s h).trk = [x] ∧ x.msg.line = m.line
  let bit := oneCourse m.src.toNat
  let counted := fun (t : State) (P : Tracker → Prop) => ∃ y, (getSlice t h).trk = [y] ∧ y.from_ = x.from_ &&& ~~~bit ∧ y.msg = x.msg ∧ P y
  let counts := fun (i : Instr) (k : MsgKind) => quiet k → x.from_.getLsbD m.src.toNat = true → x.from_ &&& ~~~bit ≠ 0 →
    ∃ t, exec i s = .next t ∧ RegsKept s t ∧ counted t (fun _ => True)
  let last := fun (k : MsgKind) => quiet k ∧ x.from_.getLsbD m.src.toNat = true ∧ x.from_ &&& ~~~bit = 0
  let held := fun (k : MsgKind) (P : State → Prop) => overtakes s (ofKind m k) = false → alone h → (getSlice s h).trk = [] →
    ∃ t, exec (match k with | .wb => .wb m | .vic => .vic m | _ => .evn m) s = .next t ∧ RegsKept s t ∧ P t
  let taken := fun (dirty : Bool) (d : LineData) (t : State) => (∃ r, r ∈ t.net ∧ r.kind = .wbAck ∧ r.dst = m.src) ∧
    ∃ w y, tget (fun _ => {}) (getSlice t h).l3 w = y ∧ y.valid = true ∧ y.line = m.line ∧ y.data = d ∧ (dirty = true → y.dirty = true)
  counts (.fwdAck m) .fwdAck ∧ counts (.invAck m) .invAck ∧ counts (.binvAck m) .binvAck ∧
  (last .fwdAck → x.wait = .fwd → x.msg.kind = .rdO → ∀ w e, dirFind (getSlice s h) m.line = some (w, e) →
    ∃ t, exec (.fwdAck m) s = .next t ∧ RegsKept s t ∧ (getSlice t h).trk = [] ∧
      ∃ e', tget (fun _ => {}) (getSlice t h).dir w = e' ∧ e'.st = .owned ∧ e'.holders = BitVec.ofNat 32 x.msg.req.toNat) ∧
  (last .invAck → x.wait = .inv → x.msg.kind = .upg → ∀ w e, dirFind (getSlice s h) m.line = some (w, e) →
    (holdersOf e).contains x.msg.req.toNat = true →
    Answers (.invAck m) s (ofKind m .invAck) (fun r t => r.kind = .grant ∧ r.dst = x.msg.req ∧ (getSlice t h).trk = [])) ∧
  (last .binvAck → x.wait = .binv → x.next = none → ∀ w e, dirFind (getSlice s h) m.line = some (w, e) →
    ∃ t, exec (.binvAck m) s = .next t ∧ RegsKept s t ∧ (getSlice t h).trk = [] ∧ (tget (fun _ => {}) (getSlice t h).dir w).st = .invalid) ∧
  (heldWb s h m.line m.src.toNat = none → exec (.wbPending m) s = .next s) ∧
  (∀ b d, overtakes s (ofKind m .wbPending) = false → b.data = some d → (getSlice s h).queue = [] → (getSlice s h).scrubs = [] →
    (getSlice s h).landing = [b] → (getSlice s h).trk = [x] → x.msg.line = m.line → b.line = m.line → b.src = m.src →
    b.kind = .wb → x.from_.getLsbD m.src.toNat = true → x.from_ &&& ~~~bit ≠ 0 → ∃ t, exec (.wbPending m) s = .next t ∧ RegsKept s t ∧
      (getSlice t h).landing = [] ∧ counted t (fun y => y.data = some d ∧ y.dirty = true)) ∧
  (∀ d, m.data = some d → held .wb (taken true d)) ∧ (∀ d, m.data = some d → held .vic (taken false d)) ∧
  (∀ w e, dirFind (getSlice s h) m.line = some (w, e) → e.st = .shared → e.holders.getLsbD m.src.toNat = true → e.holders ≠ bit →
    held .evn (fun t => tget (fun _ => {}) (getSlice t h).dir w = { e with holders := e.holders &&& ~~~bit })) ∧
  (ansBehind s g.toNat a = false → alone g.toNat → (getSlice s g.toNat).trk = [x] → x.memId = a.id → x.msg.line = a.line →
    x.wait = .mem → x.msg.kind = .hrd → agentDown s x.msg.req.toNat = false →
    ∃ t r, exec (.memoryAnswer g a) s = .next t ∧ RegsKept s t ∧ t.net = s.net ++ [r] ∧ r.kind = .hDone ∧
      r.dst = x.msg.req ∧ r.data = some (a.data.getD {}) ∧ (getSlice t g.toNat).trk = []) ∧
  (∀ b : Scrub, overtakes s (ofKind m .setScrubAck) = false → (getSlice s h).queue = [] → (getSlice s h).landing = [] →
    (getSlice s h).scrubs = [b] → b.set = m.set → b.sent = true → b.wait = bit → setBusy s h m.set = false →
    ∃ t, exec (.setScrubAck m) s = .next t ∧ RegsKept s t ∧ (getSlice t h).scrubs = [] ∧
      ∀ w, w < 20 → (tget (fun _ => {}) (getSlice t h).dir (20 * m.set.toNat + w)).st = .invalid)

/-- Retries, claims and dead agents (R21, R128, R275 to R282): a request whose wait has ended is sent again, a course's or an engine's; a
claim ends after 10 µs; the stop of an agent that is down answers for it, and its answer counts as that of a course without the line, or
makes a line that it owned LOST; a dead agent leaves the queues and the entries; a stall is flagged and journaled; a forward that a
reservation held back is answered. -/
def Obligations.RetriesClaimsAndDeadAgents : Prop :=
  ∀ (m : Msg) (s : State) (c g : BitVec 5) (l : LineNo) (set : BitVec 13) (ag : Nat) (n : BitVec 8) (x : Tracker),
  let late := ((getSlice s (homeOfLine l)).trk ++ (getSlice s (homeOfLine l)).queue).any (fun q => q.msg.line == l && q.msg.req.toNat == c.toNat &&
    decide (q.opened + q.openTo ≤ s.plumb.now))
  let h := (m.dst.toNat - 32) % 32
  let bit := oneCourse m.src.toNat
  let again := fun (a : Nat) (l0 : List OpenReq) (P : State → Prop) => ∀ r, l0 = [r] → r.msg.line = l → r.msg.src.toNat = a →
    (∃ e, r.backoff = some e ∧ e ≤ plumbOf s a) →
    ∃ t q, exec (.retryBackoffExpiry a l) s = .next t ∧ RegsKept s t ∧ t.net = s.net ++ [q] ∧ q.kind = r.msg.kind ∧ q.line = l ∧
      q.dst = r.msg.dst ∧ q.retries = r.retries ∧ P t
  let atHome := 32 ≤ m.dst.toNat ∧ m.dst.toNat < 64 ∧ m.origin ≠ .setScrub ∧ overtakes s (ofKind m .agentDown) = false ∧
    (getSlice s h).queue = [] ∧ (getSlice s h).landing = [] ∧ (getSlice s h).scrubs = [] ∧ (getSlice s h).trk = [x] ∧ x.msg.line = m.line ∧
    m.src.toNat < 32 ∧ x.from_.getLsbD m.src.toNat = true
  again c.toNat (getCourse s c.toNat).reqs (fun t => (getCourse t c.toNat).reqs.all (fun r => r.backoff.isNone) = true) ∧
  (32 ≤ ag → again ag s.engReqs (fun t => t.engReqs.all (fun r => r.backoff.isNone) = true)) ∧
  (∀ k, tget (fun _ => none) (getSlice s g.toNat).claims set.toNat = some k →
    (k.since + 10000 ≤ s.plumb.now → ∃ t, exec (.claimExpiry g set) s = .next t ∧ RegsKept s t ∧
      tget (fun _ => none) (getSlice t g.toNat).claims set.toNat = none) ∧
    (s.plumb.now < k.since + 10000 → exec (.claimExpiry g set) s = .next s)) ∧
  (agentDown s m.dst.toNat = true → overtakes s m = false → m.kind ≠ .agentDown →
    Answers (.messageToDownAgent m) s m (fun r _ => r.kind = .agentDown ∧ r.dst = m.src ∧ r.src = m.dst ∧ r.line = m.line ∧ r.origin = m.kind)) ∧
  (agentDown s m.dst.toNat = false ∨ overtakes s m = true → exec (.messageToDownAgent m) s = .next s) ∧
  (m.dst.toNat < 32 ∨ 64 ≤ m.dst.toNat → overtakes s (ofKind m .agentDown) = false →
    ∃ t, exec (.agentDown m) s = .next t ∧ RegsKept s t ∧ t.net = s.net.erase (ofKind m .agentDown)) ∧
  (atHome → x.from_ &&& ~~~bit ≠ 0 → dirFind (getSlice s h) m.line = none →
    ∃ t y, exec (.agentDown m) s = .next t ∧ RegsKept s t ∧ (getSlice t h).trk = [y] ∧ y.from_ = x.from_ &&& ~~~bit ∧ y.msg = x.msg) ∧
  (∀ w e, atHome → dirFind (getSlice s h) m.line = some (w, e) → e.st = .owned → e.holders.toNat = m.src.toNat →
    ∃ t r, exec (.agentDown m) s = .next t ∧ RegsKept s t ∧ t.memNet = s.memNet ++ [r] ∧ r.2.line = m.line ∧ r.2.write = true ∧
      r.2.data = poisonLine ∧ (tget (fun _ => {}) (getSlice t h).dir w).st = .lost) ∧
  (agentDown s ag = true → ∃ t, exec (.deadAgentNotice g ag) s = .next t ∧ RegsKept s t ∧
    ((getSlice s g.toNat).trk = [] → (∀ q ∈ (getSlice t g.toNat).queue, keepsOn ag q.msg = true) ∧
      ∀ w e, (getSlice s g.toNat).queue = [] → (getSlice s g.toNat).landing = [] → (getSlice s g.toNat).scrubs = [] → ag < 32 →
        dirFind (getSlice s g.toNat) l = some (w, e) → e.st = .shared → e.holders.getLsbD ag = true → e.holders ≠ oneCourse ag →
        tget (fun _ => {}) (getSlice t g.toNat).dir w = { e with holders := e.holders &&& ~~~(oneCourse ag) })) ∧
  (agentDown s ag = false → exec (.deadAgentNotice g ag) s = .next s) ∧
  ((late = false → exec (.homeStall c l) s = .next s) ∧
    (late = true → ∃ t, exec (.homeStall c l) s = .next t ∧ RegsKept s t ∧ (getCourse t c.toNat).err = (getCourse s c.toNat).err ||| 1 ∧
      t.faultSt.getLsbD 5 = true)) ∧
  ∃ t, exec (.reservationHoldExpiry n) s = .next t ∧ RegsKept s t ∧
    ∀ q, (getCourse s (courseOf s n.toNat)).heldFwd = [q] → q.kind = .inv → mayAnswer s (courseOf s n.toNat) q = true →
      (∀ w y, l2Find (getCourse s (courseOf s n.toNat)) q.line = some (w, y) → y.ue = 0) →
      (getCourse t (courseOf s n.toNat)).heldFwd = [] ∧ ∃ r ∈ t.net, r.kind = .invAck ∧ r.line = q.line ∧ r.dst = q.src

/-! ### Control registers (R27 to R30, R69 to R74) -/

/-- Windows (R19, R30, R69): an upper half is held; a lower half applies both and sends the value to every holder; a holder takes its
values in the order sent, each at its own moment, a holder that is down takes none (R21), and the store completes when the last has. -/
def Obligations.WindowsReachTheirHolders : Prop := ∀ (st : CtlStore) (s : State) (d h holder : Nat) (t : BitVec 12) (w : BitVec 4),
  let cur := fun (u : State) => tget (fun _ => 0) (getDom u d).win (h / 2)
  let hi := (tget (fun _ => none) (getDom s d).winHi (h / 2)).getD ((cur s).extractLsb' 64 64)
  let v : Word128 := BitVec.append hi (rw ((cur s).extractLsb' 0 64) (stVal st) (stMask st) 0x800FFFFFFFFFF007)
  let key := t.toNat * 16 + w.toNat
  let first := s.winMsgs.find? (fun m => m.1 == holder)
  let meets := ctlBehind s st = false ∧ stWindow st = some (d, h) ∧ d ≠ 0 ∧ ksLastAt s (winRegOff d (h / 2)) = false
  (isWindowHalf st 1 = true → meets → CtlDone (.windowUpperWrite st) st s (fun u => cur u = cur s ∧
    tget (fun _ => none) (getDom u d).winHi (h / 2) = some (rw hi (stVal st) (stMask st) 0x000FFFFFFFFFF000) ∧ u.winMsgs = s.winMsgs)) ∧
  (isWindowHalf st 0 = true → meets → ∃ u sh, exec (.windowLowerWrite st) s = .next u ∧ cur u = v ∧
    tget (fun _ => none) (getDom u d).winHi (h / 2) = none ∧
    u.winMsgs = s.winMsgs ++ winHolders.map (fun x => (x, d * 16 + h / 2, v, st.n, st.off.toNat, sh)) ∧ (∀ a, memRead u a = memRead s a) ∧
    ∀ k, regsOf (getCore u k) = regsOf { getCore s k with fready := (getCore s k).fready && (getCore s k).dom.toNat != d }) ∧
  (first = none → exec (.windowHolderUpdate holder t w) s = .next s) ∧
  (∀ m, first = some m → m.2.1 ≠ key → exec (.windowHolderUpdate holder t w) s = .next s) ∧
  (∀ m, first = some m → m.2.1 = key → ∃ u, RegsKept s u ∧ u.winMsgs = s.winMsgs.erase m ∧
    (agentDown s holder = false → tget (fun _ => 0) u.winHeld (holder * 65536 + key) = m.2.2.1) ∧
    (agentDown s holder = true → u.winHeld = s.winHeld) ∧
    exec (.windowHolderUpdate holder t w) s = .next (if u.winMsgs.any (fun x => x.2.1 == key && x.2.2.2 == m.2.2.2) then u
      else ctlDone u m.2.2.2.1.toNat m.2.2.2.2.1))

/-- PMASK, DOM_CTL and plain control registers (R9, R29, R71, R73, R74): the fields take what is written; a mask of zero and a refused RT
keep the old value and set CTL_ERR; clearing PAUSED lets the domain's cores go on; a store of another width does nothing but set
CTL_ERR. A store to a course or a root port that is down changes no register, and completes (R21; the model's reading, log entry 142). -/
def Obligations.ControlStoresReachTheirRegister : Prop := ∀ (st : CtlStore) (s : State), storeArrives s st →
  let wv := stVal st
  let wm := stMask st
  (isPmask st = true → ∀ i, regIdx (stReg st) 0x100 8 16 = some i → CtlDone (.pmaskWrite st) st s (fun u =>
    let w := rw (pmask s i) wv wm 0xFFFFFFFF
    (fld w 16 16 ≠ 0 → fld w 0 16 ≠ 0 → pmask u i = w) ∧ (fld w 16 16 = 0 → fld (pmask u i) 16 16 = fld (pmask s i) 16 16) ∧
    (fld w 0 16 = 0 → fld (pmask u i) 0 16 = fld (pmask s i) 0 16) ∧ (fld w 16 16 = 0 ∨ fld w 0 16 = 0 → u.gstat.getLsbD 0 = true) ∧
    ∀ j, j ≠ i → pmask u j = pmask s j)) ∧
  (ctlWidthOk st.off.toNat st.width = true → ∀ d, stDomCtl st = some d → (stBit st 62).isSome = true →
    let old := (getDom s d).ctl
    let w := rw old wv wm (if d = 0 then 0x0F00000000000000 else 0x6F00000000000000)
    let refused := (w.getLsbD 62 && !old.getLsbD 62 && (!old.getLsbD 63 || decide (12 ≤ rtOthers s d))) ||
      (old.getLsbD 62 && !w.getLsbD 62 && classFTargets s d)
    let put := fun (i : Instr) => ∃ v l, RegsKept s v ∧ (getDom v d).ctl = (if refused then fldSet w 62 1 (fld old 62 1) else w) ∧
      (refused = true → v.gstat.getLsbD 0 = true) ∧ (∀ j, j ≠ d → getDom v j = getDom s j) ∧
      exec i s = .next (ctlDone { (if old.getLsbD 61 && !w.getLsbD 61 then advanceDom v d else v) with ctlLast := l } st.n.toNat st.off.toNat)
    put (.domRtWrite st) ∧ (isPause st true = true → put (.domPause st)) ∧ (isPause st false = true → put (.domUnpause st))) ∧
  (ctlWidthOk st.off.toNat st.width = false → CtlDone (.ctlWrite st) st s (fun u => u.gstat.getLsbD 0 = true)) ∧
  (ctlWidthOk st.off.toNat st.width = true → stReg st = 0x30 → CtlDone (.ctlWrite st) st s (fun u => u.faultCtl = rw s.faultCtl wv wm 0xFF)) ∧
  (ctlWidthOk st.off.toNat st.width = true → ∀ n, regIdx (stReg st) 0x2000 8 256 = some n → CtlDone (.ctlWrite st) st s (fun u =>
    tget (fun _ => 0) u.hptb n = rw (tget (fun _ => 0) s.hptb n) wv wm 0x800FFFFFFFFFF000)) ∧
  (ctlWidthOk st.off.toNat st.width = true → ctlDown s st.off.toNat = true → ownRow s st = false → exec (.ctlWrite st) s =
    .next (ctlDone { s with ctlNet := s.ctlNet.erase st, engHold := none } st.n.toNat st.off.toNat)) ∧
  (ownRow s st = true → exec (.ctlWrite st) s = .next s)

/-! ### The interrupt hub (R342 to R356) -/

/-- Stores to the hub's registers (R343, R344, R349 to R352, R356): HUB_SETPEND and HUB_CLRPEND, SRC, and the threshold, claim and end of
interrupt of HCLAIM. -/
def Obligations.HubStoresTakeEffect : Prop := ∀ (st : CtlStore) (s : State) (n : Nat), storeArrives s st →
  let v := stVal st &&& stMask st
  let id := fld v 0 13
  let e := fld v 16 13
  (isHubReg st 0x10 = true → CtlDone (.hubSetpend st) st s (fun u => (isEdgeId id = true → (getSrc u id).pend = true) ∧
    ∀ j, j ≠ id → getSrc u j = getSrc s j)) ∧
  (isHubReg st 0x18 = true → CtlDone (.hubClrpend st) st s (fun u => (isEdgeId id = true → (getSrc u id).pend = false ∧
    (getSrc u id).inserv = (getSrc s id).inserv) ∧ ∀ j, j ≠ id → getSrc u j = getSrc s j)) ∧
  (isSrc st = true → ∀ k, regIdx (stReg st) 0x120000 8 8191 = some k → (isLevelId k || isEdgeId k) = true →
    let w := maskIn (getSrc s k).w (stVal st) (stMask st) &&& 0x0000FF0FFF0100FF
    CtlDone (.srcWrite st) st s (fun u => (w.getLsbD 16 && !domRt s (fld w 24 12)) = false → (getSrc u k).w = w)) ∧
  (hclaimOp st = some 0 → stHclaim st = some n → CtlDone (.hThreshold st) st s (fun u =>
    (getHub u n).thH = if (stMask st).getLsbD 0 then (stVal st).extractLsb' 0 8 else (getHub s n).thH)) ∧
  (hclaimOp st = some 1 → stHclaim st = some n → (getHub s n).unclH = [] → CtlDone (.hClaim st) st s (fun u => (getHub u n).idH = 0x1FFF)) ∧
  (hclaimOp st = some 1 → stHclaim st = some n → ∀ k rest c p, (getHub s n).unclH = k :: rest →
    (getSrc s k.toNat).inserv = some (c, .h, p) → c.toNat = n → srcPrio (getSrc s k.toNat) ≠ 0 → (getSrc s k.toNat).clr = false → 64 ≤ k.toNat →
    CtlDone (.hClaim st) st s (fun u => (getHub u n).idH = k ∧ (getHub u n).unclH = rest)) ∧
  (hclaimOp st = some 2 → stHclaim st = some n → ∀ c p, (getSrc s e).inserv = some (c, .h, p) → c.toNat = n → e ≠ 8191 →
    CtlDone (.hEoi st) st s (fun u => (getSrc u e).inserv = none))

/-- What reaches the hub (R65, R77, R145, R197, R342, R348, R349, R353): an answer to an offer, a binding, a core's state, an event, an
interrupt message and a level line. -/
def Obligations.HubTakesItsMessages : Prop := ∀ (n : BitVec 8) (id : BitVec 13) (t k : BitVec 12) (g : Bool) (x ep : BitVec 8) (data : BitVec 32)
    (s : State),
  let c := getCore s n.toNat
  let ns := if g then groupMembers s t (x.toNat % 64) else (resolve s t.toNat x.toNat).toList
  let w := tget (fun _ => 0) s.msimap k.toNat
  let src := fld w 32 13 + fld data 0 16
  let maps := w.getLsbD 63 = true ∧ fld data 0 16 < fld w 0 13 ∧ 64 ≤ src ∧ src ≤ 8190 ∧ srcTdid (getSrc s src) = fld (getCtx s k.toNat).ctl 32 12
  (∀ o, answered (getHub s n.toNat) id = some o →
    Completes (.offerAnswer n id .accept) s (fun u => (getSrc u id.toNat).inserv = some (n, offerLvl o, o.prio) ∧ (getSrc u id.toNat).pend = false ∧
      (offerLvl o = .h → (getHub u n.toNat).unclH = id :: (getHub s n.toNat).unclH) ∧
      (offerLvl o ≠ .h → (getHub u n.toNat).unclS = id :: (getHub s n.toNat).unclS)) ∧
    Completes (.offerAnswer n id .refuse) s (fun u => (getHub u n.toNat).refused.contains id = true) ∧
    Completes (.offerAnswer n id .stale) s (fun u => (getDom u o.tdid.toNat).status = fldSat (getDom s o.tdid.toNat).status 32 16 1)) ∧
  (∀ l p, (getSrc s id.toNat).inserv = some (n, l, p) → Completes (.offerAnswer n id .handback) s (fun u => (getSrc u id.toNat).inserv = none ∧
    (isEdgeId id.toNat = true → (getSrc s id.toNat).clr = false → (getSrc u id.toNat).pend = true))) ∧
  (c.busy = .bind → ∃ u, exec (.bindingReport n) s = .next (advance u n.toNat) ∧ RegsKept s u ∧ (getCore u n.toNat).busy = .none ∧
    (getHub u n.toNat).dom = c.dom ∧ (getHub u n.toNat).vcore = c.vcore ∧ (getHub u n.toNat).epoch = c.epoch ∧
    (c.dom ≠ 0 → resolve s c.dom.toNat c.vcore.toNat = none ∨ resolve s c.dom.toNat c.vcore.toNat = some n.toNat →
      resolve u c.dom.toNat c.vcore.toNat = some n.toNat) ∧
    (∀ m, c.dom ≠ 0 → m ≠ n.toNat → resolve s c.dom.toNat c.vcore.toNat = some m →
      resolve u c.dom.toNat c.vcore.toNat = some (if (getHub s m).stamp ≤ c.bindStamp then n.toNat else m))) ∧
  Completes (.coreStateReport n) s (fun u => (getHub u n.toNat).level = c.level ∧ (getHub u n.toNat).ie = c.ie ∧
    (getHub u n.toNat).sbusy = c.sbusy ∧ (getHub u n.toNat).hbusy = c.hbusy) ∧
  Completes (.sevMessage t g x) s (fun u =>
    (∀ e, s.sevs.find? (fun e => e.1 == t && e.2.1 == g && e.2.2.1 == x) = some e → u.sevs = s.sevs.erase e) ∧
    (ns ≠ [] → ∃ sh, u.events = s.events ++ ns.map (fun n => (BitVec.ofNat 8 n, (getHub s n).epoch, t, sh))) ∧
    (ns = [] → u.events = s.events ∧ (getDom u t.toNat).status = fldSat (getDom s t.toNat).status 48 16 1)) ∧
  Completes (.msiMessage k ep data) s (fun u =>
    (∀ e, s.msis.find? (fun e => e.1 == k && e.2.1 == ep && e.2.2.1 == data) = some e → u.msis = s.msis.erase e) ∧
    (maps → (getSrc u src).pend = true) ∧
    (¬maps → u.srcs = s.srcs ∧ fld u.hubSt 0 13 = k.toNat)) ∧
  (isLevelId id.toNat = true → Completes (.levelLineChange id) s (fun u => (getSrc u id.toNat).line = lineState s id.toNat)) ∧
  (isLevelId id.toNat = false → exec (.levelLineChange id) s = .next s)

/-! ### Plumb time (R44 to R53, R516) -/

/-- The plumb master starts at 0 when its reference locks (R44); an edge of PPS_IN is captured, slews the plumb or steps it (R49 to R52); its
loss and the loss and return of the reference set PLUMB_STATUS (R52, R53). Replicas and sets (R45, R46, R516): a replica found behind or
ahead is brought back, one beyond 3 ns sets SKEW_ERR; 1 ms after a set an agent takes stamps again; its set mark follows the records that
it had queued. -/
def Obligations.PlumbTimeAndItsReplicas : Prop :=
  (
    ∀ (rising : Bool) (s : State),
    let early := ∃ t, s.plumb.lastEdge = some t ∧ (s.plumb.now : Int) < t + 900000000
    let e := (nearestSec ((s.plumb.now : Int) - ppsOffset s)).1
    let sec := (nearestSec ((s.plumb.now : Int) - ppsOffset s)).2
    (s.pins.refclk = true → s.plumb.counting = false → Completes .plumbLock s (fun t => t.plumb.counting = true ∧ t.plumb.now = 0 ∧
      pstat t 0 = true ∧ ∀ a, plumbOf t a = 0)) ∧
    (s.pins.refclk = false ∨ s.plumb.counting = true → exec .plumbLock s = .next s) ∧
    (s.plumb.counting = true → rising ≠ s.plumb.ctl.getLsbD 3 → ¬early → Completes (.ppsEdge rising) s (fun t =>
      t.plumb.pps = s.plumb.now ∧ pstat t 4 = true ∧ pstat t 5 = false ∧ t.plumb.status.extractLsb' 32 32 = BitVec.ofInt 32 e ∧
      (ppsMode s = 2 → t.plumb.slew = e ∧ (pstat t 2 = true ↔ -10 ≤ e ∧ e ≤ 10) ∧ t.plumb.now = s.plumb.now) ∧
      (ppsMode s = 1 → s.ks.st = .filling → ppsMode t = 2 ∧ t.plumb.now = (sec + ppsOffset s).toNat ∧ t.plumb.off = []) ∧
      (ppsMode s ≠ 1 ∨ s.ks.st ≠ .filling → t.plumb.now = s.plumb.now))) ∧
    (s.plumb.counting = false ∨ rising = s.plumb.ctl.getLsbD 3 ∨ early → exec (.ppsEdge rising) s = .next s) ∧
    (s.plumb.counting = true → ppsMode s = 2 → pstat s 5 = false → s.plumb.edgeAt + 1500000000 ≤ s.plumb.now →
      Completes .ppsLost s (fun t => pstat t 5 = true ∧ pstat t 3 = false ∧ t.plumb.slew = 0 ∧ t.ks.pending.getLsbD 5 = true)) ∧
    (s.plumb.now < s.plumb.edgeAt + 1500000000 → exec .ppsLost s = .next s) ∧
    (s.plumb.counting = true → pstat s 1 = false → Completes .refLost s (fun t => t.pins.refclk = false ∧ pstat t 1 = true ∧ pstat t 6 = true ∧
      pstat t 0 = false ∧ t.ks.pending.getLsbD 6 = true ∧ t.plumb.now = s.plumb.now)) ∧
    Completes .refReturn s (fun t => t.pins.refclk = true ∧ (pstat s 1 = true → pstat t 1 = false ∧ pstat t 0 = true) ∧ t.plumb.now = s.plumb.now)) ∧
  (
    ∀ (stop : BitVec 7) (d : Int) (devs : List (BitVec 7 × Int)) (a : Nat) (s : State),
    (s.plumb.counting = true → Completes (.plumbSync devs) s (fun t => t.plumb.now = s.plumb.now ∧
      ∀ k, devs.all (fun e => e.1.toNat != k) = true → plumbAt t k = plumbAt s k)) ∧
    (s.plumb.counting = true → tget (fun _ => 0) s.plumb.off stop.toNat = 0 → Completes (.plumbSync [(stop, d)]) s (fun t =>
      (d ≤ 0 → plumbAt t stop.toNat = s.plumb.now) ∧ (0 < d → plumbAt t stop.toNat = s.plumb.now + d.toNat) ∧
      (d < -3 ∨ 3 < d → pstat t 7 = true))) ∧
    (s.plumb.counting = false → exec (.plumbSync devs) s = .next s) ∧
    ((getAgent s a).noRecv = true → s.plumb.setAt + 1000000 ≤ plumbOf s a → Completes (.setStampHoldEnd a) s (fun t => (getAgent t a).noRecv = false)) ∧
    (plumbOf s a < s.plumb.setAt + 1000000 → exec (.setStampHoldEnd a) s = .next s) ∧
    (markReady (getAgent s a) = true → Completes (.setMark a) s (fun t => (getAgent t a).marks = (getAgent s a).marks.tail ∧
      ∀ h, a < 90 → s.jrn.sets = [h] → h.marks.contains (BitVec.ofNat 7 a) = false → (∀ r ∈ h.post, r.cls ≠ 0x0C) →
        t.jrn.sets = [{ h with marks := h.marks ++ [BitVec.ofNat 7 a] }])) ∧
    (markReady (getAgent s a) = false → exec (.setMark a) s = .next s))

/-- The journal engine (R322 to R327, R516): a record takes a slot of the ring, is held while EN is 0 or dropped when the ring is full; a
write performed moves HEAD, once the lines it needs are free (R259); software moves TAIL and sets JRN_CTL; while a set of plumb time is in
progress what an agent stamped after it is held, and the hold ends after 2 ms. -/
def Obligations.JournalRingFills : Prop := ∀ (a : Nat) (st : CtlStore) (s : State) (r : JRec) (rest : List JRec),
  let pa := fun (k : Nat) => jrnBase s + 32 * (k % ringCap s)
  let k := (maskIn (BitVec.ofNat 64 s.jrn.tail) (stVal st) (stMask st)).toNat
  let ctl := maskIn s.jrn.ctl (stVal st) (stMask st &&& 0xC0FFFFFFFFFFF01F)
  (∀ h, markReady (getAgent s a) = false → (getAgent s a).queue = r :: rest → s.jrn.sets = [h] → h.marks.contains r.agent = true →
    setReady s { h with post := h.post ++ [r] } = false → Completes (.journalRecord a) s (fun t =>
      (getAgent t a).queue = rest ∧ t.jrn.sets = [{ h with post := h.post ++ [r] }] ∧ t.jrn.flight = s.jrn.flight)) ∧
  (markReady (getAgent s a) = false → (getAgent s a).queue = r :: rest → s.jrn.sets = [] → Completes (.journalRecord a) s (fun t =>
    (getAgent t a).queue = rest ∧
    (jrnEn s = true → ringFull s = false → s.jrn.gap = 0 → t.jrn.flight = s.jrn.flight ++ [(s.jrn.n, r)] ∧ t.jrn.n = s.jrn.n + 1) ∧
    (jrnEn s = true → ringFull s = true → jrnOvw s = false → t.jrn.flight = s.jrn.flight ∧ t.jrn.ringDrop = satAdd 32 s.jrn.ringDrop 1 ∧
      t.jrn.gap = s.jrn.gap + 1) ∧
    (jrnEn s = true → ringFull s = true → jrnOvw s = true → t.jrn.flight = s.jrn.flight ++ [(s.jrn.n, r)] ∧ t.jrn.tail = s.jrn.tail + 1) ∧
    (jrnEn s = false → s.jrn.held.length < 1024 → t.jrn.held = s.jrn.held ++ [r]))) ∧
  ((getAgent s a).queue = [] ∨ markReady (getAgent s a) = true → exec (.journalRecord a) s = .next s) ∧
  (s.jrn.flight = [] → exec .ringWriteDone s = .next { s with engHold := none }) ∧
  (∀ j r rest, s.jrn.flight = (j, r) :: rest → pa j < 2 ^ 52 → (region s (pa j) = .dram → linesFree s (pa j) 32 agJrn = true) → ∃ t, exec .ringWriteDone s = .next t ∧ t.jrn.head = j + 1 ∧ t.jrn.flight = rest ∧
    (∀ k, regsOf (getCore t k) = regsOf (getCore s k)) ∧ KeepsOutside (pa j) 32 s t ∧
    (region s (pa j) = .dram → LineTakes s t (pa j) (sound (recBytes r)))) ∧
  (isJrnReg st 0x10 = true → storeArrives s st → CtlDone (.jrnTailWrite st) st s (fun t =>
    (s.jrn.tail ≤ k → k ≤ s.jrn.head → t.jrn.tail = k) ∧ (s.jrn.head < k → t.jrn.tail = s.jrn.tail ∧ t.gstat.getLsbD 0 = true) ∧
    (k < s.jrn.tail → t.jrn.tail = s.jrn.tail))) ∧
  (isJrnReg st 0 = true → storeArrives s st → s.jrn.ctl.getLsbD 63 = true → CtlDone (.jrnCtlWrite st) st s (fun t =>
    fld t.jrn.ctl 0 5 = fld s.jrn.ctl 0 5 ∧ fld t.jrn.ctl 12 40 = fld s.jrn.ctl 12 40 ∧ t.jrn.ctl.getLsbD 63 = ctl.getLsbD 63 ∧
    t.jrn.ctl.getLsbD 62 = ctl.getLsbD 62 ∧ fld t.jrn.ctl 52 4 = fld ctl 52 4 ∧ t.jrn.tail = s.jrn.tail)) ∧
  (∀ h l, s.jrn.sets = h :: l → (h.at_ + 2000000 ≤ plumbOf s 87 → Completes .jrnSetHoldExpiry s (fun t => t.jrn.sets = l)) ∧
    (plumbOf s 87 < h.at_ + 2000000 → exec .jrnSetHoldExpiry s = .next s)) ∧
  (s.jrn.sets = [] → exec .jrnSetHoldExpiry s = .next s)

/-! ### The minute ledger (R328 to R341) -/

/-- A minute (R329 to R332): an agent switches banks at its boundary and owes a final report; the report's counts join the minute being
gathered, or a later one as partial; occupancy is sampled without a change to a cache. A minute that is ready closes (R330, R332, R335):
one record for each domain that was VALID in it, under the key in force; sealing it sets LAST and ends the close (R336 to R340). With
LED_CTL.EN clear neither writes memory. -/
def Obligations.MinutesAreGatheredAndSealed : Prop :=
  (
    ∀ (a m : Nat) (h : BitVec 5) (s : State),
    let now := minuteOf s a
    let ag := BitVec.ofNat 7 a
    (serving s = true → a ≤ 87 → (now + 1) * minuteNs ≤ plumbOf s a → (a = 87 → now = s.led.minute) →
      Completes (.minuteBoundary a) s (fun t => minuteOf t a = now + 1 ∧ (∀ b, b ≠ a → minuteOf t b = minuteOf s b) ∧
        t.led.due = s.led.due ++ [(ag, now)])) ∧
    (plumbOf s a < (now + 1) * minuteNs → exec (.minuteBoundary a) s = .next s) ∧
    (s.led.due.contains (ag, m) = true → m ≤ s.led.minute → Completes (.finalReport a m) s (fun t =>
      t.led.due = s.led.due.erase (ag, m) ∧ bankCounts t a m = [] ∧ (m = s.led.minute → t.led.final = s.led.final ++ [ag]) ∧
      (m < s.led.minute → t.led.final = s.led.final ∧ t.led.partial_ = s.led.partial_ ++ (bankCounts s a m).map (·.1)) ∧
      ∀ d c, bankCounts s a m = [(d, c)] → tget (fun _ => {}) t.led.sum d = addCounts (tget (fun _ => {}) s.led.sum d) c)) ∧
    (s.led.due.contains (ag, m) = false ∨ s.led.minute < m → exec (.finalReport a m) s = .next s) ∧
    (serving s = false → exec (.l3OccSample h) s = .next s) ∧
    Completes (.l3OccSample h) s (fun t => t.slices = s.slices ∧ t.courses = s.courses ∧
      ∀ k x, serving s = true → (getSlice s h.toNat).l3 = [(k, x)] → x.valid = true →
        ∃ m, (tget (fun _ => {}) t.led.agent (ledKey (32 + h.toNat) m x.tdid.toNat)).occ =
          (tget (fun _ => {}) s.led.agent (ledKey (32 + h.toNat) m x.tdid.toNat)).occ + 1)) ∧
  (
    ∀ (rails : Option Nat) (s : State),
    (closeReady s = true → (ledEn s = true → linesFree s (slotAddr s (s.led.minute % Nat.max 1 (ledSlots s)))
      (64 * (s.led.flags.filterMap (·.2)).length) agJrn = true) → ∃ t c, exec (.minuteClose rails) s = .next t ∧ t.led.closing = some c ∧
      c.minute = s.led.minute ∧
      c.recs.length = (s.led.flags.filterMap (·.2)).length ∧ c.key = s.led.key ∧ (c.slot.isSome = true ↔ ledEn s = true) ∧
      t.led.minute = s.led.minute + 1 ∧ t.led.final = [] ∧ (∀ k, regsOf (getCore t k) = regsOf (getCore s k)) ∧
      (ledEn s = false → ∀ a, memRead t a = memRead s a)) ∧
    (closeReady s = false → exec (.minuteClose rails) s = .next { s with engHold := none }) ∧
    (s.led.closing = none → exec .minuteSealed s = .next s) ∧
    (∀ c, s.led.closing = some c →
      (∀ k, c.slot = some k → c.head.length = 40 ∧ linesFree s (slotAddr s k + 0x40000) 128 agJrn = true) → ∃ t, exec .minuteSealed s = .next t ∧ t.led.closing = none ∧ t.led.status.getLsbD 63 = true ∧
      fld t.led.status 0 32 = c.minute % 2 ^ 32 ∧ t.led.chain.isSome = c.slot.isSome ∧ (∀ k, regsOf (getCore t k) = regsOf (getCore s k)) ∧
      (c.slot = none → ∀ a, memRead t a = memRead s a)))

/-! ### Budgets, planner and arbiters (R285 to R316) -/

/-- Leases (R293 to R295, R300, R301): a low lease begins a draw; the draw takes at most the balance, or finds the account dry; the grant
reaches the core; a core with no tokens stalls or takes its grace; what a core gives back returns to the account. Every boundary that has
passed is applied before the account is touched (R292). -/
def Obligations.LeasesAreDrawnAndReturned : Prop := ∀ (n : BitVec 8) (s : State),
  let k := n.toNat
  let c := getCore s k
  let u := syncBoundary (received s agKs c.drawShort) s.plumb.now
  let d := (getCore u k).dom.toNat
  (c.level ≠ .h → c.lease ≤ 1024 → c.drawing = false → c.drawOff = false → c.granted = none → ∃ t st, exec (.leaseLow n) s = .next t ∧
    RegsSame k s t ∧ regsOf (getCore t k) = regsOf { c with drawing := true, drawShort := st } ∧ (getCore t k).lease = c.lease) ∧
  (c.level = .h ∨ 1024 < c.lease → exec (.leaseLow n) s = .next s) ∧
  (c.drawing = true → c.granted = none → ∃ t, exec (.leaseDraw n) s = .next t ∧ (∀ a, memRead t a = memRead s a) ∧
    ((getBud u d).unl.getLsbD 0 = true → (getCore t k).granted = some (leaseSize u)) ∧
    ((getBud u d).unl.getLsbD 0 = false → 0 < balance u d 0 → (getCore t k).granted = some (Nat.min (leaseSize u) (balance u d 0).toNat) ∧
      balance t d 0 = balance u d 0 - Nat.min (leaseSize u) (balance u d 0).toNat) ∧
    ((getBud u d).unl.getLsbD 0 = false → balance u d 0 ≤ 0 → (getCore t k).drawing = false ∧ (getBud t d).stat.getLsbD 32 = true ∧
      balance t d 0 = balance u d 0)) ∧
  (c.drawing = false ∨ c.granted.isSome = true → exec (.leaseDraw n) s = .next s) ∧
  (∀ g, c.granted = some g → exec (.leaseGrant n) s = .next (advance (setCore (received s (courseOf s k) c.grantShort) k
    { c with lease := c.lease + g, granted := none, drawing := false, stall := c.stall &&& 0xE }) k)) ∧
  (c.granted = none → exec (.leaseGrant n) s = .next s) ∧
  (∃ t, exec (.leaseExhausted n) s = .next (advance t k) ∧ (c.level = .h ∨ c.ingrace = true → t = s) ∧
    (c.level ≠ .h → c.ingrace = false → c.lease = 0 → c.granted = none → (∀ a, memRead t a = memRead s a) ∧
      (getCore t k).stall ≠ 0 ∧ (getCore t k).ingrace = mayGrace s c)) ∧
  (c.ingrace = true → c.graceLeft = 0 → ∃ t, exec (.graceOut n) s = .next t ∧ RegsSame k s t ∧
    regsOf (getCore t k) = regsOf { c with ingrace := false }) ∧
  (c.ingrace = false ∨ c.graceLeft ≠ 0 → exec (.graceOut n) s = .next s) ∧
  (s.returns.find? (fun e => e.1 == n) = none → exec (.leaseReturn n) s = .next s) ∧
  (∀ m t j st, s.returns.find? (fun e => e.1 == n) = some (m, t, j, st) →
    let v := syncBoundary (received { s with returns := s.returns.erase (m, t, j, st) } agKs st) s.plumb.now
    ∃ w, exec (.leaseReturn n) s = .next w ∧ (∀ a, memRead w a = memRead s a) ∧
      (domValid v t.toNat = true → (getBud v t.toNat).unl.getLsbD 0 = false → balance w t.toNat 0 = balance v t.toNat 0 + j))

/-- Usage and notices (R291, R292, R294, R296 to R298): an agent's counts become reports; a report is subtracted and an account that is
spent goes dry; a stall point keeps the notice of the latest period, and a core held by it stalls or takes its grace. -/
def Obligations.UsageAndNotices : Prop := ∀ (a p k : Nat) (t : BitVec 12) (r : BitVec 2) (x : UsageRep) (s : State),
  let waits := serving s && decide (nextBoundary (syncBoundary s s.plumb.now) ≤ x.stamp)
  let u := syncBoundary (received { s with reports := s.reports.erase x } agKs (BitVec.ofNat 24 x.stamp)) s.plumb.now
  let d := x.tdid.toNat
  let q := x.r.toNat
  let at_ := fun (v : State) => tget (fun _ => 0) v.dry (dryKey p t.toNat r.toNat)
  let heard := fun (dry : Bool) => setNotice (noticeTake s (noticeOf s p t r k dry)) p t.toNat r.toNat k dry
  Completes (.usageReportDue a t) s (fun v => (∀ q, q < 4 → tget (fun _ => 0) v.usage (useKey a t.toNat q) = 0) ∧
    ∀ q, q < 4 → tget (fun _ => 0) s.usage (useKey a t.toNat q) ≠ 0 → ∃ y ∈ v.reports, y.agent = BitVec.ofNat 7 a ∧ y.tdid = t ∧
      y.r = BitVec.ofNat 2 q ∧ y.amount = tget (fun _ => 0) s.usage (useKey a t.toNat q)) ∧
  (waits = true → exec (.usageReport x) s = .next s) ∧
  (waits = false → ∃ v, exec (.usageReport x) s = .next v ∧ (∀ a, memRead v a = memRead s a) ∧ v.reports = s.reports.erase x ∧
    (domValid u d = true → (getBud u d).unl.getLsbD q = false → balance v d q = balance u d q - x.amount ∧
      (balance v d q ≤ 0 → (getBud v d).stat.getLsbD (32 + q) = true))) ∧
  (noticeApplies s p t.toNat r.toNat k = true → p < 256 ∨ 512 ≤ p ∨ r ≠ 3 → Completes (.dryNotice p t r k) s (fun v => at_ v = 2 * k + 3)) ∧
  (noticeApplies s p t.toNat r.toNat k = true → 256 ≤ p → p < 512 → r = 3 → (getCore s (p - 256)).dom = t → (getCore s (p - 256)).level ≠ .h →
    ∃ v, exec (.dryNotice p t r k) s = .next v ∧ at_ v = 2 * k + 3 ∧ (getCore v (p - 256)).stall.getLsbD 3 = true ∧ RegsSame (p - 256) s v) ∧
  (noticeApplies s p t.toNat r.toNat k = false → Completes (.dryNotice p t r k) s (fun v => v.dry = s.dry) ∧
    Completes (.releaseNotice p t r k) s (fun v => v.dry = s.dry)) ∧
  (noticeApplies s p t.toNat r.toNat k = true → exec (.releaseNotice p t r k) s = .next
    (if p < 32 then kickCourse (heard false) p
     else if 80 ≤ p && p < 86 then portGoOn (heard false) (p - 80)
     else if 256 ≤ p && p < 512 && (getCore s (p - 256)).dom.toNat == t.toNat then
       (let c := getCore s (p - 256)
        if r = 0 then (if c.granted.isNone && !c.drawing && decide (c.lease ≤ 1024) then
            sendDraw (setCore (heard false) (p - 256) { c with drawOff := false }) (p - 256)
          else setCore (heard false) (p - 256) { c with drawOff := false })
        else if r = 3 then advance (setCore (heard false) (p - 256) { c with stall := c.stall &&& 7 }) (p - 256) else heard false)
     else heard false))

/-- Periods, refills and plans (R288 to R292, R304 to R308): a boundary is applied once; a refill that has reached its account waits for the
boundary, which sets each balance to its credit less what is owed; one of another epoch leaves them; the planner gives each valid domain
its refill and each course its target, unless MANUAL is set. Arbiters (R309 to R312): a window gives each domain its weight again; a phase
grants a requester that is pending, a privileged one of the highest class first, and otherwise one whose count is the largest. -/
def Obligations.RefillsPlansAndArbiters : Prop :=
  (
    ∀ (t : BitVec 12) (ep : BitVec 8) (cs : List (BitVec 64)) (leak : List Nat) (s : State),
    let d := t.toNat
    let now := syncBoundary s s.plumb.now
    let u := { now with plan := now.plan.map (fun l => l.filter (fun e => e.1 != t)) }
    let refilled := fun (v : State) => ∀ r c, r < 4 → cs[r]? = some c →
      (c = unlimited → (getBud v d).unl.getLsbD r = true ∧ (getBud v d).stat.getLsbD (32 + r) = false) ∧
      (c ≠ unlimited → (getBud v d).unl.getLsbD r = false ∧
        balance v d r = (c.toNat : Int) + (if (getBud s d).unl.getLsbD r then 0 else min 0 (balance s d r)) ∧
        (0 < balance v d r → (getBud v d).stat.getLsbD (32 + r) = false))
    (serving s = true → nextBoundary s ≤ s.plumb.now → ∃ v, exec .periodBoundary s = .next v ∧ (∀ a, memRead v a = memRead s a) ∧
      v.budAt = nextBoundary s ∧ (∀ k, (getCore v k).graced = false ∧ (getCore v k).ingrace = false) ∧ v.refills = [] ∧
      ((validDomains s).Nodup → domValid s d = true → s.refills.find? (fun e => e.1.toNat == d) = some (t, ep, cs) → domAcct s d = ep →
        refilled v)) ∧
    (serving s = false ∨ s.plumb.now < nextBoundary s → exec .periodBoundary s = .next s) ∧
    (domValid u d = true → domAcct u d = ep → exec (.refill t ep cs) s = .next
      { u with refills := (t, ep, cs) :: u.refills.filter (fun e => e.1 != t) }) ∧
    (domValid u d = true → domAcct u d ≠ ep → ∃ v, exec (.refill t ep cs) s = .next v ∧ (∀ a, memRead v a = memRead s a) ∧
      v.buds = u.buds ∧ v.refills = u.refills) ∧
    (domValid u d = false → exec (.refill t ep cs) s = .next u) ∧
    (serving s = true → s.planCtl.getLsbD 63 = false → ∃ v l, exec (.energyPlan leak) s = .next v ∧ (∀ a, memRead v a = memRead s a) ∧
      v.plan = some l ∧ l.map (·.1) = (validDomains s).map (BitVec.ofNat 12) ∧ v.planV.length = 32 ∧
      ∀ d ∈ validDomains s, (getBud v d).unplanned = false) ∧
    (serving s = false ∨ s.planCtl.getLsbD 63 = true → exec (.energyPlan leak) s = .next s)) ∧
  (
    ∀ (a : Arb) (s : State),
    let cnt := fun (d : Nat) => tget arbInit (getArb s (arbKey a)).cnt d
    Completes (.arbWindowRefill a) s (fun t => ∀ d, tget arbInit (getArb t (arbKey a)).cnt d = arbWeight s a d) ∧
    (∃ t, exec (.arbPhase a) s = .next t ∧ ∀ k, regsOf (getCore t k) = regsOf (getCore s k)) ∧
    ((∀ p, a = .rp p → (getRp s p.toNat).inq = []) → Completes (.arbPhase a) s (fun t =>
      (arbPending s a = [] → (getArb t (arbKey a)).grant = none) ∧
      (arbPending s a ≠ [] → ∃ w, (getArb t (arbKey a)).grant = some w ∧ w ∈ arbPending s a ∧
        ((∃ r ∈ arbPending s a, (arbClass s r).isSome = true) → (arbClass s w).isSome = true ∧
          ∀ r ∈ arbPending s a, (arbClass s r).getD 0 ≤ (arbClass s w).getD 0) ∧
        ((∀ r ∈ arbPending s a, arbClass s r = none) → (∀ r ∈ arbPending s a, cnt r ≤ cnt w) ∧
          (0 < cnt w → tget arbInit (getArb t (arbKey a)).cnt w = cnt w - 1))))))

/-! ### Memory controllers (R357 to R383) -/

/-- Requests at a memory controller (R19, R22, R256, R309, R362, R363, R371): one whose turn it is is taken: a write changes its line and is
answered; a read is queued with the line's data, and answered with it where no device errs. A request waits behind an earlier one of its
sender, for its grant, and while the queues are full. -/
def Obligations.MemoryServesRequests : Prop := ∀ (ch : BitVec 4) (r : MemReq) (id : Nat) (s : State),
  let m := ch.toNat
  let x := getMc s m
  let port := domRt s r.tdid.toNat && !r.ovh && x.ctl.getLsbD 0 && decide (x.rtQ.length < 32)
  let turn := memBehind s ch r = false ∧ (port = true ∨ (x.mainQ.length < 256 ∧ arbAllows s (.mc ch) (memRequester r) = true))
  let answer := fun (q : MemReq) (d : Option LineData) (st : BitVec 24) => ((BitVec.ofNat 5 (q.src.toNat - 32) : BitVec 5),
    ({ id := q.id, line := q.line, data := d, src := BitVec.ofNat 7 (64 + m), tdid := q.tdid, epoch := q.epoch, short := st } : MemAns))
  (turn → r.write = true → ∃ t st, exec (.memoryRequest ch r) s = .next t ∧ (∀ k, regsOf (getCore t k) = regsOf (getCore s k)) ∧
    memLine t r.line = lineMerge (memLine s r.line) r.data r.mask ∧ (∀ a, a / 64 ≠ r.line.toNat → memRead t a = memRead s a) ∧
    t.memNet = s.memNet.erase (ch, r) ∧ t.memAns = s.memAns ++ [answer r none st]) ∧
  (turn → r.write = false → Completes (.memoryRequest ch r) s (fun t => t.memNet = s.memNet.erase (ch, r) ∧
    ∃ q, q.req = { r with data := memLine s r.line } ∧
      (port = true → (getMc t m).rtQ = x.rtQ ++ [q] ∧ (getMc t m).mainQ = x.mainQ) ∧
      (port = false → (getMc t m).mainQ = x.mainQ ++ [q] ∧ (getMc t m).rtQ = x.rtQ))) ∧
  (¬turn → exec (.memoryRequest ch r) s = .next s) ∧
  (∀ q, (x.rtQ ++ x.mainQ).find? (fun q => q.req.id == id) = some q → Completes (.dramReadDone ch id []) s (fun t =>
    (∃ st, t.memAns = s.memAns ++ [answer q.req (some q.req.data) st]) ∧
    (getMc t m).rtQ = x.rtQ.erase q ∧ (getMc t m).mainQ = x.mainQ.erase q)) ∧
  (∀ e, (x.rtQ ++ x.mainQ).find? (fun q => q.req.id == id) = none → exec (.dramReadDone ch id e) s = .next s)

/-- What a memory controller does of itself (R364, R365, R367, R377 to R380): panics, refreshes, temperatures, retraining, scrub reads and
the steps of a spare entry. No byte of DRAM changes. -/
def Obligations.MemoryControllersKeepTheirBytes : Prop := ∀ (ch rank : BitVec 4) (temps : List Nat) (step : BitVec 2) (pass : Bool) (e : List SymErr)
    (s : State),
  let m := ch.toNat
  let x := getMc s m
  let n := tget (fun _ => 0) x.postponed rank.toNat
  let now := plumbOf s (64 + m)
  let asked := modMc s m (fun x => { x with scrubWait := true })
  let scrubs := x.scrub.getLsbD 63 = true ∧ x.panicAt = none ∧ serving s = true
  let granted := arbAllows asked (.mc ch) (4096 + (64 + m))
  (x.panicAt = none → panicNow s m = true → Completes (.panicStart ch) s (fun t => (getMc t m).panicAt = some now)) ∧
  (panicNow s m = false → Completes (.panicStart ch) s (fun t => (getMc t m).panicAt = none)) ∧
  (x.panicAt.isSome = true → panicNow s m = true → exec (.panicStart ch) s = .next s) ∧
  Completes (.refreshDue ch rank) s (fun t => tget (fun _ => 0) (getMc t m).postponed rank.toNat =
    if x.panicAt.isSome && decide (n < 4) then n + 1 else 0) ∧
  Completes (.dimmTempPoll ch temps) s (fun t => (getMc t m).dimmTemp = temps) ∧
  (serving s = true → x.panicAt = none → (∀ t, x.lastStep = some t → t + 10000 ≤ now) → Completes (.retrainStep ch rank step pass) s (fun t =>
    (getMc t m).lastStep = some now ∧ (pass = true → (getMc t m).status = x.status) ∧ (pass = false → (getMc t m).status = x.status ||| 128))) ∧
  (serving s = false ∨ x.panicAt.isSome = true ∨ (∃ t, x.lastStep = some t ∧ now < t + 10000) → exec (.retrainStep ch rank step pass) s = .next s) ∧
  (scrubs → granted = false → exec (.scrubLine ch e) s = .next asked) ∧
  (scrubs → granted = true → Completes (.scrubLine ch e) s (fun t => (getMc t m).scrubWait = false ∧
    fld (getMc t m).scrubSt 0 48 = if nPhys x * rankLines x ≤ fld x.scrubSt 0 48 + 1 then 0 else (fld x.scrubSt 0 48 + 1) % 2 ^ 48)) ∧
  (x.scrub.getLsbD 63 = false ∨ x.panicAt.isSome = true ∨ serving s = false → exec (.scrubLine ch e) s = .next s) ∧
  (spareState x = 1 ∨ spareState x = 2 → x.spareAt < rankLines x → x.panicAt = none → Completes (.spareCopyStep ch e) s (fun t =>
    (getMc t m).spareAt = x.spareAt + 1 ∧ spareState (getMc t m) = spareState x)) ∧
  ((spareState x ≠ 1 ∧ spareState x ≠ 2) ∨ rankLines x ≤ x.spareAt ∨ x.panicAt.isSome = true → exec (.spareCopyStep ch e) s = .next s) ∧
  (spareState x = 1 ∨ spareState x = 2 ∨ spareState x = 3 → Completes (.spareStateDone ch) s (fun t =>
    spareState (getMc t m) = spareState x + 1 ∧
    (spareState x = 3 → ∀ lr, lr < 16 → logicalRank x (fld x.spare 48 5) = some lr → fld x.spare 40 5 < 16 →
      physRank (getMc t m) lr = fld x.spare 40 5) ∧
    (spareState x ≠ 3 → (getMc t m).rankmap = x.rankmap))) ∧
  (spareState x = 0 ∨ 3 < spareState x → exec (.spareStateDone ch) s = .next s)

/-! ### Root ports, contexts and channels (R384 to R407) -/

/-- Inbound requests (R309, R353, R391 to R393): one that no context claims is answered UR; one of a dry domain is held, and one whose turn it
is not waits at the arbiter; an interrupt message goes to the hub; a read of a line is answered with its bytes, and a write changes its line,
where the window allows it and the line can be had (R259). -/
def Obligations.InboundRequestsAreChecked : Prop := ∀ (port : BitVec 3) (x : Tlp) (k : Nat) (s : State),
  let p := port.toNat
  let c := getCtx s k
  let t := fld c.ctl 32 12
  let a := x.addr.toNat
  let l : LineNo := BitVec.ofNat 46 (a / 64)
  let up := p < 6 ∧ agentDown s (80 + p) = false
  let holds := portDry s p t || (getRp s p).held.any (fun e => e.1.toNat == k)
  let turn := arbAllows s (.rp port) t && (getRp s p).inq.isEmpty
  let goes := up ∧ matchCtx s p x.rid.toNat = some k ∧ ctxEn c = true ∧ holds = false ∧ turn = true ∧ c.ctl.getLsbD 62 = false
  let plain := x.at_ = 0 ∧ x.pasid = false ∧ c.io.getLsbD 63 = false ∧ 0 < x.len.toNat ∧ a % 64 + x.len.toNat ≤ 64 ∧ a < 2 ^ 52 ∧
    region s a = .dram ∧ isMsi x = false
  (¬up → exec (.inboundTlp port x) s = .next s) ∧
  (up → matchCtx s p x.rid.toNat = none → Completes (.inboundTlp port x) s (fun u => (getRp u p).status.getLsbD 33 = true ∧
    (getRp u p).cpls = (getRp s p).cpls ++ (if x.kind = .write then [] else [(x.tag, [], false, true)]))) ∧
  (up → matchCtx s p x.rid.toNat = some k → holds = true →
    Completes (.inboundTlp port x) s (fun u => (getRp u p).held = (getRp s p).held ++ [(BitVec.ofNat 12 k, c.ctl.extractLsb' 48 8, x)])) ∧
  (up → matchCtx s p x.rid.toNat = some k → holds = false → turn = false →
    Completes (.inboundTlp port x) s (fun u => (getRp u p).inq = (getRp s p).inq ++ [(BitVec.ofNat 12 k, c.ctl.extractLsb' 48 8, x)])) ∧
  (goes → isMsi x = true → Completes (.inboundTlp port x) s (fun u => ∃ st,
    u.msis = s.msis ++ [(BitVec.ofNat 12 k, c.ctl.extractLsb' 48 8, BitVec.ofNat 32 (le x.data 0 4), st)])) ∧
  (goes → plain → x.kind = .read → windowOk s (80 + p) t a .read = true → readable s l (80 + p) = true →
    let b := lineRead (lineNow s l) (a % 64) x.len.toNat
    ∃ u, exec (.inboundTlp port x) s = .next u ∧ (∀ k, regsOf (getCore u k) = regsOf (getCore s k)) ∧ KeepsOutside a x.len.toNat s u ∧
      (getRp u p).cpls = (getRp s p).cpls ++ [(x.tag, b.map (·.b), pany b, false)] ∧ (pany b = true → (getCtx u k).ctl.getLsbD 62 = true)) ∧
  (goes → plain → x.kind = .write → windowOk s (80 + p) t a .write = true → linesFree s a x.len.toNat (80 + p) = true →
    ∃ u, exec (.inboundTlp port x) s = .next u ∧ (∀ k, regsOf (getCore u k) = regsOf (getCore s k)) ∧ KeepsOutside a x.len.toNat s u ∧
      (getRp u p).cpls = (getRp s p).cpls ∧
      LineTakes s u a ((List.range x.len.toNat).map (fun i => { b := x.data.getD i 0, p := x.ep }))) ∧
  (goes → plain → x.kind ≠ .other → windowOk s (80 + p) t a (if x.kind = .write then .write else .read) = false →
    Completes (.inboundTlp port x) s (fun u => fld (getCtx u k).status 56 8 = Nat.min 255 (fld c.status 56 8 + 1) ∧
      (fld c.status 56 8 = 0 → fld (getCtx u k).status 48 4 = 3)))

/-- Outbound requests (R19, R21, R129, R309, R387, R388): one whose turn it is goes out on its link or waits for a grant that another holds;
its completion, or its timeout, ends it at the core or the peer that sent it; a port that is off or dead answers it so itself. A grant that has been held its time is revoked. -/
def Obligations.OutboundRequestsEnd : Prop := ∀ (port : BitVec 3) (r : OutReq) (n : BitVec 8) (c : Cpl) (l : Nat) (line : BitVec 46) (s : State),
  let p := port.toNat
  let turn := p < 6 ∧ agentDown s (80 + p) = false ∧ outBehind s port r = false ∧ arbAllows s (.rp port) (outRequester r) = true
  let up := turn ∧ linkOfAddr s p r.pa.toNat = some l ∧ linkUp s p l = true ∧ grantBlocks s p r = false
  let sends := fun (P : State → Prop) (f : State → State) => ∃ u, exec (.outboundRequest port r) s = .next (f u) ∧ RegsKept s u ∧
    u.outNet = s.outNet.erase (port, r) ∧ (getRp u p).sent = r :: (getRp s p).sent ∧ P u
  let waits := fun (u : State) => (getRp u p).outst = (getRp s p).outst ++ [(r, portNow s p)]
  let keeps := fun (u : State) => (getRp u p).outst = (getRp s p).outst
  (up → r.kind = .load ∨ r.kind = .peerRead → sends waits id) ∧
  (up → r.kind = .lr → sends (fun u => waits u ∧ (getRp u p).grants.any (fun g => g.n == r.n && g.line == lineOfPa r.pa &&
    g.until_ == portNow s p + fld s.arbCtl 32 16 * 1000) = true) id) ∧
  (up → r.kind = .store → sends keeps (fun u => storeDone u r)) ∧
  (up → r.kind = .peerWrite → sends keeps id) ∧
  (up → r.kind = .sc → hasGrant s p r = true → sends keeps (fun u => scDone u r true)) ∧
  (up → r.kind = .sc → hasGrant s p r = false → ∃ u, exec (.outboundRequest port r) s = .next (scDone u r false) ∧ RegsKept s u) ∧
  (turn → grantBlocks s p r = true → Completes (.outboundRequest port r) s (fun u =>
    (getRp u p).waiting = (getRp s p).waiting ++ [r])) ∧
  (outBehind s port r = true ∨ (p < 6 ∧ agentDown s (80 + p) = false ∧ arbAllows s (.rp port) (outRequester r) = false) →
    exec (.outboundRequest port r) s = .next s) ∧
  (outBehind s port r = false → 6 ≤ p ∨ agentDown s (80 + p) = true → ∃ u, exec (.outboundRequest port r) s = .next (unreached u r false) ∧ RegsKept s u) ∧
  ((getRp s p).outst.find? (fun e => e.1.n == n && e.1.idx == c.idx) = none → exec (.outboundCompletion port n c) s = .next s) ∧
  (∀ q at_, (getRp s p).outst.find? (fun e => e.1.n == n && e.1.idx == c.idx) = some (q, at_) → q.ctx = none →
    ∃ u, RegsKept s u ∧ (getRp u p).outst = (getRp s p).outst.erase (q, at_) ∧ exec (.outboundCompletion port n c) s =
      .next (readDone u q (if c.ok then (sub c.data 0 q.len.toNat).map (fun b => { b := b, p := c.ep }) else allOnes q.len.toNat false))) ∧
  (∀ q at_, (getRp s p).outst.find? (fun e => e.1.n == n && e.1.idx == c.idx) = some (q, at_) → q.ctx.isSome = true →
    Completes (.outboundCompletion port n c) s (fun u => ∃ z, z ∈ (getRp u q.n.toNat).cpls ∧ z.1 = q.idx ∧ z.2.2.2 = !c.ok)) ∧
  ((∀ e ∈ (getRp s p).outst, e.1.n = n → portNow s p < e.2 + fld (getRp s p).cfg 16 16 * 1000000) → exec (.cplTimeout port n) s = .next s) ∧
  (∀ q at_, (getRp s p).outst = [(q, at_)] → q.n = n → at_ + fld (getRp s p).cfg 16 16 * 1000000 ≤ portNow s p →
    ∃ u, exec (.cplTimeout port n) s = .next (unreached u q false) ∧ RegsKept s u ∧ (getRp u p).outst = [] ∧ (getRp u p).status.getLsbD 32 = true) ∧
  (∀ g, (getRp s p).grants.find? (fun g => g.line == line && decide (g.until_ ≤ portNow s p)) = some g →
    Completes (.grantRevoke port line) s (fun u => (getRp u p).grants.all (fun x => !(x.n == g.n && x.line == line)) = true ∧
      u.outNet = ((getRp s p).waiting.filter (fun q => lineOfPa q.pa == line)).map (fun q => (BitVec.ofNat 3 p, q)) ++ s.outNet)) ∧
  ((getRp s p).grants.find? (fun g => g.line == line && decide (g.until_ ≤ portNow s p)) = none → exec (.grantRevoke port line) s = .next s)

/-- Links (R385, R399, R400, R505) and dead agents (R277): a link goes down, trains and has its slot filled or emptied; PE_PERST_N is
released; an answer that is overdue declares its course dead, and its caches are lost. -/
def Obligations.LinksAndDeadCourses : Prop := ∀ (port : BitVec 3) (link : BitVec 2) (v present : Bool) (rate : BitVec 3) (w : Nat) (g : BitVec 5)
    (line : BitVec 46) (a : Nat) (s : State),
  let p := port.toNat
  let l := link.toNat
  let is := fun (u : State) (b : Nat) => (getRp u p).status.getLsbD (8 * l + b)
  let later := (s.ks.st = .filling ∧ s.ks.filling.isSome = true ∧ s.ks.fillAt + 100000000 ≤ plumbOf s agKs) ∨ (s.ks.st ≠ .cold ∧ s.ks.st ≠ .filling)
  (p < 6 → linkUp s p l = true → (getRp s p).outst = [] → Completes (.linkDown port link false) s (fun u => linkUp u p l = false ∧ is u 2 = true ∧
    u.ctxs = s.ctxs)) ∧
  (p < 6 → linkUp s p l = true → (getRp s p).outst = [] → (∃ j, j < 4 ∧ j ≠ l ∧ linkUp s p j = true) →
    Completes (.linkDown port link true) s (fun u => linkUp u p l = false ∧ is u 2 = true ∧ is u 1 = true ∧
      ∀ k x, s.ctxs = [(k, x)] → ctxEn x = true → fld x.ctl 16 3 = p → linkOfRid s p (fld x.ctl 0 16) = l → (getCtx u k).ctl.getLsbD 62 = true)) ∧
  (linkUp s p l = false → exec (.linkDown port link v) s = .next s) ∧
  (p < 6 → linkExists s p l = true → (getRp s p).perst.getLsbD l = true → linkUp s p l = false → Completes (.linkUp port link rate w) s (fun u =>
    linkUp u p l = true ∧ fld (getRp u p).status (8 * l + 3) 3 = rate.toNat ∧ is u 2 = true ∧ tget (fun _ => 0) (getRp u p).width l = w)) ∧
  (linkExists s p l = false ∨ (getRp s p).perst.getLsbD l = false ∨ linkUp s p l = true → exec (.linkUp port link rate w) s = .next s) ∧
  (p < 6 → linkExists s p l = true → is s 6 ≠ present → Completes (.presenceChange port link present) s (fun u => is u 6 = present ∧ is u 2 = true)) ∧
  (linkExists s p l = false ∨ is s 6 = present → exec (.presenceChange port link present) s = .next s) ∧
  (p < 6 → linkExists s p l = true → later → s.pins.pwrOk.getLsbD 3 = true → pdState s (368 + p) = 2 → Completes (.perstRelease port link) s (fun u =>
    (getRp u p).perst.getLsbD l = true)) ∧
  (s.ks.st = .cold ∨ s.pins.pwrOk.getLsbD 3 = false → exec (.perstRelease port link) s = .next s) ∧
  (answerOverdue s g.toNat line a = true → ∃ u, exec (.deadAgentTimeout g line a) s = .next u ∧ (∀ a, memRead u a = memRead s a) ∧
    u.cohDead.getLsbD a = true ∧ (s.cohDead.getLsbD a = false → (getCourse u a).l2 = [] ∧ u.ks.pending.getLsbD 7 = true)) ∧
  (answerOverdue s g.toNat line a = false → exec (.deadAgentTimeout g line a) s = .next s)

/-- Function contexts and I/O invalidations (R76, R390, R391, R396, R398): a binding takes its fields and the next epoch, or is refused with
CTL_ERR; RESUME ends a halt; a write of IOINV takes the entries it names from every I/O TLB, and ends when nothing that used one is on its
way. What waited for the 8 µs since a unit's last rebinding goes on when they have passed, and not before (R76). -/
def Obligations.ContextsBindAndWait : Prop :=
  (
    ∀ (st : CtlStore) (k : Nat) (s : State),
    let x := getCtx s k
    let v := ctxVal s k st
    let w := maskIn x.ctl v 0x80000FFF0007FFFF
    let inv := stVal st &&& stMask st
    let dup := w.getLsbD 63 = true ∧ s.ctxs.any (fun e => e.1 != k && ctxEn e.2 && fld e.2.ctl 0 19 == fld w 0 19) = true
    let good := ¬dup ∧ fld w 16 3 ≤ 5 ∧ domValid s (fld w 32 12) = true
    let here := ctlBehind s st = false
    let goes := x.heldW = [] ∧ ctxWaits s k st = false
    let puts := fun (i : Instr) (P : State → Prop) => ∃ u, exec i s = .next (ctlDone (portGoOn u (fld x.ctl 16 3)) st.n.toNat st.off.toNat) ∧
      RegsKept s u ∧ P u
    let gone := fun (i : Instr) => here → (s.ioDone = true → CtlDone i st s (fun u => u.ioDone = false ∧
        (∀ p, p < 6 → ∀ e ∈ (getRp u p).iotlb, ioinvHits inv e = false) ∧
        ∀ d, ∀ e ∈ tget (fun _ => []) u.dmaTlb d, ioinvHits inv e = false)) ∧
      (s.ioDone = false → Completes i s (fun u => u.ioWait = s.ioWait ++ [st] ∧ u.dmaTlb = s.dmaTlb))
    (isCtxBind s st = true → stCtx st = some (k, 0) → here → goes → good → puts (.ctxBind st) (fun u =>
      fld (getCtx u k).ctl 48 8 = (fld x.ctl 48 8 + 1) % 256 ∧ (getCtx u k).ctl.getLsbD 63 = true ∧ fld (getCtx u k).ctl 0 19 = fld w 0 19 ∧
      fld (getCtx u k).ctl 32 12 = fld w 32 12 ∧ (getCtx u k).lastBind = some (plumbOf s 80))) ∧
    (isCtxBind s st = true → stCtx st = some (k, 0) → here → goes → ¬good → CtlDone (.ctxBind st) st s (fun u => u.ctxs = s.ctxs ∧ u.gstat.getLsbD 0 = true)) ∧
    (isCtxBind s st = true → stCtx st = some (k, 0) → here → ¬goes → Completes (.ctxBind st) s (fun u =>
      (getCtx u k).ctl = x.ctl ∧ (getCtx u k).heldW = x.heldW ++ [st])) ∧
    (isCtxResume st = true → stCtx st = some (k, 0) → here → goes → good → puts (.ctxResume st) (fun u =>
      x.ctl.getLsbD 62 = true → (linkUp s (fld w 16 3) (linkOfRid s (fld w 16 3) (fld w 0 16)) = true → (getCtx u k).ctl.getLsbD 62 = false ∧
        fld (getCtx u k).status 52 4 = 0) ∧
      (linkUp s (fld w 16 3) (linkOfRid s (fld w 16 3) (fld w 0 16)) = false → (getCtx u k).ctl.getLsbD 62 = true))) ∧
    (isIoinv st 1 = true → gone (.ioinvPage st)) ∧ (isIoinv st 2 = true → gone (.ioinvUnit st)) ∧
    (isIoinv st 3 = true → gone (.ioinvDomain st)) ∧ (isIoinv st 4 = true → gone (.ioinvAll st)) ∧
    (s.ioDone = false → s.ioPend.any (fun r => (peersOut s).contains r) = false → s.ioWait = [] → Completes .ioinvDone s (fun u => u.ioDone = true ∧ u.ioPend = [])) ∧
    (s.ioDone = true ∨ s.ioPend.any (fun r => (peersOut s).contains r) = true → exec .ioinvDone s = .next s)) ∧
  (
    ∀ (n : BitVec 8) (k t : BitVec 12) (c : BitVec 10) (s : State),
    let ctx := getCtx s k.toNat
    let ch := getChan s c.toNat
    ((getCore s n.toNat).busy = .bindWait → bindTooSoon s n.toNat = false → ∃ u, exec (.rebindDelayExpiry (.core n)) s = .next (advance u n.toNat) ∧
      RegsKept s u ∧ (getCore u n.toNat).busy = .none) ∧
    (bindTooSoon s n.toNat = true → exec (.rebindDelayExpiry (.core n)) s = .next s) ∧
    (∀ st r, ctx.heldW = st :: r → ctxWaits s k.toNat st = true → exec (.rebindDelayExpiry (.context k)) s = .next s) ∧
    (∀ st, ctx.heldW = [st] → ctxWaits s k.toNat st = false → exec (.rebindDelayExpiry (.context k)) s =
      .next (ctxPerform (setCtx s k.toNat { ctx with heldW := [] }) k.toNat st)) ∧
    (∀ st r, ch.heldW = st :: r → chWaits s c.toNat st = true → exec (.rebindDelayExpiry (.channel c)) s = .next s) ∧
    (∀ st, ch.heldW = [st] → chWaits s c.toNat st = false → exec (.rebindDelayExpiry (.channel c)) s =
      .next (chPerform (setChan s c.toNat { ch with heldW := [] }) c.toNat st)) ∧
    (s.ks.heldOpen = none ∨ accountHeld s t.toNat = true → exec (.rebindDelayExpiry (.account t)) s = .next s) ∧
    (∀ p, s.ks.heldOpen = some p → le p.payload 0 2 = t.toNat → accountHeld s t.toNat = false → t ≠ 0 → (∀ o, coreLast s o = false) →
      ((p.payload.getD 3 0).getLsbD 0 = true → rtOthers s t.toNat < 12) → ∃ u, exec (.rebindDelayExpiry (.account t)) s = .next u ∧
      (∀ a, memRead u a = memRead s a) ∧ (domValid u t.toNat = true ∧ domAcct u t.toNat = domAcct s t.toNat + 1 ∧ u.ks.heldOpen = none)))

/-- Copy channels (R259, R309, R402 to R407): EN, TDID and TAIL take what is written; a chunk whose turn it is copies at most a line, once
its lines can be had; a completion writes STATUS and raises the channel's interrupt, but for another epoch. -/
def Obligations.ChannelsCopyTheirDescriptors : Prop := ∀ (st : CtlStore) (ch : BitVec 10) (d : List Byte) (s : State),
  let k := ch.toNat
  let x := getChan s k
  let v := chVal s k st
  let g := chAgent k
  let here := ctlBehind s st = false
  let goes := x.heldW = [] ∧ chWaits s k st = false
  let len := le d 16 4
  let src := (le d 0 8 + x.done) % 2 ^ 64
  let dst := (le d 8 8 + x.done) % 2 ^ 64
  let n := Nat.min (64 - dst % 64) (len - x.done)
  let b := lineRead (lineNow s (BitVec.ofNat 46 (src / 64))) (src % 64) n
  let turn := arbAllows s (.dma (BitVec.ofNat 3 (k / 128))) (chTdid x).toNat
  let held := chState x = 3 ∨ chDry s x k = true
  (isChEn st true = true → stChan st = some (k, 0) → here → goes → x.desc = none → CtlDone (.chEnable st) st s (fun u =>
    chEn (getChan u k) = true ∧ chState (getChan u k) = chRest u (getChan u k))) ∧
  (isChEn st false = true → stChan st = some (k, 0) → here → goes → chState x ≠ 3 → CtlDone (.chDisable st) st s (fun u =>
    chEn (getChan u k) = false ∧ (x.desc = none → chState (getChan u k) = 0) ∧
    (x.desc.isSome = true → chState x = 1 → chState (getChan u k) = 2))) ∧
  (isChTdid s st = true → stChan st = some (k, 0) → here → goes → CtlDone (.chTdidWrite st) st s (fun u =>
    (chRebinds s k v = true → fld (getChan u k).ctl 32 12 = fld v 32 12 ∧ fld (getChan u k).ctl 48 8 = (fld x.ctl 48 8 + 1) % 256) ∧
    (chRebinds s k v = false → fld (getChan u k).ctl 32 12 = fld x.ctl 32 12 ∧ u.gstat.getLsbD 0 = true))) ∧
  (isChTdid s st = true → stChan st = some (k, 0) → here → ¬goes → Completes (.chTdidWrite st) s (fun u =>
    (getChan u k).heldW = x.heldW ++ [st] ∧ (getChan u k).ctl = x.ctl)) ∧
  (isChTail st = true → stChan st = some (k, 0x18) → storeArrives s st → CtlDone (.chTailWrite st) st s (fun u =>
    let t := fld (rw x.ptr (stVal st) (stMask st) 0xFFFF) 0 16
    (t < 2 ^ fld x.ring 0 4 → chTail (getChan u k) = t) ∧ (2 ^ fld x.ring 0 4 ≤ t → chTail (getChan u k) = chTail x ∧ u.gstat.getLsbD 0 = true))) ∧
  (turn = false → exec (.dmaChunk ch) s = .next s) ∧
  (turn = true → held → Completes (.dmaChunk ch) s (fun u => u.chans = s.chans)) ∧
  (turn = true → ¬held → x.desc = none → chRest s x = 0 → Completes (.dmaChunk ch) s (fun u => chState (getChan u k) = 0)) ∧
  (turn = true → ¬held → x.desc = some d → x.done < len → x.io.getLsbD 63 = false → src % 64 + n ≤ 64 → src < 2 ^ 52 → dst < 2 ^ 52 →
    region s src = .dram → region s dst = .dram → windowOk s g (chTdid x).toNat src .read = true →
    windowOk s g (chTdid x).toNat dst .write = true → readable s (BitVec.ofNat 46 (src / 64)) g = true → linesFree s dst n g = true →
    pany b = false →
    ∃ u, exec (.dmaChunk ch) s = .next u ∧ (∀ k, regsOf (getCore u k) = regsOf (getCore s k)) ∧
      (∀ a, a / 64 ≠ src / 64 → a / 64 ≠ dst / 64 → memRead u a = memRead s a) ∧
      (src / 64 ≠ dst / 64 → OnlyInDram s (BitVec.ofNat 46 (src / 64)) → LineTakes s u dst b) ∧
      (x.done + n < len → (getChan u k).done = x.done + n ∧ (getChan u k).desc = some d) ∧
      (x.done + n = len → (getChan u k).desc = none ∧ chHead (getChan u k) = (chHead x + 1) % 2 ^ fld x.ring 0 4 ∧
        ∃ c, (getChan u k).cpls = x.cpls ++ [c] ∧ c.status = 1 ∧ c.epoch = chEpoch x)) ∧
  (x.cpls = [] → exec (.dmaCompletion ch) s = .next { s with engHold := none }) ∧
  (∀ c r, x.cpls = c :: r → c.epoch ≠ chEpoch x → Completes (.dmaCompletion ch) s (fun u => (getChan u k).cpls = r ∧ u.srcs = s.srcs)) ∧
  (∀ c r, x.cpls = c :: r → c.epoch = chEpoch x → x.io.getLsbD 63 = false →
    let a := c.desc.toNat + 21
    let writes := windowOk s g (chTdid x).toNat a .write = true ∧ region s a = .dram
    a < 2 ^ 52 → (writes → linesFree s a 1 g = true) →
    ∃ u, exec (.dmaCompletion ch) s = .next u ∧ (∀ k, regsOf (getCore u k) = regsOf (getCore s k)) ∧ KeepsOutside a 1 s u ∧
      (getChan u k).cpls = r ∧ (writes → LineTakes s u a (sound [c.status])) ∧
      (c.irq = true → 64 ≤ fld x.ctl 0 13 → fld x.ctl 0 13 ≤ 8190 → srcTdid (getSrc s (fld x.ctl 0 13)) = (chTdid x).toNat →
        (getSrc u (fld x.ctl 0 13)).pend = true))

/-! ### The Keystone (R409 to R440) -/

/-- The Keystone's paths (R411 to R415, R440): a packet that is well formed waits in the queue; one that comes while its path is busy
sets OVERRUN, a malformed one RXERR; a reply is read, and is gone when it has been read to its end. -/
def Obligations.PacketsArriveAndRepliesAreRead : Prop := ∀ (l : List Byte) (k : Nat) (code : BitVec 8) (st : CtlStore) (s : State),
  let len := ((rw (BitVec.ofNat 64 s.ks.mbLen.toNat) (stVal st) (stMask st) 0x1FFF).extractLsb' 0 13).toNat
  let m := (List.range len).map (fun i => tget (fun _ => 0) s.ks.mbCmd i)
  (s.ks.inReset = true → exec (.kspWrite l) s = .next s ∧ exec (.kspRead k) s = .next s ∧ exec .kspStatus s = .next s ∧
    exec (.kspBadTransactionCode code) s = .next s) ∧
  (s.ks.inReset = false → s.ks.serial.busy = true → Completes (.kspWrite l) s (fun t => t.ks.serial.overrun = true ∧ t.ks.queue = s.ks.queue)) ∧
  (s.ks.inReset = false → s.ks.serial.busy = false → (malformed l).isSome = true → Completes (.kspWrite l) s (fun t =>
    t.ks.serial.rxerr = true ∧ t.ks.queue = s.ks.queue)) ∧
  (s.ks.inReset = false → s.ks.serial.busy = false → malformed l = none → ∃ u p, exec (.kspWrite l) s = .next (ksGoOn u) ∧ RegsKept s u ∧
    u.ks.queue = s.ks.queue ++ [p] ∧ p.path = .serial ∧ p.payload.length = le l 6 2 ∧ u.ks.serial.busy = true ∧ u.ks.serial.rxerr = false) ∧
  (s.ks.inReset = false → s.ks.serial.reply = none → Completes (.kspRead k) s (fun t => t.ks.miso = List.replicate k 0)) ∧
  (∀ r, s.ks.inReset = false → s.ks.serial.reply = some r → (k < r.length → Completes (.kspRead k) s (fun t => t.ks.miso = r.take k ∧
      t.ks.serial.reply = some r)) ∧
    (r.length ≤ k → s.ks.resetAt = none → Completes (.kspRead k) s (fun t => t.ks.miso = r ++ List.replicate (k - r.length) 0 ∧
      t.ks.serial.reply = none)) ∧
    (r.length ≤ k → s.ks.resetAt.isSome = true → ∃ t, exec (.kspRead k) s = .next t ∧ t.ks.st = .cold ∧ t.ks.queue = [] ∧ t.mem = [])) ∧
  (s.ks.inReset = false → Completes .kspStatus s (fun t => t.ks.miso = [statusByte s])) ∧
  (s.ks.inReset = false → code.toNat = 0 ∨ 3 < code.toNat → Completes (.kspBadTransactionCode code) s (fun t => t.ks.serial.rxerr = true)) ∧
  (isMbGo st = true → storeArrives s st → CtlDone (.mbGo st) st s (fun t => (s.ks.mailbox.busy = true → t.ks.mailbox.overrun = true) ∧
    (s.ks.mailbox.busy = false → (malformed m).isSome = true → t.ks.mailbox.rxerr = true) ∧
    (s.ks.mailbox.busy = false → malformed m = none → s.ks.running = true → ∃ p, t.ks.queue = s.ks.queue ++ [p] ∧ p.path = .mailbox))) ∧
  (isMbReady st = true → storeArrives s st → CtlDone (.mbReadyRelease st) st s (fun t => t.ks.mailbox.reply = none))

/-- ALERTS (R429): with an empty payload it returns PENDING and MASK and changes neither; with 8 bytes it clears the bits of PENDING that
bytes 0 to 3 set, takes bytes 4 to 7 for MASK, and returns the values after the change. A cleared bit whose condition still holds is set
again at once (R439), and the reply itself, once it is ready, sets bit 0 on the serial port. -/
def Obligations.AlertsAreReadAndCleared : Prop := ∀ (p : Packet) (s : State), atFront s p = true → p.opcode.toNat = 0x004 →
  let c := BitVec.ofNat 32 (le p.payload 0 4)
  let v := (s.ks.pending &&& ~~~c) ||| (c &&& BitVec.ofNat 32 (alertHeld s))
  let kept := fun (pending : BitVec 32) (u : State) => u.ks.pending = (if p.path = .serial then pending ||| 1 else pending)
  (p.payload.length = 0 → KsAnswers .alerts s p s.ks.queue.tail 0 (fun u b => RegsKept s u ∧ kept s.ks.pending u ∧
    u.ks.mask = s.ks.mask ∧ b = bytesOf 4 s.ks.pending.toNat ++ bytesOf 4 s.ks.mask.toNat)) ∧
  (p.payload.length = 8 → KsAnswers .alerts s p s.ks.queue.tail 0 (fun u b => RegsKept s u ∧ kept v u ∧
    u.ks.mask = BitVec.ofNat 32 (le p.payload 4 4) ∧ b = bytesOf 4 v.toNat ++ bytesOf 4 u.ks.mask.toNat))

/-- Queries (R426 to R430, R435), and packets that are judged before they are executed (R410, R421, R424): one of a wrong length, or where its
opcode is not legal, is answered so. -/
def Obligations.QueriesAreAnswered : Prop := ∀ (p : Packet) (s : State), atFront s p = true →
  let op := p.opcode.toNat
  let q := s.ks.queue.tail
  let n := p.payload.length
  let same := fun (i : Instr) (P : List Byte → Prop) => KsAnswers i s p q 0 (fun u b => RegsKept s u ∧ P b)
  let fails := fun (i : Instr) (st : Nat) (b : List Byte) => KsAnswers i s p q st (fun u c => RegsKept s u ∧ c = b)
  let slot := slotAddr s (le p.payload 0 4 % Nat.max 1 (ledSlots s)) + 0x40000
  let a := le p.payload 0 2
  let k := le p.payload 2 2
  (op = 0x201 → n = 0 → s.ks.st ≠ .booting → fails .serve 7 (bytesOf 4 1 ++ bytesOf 4 0)) ∧ (op = 0x201 → n ≠ 0 → fails .serve 5 []) ∧
  (op ≠ 0x201 → exec .serve s = .next s) ∧
  (op = 0x001 → n = 0 → same .getState (fun b => b.length = 24 ∧ sub b 0 1 = bytesOf 1 (devCode s.ks.st) ∧ sub b 8 8 = bytesOf 8 s.plumb.now ∧
    sub b 16 4 = bytesOf 4 (fld s.led.status 0 32))) ∧
  (op = 0x002 → n = 0 → same .identify (fun b => b.length = 32 ∧ sub b 0 8 = bytesOf 8 Config.deviceId.toNat ∧ sub b 8 8 = bytesOf 8 Config.uid.toNat)) ∧
  (op = 0x003 → n = 4 → s.ks.st ≠ .cold → 0 < k → a + k ≤ 288 → same .getCores (fun b => b = (List.range k).flatMap (fun i => coreEntry s (a + i)))) ∧
  (op = 0x003 → n = 4 → s.ks.st ≠ .cold → 288 ≤ a → fails .getCores 6 (bytesOf 4 0)) ∧
  (op = 0x005 → n = 8 → started s → tget (fun _ => 0) s.led.slots (le p.payload 0 4 % Nat.max 1 (ledSlots s)) ≠ le p.payload 0 4 + 1 →
    fails .readMinute 6 (bytesOf 4 0)) ∧
  (op = 0x005 → n = 8 → started s → tget (fun _ => 0) s.led.slots (le p.payload 0 4 % Nat.max 1 (ledSlots s)) = le p.payload 0 4 + 1 →
    le p.payload 4 2 = 0xFFFF → le p.payload 6 2 = 0 → slot < 2 ^ 51 → readable s (BitVec.ofNat 46 (slot / 64)) agKs = true →
    readable s (BitVec.ofNat 46 (slot / 64 + 1)) agKs = true → KsAnswers .readMinute s p q 0 (fun u b =>
      (∀ k, regsOf (getCore u k) = regsOf (getCore s k)) ∧ KeepsOutside slot 128 s u ∧
      b = (lineRead (lineNow s (BitVec.ofNat 46 (slot / 64))) 0 64 ++ lineRead (lineNow s (BitVec.ofNat 46 (slot / 64 + 1))) 0 64).map (·.b))) ∧
  (op = 0x006 → n = 4 → started s → coreLast s 0x30110 = false → le p.payload 0 4 ≤ fld s.led.status 0 32 →
    KsAnswers .ackMinute s p q 0 (fun u b => RegsKept s u ∧ b = [] ∧ fld u.led.ack 0 32 = le p.payload 0 4)) ∧
  (op = 0x006 → n = 4 → started s → fld s.led.status 0 32 < le p.payload 0 4 → fails .ackMinute 6 (bytesOf 4 0)) ∧
  (op = 0x402 → n = 0 → s.ks.st ≠ .cold → same .getPower (fun b => b.length = 72 ∧ sub b 0 2 = bytesOf 2 (fld s.planCtl 0 16) ∧
    sub b 2 2 = bytesOf 2 (fld s.planCtl 16 16)))

/-- Settings (R48, R49, R409, R431, R432, R435, R438, R474): what each command sets, and its reply. -/
def Obligations.SettingsTakeEffect : Prop := ∀ (p : Packet) (s : State), atFront s p = true → (∀ o, coreLast s o = false) →
  let op := p.opcode.toNat
  let q := s.ks.queue.tail
  let x := p.payload
  let sets := fun (i : Instr) (st : Nat) (b : List Byte) (P : State → Prop) => KsAnswers i s p q st (fun u c => RegsKept s u ∧ c = b ∧ P u)
  let config := s.ks.st = .filling ∧ s.ks.phase = .config
  let base := le x 4 8
  let n := le x 2 2
  (op = 0x101 → x.length = 8 → s.ks.st = .filling → s.ks.phase ≠ .failed → sets .setPlumb 0 (bytesOf 8 s.plumb.now) (fun u =>
    u.plumb.now = le x 0 8 ∧ u.plumb.off = [] ∧ u.jrn.sets.length = s.jrn.sets.length + 1 ∧ u.jrn.sets.getLast? = some { at_ := le x 0 8 })) ∧
  (op = 0x102 → x.length = 2 → settable s → le x 0 1 ≤ 3 → le x 1 1 ≤ 1 → (le x 0 1 = 1 → s.ks.st = .filling) → sets .setPps 0 [] (fun u =>
    ppsMode u = le x 0 1 ∧ fld u.plumb.ctl 3 1 = le x 1 1)) ∧
  (op = 0x103 → x.length = 8 → settable s → (calRange (le x 0 2)).isSome = true → le x 2 2 = 0 → -1048575 ≤ toSigned 32 (le x 4 4) →
    toSigned 32 (le x 4 4) ≤ 1048575 → KsAnswers .setTrim s p q 0 (fun u b => (∀ a, memRead u a = memRead s a) ∧
      tget (fun _ => 0) u.trims (le x 0 2) = toSigned 32 (le x 4 4) ∧ b = bytesOf 4 (ofInt 32 (calEff u (le x 0 2))))) ∧
  (op = 0x104 → x.length = 2 → config → le x 0 1 ≤ 2 → le x 1 1 ≤ 1 → sets .setMemcfg 0 [] (fun u => u.ks.maxSpeed.toNat = le x 0 1 ∧
    (u.ks.wantSpare = true ↔ le x 1 1 = 1))) ∧
  (op = 0x105 → x.length = 4 → config → le x 0 1 ≤ 5 → le x 1 1 ≤ 3 → 1 ≤ le x 2 1 → le x 2 1 ≤ 5 → le x 3 1 = 0 → sets .setPcie 0 [] (fun u =>
    fld (getRp u (le x 0 1)).cfg 0 2 = le x 1 1 ∧ fld (getRp u (le x 0 1)).cfg 8 3 = le x 2 1)) ∧
  (op = 0x106 → x.length = 0 → config → sets .startFill 1 [] (fun u => u.ks.phase = .training ∧ u.pins.sampled = true ∧ u.ks.fillAt = s.plumb.now)) ∧
  (op = 0x201 → x.length = 0 → s.ks.st = .booting → sets .serve 0 [] (fun u => u.ks.st = if degr s = 0 then .serving else .degraded)) ∧
  (op = 0x202 → x.length = 0 → s.ks.st ≠ .cold → sets .reset 0 [] (fun u => u.ks.resetAt = some (plumbOf s agKs) ∧ u.pins.sampled = false)) ∧
  (op = 0x203 → x.length = 1 → settable s → (x.getD 0 0).getLsbD 7 = false → sets .mboxAllow 0 [x.getD 0 0] (fun u => u.ks.allow = x.getD 0 0)) ∧
  (op = 0x401 → x.length = 8 → settable s → 180 ≤ le x 0 2 → le x 0 2 ≤ 480 → n < le x 0 2 → 1 ≤ le x 4 2 → le x 4 2 ≤ 1000 → 600000 % le x 4 2 = 0 →
    le x 6 2 = 0 → sets .setPower 0 [] (fun u => fld u.planCtl 0 16 = le x 0 2 ∧ fld u.planCtl 16 16 = n ∧ fld u.budCtl 0 10 = le x 4 2)) ∧
  (op = 0x603 → x.length = 12 → started s → le x 0 1 ≤ 1 → le x 1 1 = 0 → 2 ≤ n → n ≤ 4095 → base % 4096 = 0 → base + n * 0x41000 ≤ s.dramTop.toNat →
    s.dramTop.toNat ≤ 2 ^ 52 → sets .ledgerCfg 0 [] (fun u => ledSlots u = n ∧ ledBase u = base ∧ (ledEn u = true ↔ le x 0 1 = 1))) ∧
  (op = 0x602 → x.length = 32 ∨ x.length = 80 → settable s → KsAnswers .sealKey s p q 0 (fun u b => RegsKept s u ∧
    fld u.led.status 40 8 = (fld s.led.status 40 8 + 1) % 256 ∧ sub b 0 1 = bytesOf 1 (fld u.led.status 40 8) ∧
    ((serving s && closeInProgress s) = false → u.led.key = some (x.take 32)) ∧
    ((serving s && closeInProgress s) = true → u.led.key = s.led.key ∧ ∃ y, u.led.nextKey = some y ∧ y.1 = x.take 32))) ∧
  (op = 0x509 → x.length = 2 → started s → le x 1 1 ≤ 1 → KsAnswers .ktest s p q 0 (fun u b => RegsSame (le x 0 1) s u ∧ b = [] ∧
    regsOf (getCore u (le x 0 1)) = regsOf { getCore s (le x 0 1) with
      pctl := if le x 1 1 = 1 then (getCore s (le x 0 1)).pctl ||| 0x40 else (getCore s (le x 0 1)).pctl &&& 0xBF })) ∧
  (op = 0x601 → x.length = 4496 → settable s →
    let body := (List.range 4352).map (Config.patchPlain x)
    KsAnswers .patchStage s p q (patchStatus x body) (fun u b => RegsKept s u ∧ (patchStatus x body ≠ 0 → u.ks.staged = s.ks.staged ∧ b = []) ∧
      (patchStatus x body = 0 → u.ks.staged = some { level := BitVec.ofNat 32 (le x 8 4), crc := BitVec.ofNat 32 (crc32c body), body := body })))

/-- Domains, agents and memory channels (R60, R373, R379, R433, R436, R437): what the Keystone's commands open, close, declare and start. -/
def Obligations.KeystoneOpensAndDeclares : Prop := ∀ (p : Packet) (s : State), atFront s p = true → (∀ o, coreLast s o = false) → devServes s →
  let op := p.opcode.toNat
  let q := s.ks.queue.tail
  let x := p.payload
  let sets := fun (i : Instr) (st : Nat) (P : State → Prop) => KsAnswers i s p q st (fun u _ => RegsKept s u ∧ P u)
  let t := le x 0 2
  let a := le x 0 1
  let ch := fun (u : State) => getMc u (le x 0 1)
  let sc := le x 2 1
  let d := le x 3 1
  let rt := (x.getD 3 0).getLsbD 0
  let ceilings := fun (u : State) => (getBud u t).c0 = BitVec.ofNat 64 (le x 4 8) ∧ (getBud u t).c1 = BitVec.ofNat 64 (le x 12 8) ∧
    (getBud u t).c2 = BitVec.ofNat 64 (le x 20 8) ∧ (getBud u t).c3 = BitVec.ofNat 64 (le x 28 8) ∧ domRt u t = rt
  (op = 0x301 → x.length = 40 → domParam x = none → domValid s t = false → unsealedClose s t = none → (rt = true → rtOthers s t < 12) →
    accountHeld s t = false → KsAnswers .domOpen s p q 0 (fun u _ => (∀ a, memRead u a = memRead s a) ∧
      (s.plumb.now < nextBoundary s → RegsKept s u) ∧ domValid u t = true ∧ domPaused u t = false ∧ domAcct u t = domAcct s t + 1 ∧ ceilings u)) ∧
  (op = 0x301 → x.length = 40 → domParam x = none → domValid s t = false → unsealedClose s t = none → (rt = true → rtOthers s t < 12) →
    accountHeld s t = true → Completes .domOpen s (fun u => u.ks.heldOpen = some p ∧ u.ks.running = true ∧ u.doms = s.doms)) ∧
  (op = 0x302 → x.length = 2 → 0 < t → t ≤ 4095 → domValid s t = true → domCores s t = 0 → domUnits s t = 0 → classFTargets s t = false →
    sets .domClose 0 (fun u => domValid u t = false ∧ domRt u t = false ∧ domPaused u t = false)) ∧
  (op = 0x302 → x.length = 2 → 0 < t → t ≤ 4095 → domCores s t ≠ 0 → sets .domClose 7 (fun u => u.doms = s.doms)) ∧
  (op = 0x303 → x.length = 40 → domParam x = none → domValid s t = true → (rt = true → rtOthers s t < 12) →
    (rt = false → domRt s t = true → classFTargets s t = false) → sets .domBudget 0 (fun u => ceilings u ∧ domValid u t = true)) ∧
  (op = 0x504 → x.length = 1 → deadable a = true → isDead s a = false → (∀ r ∈ s.ks.rots, r.packet = none) → KsAnswers .agentDead s p q 0 (fun u _ => (a < 32 → ∀ b, memRead u b = memRead s b) ∧
    isDead u a = true ∧ u.ks.pending.getLsbD 7 = true)) ∧
  (op = 0x505 → x.length = 1 → deadable a = true → isDead s a = true → s.ks.agentRet.any (fun e => e.1.toNat == a) = false →
    sets .agentReturn 1 (fun u => u.ks.agentRet = s.ks.agentRet ++ [(BitVec.ofNat 7 a, p)] ∧ isDead u a = true)) ∧
  (op = 0x506 → x.length = 4 → a ≤ 15 → (logicalRank (ch s) (le x 1 1)).isSome = true → 1 ≤ sc → sc ≤ 25 → d = 0 → spareRefuses s a = none →
    sets .spareStart 1 (fun u => spareState (ch u) = 1 ∧ (ch u).spareAt = 0 ∧ fld (ch u).spare 48 5 = le x 1 1)) ∧
  (op = 0x507 → x.length = 1 → a ≤ 15 → spareState (ch s) = 4 → sets .spareAck 0 (fun u => spareState (ch u) = 0)) ∧
  (op = 0x507 → x.length = 1 → a ≤ 15 → spareState (ch s) ≠ 4 → sets .spareAck 7 (fun u => u.mcs = s.mcs)) ∧
  (op = 0x508 → x.length = 4 → a ≤ 15 → le x 1 1 ≤ 15 → sc ≤ 1 → d ≤ 9 → markOf (ch s) (le x 1 1) sc = none → sets .devMark 0 (fun u =>
    markOf (ch u) (le x 1 1) sc = some d ∧ (ch u).status.getLsbD 4 = true)) ∧
  (op = 0x508 → x.length = 4 → a ≤ 15 → le x 1 1 ≤ 15 → sc ≤ 1 → d = 0xFF → sets .devMark 0 (fun u => markOf (ch u) (le x 1 1) sc = none))

/-- Cores started, rotated, returned and tested (R436, R461 to R468, R491): a started core runs at its address; a rotation stops its core,
and its switch gives the number to the spare; a core or an agent that comes back is tested. -/
def Obligations.CoresStartAndRotate : Prop := ∀ (p : Packet) (n : BitVec 8) (pass : Bool) (cores : BitVec 9) (s : State),
  let op := p.opcode.toNat
  let q := s.ks.queue.tail
  let x := p.payload
  let k := le x 0 1
  let up : Bool × Bool := (true, true)
  let loads := loadGood s up = true
  let c := getCore s n.toNat
  (atFront s p = true → started s → op = 0x503 → x.length = 16 → (∀ i, 0 < i → i < 8 → x.getD i 0 = 0) → ∀ d, physOf s k = some d → d < 288 →
    (getCore s k).run = .notStarted → (getPhys s d).st ≠ .dead → loads → ∃ v w, exec (.coreStart up) s = .next (ok (advance v k) p []) ∧
      (∀ a, memRead v a = memRead s a) ∧ (∀ j, j ≠ k → regsOf (getCore v j) = regsOf (getCore s j)) ∧ (getPhys v d).st = .running ∧
      getCore v k = { coldStart (getCore s k) with pc := BitVec.ofNat 64 (le x 8 8), run := .run, unst := false, upatch := w }) ∧
  (atFront s p = true → devServes s → op = 0x501 → x.length = 2 → x.getD 1 0 = 0 → courseBusy s (courseOf s k) = false → ∀ a b, physOf s k = some a →
    spareOf s (courseOf s k) = some b → loads → ∃ u r, exec (.coreRotate up) s = .next u ∧ u.ks.rots = s.ks.rots ++ [r] ∧ r.n.toNat = k ∧ r.from_ = a ∧ r.to_ = b ∧
      (getCore u k).rot = true ∧ u.ks.running = true ∧ (∀ a, memRead u a = memRead s a)) ∧
  (atFront s p = true → devServes s → op = 0x501 → x.length = 2 → x.getD 1 0 = 0 → courseBusy s (courseOf s k) = false →
    spareOf s (courseOf s k) = none → KsAnswers (.coreRotate up) s p q 12 (fun u _ => RegsKept s u)) ∧
  (s.ks.rots.find? (fun r => r.n == n) = none → exec (.rotationSwitch n) s = .next s) ∧
  (∀ r, s.ks.rots.find? (fun r => r.n == n) = some r → drained c = false → exec (.rotationSwitch n) s = .next s) ∧
  (∀ r, s.ks.rots.find? (fun r => r.n == n) = some r → drained c = true → ∃ u, exec (.rotationSwitch n) s = .next (advance u n.toNat) ∧
    (getPhys u r.to_).logical = some n ∧ (getCore u n.toNat).rot = false ∧ u.ks.rots.all (fun q => q.n != n) = true ∧
    (∀ g b, readGb (getCore u n.toNat) g b = readGb c g b) ∧ (∀ a, memRead u a = memRead s a)) ∧
  (courseBusy s (courseOf s n.toNat) = true → exec (.autoRotation n up) s = .next s) ∧
  (courseBusy s (courseOf s n.toNat) = false → c.dead.isSome = true → (physOf s n.toNat).isSome = true → spareOf s (courseOf s n.toNat) = none →
    ∃ u, exec (.autoRotation n up) s = .next u ∧ (getCore u n.toNat).run = .unhoused ∧ (∀ a, memRead u a = memRead s a)) ∧
  (courseBusy s (courseOf s n.toNat) = false → c.dead.isSome = true → (physOf s n.toNat).isSome = true → ∀ b, spareOf s (courseOf s n.toNat) = some b →
    loads → ∃ u r, exec (.autoRotation n up) s = .next u ∧ u.ks.rots = s.ks.rots ++ [r] ∧ r.n = n ∧ r.to_ = b ∧ (getCore u n.toNat).rot = true ∧
      (∀ a, memRead u a = memRead s a)) ∧
  (atFront s p = true → devServes s → op = 0x502 → x.length = 2 → le x 0 2 < 288 → (getPhys s (le x 0 2)).st = .dead ∨ (getPhys s (le x 0 2)).st = .off →
    Completes .coreReturn s (fun u => u.ks.coreRet = some (le x 0 2, p) ∧ u.ks.running = true ∧ pdState u (le x 0 2) = 2)) ∧
  (s.ks.coreRet = none → exec (.coreTestDone pass) s = .next s) ∧
  (∀ d, s.ks.coreRet = some (d, p) → KsAnswers (.coreTestDone pass) s p s.ks.queue (if pass then 0 else 13) (fun u _ => RegsKept s u ∧ u.ks.coreRet = none ∧
    (getPhys u d).st = (if pass then (if (spareOf s (d / 9)).isSome then .off else .spare) else .dead))) ∧
  (s.ks.agentRet = [] → exec (.agentReturnDone pass cores) s = .next s) ∧
  (∀ g r, s.ks.agentRet = (g, p) :: r → deadable g.toNat = true → ∃ u, exec (.agentReturnDone pass cores) s = .next u ∧ (∀ a, memRead u a = memRead s a) ∧
    u.ks.agentRet = r ∧ u.ks.pending.getLsbD 2 = true ∧ (pass = true → isDead u g.toNat = false) ∧ (pass = false → u.cohDead = s.cohDead))

/-! ### Reset, start-up and power (R441 to R460, R486 to R510) -/

/-- Entry to COLD (R44, R419, R502, R503, R506, R508): by RESET_N, by a supply that fails while it counts, or by the wait of a RESET that has
ended; RESET_N's release lets the boot ROM run, and with TESTEN high the device is in test, of which nothing is said. -/
def Obligations.ColdIsEnteredAndLeft : Prop := ∀ (g : BitVec 2) (s : State),
  let cold := fun (t : State) => t.ks.st = .cold ∧ t.ks.queue = [] ∧ t.mem = [] ∧ t.dramTop = 0 ∧ t.plumb.counting = false ∧ t.cores = [] ∧ t.net = [] ∧
    t.pending = s.pending
  let was := s.pins.pwrOk.getLsbD g.toNat
  (∃ t, exec .resetNAssert s = .next t ∧ cold t ∧ t.pins.resetN = false ∧ t.ks.inReset = true ∧ t.ks.tripped = false) ∧
  (s.pins.testen = true → exec .resetRelease s = .fault .testMode) ∧
  (s.pins.testen = false → s.ks.inReset = true → s.pins.pwrOk.getLsbD 0 = true → Completes .resetRelease s (fun t => t.ks.inReset = false ∧
    t.pins.resetN = true ∧ t.pins.flash = true ∧ t.pins.driven = none)) ∧
  (s.pins.testen = false → s.ks.inReset = false ∨ s.pins.pwrOk.getLsbD 0 = false → exec .resetRelease s = .next s) ∧
  Completes (.pwrOkChange g true) s (fun t => t.pins.pwrOk.getLsbD g.toNat = true ∧ t.ks = s.ks) ∧
  (was = true → g = 0 ∨ s.pins.sampled = true → ∃ t, exec (.pwrOkChange g false) s = .next t ∧ cold t ∧ t.pins.pwrOk.getLsbD g.toNat = false ∧
    (t.ks.inReset = true ↔ g = 0)) ∧
  (was = false ∨ (g ≠ 0 ∧ s.pins.sampled = false) → Completes (.pwrOkChange g false) s (fun t => t.pins.pwrOk.getLsbD g.toNat = false ∧ t.ks = s.ks)) ∧
  (∀ a, s.ks.resetAt = some a → (a + 10000000 ≤ plumbOf s 86 → ∃ t, exec .resetWaitExpiry s = .next t ∧ cold t ∧ t.ks.inReset = false) ∧
    (plumbOf s 86 < a + 10000000 → exec .resetWaitExpiry s = .next s)) ∧
  (s.ks.resetAt = none → exec .resetWaitExpiry s = .next s)

/-- Start-up (R358, R366, R376, R419, R486 to R494): the boot image is checked, FILLING is entered, and its phases follow one another or fail
with their code; logical core 0 begins at the host's entry, in BOOTING. -/
def Obligations.StartUpFollowsItsPhases : Prop := ∀ (a : List (BitVec 8)) (b : Option (List (BitVec 8))) (spd : List ChanSpd) (s : State) (boot : Boot),
  let fails := fun (i : Instr) (code : BitVec 8) => Completes i s (fun t => t.ks.phase = .failed ∧ t.ks.bootst = code ∧ t.ks.st = s.ks.st)
  let phase := fun (p : Phase) => s.ks.st = .filling ∧ s.ks.phase = p
  let c0 := spd.getD 0 { supported := false }
  (s.ks.st = .cold → s.ks.inReset = false → s.ks.bootst = 0 → Completes (.bootImageChecked a b) s (fun t =>
    t.ks.bootst.toNat = (if bootCheck a = 1 then 1 else match b with | some l => bootCheck l | none => 2) ∧ (t.ks.boot.isSome = true ↔ t.ks.bootst = 1))) ∧
  (s.ks.st ≠ .cold → exec (.bootImageChecked a b) s = .next s) ∧
  (s.ks.st = .cold → s.ks.inReset = false → s.plumb.counting = false → Completes .plumbLockTimeout s (fun t => t.ks.bootst = 5 ∧ t.ks.boot = none)) ∧
  (s.plumb.counting = true → exec .plumbLockTimeout s = .next s) ∧
  (s.ks.boot = some boot → s.ks.st = .cold → s.ks.inReset = false → s.ks.bootst = 1 → s.plumb.counting = true → Completes .enterFilling s (fun t =>
    t.ks.st = .filling ∧ t.ks.phase = .config ∧ t.pins.flash = false ∧ t.jrn = {})) ∧
  (s.ks.boot = none ∨ s.ks.st ≠ .cold → exec .enterFilling s = .next s) ∧
  (phase .training → s.pins.pwrOk ≠ 0xF → s.ks.fillAt + 20000000 ≤ s.plumb.now → fails .pwrOkTimeout 0x10) ∧
  (¬phase .training ∨ s.pins.pwrOk = 0xF → exec .pwrOkTimeout s = .next s) ∧
  (phase .training → s.pins.pwrOk = 0xF → spd.length ≠ 16 → fails (.trainingDone spd) 0x11) ∧
  (phase .training → s.pins.pwrOk = 0xF → spd.length = 16 → spd.all (spdOk c0) = true → (s.ks.wantSpare = true → 1 < c0.ranks.toNat) →
    spd.any (fun c => !c.failed1.isEmpty && !c.failed2.isEmpty) = true → fails (.trainingDone spd) 0x12) ∧
  (phase .training → s.pins.pwrOk = 0xF → spd.length = 16 → spd.all (spdOk c0) = true → (s.ks.wantSpare = true → 1 < c0.ranks.toNat) →
    spd.any (fun c => !c.failed1.isEmpty && !c.failed2.isEmpty) = false → Completes (.trainingDone spd) s (fun t => t.ks.phase = .fill ∧
      t.dramTop.toNat = fld (mcCfg s c0) 32 10 * 2 ^ 34 ∧ ∀ m, m < 16 → (getMc t m).cfg = mcCfg s c0)) ∧
  (¬phase .training ∨ s.pins.pwrOk ≠ 0xF → exec (.trainingDone spd) s = .next s) ∧
  (phase .fill → fails (.fillDone false) 0x13 ∧ ∃ t, exec (.fillDone true) s = .next t ∧ t.ks.phase = .init ∧ (∀ k, getCore t k = getCore s k) ∧
    ∀ a, memRead t a = 0) ∧
  (¬phase .fill → exec (.fillDone true) s = .next s) ∧
  (phase .init → physOf s 0 = none → s.ks.boot = some boot → boot.load.toNat + boot.host.length ≤ s.dramTop.toNat → ∃ t, exec (.initDone []) s = .next t ∧
    physOf t 0 = some 0 ∧ t.ks.phase = .init ∧ (∀ c, (getCourse t c).l2 = []) ∧ ∀ a, memRead t a = memRead s a) ∧
  (phase .init → physOf s 0 = none → s.ks.boot = some boot → s.dramTop.toNat < boot.load.toNat + boot.host.length → ∃ t, exec (.initDone []) s = .next t ∧
    t.ks.phase = .failed ∧ t.ks.bootst = 0x15) ∧
  (¬phase .init → exec (.initDone []) s = .next s ∧ exec (.core0Release []) s = .next s) ∧
  (phase .init → s.ks.boot = some boot → ∀ p q, physOf s 0 = some p → s.ks.filling = some q → boot.load.toNat + boot.host.length ≤ 2 ^ 52 →
    linesFree s boot.load.toNat boot.host.length agKs = true → loadGood s (true, true) = true → ∃ v, exec (.core0Release [(true, true)]) s = .next (syncFault (operationDone (advance v 0) q 0)) ∧ v.ks.st = .booting ∧
      (getCore v 0).pc = boot.entry ∧ (getCore v 0).run = .run ∧ (∀ k, k ≠ 0 → regsOf (getCore v k) = regsOf (getCore s k)) ∧
      KeepsOutside boot.load.toNat boot.host.length s v)

/-- Power domains (R443 to R449, R451): the last vote withdrawn begins an entry to off, which goes on by its points and ends if a vote
returns before C; a vote at a domain that is off brings it up. -/
def Obligations.PowerDomainsFollowTheirVotes : Prop := ∀ (d : BitVec 9) (n : BitVec 8) (s : State),
  let k := d.toNat
  let step := fun (u : State) => tget (fun _ => 0) u.offStep k
  let does := fun (i : Instr) (P : State → Prop) => ∃ t, exec i s = .next t ∧ (∀ a, memRead t a = memRead s a) ∧ P t
  (k < 375 → pdState s k = 2 → votesHeld s k = false → Completes (.voteChange d) s (fun t => pdState t k = 1 ∧ step t = 1)) ∧
  (k < 375 → pdState s k = 0 → votesHeld s k = true → Completes (.voteChange d) s (fun t => pdState t k = 3)) ∧
  (k < 375 → pdState s k = 1 → votesHeld s k = true → step s < 4 → Completes (.voteChange d) s (fun t => pdState t k = 2 ∧ step t = 0)) ∧
  (375 ≤ k ∨ (pdState s k = 2 ∧ votesHeld s k = true) ∨ (pdState s k = 0 ∧ votesHeld s k = false) → exec (.voteChange d) s = .next s) ∧
  (pdState s k ≠ 1 → exec (.powerOffEntry d) s = .next s) ∧
  (pdState s k = 1 → step s = 1 → votesHeld s k = false → pdDrained s k = true → Completes (.powerOffEntry d) s (fun t => step t = 2 ∧ pdState t k = 1)) ∧
  (pdState s k = 1 → step s = 2 → votesHeld s k = false → (k < 288 ∨ 320 ≤ k) → does (.powerOffEntry d) (fun t => step t = 3 ∧ pdState t k = 1)) ∧
  (pdState s k = 1 → step s = 2 → votesHeld s k = false → 288 ≤ k → k < 320 → ∃ t, exec (.powerOffEntry d) s = .next t ∧ step t = 3 ∧
    (getCourse t (k - 288)).l2 = []) ∧
  (pdState s k = 1 → step s = 3 → votesHeld s k = false → does (.powerOffEntry d) (fun t => step t = 4 ∧ pdState t k = 1)) ∧
  (pdState s k = 1 → step s = 4 → does (.powerOffEntry d) (fun t => step t = 0 ∧ pdState t k = 0)) ∧
  (pdState s k = 1 → 1 ≤ step s → step s < 4 → votesHeld s k = true → Completes (.powerOffEntry d) s (fun t => pdState t k = 2)) ∧
  (288 ≤ k → k < 375 → votesHeld s k = true → pdState s k = 0 ∨ pdState s k = 3 → Completes (.powerUp d (true, true)) s (fun t => pdState t k = 2)) ∧
  (k < 288 → votesHeld s k = true → pdState s k = 0 ∨ pdState s k = 3 → pdState s (288 + k / 9) = 2 → loadGood s (true, true) = true → ∀ m, pdCore s k = some m → ∃ t,
    exec (.powerUp d (true, true)) s = .next (advance t m) ∧ pdState t k = 2 ∧ (∀ a, memRead t a = memRead s a) ∧
      ∀ r b, readGb (getCore t m) r b = readGb (getCore s m) r b) ∧
  (375 ≤ k ∨ votesHeld s k = false ∨ (pdState s k ≠ 0 ∧ pdState s k ≠ 3) → exec (.powerUp d (true, true)) s = .next s) ∧
  (∀ p, physOf s n.toNat = some p → (getCore s n.toNat).run = .nap → coreVote s n.toNat = false → pdState s p = 2 → votesHeld s p = false →
    Completes (.napOffDelayExpiry n) s (fun t => pdState t p = 1)) ∧
  ((getCore s n.toNat).run ≠ .nap ∨ coreVote s n.toNat = true → exec (.napOffDelayExpiry n) s = .next s)

/-- Sensors, throttling, voltage and regulators (R452 to R458, R475): no byte of DRAM changes but by a thermal trip, which enters COLD. -/
def Obligations.VoltageFollowsItsLimits : Prop := ∀ (k c : Nat) (g : BitVec 5) (raw : Int) (uw : Nat) (nat : List (BitVec 8 × BitVec 10))
    (regs : List (Option RegRead)) (s : State),
  let does := fun (i : Instr) (P : State → Prop) => ∃ t, exec i s = .next t ∧ (∀ a, memRead t a = memRead s a) ∧ P t
  let t8 := raw + calEff s k
  let hot := tget (fun _ => 0) s.hot k
  let u := seqEval s g.toNat
  let v := fun (x : State) => vNow x g.toNat
  let goal := (getCourse u g.toNat).vtarget
  let temp := sensorTemp s c
  (k < 86 → does (.sensorReading k raw) (fun t => tget (fun _ => 0) t.temps k = (t8 + 2000).toNat ∧ (∀ j, regsOf (getCore t j) = regsOf (getCore s j)) ∧
    (8 * thCrit s ≤ t8 → t.gstat.getLsbD 3 = true) ∧ (8 * thWarn s ≤ t8 → t.gstat.getLsbD 2 = true))) ∧
  (86 ≤ k → exec (.sensorReading k raw) s = .next s) ∧
  (k < 86 → 1080 ≤ raw + calFuse k → s.plumb.counting = false ∨ (0 < hot ∧ hot - 1 + 10000 ≤ s.plumb.now) → ∃ t, exec (.thermtrip k raw) s = .next t ∧
    t.ks.tripped = true ∧ t.ks.st = .cold) ∧
  (86 ≤ k ∨ raw + calFuse k < 1080 → exec (.thermtrip k raw) s = .next s) ∧
  does (.throttleTick uw) (fun t => (t.gstat.getLsbD 5 = true ↔ fld s.planCtl 0 16 * 1050000 < uw) ∧
    (c < 32 → 8 * thCrit s ≤ temp → (getCourse t c).capT = (getCourse s c).capT - 1) ∧
    (c < 32 → temp < 8 * thThrot s → temp < 8 * thCrit s → temp < 8 * (thThrot s - thHyst s) → uw ≤ fld s.planCtl 0 16 * 1050000 →
      (getCourse t c).capT = Nat.min ((getCourse s c).capT + 1) 40)) ∧
  does (.seqSample g nat) (fun t => (getCourse t g.toNat).natV = v s ∧
    (0 < tget (fun _ => 0) s.temps g.toNat → (getCourse t g.toNat).temp8 = ((tget (fun _ => 0) s.temps g.toNat : Nat) : Int) - 2000)) ∧
  does (.voltageStep g) (fun t => (v u < goal → v t = (v u + 1) % 256) ∧ (goal < v u → v t = v u - 1) ∧ (goal = v u → v t = v u)) ∧
  (∀ a, (getCourse s g.toNat).settle = some a → (a + 2000 ≤ plumbOf s g.toNat → does (.voltageSettled g) (fun t => (getCourse t g.toNat).settle = none)) ∧
    (plumbOf s g.toNat < a + 2000 → exec (.voltageSettled g) s = .next s)) ∧
  ((getCourse s g.toNat).settle = none → exec (.voltageSettled g) s = .next s) ∧
  (s.ks.st ≠ .cold → Completes (.pmbusPoll regs) s (fun t => ∀ i, i < 8 → fld (tget (fun _ => 0) s.pmbMap i) 8 8 ≠ 0 →
    (∀ r, regs.getD i none = some r → tget (fun _ => none) t.regs i = some r ∧ tget (fun _ => 0) t.noAns i = 0) ∧
    (regs.getD i none = none → tget (fun _ => 0) t.noAns i = tget (fun _ => 0) s.noAns i + 1))) ∧
  (s.ks.st = .cold → exec (.pmbusPoll regs) s = .next s)

/-- Counters and the test access port (R481 to R485, R506): a freeze and a snapshot are set 4 µs ahead and each bank applies them at its own
instant; a bandwidth window closes its counts; an instruction of the port selects its register. -/
def Obligations.CountersAndTestPort : Prop := ∀ (st : CtlStore) (b : Bank) (cells : List Bool) (s : State),
  let k := bankId b
  let w := Nat.max 1 (fld (bkGet s k 16) 0 16) * 1000
  let idx := (fld (bkGet s k 16) 48 16 + 1) % 65536
  let took := fun (i : Instr) (r : TapIr) => Completes i s (fun t => t.pins.tap = r ∧ t.pins.bound = s.pins.bound)
  let drives := fun (t : State) => t.pins.driven = if s.pins.resetN then none else some s.pins.bound
  (isFreeze s st = true → storeArrives s st → CtlDone (.freezeWrite st) st s (fun t => t.pmGlobal.getLsbD 62 = !s.pmGlobal.getLsbD 62 ∧
    t.frzT = s.plumb.now + 4000 ∧ t.frzWait = allBanks)) ∧
  (isSnap st = true → storeArrives s st → s.snapWait = [] → CtlDone (.snapWrite st) st s (fun t => t.pmGlobal.getLsbD 63 = true ∧
    t.snapT = s.plumb.now + 4000 ∧ t.snapWait = allBanks)) ∧
  (s.snapWait.contains k = false ∨ bankTime s k < s.snapT → s.frzWait.contains k = false ∨ bankTime s k < s.frzT →
    exec (.counterInstant b) s = .next s) ∧
  (s.snapWait.contains k = true → s.snapT ≤ bankTime s k → s.frzWait.contains k = false → Completes (.counterInstant b) s (fun t =>
    t.snapWait = s.snapWait.erase k ∧ (k < 256 → ∀ i, i < 4 → bkGet t k (8 + i) = bkGet s k i) ∧
    (256 ≤ k → ∀ i, i < 8 → pmGet (getCore t (k - 256)) (8 + i) = pmGet (getCore s (k - 256)) i))) ∧
  (s.snapWait.contains k = false → s.frzWait.contains k = true → s.frzT ≤ bankTime s k → ∃ t, exec (.counterInstant b) s = .next t ∧
    (∀ a, memRead t a = memRead s a) ∧ t.frzWait = s.frzWait.erase k ∧ (k < 256 → tget (fun _ => false) t.bankFrozen k = s.pmGlobal.getLsbD 62) ∧
    (256 ≤ k → (getCore t (k - 256)).frozen = s.pmGlobal.getLsbD 62)) ∧
  (64 ≤ k → k < 256 → tget (fun _ => 0) s.bwAt k / w < s.plumb.now / w → Completes (.bwWindowBoundary b) s (fun t =>
    tget (fun _ => 0) t.bwNow (k * 2) = 0 ∧ tget (fun _ => 0) t.bwNow (k * 2 + 1) = 0 ∧ fld (bkGet t k 16) 48 16 = idx ∧
    fld (bkGet t k 17) 0 48 = tget (fun _ => 0) s.bwNow (k * 2) % 2 ^ 48 ∧ fld (bkGet t k 18) 0 48 = tget (fun _ => 0) s.bwNow (k * 2 + 1) % 2 ^ 48)) ∧
  (k < 64 ∨ 256 ≤ k ∨ s.plumb.now / w ≤ tget (fun _ => 0) s.bwAt k / w → exec (.bwWindowBoundary b) s = .next s) ∧
  took .tapIdcode .idcode ∧ took .tapBypass .bypass ∧ took .tapExtest .extest ∧ took .tapExtestPulse .extestPulse ∧ took .tapExtestTrain .extestTrain ∧
  Completes (.tapSamplePreload cells) s (fun t => t.pins.tap = .sample ∧ t.pins.bound = cells ∧ t.pins.driven = none) ∧
  Completes .tapExtest s drives ∧ Completes .tapExtestPulse s drives ∧ Completes .tapExtestTrain s drives ∧
  Completes .tapIdcode s (fun t => tapRegister t = (List.range 32).map (fun i => (0x10256A73 : BitVec 32).getLsbD i))
end

