-- ==== Sys2Proof/Laws/Decode.lean ====
section
/-! SUPPORT. What a syllable of a core's code spells (R88, R89): its fields are the bits of their places. -/
namespace Sys2Proof.Laws

open Sys2Proof Sys2Proof.Machine

theorem mtsRow_syl (y : Syl) : ∃ f, sylOf (mtsRow y) = some (y, f) := by
  unfold mtsRow; split <;> exact ⟨_, rfl⟩

/-- A unit's operation keeps the syllable's fields, and a syllable of A1 is marked so (R89). -/
theorem opRow_syl (u op : Nat) (y : Syl) (hu : u < 5) : opRow u op y = none ∨
    ∃ i f, opRow u op y = some i ∧ sylOf i = some ((if u = 1 then { y with a1 := true } else y), f) := by
  interval_cases u <;> simp only [opRow]
  · unfold intRow; split <;> first | exact .inl rfl | exact .inr ⟨_, _, rfl, rfl⟩
  · unfold intRow; split <;> first | exact .inl rfl | exact .inr ⟨_, _, rfl, rfl⟩
  · unfold memRow; split <;> first | exact .inl rfl | exact .inr ⟨_, _, rfl, rfl⟩
  · unfold vecRow; split <;> first | exact .inl rfl | exact .inr ⟨_, _, rfl, rfl⟩
  · unfold brRow
    split <;> first | exact .inl rfl | exact .inr ⟨_, _, rfl, rfl⟩ | (obtain ⟨f, h⟩ := mtsRow_syl y; exact .inr ⟨_, f, rfl, by simpa using h⟩)

/-- The command of an operation syllable (R88): it belongs to core `n`, its immediate is bits 27 to 0 of the X syllable, the stop
bit is bit 31 of the last syllable read, and the fields D, A, B and Q are bits 21 to 16, 15 to 10, 9 to 4 and 3 to 0, unless OP is
reserved. Unit codes 5, 6 and 7 come as such (R89). -/
theorem decodeSyl_fields (n : Logical) (w : BitVec 32) (x : Option (BitVec 32)) :
    ∃ y f, sylOf (decodeSyl n w x) = some (y, f) ∧ y.n = n ∧
      (sylU w = 7 → y.odd = some .x) ∧ (sylU w = 5 ∨ sylU w = 6 → y.odd = some (.unit (sylU w))) ∧
      ((sylU w).toNat < 5 → (y.s = match x with | some v => v.getLsbD 31 | none => w.getLsbD 31) ∧
        y.x = x.map (fun v => v.extractLsb' 0 28) ∧
        (y.odd = some (.op (sylU w) (w.extractLsb' 22 6)) ∨
          (y.odd = none ∧ (y.a1 = true ↔ (sylU w).toNat = 1) ∧ y.d = w.extractLsb' 16 6 ∧ y.a = w.extractLsb' 10 6 ∧
            y.b = w.extractLsb' 4 6 ∧ y.q = w.extractLsb' 0 4))) := by
  simp only [decodeSyl]
  generalize sylU w = u
  by_cases h7 : u = 7
  · simp [h7, sylOf]
  by_cases h5 : u = 5
  · simp [h5, sylOf]
  by_cases h6 : u = 6
  · simp [h6, sylOf]
  have hu : u.toNat < 5 := by bv_omega
  simp only [h7, h5, h6, if_false, Bool.or_self, decide_false, Bool.false_eq_true]
  generalize hy : (Syl.mk _ _ _ _ _ _ _ _ _) = y
  rcases opRow_syl u.toNat (w.extractLsb' 22 6).toNat y hu with h | ⟨i, f, h, k⟩
  · rw [h]; subst hy
    exact ⟨_, _, rfl, rfl, fun e => absurd e id, fun e => absurd e (by simp), fun _ => ⟨rfl, rfl, .inl rfl⟩⟩
  · rw [h]
    refine ⟨_, _, k, ?_⟩
    subst hy
    split <;> rename_i hh <;>
      exact ⟨rfl, fun e => absurd e id, fun e => absurd e (by simp), fun _ => ⟨rfl, rfl, .inr ⟨rfl, by simp [hh], rfl, rfl, rfl, rfl⟩⟩⟩

end Sys2Proof.Laws
end

