-- ==== Sys2Proof/Laws/Tables.lean ====
section
/-! SUPPORT. Laws of the sparse tables: a read after a write, and the canonical form that every write keeps. -/
namespace Sys2Proof.Machine

theorem tabove_tdel {α : Type} (k j : Nat) (t : Tbl α) (h : tabove k t = true) : tabove k (tdel j t) = true := by
  induction t with
  | nil => rfl
  | cons e r ih =>
    simp only [tabove, Bool.and_eq_true] at h
    simp only [tdel]
    split
    · exact ih h.2
    · simp only [tabove, Bool.and_eq_true]; exact ⟨h.1, ih h.2⟩

theorem tabove_mono {α : Type} {k j : Nat} (hk : j < k) (t : Tbl α) (h : tabove k t = true) : tabove j t = true := by
  induction t with
  | nil => rfl
  | cons e r ih =>
    simp only [tabove, Bool.and_eq_true, decide_eq_true_eq] at h ⊢
    exact ⟨by omega, ih h.2⟩

theorem twf_tdel {α : Type} [DecidableEq α] (d : Nat → α) (k : Nat) (t : Tbl α) (h : twf d t = true) : twf d (tdel k t) = true := by
  induction t with
  | nil => rfl
  | cons e r ih =>
    simp only [twf, Bool.and_eq_true] at h
    simp only [tdel]
    split
    · exact ih h.2
    · simp only [twf, Bool.and_eq_true]; exact ⟨⟨tabove_tdel _ _ _ h.1.1, h.1.2⟩, ih h.2⟩

theorem tget_tdel {α : Type} (d : Nat → α) (k j : Nat) (t : Tbl α) : tget d (tdel k t) j = if j = k then d k else tget d t j := by
  induction t with
  | nil => simp [tdel, tget]; intro h; rw [h]
  | cons e r ih =>
    simp only [tdel]
    split
    · rename_i he; rw [ih]; simp only [tget, he]; split <;> simp_all; omega
    · rename_i he; simp only [tget, ih]; split <;> simp_all

theorem tabove_tins {α : Type} {k j : Nat} (v : α) (hj : j < k) (t : Tbl α) (h : tabove j t = true) : tabove j (tins k v t) = true := by
  induction t with
  | nil => simp [tins, tabove, hj]
  | cons e r ih =>
    simp only [tabove, Bool.and_eq_true] at h
    simp only [tins]
    split
    · simp [tabove, hj, h.1, h.2]
    · simp only [tabove, Bool.and_eq_true]; exact ⟨h.1, ih h.2⟩

/-- Inserting a key that is absent, with a value other than the default, keeps the canonical form. -/
theorem twf_tins {α : Type} [DecidableEq α] (d : Nat → α) (k : Nat) (v : α) (hv : v ≠ d k) (t : Tbl α)
    (h : twf d t = true) (ha : ∀ e ∈ t, e.1 ≠ k) : twf d (tins k v t) = true := by
  induction t with
  | nil => simp [tins, twf, tabove, hv]
  | cons e r ih =>
    simp only [twf, Bool.and_eq_true] at h
    have he : e.1 ≠ k := ha e (by simp)
    simp only [tins]
    split
    · rename_i hk
      simp only [twf, tabove, Bool.and_eq_true]
      exact ⟨⟨⟨decide_eq_true hk, tabove_mono hk r h.1.1⟩, decide_eq_true hv⟩, h⟩
    · simp only [twf, Bool.and_eq_true]
      exact ⟨⟨tabove_tins v (by omega) r h.1.1, h.1.2⟩, ih h.2 (fun x hx => ha x (by simp [hx]))⟩

theorem tdel_absent {α : Type} (k : Nat) (t : Tbl α) : ∀ e ∈ tdel k t, e.1 ≠ k := by
  induction t with
  | nil => simp [tdel]
  | cons e r ih =>
    simp only [tdel]
    split
    · exact ih
    · intro x hx
      rcases List.mem_cons.1 hx with rfl | hx
      · assumption
      · exact ih x hx

/-- A write keeps the canonical form (R23, and the form of `Machine/Tables.lean`). -/
theorem twf_tset {α : Type} [DecidableEq α] (d : Nat → α) (t : Tbl α) (k : Nat) (v : α) (h : twf d t = true) :
    twf d (tset d t k v) = true := by
  unfold tset
  split
  · exact twf_tdel d k t h
  · exact twf_tins d k v ‹_› _ (twf_tdel d k t h) (tdel_absent k t)

theorem tget_tins_ne {α : Type} (d : Nat → α) {k j : Nat} (v : α) (h : j ≠ k) (t : Tbl α) : tget d (tins k v t) j = tget d t j := by
  induction t with
  | nil => simp [tins, tget]; omega
  | cons e r ih =>
    simp only [tins]
    split
    · rw [tget]; simp only; rw [if_neg (by omega)]
    · simp only [tget, ih]

theorem tget_tins_self {α : Type} (d : Nat → α) (k : Nat) (v : α) (t : Tbl α) (ha : ∀ e ∈ t, e.1 ≠ k) : tget d (tins k v t) k = v := by
  induction t with
  | nil => simp [tins, tget]
  | cons e r ih =>
    simp only [tins]
    split
    · simp [tget]
    · rw [tget, if_neg (ha e (by simp))]
      exact ih (fun x hx => ha x (by simp [hx]))

/-- A read after a write: the written key gives the value written, every other key what it gave. -/
@[simp] theorem tget_tset {α : Type} [DecidableEq α] (d : Nat → α) (t : Tbl α) (k : Nat) (v : α) (j : Nat) :
    tget d (tset d t k v) j = if j = k then v else tget d t j := by
  unfold tset
  split
  · rename_i hv; rw [tget_tdel]; split <;> simp_all
  · split
    · subst j; exact tget_tins_self d k v _ (tdel_absent k t)
    · rename_i h; rw [tget_tins_ne d v h, tget_tdel, if_neg h]

@[simp] theorem tget_nil {α : Type} (d : Nat → α) (k : Nat) : tget d [] k = d k := rfl

end Sys2Proof.Machine
end

