-- ==== Sys2Proof/Laws/State.lean ====
section
/-! SUPPORT. One law for each field that an update of the state leaves, and the read after the write of each table. -/
namespace Sys2Proof.Machine
set_option linter.all false

/-! ### `setCore` -/

@[simp] theorem getCore_setCore (s : State) (k j : Nat) (x : Core) : getCore (setCore s k x) j = if j = k then x else getCore s j := by
  simp [getCore, setCore]
@[simp] theorem getPhys_setCore (s : State) (k j : Nat) (x : Core) : getPhys (setCore s k x) j = getPhys s j := rfl
@[simp] theorem getCourse_setCore (s : State) (k j : Nat) (x : Core) : getCourse (setCore s k x) j = getCourse s j := rfl
@[simp] theorem getSlice_setCore (s : State) (k j : Nat) (x : Core) : getSlice (setCore s k x) j = getSlice s j := rfl
@[simp] theorem getMc_setCore (s : State) (k j : Nat) (x : Core) : getMc (setCore s k x) j = getMc s j := rfl
@[simp] theorem getRp_setCore (s : State) (k j : Nat) (x : Core) : getRp (setCore s k x) j = getRp s j := rfl
@[simp] theorem getCtx_setCore (s : State) (k j : Nat) (x : Core) : getCtx (setCore s k x) j = getCtx s j := rfl
@[simp] theorem getChan_setCore (s : State) (k j : Nat) (x : Core) : getChan (setCore s k x) j = getChan s j := rfl
@[simp] theorem getDom_setCore (s : State) (k j : Nat) (x : Core) : getDom (setCore s k x) j = getDom s j := rfl
@[simp] theorem getBud_setCore (s : State) (k j : Nat) (x : Core) : getBud (setCore s k x) j = getBud s j := rfl
@[simp] theorem getSrc_setCore (s : State) (k j : Nat) (x : Core) : getSrc (setCore s k x) j = getSrc s j := rfl
@[simp] theorem getHub_setCore (s : State) (k j : Nat) (x : Core) : getHub (setCore s k x) j = getHub s j := rfl
@[simp] theorem getAgent_setCore (s : State) (k j : Nat) (x : Core) : getAgent (setCore s k x) j = getAgent s j := rfl
@[simp] theorem getArb_setCore (s : State) (k j : Nat) (x : Core) : getArb (setCore s k x) j = getArb s j := rfl
@[simp] theorem setCore_pending (s : State) (k : Nat) (x : Core) : (setCore s k x).pending = s.pending := rfl
@[simp] theorem setCore_mem (s : State) (k : Nat) (x : Core) : (setCore s k x).mem = s.mem := rfl
@[simp] theorem setCore_memPoison (s : State) (k : Nat) (x : Core) : (setCore s k x).memPoison = s.memPoison := rfl
@[simp] theorem setCore_dramTop (s : State) (k : Nat) (x : Core) : (setCore s k x).dramTop = s.dramTop := rfl
@[simp] theorem setCore_net (s : State) (k : Nat) (x : Core) : (setCore s k x).net = s.net := rfl
@[simp] theorem setCore_memNet (s : State) (k : Nat) (x : Core) : (setCore s k x).memNet = s.memNet := rfl
@[simp] theorem setCore_memAns (s : State) (k : Nat) (x : Core) : (setCore s k x).memAns = s.memAns := rfl
@[simp] theorem setCore_ctlNet (s : State) (k : Nat) (x : Core) : (setCore s k x).ctlNet = s.ctlNet := rfl
@[simp] theorem setCore_outNet (s : State) (k : Nat) (x : Core) : (setCore s k x).outNet = s.outNet := rfl
@[simp] theorem setCore_invNet (s : State) (k : Nat) (x : Core) : (setCore s k x).invNet = s.invNet := rfl
@[simp] theorem setCore_jrn (s : State) (k : Nat) (x : Core) : (setCore s k x).jrn = s.jrn := rfl
@[simp] theorem setCore_led (s : State) (k : Nat) (x : Core) : (setCore s k x).led = s.led := rfl
@[simp] theorem setCore_plumb (s : State) (k : Nat) (x : Core) : (setCore s k x).plumb = s.plumb := rfl
@[simp] theorem setCore_ks (s : State) (k : Nat) (x : Core) : (setCore s k x).ks = s.ks := rfl
@[simp] theorem setCore_pins (s : State) (k : Nat) (x : Core) : (setCore s k x).pins = s.pins := rfl
@[simp] theorem setCore_gstat (s : State) (k : Nat) (x : Core) : (setCore s k x).gstat = s.gstat := rfl
@[simp] theorem setCore_hubSt (s : State) (k : Nat) (x : Core) : (setCore s k x).hubSt = s.hubSt := rfl
@[simp] theorem setCore_votes (s : State) (k : Nat) (x : Core) : (setCore s k x).votes = s.votes := rfl
@[simp] theorem setCore_banks (s : State) (k : Nat) (x : Core) : (setCore s k x).banks = s.banks := rfl
@[simp] theorem memRead_setCore (s : State) (k a : Nat) (x : Core) : memRead (setCore s k x) a = memRead s a := rfl

/-! ### `setPhys` -/

@[simp] theorem getPhys_setPhys (s : State) (k j : Nat) (x : PhysCore) : getPhys (setPhys s k x) j = if j = k then x else getPhys s j := by
  simp [getPhys, setPhys]
@[simp] theorem getCore_setPhys (s : State) (k j : Nat) (x : PhysCore) : getCore (setPhys s k x) j = getCore s j := rfl
@[simp] theorem getCourse_setPhys (s : State) (k j : Nat) (x : PhysCore) : getCourse (setPhys s k x) j = getCourse s j := rfl
@[simp] theorem getSlice_setPhys (s : State) (k j : Nat) (x : PhysCore) : getSlice (setPhys s k x) j = getSlice s j := rfl
@[simp] theorem getMc_setPhys (s : State) (k j : Nat) (x : PhysCore) : getMc (setPhys s k x) j = getMc s j := rfl
@[simp] theorem getRp_setPhys (s : State) (k j : Nat) (x : PhysCore) : getRp (setPhys s k x) j = getRp s j := rfl
@[simp] theorem getCtx_setPhys (s : State) (k j : Nat) (x : PhysCore) : getCtx (setPhys s k x) j = getCtx s j := rfl
@[simp] theorem getChan_setPhys (s : State) (k j : Nat) (x : PhysCore) : getChan (setPhys s k x) j = getChan s j := rfl
@[simp] theorem getDom_setPhys (s : State) (k j : Nat) (x : PhysCore) : getDom (setPhys s k x) j = getDom s j := rfl
@[simp] theorem getBud_setPhys (s : State) (k j : Nat) (x : PhysCore) : getBud (setPhys s k x) j = getBud s j := rfl
@[simp] theorem getSrc_setPhys (s : State) (k j : Nat) (x : PhysCore) : getSrc (setPhys s k x) j = getSrc s j := rfl
@[simp] theorem getHub_setPhys (s : State) (k j : Nat) (x : PhysCore) : getHub (setPhys s k x) j = getHub s j := rfl
@[simp] theorem getAgent_setPhys (s : State) (k j : Nat) (x : PhysCore) : getAgent (setPhys s k x) j = getAgent s j := rfl
@[simp] theorem getArb_setPhys (s : State) (k j : Nat) (x : PhysCore) : getArb (setPhys s k x) j = getArb s j := rfl
@[simp] theorem setPhys_pending (s : State) (k : Nat) (x : PhysCore) : (setPhys s k x).pending = s.pending := rfl
@[simp] theorem setPhys_mem (s : State) (k : Nat) (x : PhysCore) : (setPhys s k x).mem = s.mem := rfl
@[simp] theorem setPhys_memPoison (s : State) (k : Nat) (x : PhysCore) : (setPhys s k x).memPoison = s.memPoison := rfl
@[simp] theorem setPhys_dramTop (s : State) (k : Nat) (x : PhysCore) : (setPhys s k x).dramTop = s.dramTop := rfl
@[simp] theorem setPhys_net (s : State) (k : Nat) (x : PhysCore) : (setPhys s k x).net = s.net := rfl
@[simp] theorem setPhys_memNet (s : State) (k : Nat) (x : PhysCore) : (setPhys s k x).memNet = s.memNet := rfl
@[simp] theorem setPhys_memAns (s : State) (k : Nat) (x : PhysCore) : (setPhys s k x).memAns = s.memAns := rfl
@[simp] theorem setPhys_ctlNet (s : State) (k : Nat) (x : PhysCore) : (setPhys s k x).ctlNet = s.ctlNet := rfl
@[simp] theorem setPhys_outNet (s : State) (k : Nat) (x : PhysCore) : (setPhys s k x).outNet = s.outNet := rfl
@[simp] theorem setPhys_invNet (s : State) (k : Nat) (x : PhysCore) : (setPhys s k x).invNet = s.invNet := rfl
@[simp] theorem setPhys_jrn (s : State) (k : Nat) (x : PhysCore) : (setPhys s k x).jrn = s.jrn := rfl
@[simp] theorem setPhys_led (s : State) (k : Nat) (x : PhysCore) : (setPhys s k x).led = s.led := rfl
@[simp] theorem setPhys_plumb (s : State) (k : Nat) (x : PhysCore) : (setPhys s k x).plumb = s.plumb := rfl
@[simp] theorem setPhys_ks (s : State) (k : Nat) (x : PhysCore) : (setPhys s k x).ks = s.ks := rfl
@[simp] theorem setPhys_pins (s : State) (k : Nat) (x : PhysCore) : (setPhys s k x).pins = s.pins := rfl
@[simp] theorem setPhys_gstat (s : State) (k : Nat) (x : PhysCore) : (setPhys s k x).gstat = s.gstat := rfl
@[simp] theorem setPhys_hubSt (s : State) (k : Nat) (x : PhysCore) : (setPhys s k x).hubSt = s.hubSt := rfl
@[simp] theorem setPhys_votes (s : State) (k : Nat) (x : PhysCore) : (setPhys s k x).votes = s.votes := rfl
@[simp] theorem setPhys_banks (s : State) (k : Nat) (x : PhysCore) : (setPhys s k x).banks = s.banks := rfl
@[simp] theorem memRead_setPhys (s : State) (k a : Nat) (x : PhysCore) : memRead (setPhys s k x) a = memRead s a := rfl

/-! ### `setCourse` -/

@[simp] theorem getCourse_setCourse (s : State) (k j : Nat) (x : Course) : getCourse (setCourse s k x) j = if j = k then x else getCourse s j := by
  simp [getCourse, setCourse]
@[simp] theorem getCore_setCourse (s : State) (k j : Nat) (x : Course) : getCore (setCourse s k x) j = getCore s j := rfl
@[simp] theorem getPhys_setCourse (s : State) (k j : Nat) (x : Course) : getPhys (setCourse s k x) j = getPhys s j := rfl
@[simp] theorem getSlice_setCourse (s : State) (k j : Nat) (x : Course) : getSlice (setCourse s k x) j = getSlice s j := rfl
@[simp] theorem getMc_setCourse (s : State) (k j : Nat) (x : Course) : getMc (setCourse s k x) j = getMc s j := rfl
@[simp] theorem getRp_setCourse (s : State) (k j : Nat) (x : Course) : getRp (setCourse s k x) j = getRp s j := rfl
@[simp] theorem getCtx_setCourse (s : State) (k j : Nat) (x : Course) : getCtx (setCourse s k x) j = getCtx s j := rfl
@[simp] theorem getChan_setCourse (s : State) (k j : Nat) (x : Course) : getChan (setCourse s k x) j = getChan s j := rfl
@[simp] theorem getDom_setCourse (s : State) (k j : Nat) (x : Course) : getDom (setCourse s k x) j = getDom s j := rfl
@[simp] theorem getBud_setCourse (s : State) (k j : Nat) (x : Course) : getBud (setCourse s k x) j = getBud s j := rfl
@[simp] theorem getSrc_setCourse (s : State) (k j : Nat) (x : Course) : getSrc (setCourse s k x) j = getSrc s j := rfl
@[simp] theorem getHub_setCourse (s : State) (k j : Nat) (x : Course) : getHub (setCourse s k x) j = getHub s j := rfl
@[simp] theorem getAgent_setCourse (s : State) (k j : Nat) (x : Course) : getAgent (setCourse s k x) j = getAgent s j := rfl
@[simp] theorem getArb_setCourse (s : State) (k j : Nat) (x : Course) : getArb (setCourse s k x) j = getArb s j := rfl
@[simp] theorem setCourse_pending (s : State) (k : Nat) (x : Course) : (setCourse s k x).pending = s.pending := rfl
@[simp] theorem setCourse_mem (s : State) (k : Nat) (x : Course) : (setCourse s k x).mem = s.mem := rfl
@[simp] theorem setCourse_memPoison (s : State) (k : Nat) (x : Course) : (setCourse s k x).memPoison = s.memPoison := rfl
@[simp] theorem setCourse_dramTop (s : State) (k : Nat) (x : Course) : (setCourse s k x).dramTop = s.dramTop := rfl
@[simp] theorem setCourse_net (s : State) (k : Nat) (x : Course) : (setCourse s k x).net = s.net := rfl
@[simp] theorem setCourse_memNet (s : State) (k : Nat) (x : Course) : (setCourse s k x).memNet = s.memNet := rfl
@[simp] theorem setCourse_memAns (s : State) (k : Nat) (x : Course) : (setCourse s k x).memAns = s.memAns := rfl
@[simp] theorem setCourse_ctlNet (s : State) (k : Nat) (x : Course) : (setCourse s k x).ctlNet = s.ctlNet := rfl
@[simp] theorem setCourse_outNet (s : State) (k : Nat) (x : Course) : (setCourse s k x).outNet = s.outNet := rfl
@[simp] theorem setCourse_invNet (s : State) (k : Nat) (x : Course) : (setCourse s k x).invNet = s.invNet := rfl
@[simp] theorem setCourse_jrn (s : State) (k : Nat) (x : Course) : (setCourse s k x).jrn = s.jrn := rfl
@[simp] theorem setCourse_led (s : State) (k : Nat) (x : Course) : (setCourse s k x).led = s.led := rfl
@[simp] theorem setCourse_plumb (s : State) (k : Nat) (x : Course) : (setCourse s k x).plumb = s.plumb := rfl
@[simp] theorem setCourse_ks (s : State) (k : Nat) (x : Course) : (setCourse s k x).ks = s.ks := rfl
@[simp] theorem setCourse_pins (s : State) (k : Nat) (x : Course) : (setCourse s k x).pins = s.pins := rfl
@[simp] theorem setCourse_gstat (s : State) (k : Nat) (x : Course) : (setCourse s k x).gstat = s.gstat := rfl
@[simp] theorem setCourse_hubSt (s : State) (k : Nat) (x : Course) : (setCourse s k x).hubSt = s.hubSt := rfl
@[simp] theorem setCourse_votes (s : State) (k : Nat) (x : Course) : (setCourse s k x).votes = s.votes := rfl
@[simp] theorem setCourse_banks (s : State) (k : Nat) (x : Course) : (setCourse s k x).banks = s.banks := rfl
@[simp] theorem memRead_setCourse (s : State) (k a : Nat) (x : Course) : memRead (setCourse s k x) a = memRead s a := rfl

/-! ### `setSlice` -/

@[simp] theorem getSlice_setSlice (s : State) (k j : Nat) (x : Slice) : getSlice (setSlice s k x) j = if j = k then x else getSlice s j := by
  simp [getSlice, setSlice]
@[simp] theorem getCore_setSlice (s : State) (k j : Nat) (x : Slice) : getCore (setSlice s k x) j = getCore s j := rfl
@[simp] theorem getPhys_setSlice (s : State) (k j : Nat) (x : Slice) : getPhys (setSlice s k x) j = getPhys s j := rfl
@[simp] theorem getCourse_setSlice (s : State) (k j : Nat) (x : Slice) : getCourse (setSlice s k x) j = getCourse s j := rfl
@[simp] theorem getMc_setSlice (s : State) (k j : Nat) (x : Slice) : getMc (setSlice s k x) j = getMc s j := rfl
@[simp] theorem getRp_setSlice (s : State) (k j : Nat) (x : Slice) : getRp (setSlice s k x) j = getRp s j := rfl
@[simp] theorem getCtx_setSlice (s : State) (k j : Nat) (x : Slice) : getCtx (setSlice s k x) j = getCtx s j := rfl
@[simp] theorem getChan_setSlice (s : State) (k j : Nat) (x : Slice) : getChan (setSlice s k x) j = getChan s j := rfl
@[simp] theorem getDom_setSlice (s : State) (k j : Nat) (x : Slice) : getDom (setSlice s k x) j = getDom s j := rfl
@[simp] theorem getBud_setSlice (s : State) (k j : Nat) (x : Slice) : getBud (setSlice s k x) j = getBud s j := rfl
@[simp] theorem getSrc_setSlice (s : State) (k j : Nat) (x : Slice) : getSrc (setSlice s k x) j = getSrc s j := rfl
@[simp] theorem getHub_setSlice (s : State) (k j : Nat) (x : Slice) : getHub (setSlice s k x) j = getHub s j := rfl
@[simp] theorem getAgent_setSlice (s : State) (k j : Nat) (x : Slice) : getAgent (setSlice s k x) j = getAgent s j := rfl
@[simp] theorem getArb_setSlice (s : State) (k j : Nat) (x : Slice) : getArb (setSlice s k x) j = getArb s j := rfl
@[simp] theorem setSlice_pending (s : State) (k : Nat) (x : Slice) : (setSlice s k x).pending = s.pending := rfl
@[simp] theorem setSlice_mem (s : State) (k : Nat) (x : Slice) : (setSlice s k x).mem = s.mem := rfl
@[simp] theorem setSlice_memPoison (s : State) (k : Nat) (x : Slice) : (setSlice s k x).memPoison = s.memPoison := rfl
@[simp] theorem setSlice_dramTop (s : State) (k : Nat) (x : Slice) : (setSlice s k x).dramTop = s.dramTop := rfl
@[simp] theorem setSlice_net (s : State) (k : Nat) (x : Slice) : (setSlice s k x).net = s.net := rfl
@[simp] theorem setSlice_memNet (s : State) (k : Nat) (x : Slice) : (setSlice s k x).memNet = s.memNet := rfl
@[simp] theorem setSlice_memAns (s : State) (k : Nat) (x : Slice) : (setSlice s k x).memAns = s.memAns := rfl
@[simp] theorem setSlice_ctlNet (s : State) (k : Nat) (x : Slice) : (setSlice s k x).ctlNet = s.ctlNet := rfl
@[simp] theorem setSlice_outNet (s : State) (k : Nat) (x : Slice) : (setSlice s k x).outNet = s.outNet := rfl
@[simp] theorem setSlice_invNet (s : State) (k : Nat) (x : Slice) : (setSlice s k x).invNet = s.invNet := rfl
@[simp] theorem setSlice_jrn (s : State) (k : Nat) (x : Slice) : (setSlice s k x).jrn = s.jrn := rfl
@[simp] theorem setSlice_led (s : State) (k : Nat) (x : Slice) : (setSlice s k x).led = s.led := rfl
@[simp] theorem setSlice_plumb (s : State) (k : Nat) (x : Slice) : (setSlice s k x).plumb = s.plumb := rfl
@[simp] theorem setSlice_ks (s : State) (k : Nat) (x : Slice) : (setSlice s k x).ks = s.ks := rfl
@[simp] theorem setSlice_pins (s : State) (k : Nat) (x : Slice) : (setSlice s k x).pins = s.pins := rfl
@[simp] theorem setSlice_gstat (s : State) (k : Nat) (x : Slice) : (setSlice s k x).gstat = s.gstat := rfl
@[simp] theorem setSlice_hubSt (s : State) (k : Nat) (x : Slice) : (setSlice s k x).hubSt = s.hubSt := rfl
@[simp] theorem setSlice_votes (s : State) (k : Nat) (x : Slice) : (setSlice s k x).votes = s.votes := rfl
@[simp] theorem setSlice_banks (s : State) (k : Nat) (x : Slice) : (setSlice s k x).banks = s.banks := rfl
@[simp] theorem memRead_setSlice (s : State) (k a : Nat) (x : Slice) : memRead (setSlice s k x) a = memRead s a := rfl

/-! ### `setMc` -/

@[simp] theorem getMc_setMc (s : State) (k j : Nat) (x : Mc) : getMc (setMc s k x) j = if j = k then x else getMc s j := by
  simp [getMc, setMc]
@[simp] theorem getCore_setMc (s : State) (k j : Nat) (x : Mc) : getCore (setMc s k x) j = getCore s j := rfl
@[simp] theorem getPhys_setMc (s : State) (k j : Nat) (x : Mc) : getPhys (setMc s k x) j = getPhys s j := rfl
@[simp] theorem getCourse_setMc (s : State) (k j : Nat) (x : Mc) : getCourse (setMc s k x) j = getCourse s j := rfl
@[simp] theorem getSlice_setMc (s : State) (k j : Nat) (x : Mc) : getSlice (setMc s k x) j = getSlice s j := rfl
@[simp] theorem getRp_setMc (s : State) (k j : Nat) (x : Mc) : getRp (setMc s k x) j = getRp s j := rfl
@[simp] theorem getCtx_setMc (s : State) (k j : Nat) (x : Mc) : getCtx (setMc s k x) j = getCtx s j := rfl
@[simp] theorem getChan_setMc (s : State) (k j : Nat) (x : Mc) : getChan (setMc s k x) j = getChan s j := rfl
@[simp] theorem getDom_setMc (s : State) (k j : Nat) (x : Mc) : getDom (setMc s k x) j = getDom s j := rfl
@[simp] theorem getBud_setMc (s : State) (k j : Nat) (x : Mc) : getBud (setMc s k x) j = getBud s j := rfl
@[simp] theorem getSrc_setMc (s : State) (k j : Nat) (x : Mc) : getSrc (setMc s k x) j = getSrc s j := rfl
@[simp] theorem getHub_setMc (s : State) (k j : Nat) (x : Mc) : getHub (setMc s k x) j = getHub s j := rfl
@[simp] theorem getAgent_setMc (s : State) (k j : Nat) (x : Mc) : getAgent (setMc s k x) j = getAgent s j := rfl
@[simp] theorem getArb_setMc (s : State) (k j : Nat) (x : Mc) : getArb (setMc s k x) j = getArb s j := rfl
@[simp] theorem setMc_pending (s : State) (k : Nat) (x : Mc) : (setMc s k x).pending = s.pending := rfl
@[simp] theorem setMc_mem (s : State) (k : Nat) (x : Mc) : (setMc s k x).mem = s.mem := rfl
@[simp] theorem setMc_memPoison (s : State) (k : Nat) (x : Mc) : (setMc s k x).memPoison = s.memPoison := rfl
@[simp] theorem setMc_dramTop (s : State) (k : Nat) (x : Mc) : (setMc s k x).dramTop = s.dramTop := rfl
@[simp] theorem setMc_net (s : State) (k : Nat) (x : Mc) : (setMc s k x).net = s.net := rfl
@[simp] theorem setMc_memNet (s : State) (k : Nat) (x : Mc) : (setMc s k x).memNet = s.memNet := rfl
@[simp] theorem setMc_memAns (s : State) (k : Nat) (x : Mc) : (setMc s k x).memAns = s.memAns := rfl
@[simp] theorem setMc_ctlNet (s : State) (k : Nat) (x : Mc) : (setMc s k x).ctlNet = s.ctlNet := rfl
@[simp] theorem setMc_outNet (s : State) (k : Nat) (x : Mc) : (setMc s k x).outNet = s.outNet := rfl
@[simp] theorem setMc_invNet (s : State) (k : Nat) (x : Mc) : (setMc s k x).invNet = s.invNet := rfl
@[simp] theorem setMc_jrn (s : State) (k : Nat) (x : Mc) : (setMc s k x).jrn = s.jrn := rfl
@[simp] theorem setMc_led (s : State) (k : Nat) (x : Mc) : (setMc s k x).led = s.led := rfl
@[simp] theorem setMc_plumb (s : State) (k : Nat) (x : Mc) : (setMc s k x).plumb = s.plumb := rfl
@[simp] theorem setMc_ks (s : State) (k : Nat) (x : Mc) : (setMc s k x).ks = s.ks := rfl
@[simp] theorem setMc_pins (s : State) (k : Nat) (x : Mc) : (setMc s k x).pins = s.pins := rfl
@[simp] theorem setMc_gstat (s : State) (k : Nat) (x : Mc) : (setMc s k x).gstat = s.gstat := rfl
@[simp] theorem setMc_hubSt (s : State) (k : Nat) (x : Mc) : (setMc s k x).hubSt = s.hubSt := rfl
@[simp] theorem setMc_votes (s : State) (k : Nat) (x : Mc) : (setMc s k x).votes = s.votes := rfl
@[simp] theorem setMc_banks (s : State) (k : Nat) (x : Mc) : (setMc s k x).banks = s.banks := rfl
@[simp] theorem memRead_setMc (s : State) (k a : Nat) (x : Mc) : memRead (setMc s k x) a = memRead s a := rfl

/-! ### `setRp` -/

@[simp] theorem getRp_setRp (s : State) (k j : Nat) (x : Rp) : getRp (setRp s k x) j = if j = k then x else getRp s j := by
  simp [getRp, setRp]
@[simp] theorem getCore_setRp (s : State) (k j : Nat) (x : Rp) : getCore (setRp s k x) j = getCore s j := rfl
@[simp] theorem getPhys_setRp (s : State) (k j : Nat) (x : Rp) : getPhys (setRp s k x) j = getPhys s j := rfl
@[simp] theorem getCourse_setRp (s : State) (k j : Nat) (x : Rp) : getCourse (setRp s k x) j = getCourse s j := rfl
@[simp] theorem getSlice_setRp (s : State) (k j : Nat) (x : Rp) : getSlice (setRp s k x) j = getSlice s j := rfl
@[simp] theorem getMc_setRp (s : State) (k j : Nat) (x : Rp) : getMc (setRp s k x) j = getMc s j := rfl
@[simp] theorem getCtx_setRp (s : State) (k j : Nat) (x : Rp) : getCtx (setRp s k x) j = getCtx s j := rfl
@[simp] theorem getChan_setRp (s : State) (k j : Nat) (x : Rp) : getChan (setRp s k x) j = getChan s j := rfl
@[simp] theorem getDom_setRp (s : State) (k j : Nat) (x : Rp) : getDom (setRp s k x) j = getDom s j := rfl
@[simp] theorem getBud_setRp (s : State) (k j : Nat) (x : Rp) : getBud (setRp s k x) j = getBud s j := rfl
@[simp] theorem getSrc_setRp (s : State) (k j : Nat) (x : Rp) : getSrc (setRp s k x) j = getSrc s j := rfl
@[simp] theorem getHub_setRp (s : State) (k j : Nat) (x : Rp) : getHub (setRp s k x) j = getHub s j := rfl
@[simp] theorem getAgent_setRp (s : State) (k j : Nat) (x : Rp) : getAgent (setRp s k x) j = getAgent s j := rfl
@[simp] theorem getArb_setRp (s : State) (k j : Nat) (x : Rp) : getArb (setRp s k x) j = getArb s j := rfl
@[simp] theorem setRp_pending (s : State) (k : Nat) (x : Rp) : (setRp s k x).pending = s.pending := rfl
@[simp] theorem setRp_mem (s : State) (k : Nat) (x : Rp) : (setRp s k x).mem = s.mem := rfl
@[simp] theorem setRp_memPoison (s : State) (k : Nat) (x : Rp) : (setRp s k x).memPoison = s.memPoison := rfl
@[simp] theorem setRp_dramTop (s : State) (k : Nat) (x : Rp) : (setRp s k x).dramTop = s.dramTop := rfl
@[simp] theorem setRp_net (s : State) (k : Nat) (x : Rp) : (setRp s k x).net = s.net := rfl
@[simp] theorem setRp_memNet (s : State) (k : Nat) (x : Rp) : (setRp s k x).memNet = s.memNet := rfl
@[simp] theorem setRp_memAns (s : State) (k : Nat) (x : Rp) : (setRp s k x).memAns = s.memAns := rfl
@[simp] theorem setRp_ctlNet (s : State) (k : Nat) (x : Rp) : (setRp s k x).ctlNet = s.ctlNet := rfl
@[simp] theorem setRp_outNet (s : State) (k : Nat) (x : Rp) : (setRp s k x).outNet = s.outNet := rfl
@[simp] theorem setRp_invNet (s : State) (k : Nat) (x : Rp) : (setRp s k x).invNet = s.invNet := rfl
@[simp] theorem setRp_jrn (s : State) (k : Nat) (x : Rp) : (setRp s k x).jrn = s.jrn := rfl
@[simp] theorem setRp_led (s : State) (k : Nat) (x : Rp) : (setRp s k x).led = s.led := rfl
@[simp] theorem setRp_plumb (s : State) (k : Nat) (x : Rp) : (setRp s k x).plumb = s.plumb := rfl
@[simp] theorem setRp_ks (s : State) (k : Nat) (x : Rp) : (setRp s k x).ks = s.ks := rfl
@[simp] theorem setRp_pins (s : State) (k : Nat) (x : Rp) : (setRp s k x).pins = s.pins := rfl
@[simp] theorem setRp_gstat (s : State) (k : Nat) (x : Rp) : (setRp s k x).gstat = s.gstat := rfl
@[simp] theorem setRp_hubSt (s : State) (k : Nat) (x : Rp) : (setRp s k x).hubSt = s.hubSt := rfl
@[simp] theorem setRp_votes (s : State) (k : Nat) (x : Rp) : (setRp s k x).votes = s.votes := rfl
@[simp] theorem setRp_banks (s : State) (k : Nat) (x : Rp) : (setRp s k x).banks = s.banks := rfl
@[simp] theorem memRead_setRp (s : State) (k a : Nat) (x : Rp) : memRead (setRp s k x) a = memRead s a := rfl

/-! ### `setCtx` -/

@[simp] theorem getCtx_setCtx (s : State) (k j : Nat) (x : Ctx) : getCtx (setCtx s k x) j = if j = k then x else getCtx s j := by
  simp [getCtx, setCtx]
@[simp] theorem getCore_setCtx (s : State) (k j : Nat) (x : Ctx) : getCore (setCtx s k x) j = getCore s j := rfl
@[simp] theorem getPhys_setCtx (s : State) (k j : Nat) (x : Ctx) : getPhys (setCtx s k x) j = getPhys s j := rfl
@[simp] theorem getCourse_setCtx (s : State) (k j : Nat) (x : Ctx) : getCourse (setCtx s k x) j = getCourse s j := rfl
@[simp] theorem getSlice_setCtx (s : State) (k j : Nat) (x : Ctx) : getSlice (setCtx s k x) j = getSlice s j := rfl
@[simp] theorem getMc_setCtx (s : State) (k j : Nat) (x : Ctx) : getMc (setCtx s k x) j = getMc s j := rfl
@[simp] theorem getRp_setCtx (s : State) (k j : Nat) (x : Ctx) : getRp (setCtx s k x) j = getRp s j := rfl
@[simp] theorem getChan_setCtx (s : State) (k j : Nat) (x : Ctx) : getChan (setCtx s k x) j = getChan s j := rfl
@[simp] theorem getDom_setCtx (s : State) (k j : Nat) (x : Ctx) : getDom (setCtx s k x) j = getDom s j := rfl
@[simp] theorem getBud_setCtx (s : State) (k j : Nat) (x : Ctx) : getBud (setCtx s k x) j = getBud s j := rfl
@[simp] theorem getSrc_setCtx (s : State) (k j : Nat) (x : Ctx) : getSrc (setCtx s k x) j = getSrc s j := rfl
@[simp] theorem getHub_setCtx (s : State) (k j : Nat) (x : Ctx) : getHub (setCtx s k x) j = getHub s j := rfl
@[simp] theorem getAgent_setCtx (s : State) (k j : Nat) (x : Ctx) : getAgent (setCtx s k x) j = getAgent s j := rfl
@[simp] theorem getArb_setCtx (s : State) (k j : Nat) (x : Ctx) : getArb (setCtx s k x) j = getArb s j := rfl
@[simp] theorem setCtx_pending (s : State) (k : Nat) (x : Ctx) : (setCtx s k x).pending = s.pending := rfl
@[simp] theorem setCtx_mem (s : State) (k : Nat) (x : Ctx) : (setCtx s k x).mem = s.mem := rfl
@[simp] theorem setCtx_memPoison (s : State) (k : Nat) (x : Ctx) : (setCtx s k x).memPoison = s.memPoison := rfl
@[simp] theorem setCtx_dramTop (s : State) (k : Nat) (x : Ctx) : (setCtx s k x).dramTop = s.dramTop := rfl
@[simp] theorem setCtx_net (s : State) (k : Nat) (x : Ctx) : (setCtx s k x).net = s.net := rfl
@[simp] theorem setCtx_memNet (s : State) (k : Nat) (x : Ctx) : (setCtx s k x).memNet = s.memNet := rfl
@[simp] theorem setCtx_memAns (s : State) (k : Nat) (x : Ctx) : (setCtx s k x).memAns = s.memAns := rfl
@[simp] theorem setCtx_ctlNet (s : State) (k : Nat) (x : Ctx) : (setCtx s k x).ctlNet = s.ctlNet := rfl
@[simp] theorem setCtx_outNet (s : State) (k : Nat) (x : Ctx) : (setCtx s k x).outNet = s.outNet := rfl
@[simp] theorem setCtx_invNet (s : State) (k : Nat) (x : Ctx) : (setCtx s k x).invNet = s.invNet := rfl
@[simp] theorem setCtx_jrn (s : State) (k : Nat) (x : Ctx) : (setCtx s k x).jrn = s.jrn := rfl
@[simp] theorem setCtx_led (s : State) (k : Nat) (x : Ctx) : (setCtx s k x).led = s.led := rfl
@[simp] theorem setCtx_plumb (s : State) (k : Nat) (x : Ctx) : (setCtx s k x).plumb = s.plumb := rfl
@[simp] theorem setCtx_ks (s : State) (k : Nat) (x : Ctx) : (setCtx s k x).ks = s.ks := rfl
@[simp] theorem setCtx_pins (s : State) (k : Nat) (x : Ctx) : (setCtx s k x).pins = s.pins := rfl
@[simp] theorem setCtx_gstat (s : State) (k : Nat) (x : Ctx) : (setCtx s k x).gstat = s.gstat := rfl
@[simp] theorem setCtx_hubSt (s : State) (k : Nat) (x : Ctx) : (setCtx s k x).hubSt = s.hubSt := rfl
@[simp] theorem setCtx_votes (s : State) (k : Nat) (x : Ctx) : (setCtx s k x).votes = s.votes := rfl
@[simp] theorem setCtx_banks (s : State) (k : Nat) (x : Ctx) : (setCtx s k x).banks = s.banks := rfl
@[simp] theorem memRead_setCtx (s : State) (k a : Nat) (x : Ctx) : memRead (setCtx s k x) a = memRead s a := rfl

/-! ### `setChan` -/

@[simp] theorem getChan_setChan (s : State) (k j : Nat) (x : Chan) : getChan (setChan s k x) j = if j = k then x else getChan s j := by
  simp [getChan, setChan]
@[simp] theorem getCore_setChan (s : State) (k j : Nat) (x : Chan) : getCore (setChan s k x) j = getCore s j := rfl
@[simp] theorem getPhys_setChan (s : State) (k j : Nat) (x : Chan) : getPhys (setChan s k x) j = getPhys s j := rfl
@[simp] theorem getCourse_setChan (s : State) (k j : Nat) (x : Chan) : getCourse (setChan s k x) j = getCourse s j := rfl
@[simp] theorem getSlice_setChan (s : State) (k j : Nat) (x : Chan) : getSlice (setChan s k x) j = getSlice s j := rfl
@[simp] theorem getMc_setChan (s : State) (k j : Nat) (x : Chan) : getMc (setChan s k x) j = getMc s j := rfl
@[simp] theorem getRp_setChan (s : State) (k j : Nat) (x : Chan) : getRp (setChan s k x) j = getRp s j := rfl
@[simp] theorem getCtx_setChan (s : State) (k j : Nat) (x : Chan) : getCtx (setChan s k x) j = getCtx s j := rfl
@[simp] theorem getDom_setChan (s : State) (k j : Nat) (x : Chan) : getDom (setChan s k x) j = getDom s j := rfl
@[simp] theorem getBud_setChan (s : State) (k j : Nat) (x : Chan) : getBud (setChan s k x) j = getBud s j := rfl
@[simp] theorem getSrc_setChan (s : State) (k j : Nat) (x : Chan) : getSrc (setChan s k x) j = getSrc s j := rfl
@[simp] theorem getHub_setChan (s : State) (k j : Nat) (x : Chan) : getHub (setChan s k x) j = getHub s j := rfl
@[simp] theorem getAgent_setChan (s : State) (k j : Nat) (x : Chan) : getAgent (setChan s k x) j = getAgent s j := rfl
@[simp] theorem getArb_setChan (s : State) (k j : Nat) (x : Chan) : getArb (setChan s k x) j = getArb s j := rfl
@[simp] theorem setChan_pending (s : State) (k : Nat) (x : Chan) : (setChan s k x).pending = s.pending := rfl
@[simp] theorem setChan_mem (s : State) (k : Nat) (x : Chan) : (setChan s k x).mem = s.mem := rfl
@[simp] theorem setChan_memPoison (s : State) (k : Nat) (x : Chan) : (setChan s k x).memPoison = s.memPoison := rfl
@[simp] theorem setChan_dramTop (s : State) (k : Nat) (x : Chan) : (setChan s k x).dramTop = s.dramTop := rfl
@[simp] theorem setChan_net (s : State) (k : Nat) (x : Chan) : (setChan s k x).net = s.net := rfl
@[simp] theorem setChan_memNet (s : State) (k : Nat) (x : Chan) : (setChan s k x).memNet = s.memNet := rfl
@[simp] theorem setChan_memAns (s : State) (k : Nat) (x : Chan) : (setChan s k x).memAns = s.memAns := rfl
@[simp] theorem setChan_ctlNet (s : State) (k : Nat) (x : Chan) : (setChan s k x).ctlNet = s.ctlNet := rfl
@[simp] theorem setChan_outNet (s : State) (k : Nat) (x : Chan) : (setChan s k x).outNet = s.outNet := rfl
@[simp] theorem setChan_invNet (s : State) (k : Nat) (x : Chan) : (setChan s k x).invNet = s.invNet := rfl
@[simp] theorem setChan_jrn (s : State) (k : Nat) (x : Chan) : (setChan s k x).jrn = s.jrn := rfl
@[simp] theorem setChan_led (s : State) (k : Nat) (x : Chan) : (setChan s k x).led = s.led := rfl
@[simp] theorem setChan_plumb (s : State) (k : Nat) (x : Chan) : (setChan s k x).plumb = s.plumb := rfl
@[simp] theorem setChan_ks (s : State) (k : Nat) (x : Chan) : (setChan s k x).ks = s.ks := rfl
@[simp] theorem setChan_pins (s : State) (k : Nat) (x : Chan) : (setChan s k x).pins = s.pins := rfl
@[simp] theorem setChan_gstat (s : State) (k : Nat) (x : Chan) : (setChan s k x).gstat = s.gstat := rfl
@[simp] theorem setChan_hubSt (s : State) (k : Nat) (x : Chan) : (setChan s k x).hubSt = s.hubSt := rfl
@[simp] theorem setChan_votes (s : State) (k : Nat) (x : Chan) : (setChan s k x).votes = s.votes := rfl
@[simp] theorem setChan_banks (s : State) (k : Nat) (x : Chan) : (setChan s k x).banks = s.banks := rfl
@[simp] theorem memRead_setChan (s : State) (k a : Nat) (x : Chan) : memRead (setChan s k x) a = memRead s a := rfl

/-! ### `setDom` -/

@[simp] theorem getDom_setDom (s : State) (k j : Nat) (x : Dom) : getDom (setDom s k x) j = if j = k then x else getDom s j := by
  simp [getDom, setDom]
@[simp] theorem getCore_setDom (s : State) (k j : Nat) (x : Dom) : getCore (setDom s k x) j = getCore s j := rfl
@[simp] theorem getPhys_setDom (s : State) (k j : Nat) (x : Dom) : getPhys (setDom s k x) j = getPhys s j := rfl
@[simp] theorem getCourse_setDom (s : State) (k j : Nat) (x : Dom) : getCourse (setDom s k x) j = getCourse s j := rfl
@[simp] theorem getSlice_setDom (s : State) (k j : Nat) (x : Dom) : getSlice (setDom s k x) j = getSlice s j := rfl
@[simp] theorem getMc_setDom (s : State) (k j : Nat) (x : Dom) : getMc (setDom s k x) j = getMc s j := rfl
@[simp] theorem getRp_setDom (s : State) (k j : Nat) (x : Dom) : getRp (setDom s k x) j = getRp s j := rfl
@[simp] theorem getCtx_setDom (s : State) (k j : Nat) (x : Dom) : getCtx (setDom s k x) j = getCtx s j := rfl
@[simp] theorem getChan_setDom (s : State) (k j : Nat) (x : Dom) : getChan (setDom s k x) j = getChan s j := rfl
@[simp] theorem getBud_setDom (s : State) (k j : Nat) (x : Dom) : getBud (setDom s k x) j = getBud s j := rfl
@[simp] theorem getSrc_setDom (s : State) (k j : Nat) (x : Dom) : getSrc (setDom s k x) j = getSrc s j := rfl
@[simp] theorem getHub_setDom (s : State) (k j : Nat) (x : Dom) : getHub (setDom s k x) j = getHub s j := rfl
@[simp] theorem getAgent_setDom (s : State) (k j : Nat) (x : Dom) : getAgent (setDom s k x) j = getAgent s j := rfl
@[simp] theorem getArb_setDom (s : State) (k j : Nat) (x : Dom) : getArb (setDom s k x) j = getArb s j := rfl
@[simp] theorem setDom_pending (s : State) (k : Nat) (x : Dom) : (setDom s k x).pending = s.pending := rfl
@[simp] theorem setDom_mem (s : State) (k : Nat) (x : Dom) : (setDom s k x).mem = s.mem := rfl
@[simp] theorem setDom_memPoison (s : State) (k : Nat) (x : Dom) : (setDom s k x).memPoison = s.memPoison := rfl
@[simp] theorem setDom_dramTop (s : State) (k : Nat) (x : Dom) : (setDom s k x).dramTop = s.dramTop := rfl
@[simp] theorem setDom_net (s : State) (k : Nat) (x : Dom) : (setDom s k x).net = s.net := rfl
@[simp] theorem setDom_memNet (s : State) (k : Nat) (x : Dom) : (setDom s k x).memNet = s.memNet := rfl
@[simp] theorem setDom_memAns (s : State) (k : Nat) (x : Dom) : (setDom s k x).memAns = s.memAns := rfl
@[simp] theorem setDom_ctlNet (s : State) (k : Nat) (x : Dom) : (setDom s k x).ctlNet = s.ctlNet := rfl
@[simp] theorem setDom_outNet (s : State) (k : Nat) (x : Dom) : (setDom s k x).outNet = s.outNet := rfl
@[simp] theorem setDom_invNet (s : State) (k : Nat) (x : Dom) : (setDom s k x).invNet = s.invNet := rfl
@[simp] theorem setDom_jrn (s : State) (k : Nat) (x : Dom) : (setDom s k x).jrn = s.jrn := rfl
@[simp] theorem setDom_led (s : State) (k : Nat) (x : Dom) : (setDom s k x).led = s.led := rfl
@[simp] theorem setDom_plumb (s : State) (k : Nat) (x : Dom) : (setDom s k x).plumb = s.plumb := rfl
@[simp] theorem setDom_ks (s : State) (k : Nat) (x : Dom) : (setDom s k x).ks = s.ks := rfl
@[simp] theorem setDom_pins (s : State) (k : Nat) (x : Dom) : (setDom s k x).pins = s.pins := rfl
@[simp] theorem setDom_gstat (s : State) (k : Nat) (x : Dom) : (setDom s k x).gstat = s.gstat := rfl
@[simp] theorem setDom_hubSt (s : State) (k : Nat) (x : Dom) : (setDom s k x).hubSt = s.hubSt := rfl
@[simp] theorem setDom_votes (s : State) (k : Nat) (x : Dom) : (setDom s k x).votes = s.votes := rfl
@[simp] theorem setDom_banks (s : State) (k : Nat) (x : Dom) : (setDom s k x).banks = s.banks := rfl
@[simp] theorem memRead_setDom (s : State) (k a : Nat) (x : Dom) : memRead (setDom s k x) a = memRead s a := rfl

/-! ### `setBud` -/

@[simp] theorem getBud_setBud (s : State) (k j : Nat) (x : Bud) : getBud (setBud s k x) j = if j = k then x else getBud s j := by
  simp [getBud, setBud]
@[simp] theorem getCore_setBud (s : State) (k j : Nat) (x : Bud) : getCore (setBud s k x) j = getCore s j := rfl
@[simp] theorem getPhys_setBud (s : State) (k j : Nat) (x : Bud) : getPhys (setBud s k x) j = getPhys s j := rfl
@[simp] theorem getCourse_setBud (s : State) (k j : Nat) (x : Bud) : getCourse (setBud s k x) j = getCourse s j := rfl
@[simp] theorem getSlice_setBud (s : State) (k j : Nat) (x : Bud) : getSlice (setBud s k x) j = getSlice s j := rfl
@[simp] theorem getMc_setBud (s : State) (k j : Nat) (x : Bud) : getMc (setBud s k x) j = getMc s j := rfl
@[simp] theorem getRp_setBud (s : State) (k j : Nat) (x : Bud) : getRp (setBud s k x) j = getRp s j := rfl
@[simp] theorem getCtx_setBud (s : State) (k j : Nat) (x : Bud) : getCtx (setBud s k x) j = getCtx s j := rfl
@[simp] theorem getChan_setBud (s : State) (k j : Nat) (x : Bud) : getChan (setBud s k x) j = getChan s j := rfl
@[simp] theorem getDom_setBud (s : State) (k j : Nat) (x : Bud) : getDom (setBud s k x) j = getDom s j := rfl
@[simp] theorem getSrc_setBud (s : State) (k j : Nat) (x : Bud) : getSrc (setBud s k x) j = getSrc s j := rfl
@[simp] theorem getHub_setBud (s : State) (k j : Nat) (x : Bud) : getHub (setBud s k x) j = getHub s j := rfl
@[simp] theorem getAgent_setBud (s : State) (k j : Nat) (x : Bud) : getAgent (setBud s k x) j = getAgent s j := rfl
@[simp] theorem getArb_setBud (s : State) (k j : Nat) (x : Bud) : getArb (setBud s k x) j = getArb s j := rfl
@[simp] theorem setBud_pending (s : State) (k : Nat) (x : Bud) : (setBud s k x).pending = s.pending := rfl
@[simp] theorem setBud_mem (s : State) (k : Nat) (x : Bud) : (setBud s k x).mem = s.mem := rfl
@[simp] theorem setBud_memPoison (s : State) (k : Nat) (x : Bud) : (setBud s k x).memPoison = s.memPoison := rfl
@[simp] theorem setBud_dramTop (s : State) (k : Nat) (x : Bud) : (setBud s k x).dramTop = s.dramTop := rfl
@[simp] theorem setBud_net (s : State) (k : Nat) (x : Bud) : (setBud s k x).net = s.net := rfl
@[simp] theorem setBud_memNet (s : State) (k : Nat) (x : Bud) : (setBud s k x).memNet = s.memNet := rfl
@[simp] theorem setBud_memAns (s : State) (k : Nat) (x : Bud) : (setBud s k x).memAns = s.memAns := rfl
@[simp] theorem setBud_ctlNet (s : State) (k : Nat) (x : Bud) : (setBud s k x).ctlNet = s.ctlNet := rfl
@[simp] theorem setBud_outNet (s : State) (k : Nat) (x : Bud) : (setBud s k x).outNet = s.outNet := rfl
@[simp] theorem setBud_invNet (s : State) (k : Nat) (x : Bud) : (setBud s k x).invNet = s.invNet := rfl
@[simp] theorem setBud_jrn (s : State) (k : Nat) (x : Bud) : (setBud s k x).jrn = s.jrn := rfl
@[simp] theorem setBud_led (s : State) (k : Nat) (x : Bud) : (setBud s k x).led = s.led := rfl
@[simp] theorem setBud_plumb (s : State) (k : Nat) (x : Bud) : (setBud s k x).plumb = s.plumb := rfl
@[simp] theorem setBud_ks (s : State) (k : Nat) (x : Bud) : (setBud s k x).ks = s.ks := rfl
@[simp] theorem setBud_pins (s : State) (k : Nat) (x : Bud) : (setBud s k x).pins = s.pins := rfl
@[simp] theorem setBud_gstat (s : State) (k : Nat) (x : Bud) : (setBud s k x).gstat = s.gstat := rfl
@[simp] theorem setBud_hubSt (s : State) (k : Nat) (x : Bud) : (setBud s k x).hubSt = s.hubSt := rfl
@[simp] theorem setBud_votes (s : State) (k : Nat) (x : Bud) : (setBud s k x).votes = s.votes := rfl
@[simp] theorem setBud_banks (s : State) (k : Nat) (x : Bud) : (setBud s k x).banks = s.banks := rfl
@[simp] theorem memRead_setBud (s : State) (k a : Nat) (x : Bud) : memRead (setBud s k x) a = memRead s a := rfl

/-! ### `setSrc` -/

@[simp] theorem getSrc_setSrc (s : State) (k j : Nat) (x : Src) : getSrc (setSrc s k x) j = if j = k then x else getSrc s j := by
  simp [getSrc, setSrc]
@[simp] theorem getCore_setSrc (s : State) (k j : Nat) (x : Src) : getCore (setSrc s k x) j = getCore s j := rfl
@[simp] theorem getPhys_setSrc (s : State) (k j : Nat) (x : Src) : getPhys (setSrc s k x) j = getPhys s j := rfl
@[simp] theorem getCourse_setSrc (s : State) (k j : Nat) (x : Src) : getCourse (setSrc s k x) j = getCourse s j := rfl
@[simp] theorem getSlice_setSrc (s : State) (k j : Nat) (x : Src) : getSlice (setSrc s k x) j = getSlice s j := rfl
@[simp] theorem getMc_setSrc (s : State) (k j : Nat) (x : Src) : getMc (setSrc s k x) j = getMc s j := rfl
@[simp] theorem getRp_setSrc (s : State) (k j : Nat) (x : Src) : getRp (setSrc s k x) j = getRp s j := rfl
@[simp] theorem getCtx_setSrc (s : State) (k j : Nat) (x : Src) : getCtx (setSrc s k x) j = getCtx s j := rfl
@[simp] theorem getChan_setSrc (s : State) (k j : Nat) (x : Src) : getChan (setSrc s k x) j = getChan s j := rfl
@[simp] theorem getDom_setSrc (s : State) (k j : Nat) (x : Src) : getDom (setSrc s k x) j = getDom s j := rfl
@[simp] theorem getBud_setSrc (s : State) (k j : Nat) (x : Src) : getBud (setSrc s k x) j = getBud s j := rfl
@[simp] theorem getHub_setSrc (s : State) (k j : Nat) (x : Src) : getHub (setSrc s k x) j = getHub s j := rfl
@[simp] theorem getAgent_setSrc (s : State) (k j : Nat) (x : Src) : getAgent (setSrc s k x) j = getAgent s j := rfl
@[simp] theorem getArb_setSrc (s : State) (k j : Nat) (x : Src) : getArb (setSrc s k x) j = getArb s j := rfl
@[simp] theorem setSrc_pending (s : State) (k : Nat) (x : Src) : (setSrc s k x).pending = s.pending := rfl
@[simp] theorem setSrc_mem (s : State) (k : Nat) (x : Src) : (setSrc s k x).mem = s.mem := rfl
@[simp] theorem setSrc_memPoison (s : State) (k : Nat) (x : Src) : (setSrc s k x).memPoison = s.memPoison := rfl
@[simp] theorem setSrc_dramTop (s : State) (k : Nat) (x : Src) : (setSrc s k x).dramTop = s.dramTop := rfl
@[simp] theorem setSrc_net (s : State) (k : Nat) (x : Src) : (setSrc s k x).net = s.net := rfl
@[simp] theorem setSrc_memNet (s : State) (k : Nat) (x : Src) : (setSrc s k x).memNet = s.memNet := rfl
@[simp] theorem setSrc_memAns (s : State) (k : Nat) (x : Src) : (setSrc s k x).memAns = s.memAns := rfl
@[simp] theorem setSrc_ctlNet (s : State) (k : Nat) (x : Src) : (setSrc s k x).ctlNet = s.ctlNet := rfl
@[simp] theorem setSrc_outNet (s : State) (k : Nat) (x : Src) : (setSrc s k x).outNet = s.outNet := rfl
@[simp] theorem setSrc_invNet (s : State) (k : Nat) (x : Src) : (setSrc s k x).invNet = s.invNet := rfl
@[simp] theorem setSrc_jrn (s : State) (k : Nat) (x : Src) : (setSrc s k x).jrn = s.jrn := rfl
@[simp] theorem setSrc_led (s : State) (k : Nat) (x : Src) : (setSrc s k x).led = s.led := rfl
@[simp] theorem setSrc_plumb (s : State) (k : Nat) (x : Src) : (setSrc s k x).plumb = s.plumb := rfl
@[simp] theorem setSrc_ks (s : State) (k : Nat) (x : Src) : (setSrc s k x).ks = s.ks := rfl
@[simp] theorem setSrc_pins (s : State) (k : Nat) (x : Src) : (setSrc s k x).pins = s.pins := rfl
@[simp] theorem setSrc_gstat (s : State) (k : Nat) (x : Src) : (setSrc s k x).gstat = s.gstat := rfl
@[simp] theorem setSrc_hubSt (s : State) (k : Nat) (x : Src) : (setSrc s k x).hubSt = s.hubSt := rfl
@[simp] theorem setSrc_votes (s : State) (k : Nat) (x : Src) : (setSrc s k x).votes = s.votes := rfl
@[simp] theorem setSrc_banks (s : State) (k : Nat) (x : Src) : (setSrc s k x).banks = s.banks := rfl
@[simp] theorem memRead_setSrc (s : State) (k a : Nat) (x : Src) : memRead (setSrc s k x) a = memRead s a := rfl

/-! ### `setHub` -/

@[simp] theorem getHub_setHub (s : State) (k j : Nat) (x : HubCore) : getHub (setHub s k x) j = if j = k then x else getHub s j := by
  simp [getHub, setHub]
@[simp] theorem getCore_setHub (s : State) (k j : Nat) (x : HubCore) : getCore (setHub s k x) j = getCore s j := rfl
@[simp] theorem getPhys_setHub (s : State) (k j : Nat) (x : HubCore) : getPhys (setHub s k x) j = getPhys s j := rfl
@[simp] theorem getCourse_setHub (s : State) (k j : Nat) (x : HubCore) : getCourse (setHub s k x) j = getCourse s j := rfl
@[simp] theorem getSlice_setHub (s : State) (k j : Nat) (x : HubCore) : getSlice (setHub s k x) j = getSlice s j := rfl
@[simp] theorem getMc_setHub (s : State) (k j : Nat) (x : HubCore) : getMc (setHub s k x) j = getMc s j := rfl
@[simp] theorem getRp_setHub (s : State) (k j : Nat) (x : HubCore) : getRp (setHub s k x) j = getRp s j := rfl
@[simp] theorem getCtx_setHub (s : State) (k j : Nat) (x : HubCore) : getCtx (setHub s k x) j = getCtx s j := rfl
@[simp] theorem getChan_setHub (s : State) (k j : Nat) (x : HubCore) : getChan (setHub s k x) j = getChan s j := rfl
@[simp] theorem getDom_setHub (s : State) (k j : Nat) (x : HubCore) : getDom (setHub s k x) j = getDom s j := rfl
@[simp] theorem getBud_setHub (s : State) (k j : Nat) (x : HubCore) : getBud (setHub s k x) j = getBud s j := rfl
@[simp] theorem getSrc_setHub (s : State) (k j : Nat) (x : HubCore) : getSrc (setHub s k x) j = getSrc s j := rfl
@[simp] theorem getAgent_setHub (s : State) (k j : Nat) (x : HubCore) : getAgent (setHub s k x) j = getAgent s j := rfl
@[simp] theorem getArb_setHub (s : State) (k j : Nat) (x : HubCore) : getArb (setHub s k x) j = getArb s j := rfl
@[simp] theorem setHub_pending (s : State) (k : Nat) (x : HubCore) : (setHub s k x).pending = s.pending := rfl
@[simp] theorem setHub_mem (s : State) (k : Nat) (x : HubCore) : (setHub s k x).mem = s.mem := rfl
@[simp] theorem setHub_memPoison (s : State) (k : Nat) (x : HubCore) : (setHub s k x).memPoison = s.memPoison := rfl
@[simp] theorem setHub_dramTop (s : State) (k : Nat) (x : HubCore) : (setHub s k x).dramTop = s.dramTop := rfl
@[simp] theorem setHub_net (s : State) (k : Nat) (x : HubCore) : (setHub s k x).net = s.net := rfl
@[simp] theorem setHub_memNet (s : State) (k : Nat) (x : HubCore) : (setHub s k x).memNet = s.memNet := rfl
@[simp] theorem setHub_memAns (s : State) (k : Nat) (x : HubCore) : (setHub s k x).memAns = s.memAns := rfl
@[simp] theorem setHub_ctlNet (s : State) (k : Nat) (x : HubCore) : (setHub s k x).ctlNet = s.ctlNet := rfl
@[simp] theorem setHub_outNet (s : State) (k : Nat) (x : HubCore) : (setHub s k x).outNet = s.outNet := rfl
@[simp] theorem setHub_invNet (s : State) (k : Nat) (x : HubCore) : (setHub s k x).invNet = s.invNet := rfl
@[simp] theorem setHub_jrn (s : State) (k : Nat) (x : HubCore) : (setHub s k x).jrn = s.jrn := rfl
@[simp] theorem setHub_led (s : State) (k : Nat) (x : HubCore) : (setHub s k x).led = s.led := rfl
@[simp] theorem setHub_plumb (s : State) (k : Nat) (x : HubCore) : (setHub s k x).plumb = s.plumb := rfl
@[simp] theorem setHub_ks (s : State) (k : Nat) (x : HubCore) : (setHub s k x).ks = s.ks := rfl
@[simp] theorem setHub_pins (s : State) (k : Nat) (x : HubCore) : (setHub s k x).pins = s.pins := rfl
@[simp] theorem setHub_gstat (s : State) (k : Nat) (x : HubCore) : (setHub s k x).gstat = s.gstat := rfl
@[simp] theorem setHub_hubSt (s : State) (k : Nat) (x : HubCore) : (setHub s k x).hubSt = s.hubSt := rfl
@[simp] theorem setHub_votes (s : State) (k : Nat) (x : HubCore) : (setHub s k x).votes = s.votes := rfl
@[simp] theorem setHub_banks (s : State) (k : Nat) (x : HubCore) : (setHub s k x).banks = s.banks := rfl
@[simp] theorem memRead_setHub (s : State) (k a : Nat) (x : HubCore) : memRead (setHub s k x) a = memRead s a := rfl

/-! ### `setAgent` -/

@[simp] theorem getAgent_setAgent (s : State) (k j : Nat) (x : Agent) : getAgent (setAgent s k x) j = if j = k then x else getAgent s j := by
  simp [getAgent, setAgent]
@[simp] theorem getCore_setAgent (s : State) (k j : Nat) (x : Agent) : getCore (setAgent s k x) j = getCore s j := rfl
@[simp] theorem getPhys_setAgent (s : State) (k j : Nat) (x : Agent) : getPhys (setAgent s k x) j = getPhys s j := rfl
@[simp] theorem getCourse_setAgent (s : State) (k j : Nat) (x : Agent) : getCourse (setAgent s k x) j = getCourse s j := rfl
@[simp] theorem getSlice_setAgent (s : State) (k j : Nat) (x : Agent) : getSlice (setAgent s k x) j = getSlice s j := rfl
@[simp] theorem getMc_setAgent (s : State) (k j : Nat) (x : Agent) : getMc (setAgent s k x) j = getMc s j := rfl
@[simp] theorem getRp_setAgent (s : State) (k j : Nat) (x : Agent) : getRp (setAgent s k x) j = getRp s j := rfl
@[simp] theorem getCtx_setAgent (s : State) (k j : Nat) (x : Agent) : getCtx (setAgent s k x) j = getCtx s j := rfl
@[simp] theorem getChan_setAgent (s : State) (k j : Nat) (x : Agent) : getChan (setAgent s k x) j = getChan s j := rfl
@[simp] theorem getDom_setAgent (s : State) (k j : Nat) (x : Agent) : getDom (setAgent s k x) j = getDom s j := rfl
@[simp] theorem getBud_setAgent (s : State) (k j : Nat) (x : Agent) : getBud (setAgent s k x) j = getBud s j := rfl
@[simp] theorem getSrc_setAgent (s : State) (k j : Nat) (x : Agent) : getSrc (setAgent s k x) j = getSrc s j := rfl
@[simp] theorem getHub_setAgent (s : State) (k j : Nat) (x : Agent) : getHub (setAgent s k x) j = getHub s j := rfl
@[simp] theorem getArb_setAgent (s : State) (k j : Nat) (x : Agent) : getArb (setAgent s k x) j = getArb s j := rfl
@[simp] theorem setAgent_pending (s : State) (k : Nat) (x : Agent) : (setAgent s k x).pending = s.pending := rfl
@[simp] theorem setAgent_mem (s : State) (k : Nat) (x : Agent) : (setAgent s k x).mem = s.mem := rfl
@[simp] theorem setAgent_memPoison (s : State) (k : Nat) (x : Agent) : (setAgent s k x).memPoison = s.memPoison := rfl
@[simp] theorem setAgent_dramTop (s : State) (k : Nat) (x : Agent) : (setAgent s k x).dramTop = s.dramTop := rfl
@[simp] theorem setAgent_net (s : State) (k : Nat) (x : Agent) : (setAgent s k x).net = s.net := rfl
@[simp] theorem setAgent_memNet (s : State) (k : Nat) (x : Agent) : (setAgent s k x).memNet = s.memNet := rfl
@[simp] theorem setAgent_memAns (s : State) (k : Nat) (x : Agent) : (setAgent s k x).memAns = s.memAns := rfl
@[simp] theorem setAgent_ctlNet (s : State) (k : Nat) (x : Agent) : (setAgent s k x).ctlNet = s.ctlNet := rfl
@[simp] theorem setAgent_outNet (s : State) (k : Nat) (x : Agent) : (setAgent s k x).outNet = s.outNet := rfl
@[simp] theorem setAgent_invNet (s : State) (k : Nat) (x : Agent) : (setAgent s k x).invNet = s.invNet := rfl
@[simp] theorem setAgent_jrn (s : State) (k : Nat) (x : Agent) : (setAgent s k x).jrn = s.jrn := rfl
@[simp] theorem setAgent_led (s : State) (k : Nat) (x : Agent) : (setAgent s k x).led = s.led := rfl
@[simp] theorem setAgent_plumb (s : State) (k : Nat) (x : Agent) : (setAgent s k x).plumb = s.plumb := rfl
@[simp] theorem setAgent_ks (s : State) (k : Nat) (x : Agent) : (setAgent s k x).ks = s.ks := rfl
@[simp] theorem setAgent_pins (s : State) (k : Nat) (x : Agent) : (setAgent s k x).pins = s.pins := rfl
@[simp] theorem setAgent_gstat (s : State) (k : Nat) (x : Agent) : (setAgent s k x).gstat = s.gstat := rfl
@[simp] theorem setAgent_hubSt (s : State) (k : Nat) (x : Agent) : (setAgent s k x).hubSt = s.hubSt := rfl
@[simp] theorem setAgent_votes (s : State) (k : Nat) (x : Agent) : (setAgent s k x).votes = s.votes := rfl
@[simp] theorem setAgent_banks (s : State) (k : Nat) (x : Agent) : (setAgent s k x).banks = s.banks := rfl
@[simp] theorem memRead_setAgent (s : State) (k a : Nat) (x : Agent) : memRead (setAgent s k x) a = memRead s a := rfl

/-! ### `setArb` -/

@[simp] theorem getArb_setArb (s : State) (k j : Nat) (x : ArbSt) : getArb (setArb s k x) j = if j = k then x else getArb s j := by
  simp [getArb, setArb]
@[simp] theorem getCore_setArb (s : State) (k j : Nat) (x : ArbSt) : getCore (setArb s k x) j = getCore s j := rfl
@[simp] theorem getPhys_setArb (s : State) (k j : Nat) (x : ArbSt) : getPhys (setArb s k x) j = getPhys s j := rfl
@[simp] theorem getCourse_setArb (s : State) (k j : Nat) (x : ArbSt) : getCourse (setArb s k x) j = getCourse s j := rfl
@[simp] theorem getSlice_setArb (s : State) (k j : Nat) (x : ArbSt) : getSlice (setArb s k x) j = getSlice s j := rfl
@[simp] theorem getMc_setArb (s : State) (k j : Nat) (x : ArbSt) : getMc (setArb s k x) j = getMc s j := rfl
@[simp] theorem getRp_setArb (s : State) (k j : Nat) (x : ArbSt) : getRp (setArb s k x) j = getRp s j := rfl
@[simp] theorem getCtx_setArb (s : State) (k j : Nat) (x : ArbSt) : getCtx (setArb s k x) j = getCtx s j := rfl
@[simp] theorem getChan_setArb (s : State) (k j : Nat) (x : ArbSt) : getChan (setArb s k x) j = getChan s j := rfl
@[simp] theorem getDom_setArb (s : State) (k j : Nat) (x : ArbSt) : getDom (setArb s k x) j = getDom s j := rfl
@[simp] theorem getBud_setArb (s : State) (k j : Nat) (x : ArbSt) : getBud (setArb s k x) j = getBud s j := rfl
@[simp] theorem getSrc_setArb (s : State) (k j : Nat) (x : ArbSt) : getSrc (setArb s k x) j = getSrc s j := rfl
@[simp] theorem getHub_setArb (s : State) (k j : Nat) (x : ArbSt) : getHub (setArb s k x) j = getHub s j := rfl
@[simp] theorem getAgent_setArb (s : State) (k j : Nat) (x : ArbSt) : getAgent (setArb s k x) j = getAgent s j := rfl
@[simp] theorem setArb_pending (s : State) (k : Nat) (x : ArbSt) : (setArb s k x).pending = s.pending := rfl
@[simp] theorem setArb_mem (s : State) (k : Nat) (x : ArbSt) : (setArb s k x).mem = s.mem := rfl
@[simp] theorem setArb_memPoison (s : State) (k : Nat) (x : ArbSt) : (setArb s k x).memPoison = s.memPoison := rfl
@[simp] theorem setArb_dramTop (s : State) (k : Nat) (x : ArbSt) : (setArb s k x).dramTop = s.dramTop := rfl
@[simp] theorem setArb_net (s : State) (k : Nat) (x : ArbSt) : (setArb s k x).net = s.net := rfl
@[simp] theorem setArb_memNet (s : State) (k : Nat) (x : ArbSt) : (setArb s k x).memNet = s.memNet := rfl
@[simp] theorem setArb_memAns (s : State) (k : Nat) (x : ArbSt) : (setArb s k x).memAns = s.memAns := rfl
@[simp] theorem setArb_ctlNet (s : State) (k : Nat) (x : ArbSt) : (setArb s k x).ctlNet = s.ctlNet := rfl
@[simp] theorem setArb_outNet (s : State) (k : Nat) (x : ArbSt) : (setArb s k x).outNet = s.outNet := rfl
@[simp] theorem setArb_invNet (s : State) (k : Nat) (x : ArbSt) : (setArb s k x).invNet = s.invNet := rfl
@[simp] theorem setArb_jrn (s : State) (k : Nat) (x : ArbSt) : (setArb s k x).jrn = s.jrn := rfl
@[simp] theorem setArb_led (s : State) (k : Nat) (x : ArbSt) : (setArb s k x).led = s.led := rfl
@[simp] theorem setArb_plumb (s : State) (k : Nat) (x : ArbSt) : (setArb s k x).plumb = s.plumb := rfl
@[simp] theorem setArb_ks (s : State) (k : Nat) (x : ArbSt) : (setArb s k x).ks = s.ks := rfl
@[simp] theorem setArb_pins (s : State) (k : Nat) (x : ArbSt) : (setArb s k x).pins = s.pins := rfl
@[simp] theorem setArb_gstat (s : State) (k : Nat) (x : ArbSt) : (setArb s k x).gstat = s.gstat := rfl
@[simp] theorem setArb_hubSt (s : State) (k : Nat) (x : ArbSt) : (setArb s k x).hubSt = s.hubSt := rfl
@[simp] theorem setArb_votes (s : State) (k : Nat) (x : ArbSt) : (setArb s k x).votes = s.votes := rfl
@[simp] theorem setArb_banks (s : State) (k : Nat) (x : ArbSt) : (setArb s k x).banks = s.banks := rfl
@[simp] theorem memRead_setArb (s : State) (k a : Nat) (x : ArbSt) : memRead (setArb s k x) a = memRead s a := rfl

/-! ### Memory -/

/-- A byte read after a byte write: the address written gives the byte, every other address what it gave. -/
@[simp] theorem memRead_memWrite (s : State) (a b : Nat) (v : Byte) : memRead (memWrite s a v) b = if b = a then v else memRead s b := by
  simp [memRead, memWrite]
@[simp] theorem getCore_memWrite (s : State) (a j : Nat) (v : Byte) : getCore (memWrite s a v) j = getCore s j := rfl
@[simp] theorem getPhys_memWrite (s : State) (a j : Nat) (v : Byte) : getPhys (memWrite s a v) j = getPhys s j := rfl
@[simp] theorem getCourse_memWrite (s : State) (a j : Nat) (v : Byte) : getCourse (memWrite s a v) j = getCourse s j := rfl
@[simp] theorem getSlice_memWrite (s : State) (a j : Nat) (v : Byte) : getSlice (memWrite s a v) j = getSlice s j := rfl
@[simp] theorem getMc_memWrite (s : State) (a j : Nat) (v : Byte) : getMc (memWrite s a v) j = getMc s j := rfl
@[simp] theorem getRp_memWrite (s : State) (a j : Nat) (v : Byte) : getRp (memWrite s a v) j = getRp s j := rfl
@[simp] theorem getCtx_memWrite (s : State) (a j : Nat) (v : Byte) : getCtx (memWrite s a v) j = getCtx s j := rfl
@[simp] theorem getChan_memWrite (s : State) (a j : Nat) (v : Byte) : getChan (memWrite s a v) j = getChan s j := rfl
@[simp] theorem getDom_memWrite (s : State) (a j : Nat) (v : Byte) : getDom (memWrite s a v) j = getDom s j := rfl
@[simp] theorem getBud_memWrite (s : State) (a j : Nat) (v : Byte) : getBud (memWrite s a v) j = getBud s j := rfl
@[simp] theorem getSrc_memWrite (s : State) (a j : Nat) (v : Byte) : getSrc (memWrite s a v) j = getSrc s j := rfl
@[simp] theorem getHub_memWrite (s : State) (a j : Nat) (v : Byte) : getHub (memWrite s a v) j = getHub s j := rfl
@[simp] theorem getAgent_memWrite (s : State) (a j : Nat) (v : Byte) : getAgent (memWrite s a v) j = getAgent s j := rfl
@[simp] theorem getArb_memWrite (s : State) (a j : Nat) (v : Byte) : getArb (memWrite s a v) j = getArb s j := rfl
@[simp] theorem memWrite_pending (s : State) (a : Nat) (v : Byte) : (memWrite s a v).pending = s.pending := rfl
@[simp] theorem memWrite_memPoison (s : State) (a : Nat) (v : Byte) : (memWrite s a v).memPoison = s.memPoison := rfl
@[simp] theorem memWrite_dramTop (s : State) (a : Nat) (v : Byte) : (memWrite s a v).dramTop = s.dramTop := rfl
@[simp] theorem memWrite_net (s : State) (a : Nat) (v : Byte) : (memWrite s a v).net = s.net := rfl
@[simp] theorem memWrite_memNet (s : State) (a : Nat) (v : Byte) : (memWrite s a v).memNet = s.memNet := rfl
@[simp] theorem memWrite_memAns (s : State) (a : Nat) (v : Byte) : (memWrite s a v).memAns = s.memAns := rfl
@[simp] theorem memWrite_ctlNet (s : State) (a : Nat) (v : Byte) : (memWrite s a v).ctlNet = s.ctlNet := rfl
@[simp] theorem memWrite_outNet (s : State) (a : Nat) (v : Byte) : (memWrite s a v).outNet = s.outNet := rfl
@[simp] theorem memWrite_invNet (s : State) (a : Nat) (v : Byte) : (memWrite s a v).invNet = s.invNet := rfl
@[simp] theorem memWrite_jrn (s : State) (a : Nat) (v : Byte) : (memWrite s a v).jrn = s.jrn := rfl
@[simp] theorem memWrite_led (s : State) (a : Nat) (v : Byte) : (memWrite s a v).led = s.led := rfl
@[simp] theorem memWrite_plumb (s : State) (a : Nat) (v : Byte) : (memWrite s a v).plumb = s.plumb := rfl
@[simp] theorem memWrite_ks (s : State) (a : Nat) (v : Byte) : (memWrite s a v).ks = s.ks := rfl
@[simp] theorem memWrite_pins (s : State) (a : Nat) (v : Byte) : (memWrite s a v).pins = s.pins := rfl
@[simp] theorem memWrite_gstat (s : State) (a : Nat) (v : Byte) : (memWrite s a v).gstat = s.gstat := rfl
@[simp] theorem memWrite_hubSt (s : State) (a : Nat) (v : Byte) : (memWrite s a v).hubSt = s.hubSt := rfl
@[simp] theorem memWrite_votes (s : State) (a : Nat) (v : Byte) : (memWrite s a v).votes = s.votes := rfl
@[simp] theorem memWrite_banks (s : State) (a : Nat) (v : Byte) : (memWrite s a v).banks = s.banks := rfl

theorem memRead_foldl_memWrite (f : Nat → Byte) (a b : Nat) (l : List Nat) (s : State) (h : ∀ i ∈ l, b ≠ a + i) :
    memRead (l.foldl (fun s i => memWrite s (a + i) (f i)) s) b = memRead s b := by
  induction l generalizing s with
  | nil => rfl
  | cons i r ih =>
    rw [List.foldl_cons, ih _ (fun j hj => h j (by simp [hj])), memRead_memWrite, if_neg (h i (by simp))]

theorem memRead_congr {s t : State} (h : s.mem = t.mem) (a : Nat) : memRead s a = memRead t a := by
  unfold memRead; rw [h]

theorem memSetLine_mem (s : State) (l : LineNo) (d : LineData) :
    (memSetLine s l d).mem = ((List.range 64).foldl (fun s i => memWrite s (l.toNat * 64 + i) (lineByte d i)) s).mem := by
  unfold memSetLine
  generalize (List.range 64) = r
  rfl

/-- A line write leaves every byte outside the line. -/
theorem memRead_memSetLine_ne (s : State) (l : LineNo) (d : LineData) (b : Nat) (h : b < l.toNat * 64 ∨ l.toNat * 64 + 64 ≤ b) :
    memRead (memSetLine s l d) b = memRead s b :=
  (memRead_congr (memSetLine_mem s l d) b).trans
    (memRead_foldl_memWrite (lineByte d) (l.toNat * 64) b (List.range 64) s (fun i hi => by have := List.mem_range.1 hi; omega))

end Sys2Proof.Machine
end

