-- ==== Sys2Proof/Laws/Issue.lean ====
section
/-! SUPPORT. What fetch, the checks and the token of a word leave alone: each operation keeps the core but for its TLBs and counts,
and everything else that `ElseSame` names. -/
namespace Sys2Proof.Machine
set_option linter.all false
set_option maxRecDepth 4000

/-- Core `n` is `A` as `archOf` sees it, and everything else is as in `s0`. -/
def Quiet (n : Nat) (A : Core) (s0 s : State) : Prop := archOf (getCore s n) = A ∧ ElseSame n s0 s

theorem ElseSame.refl (n : Nat) (s : State) : ElseSame n s s :=
  ⟨fun _ _ => rfl, fun _ => rfl, rfl, rfl, rfl, rfl, rfl, rfl, rfl, rfl, rfl, rfl, rfl, rfl, rfl, rfl, rfl, rfl, rfl, rfl, rfl, rfl, rfl, rfl, rfl⟩

theorem ElseSame.trans {n : Nat} {s t u : State} (h : ElseSame n s t) (k : ElseSame n t u) : ElseSame n s u :=
  ⟨fun j hj => (k.cores j hj).trans (h.cores j hj), fun a => (k.bytes a).trans (h.bytes a), k.poison.trans h.poison,
   k.courses.trans h.courses, k.slices.trans h.slices, k.mcs.trans h.mcs, k.rps.trans h.rps, k.doms.trans h.doms,
   k.held.trans h.held, k.net.trans h.net, k.ctlNet.trans h.ctlNet, k.outNet.trans h.outNet,
   k.phys.trans h.phys, k.ctxs.trans h.ctxs, k.chans.trans h.chans, k.cfgSpace.trans h.cfgSpace, k.winMsgs.trans h.winMsgs, k.sevs.trans h.sevs, k.memNet.trans h.memNet, k.memAns.trans h.memAns, k.msis.trans h.msis, k.invNet.trans h.invNet, k.ks.trans h.ks, k.pins.trans h.pins, k.plumb.trans h.plumb⟩

theorem quiet_refl {n : Nat} {s : State} : Quiet n (archOf (getCore s n)) s s := ⟨rfl, .refl n s⟩

theorem quiet_mk_eq {n : Nat} {A : Core} {s0 X : State} {x0 x1 x4 x13 x14 x15 x16 x21 x22 x23 x24 x25 x26 x27 x28 x29 x30 x31 x32 x33 x34 x35 x36 x37 x38 x39 x40 x41 x42 x43 x44 x46 x47 x54 x56 x57 x58 x59 x63 x64 x65 x66 x67 x68 x69 x70 x71 x72 x73 x74 x75 x76 x77 x78 x79 x80 x81 x82 x83 x84 x85 x86 x87 x88 x89 x90 x91 x92 x93 x94} :
    Quiet n A s0 (State.mk x0 x1 X.mem X.memPoison x4 X.cores X.phys X.courses X.slices X.mcs X.rps X.ctxs X.chans x13 x14 x15 x16 X.cfgSpace X.doms X.winHeld X.winMsgs x21 x22 x23 x24 x25 x26 x27 x28 x29 x30 x31 x32 x33 x34 x35 x36 x37 x38 x39 x40 x41 x42 x43 x44 X.sevs x46 x47 X.net X.memNet X.memAns X.msis X.ctlNet X.outNet x54 X.invNet x56 x57 x58 x59 X.plumb X.ks X.pins x63 x64 x65 x66 x67 x68 x69 x70 x71 x72 x73 x74 x75 x76 x77 x78 x79 x80 x81 x82 x83 x84 x85 x86 x87 x88 x89 x90 x91 x92 x93 x94) = Quiet n A s0 X := by
  refine propext ⟨fun h => ⟨h.1, h.2.trans ⟨fun _ _ => rfl, fun _ => rfl, rfl, rfl, rfl, rfl, rfl, rfl, rfl, rfl, rfl, rfl, rfl, rfl, rfl, rfl, rfl, rfl, rfl, rfl, rfl, rfl, rfl, rfl, rfl⟩⟩,
    fun h => ⟨h.1, h.2.trans ⟨fun _ _ => rfl, fun _ => rfl, rfl, rfl, rfl, rfl, rfl, rfl, rfl, rfl, rfl, rfl, rfl, rfl, rfl, rfl, rfl, rfl, rfl, rfl, rfl, rfl, rfl, rfl, rfl⟩⟩⟩

theorem setCore_quiet {n : Nat} {A : Core} {s0 s : State} {x : Core} (hx : archOf x = archOf (getCore s n)) (h : Quiet n A s0 s) :
    Quiet n A s0 (setCore s n x) := by
  refine ⟨by rw [getCore_setCore, if_pos rfl, hx]; exact h.1, h.2.trans ?_⟩
  exact ⟨fun k hk => by rw [getCore_setCore, if_neg hk], fun _ => rfl, rfl, rfl, rfl, rfl, rfl, rfl, rfl, rfl, rfl, rfl, rfl, rfl, rfl, rfl, rfl, rfl, rfl, rfl, rfl, rfl, rfl, rfl, rfl⟩

theorem modCore_quiet {n : Nat} {A : Core} {s0 s : State} {f : Core → Core} (hf : ∀ c, archOf (f c) = archOf c) (h : Quiet n A s0 s) :
    Quiet n A s0 (modCore s n f) := setCore_quiet (hf _) h

theorem quiet_ite {n : Nat} {A : Core} {s0 : State} {c : Prop} [Decidable c] {a b : State} (ha : c → Quiet n A s0 a) (hb : ¬c → Quiet n A s0 b) :
    Quiet n A s0 (if c then a else b) := by
  split
  · exact ha ‹_›
  · exact hb ‹_›

theorem quiet_foldl {n : Nat} {A : Core} {s0 : State} {α : Type} {f : State → α → State} {l : List α} {s : State}
    (hf : ∀ s x, Quiet n A s0 s → Quiet n A s0 (f s x)) (h : Quiet n A s0 s) : Quiet n A s0 (l.foldl f s) := by
  induction l generalizing s with
  | nil => exact h
  | cons a r ih => exact ih (hf s a h)

theorem setHub_quiet {n : Nat} {A : Core} {s0 s : State} {k : Nat} {x : HubCore} (h : Quiet n A s0 s) : Quiet n A s0 (setHub s k x) := by
  unfold setHub; rw [quiet_mk_eq]; exact h

theorem modHub_quiet {n : Nat} {A : Core} {s0 s : State} {k : Nat} {f : HubCore → HubCore} (h : Quiet n A s0 s) : Quiet n A s0 (modHub s k f) := by
  exact setHub_quiet h

theorem setSrc_quiet {n : Nat} {A : Core} {s0 s : State} {k : Nat} {x : Src} (h : Quiet n A s0 s) : Quiet n A s0 (setSrc s k x) := by
  unfold setSrc; rw [quiet_mk_eq]; exact h

theorem modSrc_quiet {n : Nat} {A : Core} {s0 s : State} {k : Nat} {f : Src → Src} (h : Quiet n A s0 s) : Quiet n A s0 (modSrc s k f) := by
  exact setSrc_quiet h

theorem stamped_quiet {n : Nat} {A : Core} {s0 s : State} {a : Nat} (h : Quiet n A s0 s) : Quiet n A s0 (stamped s a) := by
  unfold stamped setAgent; rw [quiet_mk_eq]; exact h

theorem hubChoose_quiet {n : Nat} {A : Core} {s0 s : State} {k : Nat} (h : Quiet n A s0 s) : Quiet n A s0 (hubChoose s k) := by
  unfold hubChoose
  split
  · exact h
  · split
    · exact quiet_ite (fun _ => h) (fun _ => modHub_quiet (stamped_quiet h))
    · exact modHub_quiet (stamped_quiet h)

theorem hubEval_quiet {n : Nat} {A : Core} {s0 s : State} {k : Nat} (h : Quiet n A s0 s) : Quiet n A s0 (hubEval s k) := by
  exact hubChoose_quiet (modHub_quiet h)

theorem hubEvalSrc_quiet {n : Nat} {A : Core} {s0 s : State} {k : Nat} (h : Quiet n A s0 s) : Quiet n A s0 (hubEvalSrc s k) := by
  unfold hubEvalSrc
  split
  · exact hubEval_quiet h
  · exact h

theorem setPend_quiet {n : Nat} {A : Core} {s0 s : State} {k : Nat} (h : Quiet n A s0 s) : Quiet n A s0 (setPend s k) := by
  unfold setPend
  exact quiet_ite (fun _ => hubEvalSrc_quiet (modSrc_quiet h)) (fun _ => h)

theorem archOf_pmSet (c : Core) (k : Nat) (v : Word64) : archOf (pmSet c k v) = archOf c := rfl

theorem pmBump_quiet {n : Nat} {A : Core} {s0 s : State} {i k : Nat} (h : Quiet n A s0 s) : Quiet n A s0 (pmBump s n i k) := by
  unfold pmBump
  extract_lets c
  split
  extract_lets c1 c2 s2
  have h1 : archOf c1 = archOf (getCore s n) := archOf_pmSet _ _ _
  split
  · have h2 : Quiet n A s0 s2 := setCore_quiet ((archOf_pmSet _ _ _).trans h1) h
    exact quiet_ite (fun _ => setPend_quiet h2) (fun _ => h2)
  · exact setCore_quiet h1 h

theorem coreEv_quiet {n : Nat} {A : Core} {s0 s : State} {ev k : Nat} {l : Option LineNo} (h : Quiet n A s0 s) : Quiet n A s0 (coreEv s n ev k l) := by
  unfold coreEv
  refine quiet_ite (fun _ => h) (fun _ => quiet_foldl (fun s i h => quiet_ite (fun _ => pmBump_quiet h) (fun _ => h)) h)

theorem countLed_quiet {n : Nat} {A : Core} {s0 s : State} {a t : Nat} {f : Counts → Counts} (h : Quiet n A s0 s) : Quiet n A s0 (countLed s a t f) := by
  unfold countLed countLedAt; rw [quiet_mk_eq]; exact h

theorem addUse_quiet {n : Nat} {A : Core} {s0 s : State} {a t r k : Nat} (h : Quiet n A s0 s) : Quiet n A s0 (addUse s a t r k) := by
  unfold addUse; rw [quiet_mk_eq]; exact h

theorem charge_quiet {n : Nat} {A : Core} {s0 s : State} {a t e : Nat} (h : Quiet n A s0 s) : Quiet n A s0 (charge s a t e) := by
  have h1 : Quiet n A s0 (countLed s a t (fun c => { c with pj := c.pj + e })) := countLed_quiet h
  unfold charge
  generalize countLed s a t (fun c => { c with pj := c.pj + e }) = s1 at h1 ⊢
  dsimp only
  refine quiet_ite (fun _ => by rw [quiet_mk_eq]; exact h1) (fun _ => addUse_quiet ?_)
  rw [quiet_mk_eq]; exact h1

theorem archOf_spend (c : Core) (now : Nat) : archOf (spend c now) = archOf c := by
  unfold spend
  extract_lets c1 c2 c3
  have h2 : archOf c2 = archOf c := by unfold c2; split <;> rfl
  have h3 : archOf c3 = archOf c := by unfold c3; split <;> exact h2
  split
  · exact h3
  · split <;> exact h3

theorem archOf_plIssue (c : Core) (now : Nat) : archOf (plIssue c now) = archOf c := by
  unfold plIssue; split <;> rfl

theorem useToken_quiet {n : Nat} {A : Core} {s0 s : State} {k : Option Nat} (h : Quiet n A s0 s) : Quiet n A s0 (useToken s n k) := by
  unfold useToken
  extract_lets c a t now c1 s1 s2 s3 s4 s5
  have h1 : Quiet n A s0 s1 := by
    refine setCore_quiet ?_ h
    split
    · rw [archOf_plIssue, archOf_spend]
    · exact archOf_spend _ _
  have h3 : Quiet n A s0 s3 := charge_quiet (countLed_quiet h1)
  have h4 : Quiet n A s0 s4 := quiet_ite (fun _ => addUse_quiet h3) (fun _ => quiet_ite (fun _ => coreEv_quiet (addUse_quiet h3)) (fun _ => h3))
  have h5 : Quiet n A s0 s5 := coreEv_quiet h4
  clear_value s5
  split
  · exact coreEv_quiet (coreEv_quiet h5)
  · exact coreEv_quiet h5

theorem l1tlbInstall_quiet {n : Nat} {A : Core} {s0 s : State} {f : Bool} {e : TlbEnt} (h : Quiet n A s0 s) : Quiet n A s0 (l1tlbInstall s n f e) := by
  unfold l1tlbInstall free
  dsimp only
  refine modCore_quiet (fun c => ?_) (by rw [quiet_mk_eq]; exact h)
  split <;> rfl

theorem xlate_quiet {n : Nat} {A : Core} {s0 s : State} {k : Kind} {l : Level} {lin : Nat} (h : Quiet n A s0 s) : Quiet n A s0 (xlate s n k l lin).2 := by
  unfold xlate
  split
  · exact h
  · extract_lets c r fetch l1 s1 c1 s2
    split
    · split
      · refine setCore_quiet ?_ h
        split <;> rfl
      · exact setCore_quiet rfl h
    · have h1 : Quiet n A s0 s1 := quiet_ite (fun _ => h) (fun _ => coreEv_quiet h)
      split
      · exact l1tlbInstall_quiet (setCore_quiet rfl h1)
      · exact setCore_quiet rfl h1
    · exact quiet_ite (fun _ => h) (fun _ => coreEv_quiet h)

theorem checkPart_quiet {n : Nat} {A : Core} {s0 s : State} {k : Kind} {l : Level} {at_ : Bool} {lin len : Nat} (h : Quiet n A s0 s) :
    Quiet n A s0 (checkPart s n k l at_ lin len).2 := by
  have h1 := xlate_quiet (k := k) (l := l) (lin := lin) h
  unfold checkPart
  generalize xlate s n k l lin = x at h1
  dsimp only
  split
  · exact h1
  · exact h1
  · repeat' split
    all_goals exact h1

theorem checkLin_quiet {n : Nat} {A : Core} {s0 s : State} {k : Kind} {l : Level} {at_ : Bool} {lin w : Nat} (h : Quiet n A s0 s) :
    Quiet n A s0 (checkLin s n k l at_ lin w).2 := by
  unfold checkLin
  split
  · exact checkPart_quiet h
  · extract_lets a
    have h1 := checkPart_quiet (k := k) (l := l) (at_ := at_) (lin := lin) (len := a) h
    rcases hx : checkPart s n k l at_ lin a with ⟨r, s1⟩
    rw [hx] at h1
    have h2 := checkPart_quiet (k := k) (l := l) (at_ := at_) (lin := lin + a) (len := w - a) h1
    rcases hy : checkPart s1 n k l at_ (lin + a) (w - a) with ⟨r2, s2⟩
    rw [hy] at h2
    cases r
    · dsimp only
      rw [hy]
      cases r2 <;> exact h2
    · exact h1
    · exact h1

theorem checkAcc_quiet {n : Nat} {A : Core} {s0 s : State} {sg : BitVec 3} {off : Word64} {w : Nat} {k : Kind} {al at_ : Bool} (h : Quiet n A s0 s) :
    Quiet n A s0 (checkAcc s n sg off w k al at_).2 := by
  unfold checkAcc
  dsimp only
  split
  · exact h
  · split
    · exact h
    · exact checkLin_quiet h

/-- A look at an L1I line's parity leaves the state, or the core without that line (R251). -/
theorem l1iCheck_cases (s : State) (n : Nat) (l : LineNo) :
    l1iCheck s n l = s ∨ ∀ mt, codeLine (getCore (l1iCheck s n l) n) l mt = none := by
  unfold l1iCheck
  dsimp only
  split
  · refine .inr (fun mt => ?_)
    unfold l1Par modCourse codeLine
    simp only [getCore_setCourse, getCore_setCore, if_pos]
    split <;> simp [List.find?_append, List.find?_filter]
  · exact .inl rfl

/-- A line that the core does not hold is not brought by a look at another's parity. -/
theorem l1iCheck_none {s : State} {n : Nat} {l : LineNo} {mt : MemType} (k : LineNo) (h : codeLine (getCore s n) l mt = none) :
    codeLine (getCore (l1iCheck s n k) n) l mt = none := by
  unfold l1iCheck
  dsimp only
  split
  · unfold l1Par modCourse codeLine at *
    simp only [getCore_setCourse, getCore_setCore, if_pos] at h ⊢
    by_cases hm : mt = .cached
    · simp only [hm, if_true, Option.map_eq_none_iff, List.find?_eq_none, List.mem_append, List.mem_filter] at h ⊢
      exact fun x hx => h x (hx.imp And.left And.left)
    · simp only [hm, if_false, Option.map_eq_none_iff, List.find?_eq_none, List.mem_filter] at h ⊢
      exact fun x hx => h x hx.1
  · exact h

theorem l1iChecks_cases (n : Nat) (ps : List Part) (s : State) :
    ps.foldl (fun s p => l1iCheck s n (lineOfPa p.pa)) s = s ∨
      ∃ p ∈ ps, ∀ mt, codeLine (getCore (ps.foldl (fun s p => l1iCheck s n (lineOfPa p.pa)) s) n) (lineOfPa p.pa) mt = none := by
  have keep : ∀ (l : LineNo) (ps : List Part) (s : State), (∀ mt, codeLine (getCore s n) l mt = none) →
      ∀ mt, codeLine (getCore (ps.foldl (fun s p => l1iCheck s n (lineOfPa p.pa)) s) n) l mt = none := by
    intro l ps
    induction ps with
    | nil => exact fun s h => h
    | cons a r ih => exact fun s h => ih _ (fun mt => l1iCheck_none _ (h mt))
  induction ps generalizing s with
  | nil => exact .inl rfl
  | cons a r ih =>
    rw [List.foldl_cons]
    rcases l1iCheck_cases s n (lineOfPa a.pa) with h | h
    · rw [h]
      rcases ih s with h2 | ⟨p, hp, h2⟩
      · exact .inl h2
      · exact .inr ⟨p, List.mem_cons_of_mem _ hp, h2⟩
    · exact .inr ⟨a, List.mem_cons_self, keep _ r _ h⟩

/-- A syllable that is fetched without a wait or a fault leaves the core (R227). -/
theorem fetchSyl_quiet {n : Nat} {A : Core} {s0 s : State} {pos : Nat} {u : Unit} {t : State} (h : Quiet n A s0 s) (e : fetchSyl s n pos = (.ok u, t)) :
    Quiet n A s0 t := by
  unfold fetchSyl at e
  extract_lets c off at e
  rw [ite_eq_iff] at e
  rcases e with ⟨-, e⟩ | ⟨-, e⟩
  · cases e; exact h
  split at e
  · cases e
  · rename_i lin _
    have h1 := checkLin_quiet (k := .fetch) (l := c.level) (at_ := false) (lin := lin) (w := 4) h
    generalize checkLin s n .fetch c.level false lin 4 = x at h1 e
    split at e
    · cases e
    · cases e
    · rename_i ps s1
      rw [ite_eq_iff] at e
      rcases e with ⟨-, e⟩ | ⟨-, e⟩
      · cases e
      have hc := l1iChecks_cases n ps s1
      dsimp only at e
      generalize ps.foldl (fun s p => l1iCheck s n (lineOfPa p.pa)) s1 = s2 at hc e
      split at e
      · cases e
      · rename_i hn
        rcases hc with rfl | ⟨p, hp, hq⟩
        · rw [ite_eq_iff] at e
          rcases e with ⟨-, e⟩ | ⟨-, e⟩
          · cases e
          · cases e; exact h1
        · have := List.find?_eq_none.1 hn p hp
          rw [hq] at this
          exact (this rfl).elim

/-- A word that is fetched without a wait or a fault leaves the core (R227). -/
theorem fetchWord_quiet {n : Nat} {A : Core} {s0 s : State} {k pos : Nat} {u : Unit} {t : State} (h : Quiet n A s0 s) (e : fetchWord n k pos s = (.ok u, t)) :
    Quiet n A s0 t := by
  induction k generalizing s pos with
  | zero => unfold fetchWord at e; cases e; exact h
  | succ k ih =>
    unfold fetchWord at e
    split at e
    · exact ih (fetchSyl_quiet h (by assumption)) e
    · rename_i hne
      exact (hne _ _ e).elim

end Sys2Proof.Machine
end

