-- ==== Sys2Proof/Laws/KeptOps.lean ====
section
/-! SUPPORT. What the shared operations keep: the queue of waiting commands, and memory in its canonical form. One lemma for each. -/
namespace Sys2Proof.Machine
set_option linter.all false
set_option maxRecDepth 4000

/-- The queue is `q`, and memory is in its canonical form: what every operation of the machine keeps. -/
def Kept (q : List Instr) (s : State) : Prop := s.pending = q ∧ Memory.wf s.mem = true

theorem kept_mk_eq {q : List Instr} {X : State} {x1 x3 x4 x5 x6 x7 x8 x9 x10 x11 x12 x13 x14 x15 x16 x17 x18 x19 x20 x21 x22 x23 x24 x25 x26 x27 x28 x29 x30 x31 x32 x33 x34 x35 x36 x37 x38 x39 x40 x41 x42 x43 x44 x45 x46 x47 x48 x49 x50 x51 x52 x53 x54 x55 x56 x57 x58 x59 x60 x61 x62 x63 x64 x65 x66 x67 x68 x69 x70 x71 x72 x73 x74 x75 x76 x77 x78 x79 x80 x81 x82 x83 x84 x85 x86 x87 x88 x89 x90 x91 x92 x93 x94} : Kept q (State.mk X.pending x1 X.mem x3 x4 x5 x6 x7 x8 x9 x10 x11 x12 x13 x14 x15 x16 x17 x18 x19 x20 x21 x22 x23 x24 x25 x26 x27 x28 x29 x30 x31 x32 x33 x34 x35 x36 x37 x38 x39 x40 x41 x42 x43 x44 x45 x46 x47 x48 x49 x50 x51 x52 x53 x54 x55 x56 x57 x58 x59 x60 x61 x62 x63 x64 x65 x66 x67 x68 x69 x70 x71 x72 x73 x74 x75 x76 x77 x78 x79 x80 x81 x82 x83 x84 x85 x86 x87 x88 x89 x90 x91 x92 x93 x94) = Kept q X := rfl

theorem kept_cut {q : List Instr} {s : State} {P : Prop} (h : Kept q s) (k : Kept q s → P) : P := k h
theorem kept_cut2 {q : List Instr} {β : Type} {s : β × State} {P : Prop} (h : Kept q s.2) (k : Kept q s.2 → P) : P := k h
theorem kept_cutQ {q : List Instr} {β : Type} {s : State × β} {P : Prop} (h : Kept q s.1) (k : Kept q s.1 → P) : P := k h

theorem kept_foldl {q : List Instr} {α : Type} {f : State → α → State} {l : List α} {s : State}
    (hf : ∀ s x, Kept q s → Kept q (f s x)) (h : Kept q s) : Kept q (l.foldl f s) := by
  induction l generalizing s with
  | nil => exact h
  | cons a r ih => exact ih (hf s a h)

theorem kept_foldl2 {q : List Instr} {α β : Type} {f : β × State → α → β × State} {l : List α} {s : β × State}
    (hf : ∀ s x, Kept q s.2 → Kept q (f s x).2) (h : Kept q s.2) : Kept q (l.foldl f s).2 := by
  induction l generalizing s with
  | nil => exact h
  | cons a r ih => exact ih (hf s a h)

theorem kept_foldlQ {q : List Instr} {α β : Type} {f : State × β → α → State × β} {l : List α} {s : State × β}
    (hf : ∀ s x, Kept q s.1 → Kept q (f s x).1) (h : Kept q s.1) : Kept q (l.foldl f s).1 := by
  induction l generalizing s with
  | nil => exact h
  | cons a r ih => exact ih (hf s a h)

theorem kept_ite {q : List Instr} {c : Prop} [Decidable c] {a b : State} (ha : c → Kept q a) (hb : ¬c → Kept q b) :
    Kept q (if c then a else b) := by
  split
  · exact ha ‹_›
  · exact hb ‹_›

theorem kept_eqP {q : List Instr} {β : Type} {X : β × State} {b : β} {t : State} (h : Kept q X.2) (e : X = (b, t)) : Kept q t := by
  rw [e] at h; exact h

theorem kept_eqP3 {q : List Instr} {β γ : Type} {X : β × γ × State} {b : β} {c : γ} {t : State} (h : Kept q X.2.2) (e : X = (b, c, t)) :
    Kept q t := by
  rw [e] at h; exact h

theorem kept_foldlE {q : List Instr} {α β : Type} {f : β × State → α → β × State} {l : List α} {s : β × State} {b : β} {t : State}
    (hf : ∀ s x, Kept q s.2 → Kept q (f s x).2) (h : Kept q s.2) (e : l.foldl f s = (b, t)) : Kept q t := by
  have := kept_foldl2 (l := l) hf h
  rw [e] at this
  exact this

/-! ### `Machine/Ops.lean` -/

theorem setCore_kept {q : List Instr} {s : State} {n : Nat} {c : Core} (hk : Kept q s) : Kept q (setCore s n c) := by
  unfold setCore
  repeat' first
    | (with_reducible assumption)
    | simp only [↓kept_mk_eq]

theorem modCore_kept {q : List Instr} {s : State} {n : Nat} {f : Core → Core} (hk : Kept q s) : Kept q (modCore s n f) := by
  unfold modCore
  repeat' first
    | (with_reducible assumption)
    | (with_reducible refine setCore_kept ?_)

theorem setPhys_kept {q : List Instr} {s : State} {p : Nat} {x : PhysCore} (hk : Kept q s) : Kept q (setPhys s p x) := by
  unfold setPhys
  repeat' first
    | (with_reducible assumption)
    | simp only [↓kept_mk_eq]

theorem setCourse_kept {q : List Instr} {s : State} {c : Nat} {x : Course} (hk : Kept q s) : Kept q (setCourse s c x) := by
  unfold setCourse
  repeat' first
    | (with_reducible assumption)
    | simp only [↓kept_mk_eq]

theorem modCourse_kept {q : List Instr} {s : State} {c : Nat} {f : Course → Course} (hk : Kept q s) : Kept q (modCourse s c f) := by
  unfold modCourse
  repeat' first
    | (with_reducible assumption)
    | (with_reducible refine setCourse_kept ?_)

theorem setSlice_kept {q : List Instr} {s : State} {c : Nat} {x : Slice} (hk : Kept q s) : Kept q (setSlice s c x) := by
  unfold setSlice
  repeat' first
    | (with_reducible assumption)
    | simp only [↓kept_mk_eq]

theorem modSlice_kept {q : List Instr} {s : State} {c : Nat} {f : Slice → Slice} (hk : Kept q s) : Kept q (modSlice s c f) := by
  unfold modSlice
  repeat' first
    | (with_reducible assumption)
    | (with_reducible refine setSlice_kept ?_)

theorem setMc_kept {q : List Instr} {s : State} {c : Nat} {x : Mc} (hk : Kept q s) : Kept q (setMc s c x) := by
  unfold setMc
  repeat' first
    | (with_reducible assumption)
    | simp only [↓kept_mk_eq]

theorem modMc_kept {q : List Instr} {s : State} {c : Nat} {f : Mc → Mc} (hk : Kept q s) : Kept q (modMc s c f) := by
  unfold modMc
  repeat' first
    | (with_reducible assumption)
    | (with_reducible refine setMc_kept ?_)

theorem setRp_kept {q : List Instr} {s : State} {c : Nat} {x : Rp} (hk : Kept q s) : Kept q (setRp s c x) := by
  unfold setRp
  repeat' first
    | (with_reducible assumption)
    | simp only [↓kept_mk_eq]

theorem modRp_kept {q : List Instr} {s : State} {c : Nat} {f : Rp → Rp} (hk : Kept q s) : Kept q (modRp s c f) := by
  unfold modRp
  repeat' first
    | (with_reducible assumption)
    | (with_reducible refine setRp_kept ?_)

theorem setCtx_kept {q : List Instr} {s : State} {k : Nat} {x : Ctx} (hk : Kept q s) : Kept q (setCtx s k x) := by
  unfold setCtx
  repeat' first
    | (with_reducible assumption)
    | simp only [↓kept_mk_eq]

theorem setChan_kept {q : List Instr} {s : State} {k : Nat} {x : Chan} (hk : Kept q s) : Kept q (setChan s k x) := by
  unfold setChan
  repeat' first
    | (with_reducible assumption)
    | simp only [↓kept_mk_eq]

theorem setDom_kept {q : List Instr} {s : State} {t : Nat} {x : Dom} (hk : Kept q s) : Kept q (setDom s t x) := by
  unfold setDom
  repeat' first
    | (with_reducible assumption)
    | simp only [↓kept_mk_eq]

theorem modDom_kept {q : List Instr} {s : State} {t : Nat} {f : Dom → Dom} (hk : Kept q s) : Kept q (modDom s t f) := by
  unfold modDom
  repeat' first
    | (with_reducible assumption)
    | (with_reducible refine setDom_kept ?_)

theorem setBud_kept {q : List Instr} {s : State} {t : Nat} {x : Bud} (hk : Kept q s) : Kept q (setBud s t x) := by
  unfold setBud
  repeat' first
    | (with_reducible assumption)
    | simp only [↓kept_mk_eq]

theorem modBud_kept {q : List Instr} {s : State} {t : Nat} {f : Bud → Bud} (hk : Kept q s) : Kept q (modBud s t f) := by
  unfold modBud
  repeat' first
    | (with_reducible assumption)
    | (with_reducible refine setBud_kept ?_)

theorem setSrc_kept {q : List Instr} {s : State} {k : Nat} {x : Src} (hk : Kept q s) : Kept q (setSrc s k x) := by
  unfold setSrc
  repeat' first
    | (with_reducible assumption)
    | simp only [↓kept_mk_eq]

theorem modSrc_kept {q : List Instr} {s : State} {k : Nat} {f : Src → Src} (hk : Kept q s) : Kept q (modSrc s k f) := by
  unfold modSrc
  repeat' first
    | (with_reducible assumption)
    | (with_reducible refine setSrc_kept ?_)

theorem setHub_kept {q : List Instr} {s : State} {n : Nat} {x : HubCore} (hk : Kept q s) : Kept q (setHub s n x) := by
  unfold setHub
  repeat' first
    | (with_reducible assumption)
    | simp only [↓kept_mk_eq]

theorem modHub_kept {q : List Instr} {s : State} {n : Nat} {f : HubCore → HubCore} (hk : Kept q s) : Kept q (modHub s n f) := by
  unfold modHub
  repeat' first
    | (with_reducible assumption)
    | (with_reducible refine setHub_kept ?_)

theorem setAgent_kept {q : List Instr} {s : State} {a : Nat} {x : Agent} (hk : Kept q s) : Kept q (setAgent s a x) := by
  unfold setAgent
  repeat' first
    | (with_reducible assumption)
    | simp only [↓kept_mk_eq]

theorem setArb_kept {q : List Instr} {s : State} {a : Nat} {x : ArbSt} (hk : Kept q s) : Kept q (setArb s a x) := by
  unfold setArb
  repeat' first
    | (with_reducible assumption)
    | simp only [↓kept_mk_eq]

theorem mapCores_kept {q : List Instr} {s : State} {f : Nat → Core → Core} (hk : Kept q s) : Kept q (mapCores s f) := by
  unfold mapCores
  repeat' first
    | (with_reducible assumption)
    | simp only [↓kept_mk_eq]

theorem free_kept' {q : List Instr} {s : State} (hk : Kept q s) : Kept q (free s).2 := by
  unfold free
  repeat' first
    | (with_reducible assumption)
    | simp only [↓kept_mk_eq]
theorem free_kept {q : List Instr} {s : State} {sR : State} {rR0} (hk : Kept q s) (e : free s = (rR0, sR)) : Kept q sR := by
  have := free_kept' (q := q) (s := s) hk
  rw [e] at this
  exact this

theorem stamped_kept {q : List Instr} {s : State} {a : Nat} (hk : Kept q s) : Kept q (stamped s a) := by
  unfold stamped
  repeat' first
    | (with_reducible assumption)
    | (intro x; subst x)
    | lift_lets
    | (with_reducible refine setAgent_kept ?_)

theorem received_kept {q : List Instr} {s : State} {a : Nat} {short : BitVec 24} (hk : Kept q s) : Kept q (received s a short) := by
  unfold received
  repeat' first
    | (with_reducible assumption)
    | (intro (x : Nat); clear_value x)
    | (intro x; subst x)
    | lift_lets
    | (with_reducible refine setAgent_kept ?_)
    | (with_reducible refine kept_ite (fun _ => ?_) (fun _ => ?_))

theorem qdrop_kept {q : List Instr} {s : State} (hk : Kept q s) : Kept q (qdrop s) := by
  unfold qdrop
  repeat' first
    | (with_reducible assumption)
    | (intro x; subst x)
    | lift_lets
    | simp only [↓kept_mk_eq]

theorem putRec_kept {q : List Instr} {s : State} {a : Nat} {stamp : Nat} {cls : Nat} {t : Tdid} {p : List Byte} (hk : Kept q s) : Kept q (putRec s a stamp cls t p) := by
  unfold putRec
  repeat' first
    | (with_reducible assumption)
    | (intro x; subst x)
    | lift_lets
    | (with_reducible refine setAgent_kept ?_)
    | (with_reducible refine qdrop_kept ?_)
    | (with_reducible refine kept_ite (fun _ => ?_) (fun _ => ?_))

theorem jrn_kept {q : List Instr} {s : State} {a : Nat} {cls : Nat} {t : Tdid} {payload : List Byte} (hk : Kept q s) : Kept q (jrn s a cls t payload) := by
  unfold jrn
  repeat' first
    | (with_reducible assumption)
    | (intro (x : Nat); clear_value x)
    | intro _
    | lift_lets
    | (with_reducible refine stamped_kept ?_)
    | (with_reducible refine putRec_kept ?_)
    | (with_reducible refine kept_foldl ?_ ?_)
    | split

theorem ctlErr_kept {q : List Instr} {s : State} (hk : Kept q s) : Kept q (ctlErr s) := by
  unfold ctlErr
  repeat' first
    | (with_reducible assumption)
    | simp only [↓kept_mk_eq]

theorem alert_kept {q : List Instr} {s : State} {b : Nat} (hk : Kept q s) : Kept q (alert s b) := by
  unfold alert
  repeat' first
    | (with_reducible assumption)
    | (intro x; subst x)
    | lift_lets
    | simp only [↓kept_mk_eq]

theorem send_kept {q : List Instr} {s : State} {m : Msg} (hk : Kept q s) : Kept q (send s m) := by
  unfold send
  repeat' first
    | (with_reducible assumption)
    | (intro x; refine kept_cut (q := q) (s := x) ?_ (fun _ => ?_) <;> [unfold x; clear_value x])
    | (intro (x : Nat); clear_value x)
    | lift_lets
    | (with_reducible refine stamped_kept ?_)
    | simp only [↓kept_mk_eq]

theorem take_kept {q : List Instr} {s : State} {m : Msg} (hk : Kept q s) : Kept q (take s m) := by
  unfold take
  repeat' first
    | (with_reducible assumption)
    | (intro x; refine kept_cut (q := q) (s := x) ?_ (fun _ => ?_) <;> [unfold x; clear_value x])
    | lift_lets
    | (with_reducible refine received_kept ?_)
    | simp only [↓kept_mk_eq]

theorem shortStamp_kept' {q : List Instr} {s : State} {a : Nat} (hk : Kept q s) : Kept q (shortStamp s a).2 := by
  unfold shortStamp
  repeat' first
    | (with_reducible assumption)
    | (with_reducible refine stamped_kept ?_)
theorem shortStamp_kept {q : List Instr} {s : State} {a : Nat} {sR : State} {rR0} (hk : Kept q s) (e : shortStamp s a = (rR0, sR)) : Kept q sR := by
  have := shortStamp_kept' (q := q) (s := s) (a := a) hk
  rw [e] at this
  exact this

theorem memWrite_kept {q : List Instr} {s : State} {a : Nat} {b : Byte} (h : Kept q s) : Kept q (memWrite s a b) :=
  ⟨h.1, twf_tset _ _ _ _ h.2⟩

theorem memSetLine_kept {q : List Instr} {s : State} {l : LineNo} {d : LineData} (hk : Kept q s) : Kept q (memSetLine s l d) := by
  have h : Kept q ((List.range 64).foldl (fun s i => memWrite s (l.toNat * 64 + i) (lineByte d i)) s) :=
    kept_foldl (fun s _ h => memWrite_kept h) hk
  unfold memSetLine
  generalize (List.range 64) = r at h ⊢
  rw [kept_mk_eq]
  exact h

theorem countLedAt_kept {q : List Instr} {s : State} {a : Nat} {t : Nat} {at_ : Nat} {f : Counts → Counts} (hk : Kept q s) : Kept q (countLedAt s a t at_ f) := by
  unfold countLedAt
  repeat' first
    | (with_reducible assumption)
    | (intro (x : Nat); clear_value x)
    | (intro x; subst x)
    | lift_lets
    | simp only [↓kept_mk_eq]

theorem countLed_kept {q : List Instr} {s : State} {a : Nat} {t : Nat} {f : Counts → Counts} (hk : Kept q s) : Kept q (countLed s a t f) := by
  unfold countLed
  repeat' first
    | (with_reducible assumption)
    | (with_reducible refine countLedAt_kept ?_)

theorem addUse_kept {q : List Instr} {s : State} {a : Nat} {t : Nat} {r : Nat} {k : Nat} (hk : Kept q s) : Kept q (addUse s a t r k) := by
  unfold addUse
  repeat' first
    | (with_reducible assumption)
    | simp only [↓kept_mk_eq]

theorem charge_kept {q : List Instr} {s : State} {a : Nat} {t : Nat} {e1 : Nat} (hk : Kept q s) : Kept q (charge s a t e1) := by
  unfold charge
  repeat' first
    | (with_reducible assumption)
    | (intro x; refine kept_cut (q := q) (s := x) ?_ (fun _ => ?_) <;> [unfold x; clear_value x])
    | (intro (x : Nat); clear_value x)
    | lift_lets
    | (with_reducible refine countLed_kept ?_)
    | (with_reducible refine addUse_kept ?_)
    | (with_reducible refine kept_ite (fun _ => ?_) (fun _ => ?_))
    | simp only [↓kept_mk_eq]

theorem clearResv_kept {q : List Instr} {s : State} {l : LineNo} {p : Nat → Bool} (hk : Kept q s) : Kept q (clearResv s l p) := by
  unfold clearResv
  repeat' first
    | (with_reducible assumption)
    | (with_reducible refine mapCores_kept ?_)

theorem clearHomeResv_kept {q : List Instr} {s : State} {l : LineNo} {p : Nat → Bool} (hk : Kept q s) : Kept q (clearHomeResv s l p) := by
  unfold clearHomeResv
  repeat' first
    | (with_reducible assumption)
    | (intro x; refine kept_cut (q := q) (s := x) ?_ (fun _ => ?_) <;> [unfold x; clear_value x])
    | (intro (x : Nat); clear_value x)
    | (intro x; subst x)
    | lift_lets
    | (with_reducible refine setSlice_kept ?_)
    | (with_reducible refine mapCores_kept ?_)

theorem releaseGrant_kept {q : List Instr} {s : State} {p : Nat} {n : Nat} {l : LineNo} (hk : Kept q s) : Kept q (releaseGrant s p n l) := by
  unfold releaseGrant
  repeat' first
    | (with_reducible assumption)
    | (intro x; refine kept_cut (q := q) (s := x) ?_ (fun _ => ?_) <;> [unfold x; clear_value x])
    | (intro x; subst x)
    | lift_lets
    | (with_reducible refine setRp_kept ?_)
    | (with_reducible refine kept_ite (fun _ => ?_) (fun _ => ?_))
    | simp only [↓kept_mk_eq]

theorem dropResv_kept {q : List Instr} {s : State} {n : Nat} (hk : Kept q s) : Kept q (dropResv s n) := by
  unfold dropResv
  repeat' first
    | (with_reducible assumption)
    | (intro x; refine kept_cut (q := q) (s := x) ?_ (fun _ => ?_) <;> [unfold x; clear_value x])
    | lift_lets
    | (with_reducible refine modCore_kept ?_)
    | (with_reducible refine modSlice_kept ?_)
    | (with_reducible refine releaseGrant_kept ?_)
    | simp only [↓kept_mk_eq]
    | split

theorem dropL1d_kept {q : List Instr} {s : State} {c : Nat} {l : LineNo} {keep : Nat → Bool} (hk : Kept q s) : Kept q (dropL1d s c l keep) := by
  unfold dropL1d
  repeat' first
    | (with_reducible assumption)
    | intro _
    | lift_lets
    | (with_reducible refine modCore_kept ?_)
    | (with_reducible refine kept_ite (fun _ => ?_) (fun _ => ?_))
    | (with_reducible refine kept_foldl ?_ ?_)

theorem setL2_kept {q : List Instr} {s : State} {c : Nat} {k : Nat} {v : L2Line} (hk : Kept q s) : Kept q (setL2 s c k v) := by
  unfold setL2
  repeat' first
    | (with_reducible assumption)
    | (with_reducible refine modCourse_kept ?_)

theorem l2Drop_kept {q : List Instr} {s : State} {c : Nat} {l : LineNo} (hk : Kept q s) : Kept q (l2Drop s c l) := by
  unfold l2Drop
  repeat' first
    | (with_reducible assumption)
    | (intro x; refine kept_cut (q := q) (s := x) ?_ (fun _ => ?_) <;> [unfold x; clear_value x])
    | lift_lets
    | (with_reducible refine clearResv_kept ?_)
    | (with_reducible refine dropL1d_kept ?_)
    | (with_reducible refine setL2_kept ?_)
    | split

theorem setL3_kept {q : List Instr} {s : State} {c : Nat} {k : Nat} {v : L3Line} (hk : Kept q s) : Kept q (setL3 s c k v) := by
  unfold setL3
  repeat' first
    | (with_reducible assumption)
    | (with_reducible refine modSlice_kept ?_)

theorem setDir_kept {q : List Instr} {s : State} {h : Nat} {k : Nat} {v : DirEnt} (hk : Kept q s) : Kept q (setDir s h k v) := by
  unfold setDir
  repeat' first
    | (with_reducible assumption)
    | (with_reducible refine modSlice_kept ?_)

theorem dirFree_kept {q : List Instr} {s : State} {h : Nat} {l : LineNo} (hk : Kept q s) : Kept q (dirFree s h l) := by
  unfold dirFree
  repeat' first
    | (with_reducible assumption)
    | (with_reducible refine modSlice_kept ?_)
    | split

theorem engServed_kept {q : List Instr} {s : State} {a : Nat} (hk : Kept q s) : Kept q (engServed s a) := by
  unfold engServed
  repeat' first
    | (with_reducible assumption)
    | simp only [↓kept_mk_eq]

theorem cohRead_kept' {q : List Instr} {s : State} {l : LineNo} {a : Nat} (hk : Kept q s) : Kept q (cohRead s l a).2 := by
  unfold cohRead
  repeat' first
    | (with_reducible assumption)
    | (intro x; refine kept_cut (q := q) (s := x) ?_ (fun _ => ?_) <;> [unfold x; clear_value x])
    | (intro x; subst x)
    | lift_lets
    | (with_reducible refine memSetLine_kept ?_)
    | (with_reducible refine setL2_kept ?_)
    | (with_reducible refine setDir_kept ?_)
    | (with_reducible refine engServed_kept ?_)
    | (with_reducible refine kept_ite (fun _ => ?_) (fun _ => ?_))
    | simp only [↓kept_mk_eq]
    | split
theorem cohRead_kept {q : List Instr} {s : State} {l : LineNo} {a : Nat} {sR : State} {rR0} (hk : Kept q s) (e : cohRead s l a = (rR0, sR)) : Kept q sR := by
  have := cohRead_kept' (q := q) (s := s) (l := l) (a := a) hk
  rw [e] at this
  exact this

theorem homeSet_kept {q : List Instr} {s : State} {l : LineNo} {v : LineData} (hk : Kept q s) : Kept q (homeSet s l v) := by
  unfold homeSet
  repeat' first
    | (with_reducible assumption)
    | (with_reducible refine memSetLine_kept ?_)
    | (with_reducible refine setL3_kept ?_)
    | split

theorem cohWrite_kept {q : List Instr} {s : State} {l : LineNo} {d : LineData} {mask : BitVec 64} {a : Nat} (hk : Kept q s) : Kept q (cohWrite s l d mask a) := by
  unfold cohWrite
  try generalize (List.range 32) = r32
  repeat' first
    | (with_reducible assumption)
    | (intro x; refine kept_cut (q := q) (s := x) ?_ (fun _ => ?_) <;> [unfold x; clear_value x])
    | (intro x; subst x)
    | intro _
    | lift_lets
    | (with_reducible refine clearHomeResv_kept ?_)
    | (with_reducible refine l2Drop_kept ?_)
    | (with_reducible refine dirFree_kept ?_)
    | (with_reducible refine engServed_kept ?_)
    | (with_reducible refine homeSet_kept ?_)
    | (with_reducible refine kept_foldl ?_ ?_)
    | simp only [↓kept_mk_eq]
    | split

/-! ### `Machine/HubOps.lean` -/

theorem hubChoose_kept {q : List Instr} {s : State} {n : Nat} (hk : Kept q s) : Kept q (hubChoose s n) := by
  unfold hubChoose
  repeat' first
    | (with_reducible assumption)
    | lift_lets
    | (with_reducible refine modHub_kept ?_)
    | (with_reducible refine stamped_kept ?_)
    | (with_reducible refine kept_ite (fun _ => ?_) (fun _ => ?_))
    | split

theorem hubEval_kept {q : List Instr} {s : State} {n : Nat} (hk : Kept q s) : Kept q (hubEval s n) := by
  unfold hubEval
  repeat' first
    | (with_reducible assumption)
    | lift_lets
    | (with_reducible refine modHub_kept ?_)
    | (with_reducible refine hubChoose_kept ?_)

theorem hubEvalSrc_kept {q : List Instr} {s : State} {id : Nat} (hk : Kept q s) : Kept q (hubEvalSrc s id) := by
  unfold hubEvalSrc
  repeat' first
    | (with_reducible assumption)
    | (with_reducible refine hubEval_kept ?_)
    | split

theorem setPend_kept {q : List Instr} {s : State} {id : Nat} (hk : Kept q s) : Kept q (setPend s id) := by
  unfold setPend
  repeat' first
    | (with_reducible assumption)
    | lift_lets
    | (with_reducible refine modSrc_kept ?_)
    | (with_reducible refine hubEvalSrc_kept ?_)
    | (with_reducible refine kept_ite (fun _ => ?_) (fun _ => ?_))

theorem pmBump_kept {q : List Instr} {s : State} {n : Nat} {i : Nat} {k : Nat} (hk : Kept q s) : Kept q (pmBump s n i k) := by
  unfold pmBump
  repeat' first
    | (with_reducible assumption)
    | (intro (x : Core); clear_value x)
    | lift_lets
    | (with_reducible refine setCore_kept ?_)
    | (with_reducible refine setPend_kept ?_)
    | (with_reducible refine kept_ite (fun _ => ?_) (fun _ => ?_))

theorem coreEv_kept {q : List Instr} {s : State} {n : Nat} {ev : Nat} {k : Nat} {line : Option LineNo} (hk : Kept q s) : Kept q (coreEv s n ev k line) := by
  unfold coreEv
  try generalize (List.range 8) = r8
  repeat' first
    | (with_reducible assumption)
    | (intro (x : Core); clear_value x)
    | intro _
    | lift_lets
    | (with_reducible refine pmBump_kept ?_)
    | (with_reducible refine kept_ite (fun _ => ?_) (fun _ => ?_))
    | (with_reducible refine kept_foldl ?_ ?_)

theorem coreEvH_kept {q : List Instr} {s : State} {n : Nat} {ev : Nat} {k : Nat} (hk : Kept q s) : Kept q (coreEvH s n ev k) := by
  unfold coreEvH
  try generalize (List.range 8) = r8
  repeat' first
    | (with_reducible assumption)
    | (intro (x : Core); clear_value x)
    | intro _
    | lift_lets
    | (with_reducible refine pmBump_kept ?_)
    | (with_reducible refine kept_ite (fun _ => ?_) (fun _ => ?_))
    | (with_reducible refine kept_foldl ?_ ?_)

theorem bkSet_kept {q : List Instr} {s : State} {b : Nat} {r : Nat} {v : Word64} (hk : Kept q s) : Kept q (bkSet s b r v) := by
  unfold bkSet
  repeat' first
    | (with_reducible assumption)
    | simp only [↓kept_mk_eq]

theorem bankEv_kept {q : List Instr} {s : State} {b : Nat} {ev : Nat} {k : Nat} {a : EvAttr} (hk : Kept q s) : Kept q (bankEv s b ev k a) := by
  unfold bankEv
  try generalize (List.range 4) = r4
  repeat' first
    | (with_reducible assumption)
    | intro _
    | lift_lets
    | (with_reducible refine bkSet_kept ?_)
    | (with_reducible refine kept_ite (fun _ => ?_) (fun _ => ?_))
    | (with_reducible refine kept_foldl ?_ ?_)

theorem setThreshold_kept {q : List Instr} {s : State} {n : Nat} {l : Level} {th : BitVec 8} (hk : Kept q s) : Kept q (setThreshold s n l th) := by
  unfold setThreshold
  repeat' first
    | (with_reducible assumption)
    | (intro x; refine kept_cut (q := q) (s := x) ?_ (fun _ => ?_) <;> [unfold x; clear_value x])
    | lift_lets
    | (with_reducible refine modCore_kept ?_)
    | (with_reducible refine modHub_kept ?_)
    | (with_reducible refine hubEval_kept ?_)
    | split

theorem setClaimId_kept {q : List Instr} {s : State} {n : Nat} {l : Level} {id : SrcId} (hk : Kept q s) : Kept q (setClaimId s n l id) := by
  unfold setClaimId
  repeat' first
    | (with_reducible assumption)
    | (with_reducible refine modHub_kept ?_)

theorem spurious_kept {q : List Instr} {s : State} (hk : Kept q s) : Kept q (spurious s) := by
  unfold spurious
  repeat' first
    | (with_reducible assumption)
    | simp only [↓kept_mk_eq]

theorem hubClaim_kept {q : List Instr} {s : State} {n : Nat} {l : Level} (hk : Kept q s) : Kept q (hubClaim s n l) := by
  unfold hubClaim
  repeat' first
    | (with_reducible assumption)
    | (intro x; subst x)
    | lift_lets
    | (with_reducible refine setSrc_kept ?_)
    | (with_reducible refine modHub_kept ?_)
    | (with_reducible refine hubEval_kept ?_)
    | (with_reducible refine hubEvalSrc_kept ?_)
    | (with_reducible refine setClaimId_kept ?_)
    | (with_reducible refine spurious_kept ?_)
    | (with_reducible refine kept_ite (fun _ => ?_) (fun _ => ?_))
    | simp only [↓kept_mk_eq]
    | split

theorem hubEoi_kept {q : List Instr} {s : State} {n : Nat} {l : Level} {k : Nat} (hk : Kept q s) : Kept q (hubEoi s n l k) := by
  unfold hubEoi
  repeat' first
    | (with_reducible assumption)
    | (intro x; subst x)
    | lift_lets
    | (with_reducible refine setSrc_kept ?_)
    | (with_reducible refine hubEval_kept ?_)
    | (with_reducible refine hubEvalSrc_kept ?_)
    | (with_reducible refine kept_ite (fun _ => ?_) (fun _ => ?_))
    | split

theorem threshWrite_kept {q : List Instr} {s : State} {n : Nat} {l : Level} {v : Word64} (hk : Kept q s) : Kept q (threshWrite s n l v) := by
  unfold threshWrite
  repeat' first
    | (with_reducible assumption)
    | (intro x; refine kept_cut (q := q) (s := x) ?_ (fun _ => ?_) <;> [unfold x; clear_value x])
    | lift_lets
    | (with_reducible refine setThreshold_kept ?_)
    | (with_reducible refine hubClaim_kept ?_)
    | (with_reducible refine hubEoi_kept ?_)
    | split

/-! ### `Machine/Volt.lean` -/

theorem setEff_kept {q : List Instr} {s : State} {n : Nat} {k : Nat} (hk : Kept q s) : Kept q (setEff s n k) := by
  unfold setEff
  repeat' first
    | (with_reducible assumption)
    | (with_reducible refine modCore_kept ?_)

theorem vseqLimit_kept {q : List Instr} {s : State} {c : Nat} {n : Nat} {k : Nat} (hk : Kept q s) : Kept q (vseqLimit s c n k) := by
  unfold vseqLimit
  repeat' first
    | (with_reducible assumption)
    | (intro x; refine kept_cut (q := q) (s := x) ?_ (fun _ => ?_) <;> [unfold x; clear_value x])
    | lift_lets
    | (with_reducible refine jrn_kept ?_)
    | simp only [↓kept_mk_eq]

theorem effRaise_kept {q : List Instr} {s : State} {c : Nat} (hk : Kept q s) : Kept q (effRaise s c) := by
  unfold effRaise
  repeat' first
    | (with_reducible assumption)
    | (intro x; refine kept_cut (q := q) (s := x) ?_ (fun _ => ?_) <;> [unfold x; clear_value x])
    | (intro (x : Nat); clear_value x)
    | (intro (x : Core); clear_value x)
    | (intro x; subst x)
    | intro _
    | lift_lets
    | (with_reducible refine setEff_kept ?_)
    | (with_reducible refine vseqLimit_kept ?_)
    | (with_reducible refine kept_ite (fun _ => ?_) (fun _ => ?_))
    | (with_reducible refine kept_foldl ?_ ?_)

theorem effLower_kept {q : List Instr} {s : State} {c : Nat} {v : Nat} (hk : Kept q s) : Kept q (effLower s c v) := by
  unfold effLower
  repeat' first
    | (with_reducible assumption)
    | (intro (x : Nat); clear_value x)
    | (intro (x : Core); clear_value x)
    | intro _
    | lift_lets
    | (with_reducible refine setEff_kept ?_)
    | (with_reducible refine kept_ite (fun _ => ?_) (fun _ => ?_))
    | (with_reducible refine kept_foldl ?_ ?_)

theorem seqEval_kept {q : List Instr} {s : State} {c : Nat} (hk : Kept q s) : Kept q (seqEval s c) := by
  unfold seqEval
  repeat' first
    | (with_reducible assumption)
    | (intro x; refine kept_cut (q := q) (s := x) ?_ (fun _ => ?_) <;> [unfold x; clear_value x])
    | (intro (x : Nat); clear_value x)
    | lift_lets
    | (with_reducible refine modCourse_kept ?_)
    | (with_reducible refine effRaise_kept ?_)
    | (with_reducible refine effLower_kept ?_)
    | (with_reducible refine kept_ite (fun _ => ?_) (fun _ => ?_))

theorem reinWrite_kept {q : List Instr} {s : State} {n : Nat} {v : Word64} (hk : Kept q s) : Kept q (reinWrite s n v) := by
  unfold reinWrite
  repeat' first
    | (with_reducible assumption)
    | (intro x; refine kept_cut (q := q) (s := x) ?_ (fun _ => ?_) <;> [unfold x; clear_value x])
    | (intro (x : Nat); clear_value x)
    | (intro (x : Core); clear_value x)
    | (intro x; subst x)
    | lift_lets
    | (with_reducible refine setCore_kept ?_)
    | (with_reducible refine setEff_kept ?_)
    | (with_reducible refine seqEval_kept ?_)
    | (with_reducible refine kept_ite (fun _ => ?_) (fun _ => ?_))

/-! ### `Machine/CtlRead.lean` -/

theorem cfgLoad_kept' {q : List Instr} {s : State} {o : Nat} (hk : Kept q s) : Kept q (cfgLoad s o).2 := by
  unfold cfgLoad
  repeat' first
    | (with_reducible assumption)
    | (intro x; refine kept_cut2 (q := q) (s := x) ?_ (fun _ => ?_) <;> [unfold x; clear_value x])
    | (intro (x : Nat); clear_value x)
    | lift_lets
    | (with_reducible refine free_kept' ?_)
    | split
theorem cfgLoad_kept {q : List Instr} {s : State} {o : Nat} {sR : State} {rR0} (hk : Kept q s) (e : cfgLoad s o = (rR0, sR)) : Kept q sR := by
  have := cfgLoad_kept' (q := q) (s := s) (o := o) hk
  rw [e] at this
  exact this

theorem ctlRead_kept' {q : List Instr} {s : State} {n : Nat} {off : Nat} {w : Nat} (hk : Kept q s) : Kept q (ctlRead s n off w).2 := by
  unfold ctlRead
  repeat' first
    | (with_reducible assumption)
    | (intro (x : Word64); clear_value x)
    | lift_lets
    | (with_reducible refine cfgLoad_kept' ?_)
    | split
theorem ctlRead_kept {q : List Instr} {s : State} {n : Nat} {off : Nat} {w : Nat} {sR : State} {rR0} (hk : Kept q s) (e : ctlRead s n off w = (rR0, sR)) : Kept q sR := by
  have := ctlRead_kept' (q := q) (s := s) (n := n) (off := off) (w := w) hk
  rw [e] at this
  exact this

/-! ### `Machine/NeverOps.lean` -/

theorem setDev_kept {q : List Instr} {s : State} {d : DevState} {cause : Nat} (hk : Kept q s) : Kept q (setDev s d cause) := by
  unfold setDev
  repeat' first
    | (with_reducible assumption)
    | (intro x; refine kept_cut (q := q) (s := x) ?_ (fun _ => ?_) <;> [unfold x; clear_value x])
    | (intro x; subst x)
    | lift_lets
    | (with_reducible refine jrn_kept ?_)
    | (with_reducible refine alert_kept ?_)
    | (with_reducible refine kept_ite (fun _ => ?_) (fun _ => ?_))
    | simp only [↓kept_mk_eq]

theorem syncFault_kept {q : List Instr} {s : State} (hk : Kept q s) : Kept q (syncFault s) := by
  unfold syncFault
  try generalize (List.range 8) = r8
  repeat' first
    | (with_reducible assumption)
    | (intro x; refine kept_cut (q := q) (s := x) ?_ (fun _ => ?_) <;> [unfold x; clear_value x])
    | (intro (x : Nat); clear_value x)
    | intro _
    | lift_lets
    | (with_reducible refine jrn_kept ?_)
    | (with_reducible refine setDev_kept ?_)
    | (with_reducible refine kept_ite (fun _ => ?_) (fun _ => ?_))
    | (with_reducible refine kept_foldl ?_ ?_)
    | simp only [↓kept_mk_eq]

theorem ksCmdRecord_kept {q : List Instr} {s : State} {p : Packet} {st : Nat} (hk : Kept q s) : Kept q (ksCmdRecord s p st) := by
  unfold ksCmdRecord
  repeat' first
    | (with_reducible assumption)
    | (with_reducible refine jrn_kept ?_)

theorem operationDone_kept {q : List Instr} {s : State} {p : Packet} {st : Nat} (hk : Kept q s) : Kept q (operationDone s p st) := by
  unfold operationDone
  repeat' first
    | (with_reducible assumption)
    | lift_lets
    | (with_reducible refine alert_kept ?_)
    | (with_reducible refine ksCmdRecord_kept ?_)

theorem setFault_kept {q : List Instr} {s : State} {b : Nat} (hk : Kept q s) : Kept q (setFault s b) := by
  unfold setFault
  repeat' first
    | (with_reducible assumption)
    | lift_lets
    | (with_reducible refine syncFault_kept ?_)
    | simp only [↓kept_mk_eq]

/-! ### `Machine/Predictor.lean` -/

theorem useToken_kept {q : List Instr} {s : State} {n : Nat} {k : Option Nat} (hk : Kept q s) : Kept q (useToken s n k) := by
  unfold useToken
  repeat' first
    | (with_reducible assumption)
    | (intro x; refine kept_cut (q := q) (s := x) ?_ (fun _ => ?_) <;> [unfold x; clear_value x])
    | (intro (x : Nat); clear_value x)
    | (intro (x : Core); clear_value x)
    | lift_lets
    | (with_reducible refine setCore_kept ?_)
    | (with_reducible refine countLed_kept ?_)
    | (with_reducible refine addUse_kept ?_)
    | (with_reducible refine charge_kept ?_)
    | (with_reducible refine coreEv_kept ?_)
    | (with_reducible refine kept_ite (fun _ => ?_) (fun _ => ?_))
    | split

theorem payOwed_kept {q : List Instr} {f : Nat} {s : State} {n : Nat} (hk : Kept q s) : Kept q (payOwed f s n) := by
  induction f generalizing s with
  | zero => exact hk
  | succ f ih =>
    unfold payOwed
    repeat' first
      | (with_reducible refine ih ?_)
      | (with_reducible assumption)
      | (intro (x : Core); clear_value x)
      | lift_lets
      | (with_reducible refine modCore_kept ?_)
      | (with_reducible refine useToken_kept ?_)
      | (with_reducible refine kept_ite (fun _ => ?_) (fun _ => ?_))

/-! ### `Machine/CourseOps.lean` -/

theorem openReq_kept {q : List Instr} {s : State} {c : Nat} {m : Msg} (hk : Kept q s) : Kept q (openReq s c m) := by
  unfold openReq
  repeat' first
    | (with_reducible assumption)
    | (intro x; refine kept_cut (q := q) (s := x) ?_ (fun _ => ?_) <;> [unfold x; clear_value x])
    | lift_lets
    | (with_reducible refine modCourse_kept ?_)
    | (with_reducible refine send_kept ?_)

theorem closeReq_kept {q : List Instr} {s : State} {c : Nat} {l : LineNo} (hk : Kept q s) : Kept q (closeReq s c l) := by
  unfold closeReq
  repeat' first
    | (with_reducible assumption)
    | (with_reducible refine modCourse_kept ?_)

theorem closeHome_kept {q : List Instr} {s : State} {c : Nat} {m : Msg} (hk : Kept q s) : Kept q (closeHome s c m) := by
  unfold closeHome
  repeat' first
    | (with_reducible assumption)
    | (with_reducible refine modCourse_kept ?_)

theorem evictFor_kept {q : List Instr} {s : State} {c : Nat} {e1 : L2Line} {t : Tdid} {key : Nat} (hk : Kept q s) : Kept q (evictFor s c e1 t key) := by
  unfold evictFor
  repeat' first
    | (with_reducible assumption)
    | (intro x; refine kept_cut (q := q) (s := x) ?_ (fun _ => ?_) <;> [unfold x; clear_value x])
    | (intro x; subst x)
    | lift_lets
    | (with_reducible refine modCourse_kept ?_)
    | (with_reducible refine send_kept ?_)
    | (with_reducible refine charge_kept ?_)
    | (with_reducible refine l2Drop_kept ?_)
    | (with_reducible refine bankEv_kept ?_)
    | simp only [↓kept_mk_eq]
    | split

theorem evict_kept {q : List Instr} {s : State} {c : Nat} {e1 : L2Line} {t : Tdid} (hk : Kept q s) : Kept q (evict s c e1 t) := by
  unfold evict
  repeat' first
    | (with_reducible assumption)
    | (with_reducible refine evictFor_kept ?_)

theorem l2Sound_kept' {q : List Instr} {s : State} {c : Nat} {e1 : L2Line} (hk : Kept q s) : Kept q (l2Sound s c e1).2 := by
  unfold l2Sound
  repeat' first
    | (with_reducible assumption)
    | (intro x; refine kept_cut (q := q) (s := x) ?_ (fun _ => ?_) <;> [unfold x; clear_value x])
    | (intro x; subst x)
    | lift_lets
    | (with_reducible refine modCourse_kept ?_)
    | (with_reducible refine jrn_kept ?_)
    | (with_reducible refine kept_ite (fun _ => ?_) (fun _ => ?_))
    | simp only [↓kept_mk_eq]
    | split
theorem l2Sound_kept {q : List Instr} {s : State} {c : Nat} {e1 : L2Line} {sR : State} {rR0} (hk : Kept q s) (e : l2Sound s c e1 = (rR0, sR)) : Kept q sR := by
  have := l2Sound_kept' (q := q) (s := s) (c := c) (e1 := e1) hk
  rw [e] at this
  exact this

theorem l2Check_kept {q : List Instr} {s : State} {c : Nat} {l : LineNo} (hk : Kept q s) : Kept q (l2Check s c l) := by
  unfold l2Check
  repeat' first
    | (with_reducible assumption)
    | lift_lets
    | (with_reducible refine setL2_kept ?_)
    | (with_reducible refine evictFor_kept ?_)
    | (with_reducible refine l2Sound_kept' ?_)
    | (with_reducible refine kept_ite (fun _ => ?_) (fun _ => ?_))
    | simp only [↓kept_mk_eq]
    | split

theorem l2Install_kept {q : List Instr} {s : State} {c : Nat} {l : LineNo} {d : LineData} {st : L2St} {t : Tdid} {sR : State} (hk : Kept q s) (e : l2Install s c l d st t = some sR) : Kept q sR := by
  unfold l2Install at e
  split at e
  · cases e; exact setL2_kept hk
  · dsimp only at e
    split at e
    · cases e; exact setL2_kept hk
    · split at e
      · cases e
      · cases e; exact setL2_kept (evict_kept (l2Check_kept (free_kept' hk)))

theorem l1dFill_kept {q : List Instr} {s : State} {n : Nat} {l : LineNo} (hk : Kept q s) : Kept q (l1dFill s n l) := by
  unfold l1dFill
  repeat' first
    | (with_reducible assumption)
    | (intro (x : Core); clear_value x)
    | (intro x; subst x)
    | lift_lets
    | (with_reducible refine setCore_kept ?_)
    | (with_reducible refine free_kept' ?_)
    | (with_reducible refine kept_ite (fun _ => ?_) (fun _ => ?_))

theorem l1iFill_kept {q : List Instr} {s : State} {n : Nat} {l : LineNo} {d : LineData} (hk : Kept q s) : Kept q (l1iFill s n l d) := by
  unfold l1iFill
  repeat' first
    | (with_reducible assumption)
    | (intro (x : Core); clear_value x)
    | (intro x; subst x)
    | lift_lets
    | (with_reducible refine setCore_kept ?_)
    | (with_reducible refine free_kept' ?_)
    | (with_reducible refine kept_ite (fun _ => ?_) (fun _ => ?_))

theorem l1Par_kept {q : List Instr} {s : State} {n : Nat} (hk : Kept q s) : Kept q (l1Par s n) := by
  unfold l1Par
  repeat' first
    | (with_reducible assumption)
    | (with_reducible refine modCourse_kept ?_)

theorem l1dCheck_kept {q : List Instr} {s : State} {n : Nat} {l : LineNo} (hk : Kept q s) : Kept q (l1dCheck s n l) := by
  unfold l1dCheck
  repeat' first
    | (with_reducible assumption)
    | (intro (x : Core); clear_value x)
    | lift_lets
    | (with_reducible refine setCore_kept ?_)
    | (with_reducible refine l1Par_kept ?_)
    | (with_reducible refine kept_ite (fun _ => ?_) (fun _ => ?_))

theorem l1iCheck_kept {q : List Instr} {s : State} {n : Nat} {l : LineNo} (hk : Kept q s) : Kept q (l1iCheck s n l) := by
  unfold l1iCheck
  repeat' first
    | (with_reducible assumption)
    | (intro (x : Core); clear_value x)
    | lift_lets
    | (with_reducible refine setCore_kept ?_)
    | (with_reducible refine l1Par_kept ?_)
    | (with_reducible refine kept_ite (fun _ => ?_) (fun _ => ?_))

theorem l2Store_kept {q : List Instr} {s : State} {c : Nat} {n : Nat} {k : Nat} {e1 : L2Line} {off : Nat} {bs : List PByte} (hk : Kept q s) : Kept q (l2Store s c n k e1 off bs) := by
  unfold l2Store
  repeat' first
    | (with_reducible assumption)
    | (intro x; refine kept_cut (q := q) (s := x) ?_ (fun _ => ?_) <;> [unfold x; clear_value x])
    | lift_lets
    | (with_reducible refine clearResv_kept ?_)
    | (with_reducible refine dropL1d_kept ?_)
    | (with_reducible refine setL2_kept ?_)

theorem l2Read_kept' {q : List Instr} {s : State} {n : Nat} {l : LineNo} {i : Nat} {u : ReqUse} {t : Tdid} {ep : BitVec 8} {atH : Bool} (hk : Kept q s) : Kept q (l2Read s n l i u t ep atH).2 := by
  unfold l2Read
  repeat' first
    | (with_reducible assumption)
    | (intro x; refine kept_cut (q := q) (s := x) ?_ (fun _ => ?_) <;> [unfold x; clear_value x])
    | (intro (x : Nat); clear_value x)
    | (intro x; subst x)
    | lift_lets
    | (with_reducible refine charge_kept ?_)
    | (with_reducible refine bankEv_kept ?_)
    | (with_reducible refine openReq_kept ?_)
    | (with_reducible refine l2Check_kept ?_)
    | split
theorem l2Read_kept {q : List Instr} {s : State} {n : Nat} {l : LineNo} {i : Nat} {u : ReqUse} {t : Tdid} {ep : BitVec 8} {atH : Bool} {sR : State} {rR0} (hk : Kept q s) (e : l2Read s n l i u t ep atH = (rR0, sR)) : Kept q sR := by
  have := l2Read_kept' (q := q) (s := s) (n := n) (l := l) (i := i) (u := u) (t := t) (ep := ep) (atH := atH) hk
  rw [e] at this
  exact this

end Sys2Proof.Machine
end

