-- ==== Sys2Proof/Laws/KeptCore.lean ====
section
/-! SUPPORT. What the operations of the cores keep: the queue of waiting commands, and memory in its canonical form. One lemma for each. -/
namespace Sys2Proof.Machine
set_option linter.all false
set_option maxRecDepth 4000

/-! ### `Machine/Translate.lean` -/

theorem l1tlbInstall_kept {q : List Instr} {s : State} {n : Nat} {fetch : Bool} {e1 : TlbEnt} (hk : Kept q s) : Kept q (l1tlbInstall s n fetch e1) := by
  unfold l1tlbInstall
  repeat' first
    | (with_reducible assumption)
    | (intro x; subst x)
    | lift_lets
    | (with_reducible refine modCore_kept ?_)
    | (with_reducible refine free_kept' ?_)

theorem xlate_kept' {q : List Instr} {s : State} {n : Nat} {k : Kind} {l : Level} {lin : Nat} (hk : Kept q s) : Kept q (xlate s n k l lin).2 := by
  unfold xlate
  repeat' first
    | (with_reducible assumption)
    | (intro x; refine kept_cut (q := q) (s := x) ?_ (fun _ => ?_) <;> [unfold x; clear_value x])
    | (intro (x : Core); clear_value x)
    | (intro x; subst x)
    | lift_lets
    | (with_reducible refine setCore_kept ?_)
    | (with_reducible refine coreEv_kept ?_)
    | (with_reducible refine l1tlbInstall_kept ?_)
    | (with_reducible refine kept_ite (fun _ => ?_) (fun _ => ?_))
    | simp only [↓kept_mk_eq]
    | split
theorem xlate_kept {q : List Instr} {s : State} {n : Nat} {k : Kind} {l : Level} {lin : Nat} {sR : State} {rR0} (hk : Kept q s) (e : xlate s n k l lin = (rR0, sR)) : Kept q sR := by
  have := xlate_kept' (q := q) (s := s) (n := n) (k := k) (l := l) (lin := lin) hk
  rw [e] at this
  exact this

theorem startWalk_kept {q : List Instr} {s : State} {n : Nat} {why : WalkFor} {k : Kind} {l : Level} {lin : Nat} (hk : Kept q s) : Kept q (startWalk s n why k l lin) := by
  unfold startWalk
  repeat' first
    | (with_reducible assumption)
    | (intro x; refine kept_cut (q := q) (s := x) ?_ (fun _ => ?_) <;> [unfold x; clear_value x])
    | (intro (x : Core); clear_value x)
    | (intro x; subst x)
    | lift_lets
    | (with_reducible refine modCore_kept ?_)
    | (with_reducible refine coreEv_kept ?_)
    | (with_reducible refine kept_ite (fun _ => ?_) (fun _ => ?_))

theorem checkPart_kept' {q : List Instr} {s : State} {n : Nat} {k : Kind} {l : Level} {atomic : Bool} {lin : Nat} {len : Nat} (hk : Kept q s) : Kept q (checkPart s n k l atomic lin len).2 := by
  unfold checkPart
  repeat' first
    | (with_reducible assumption)
    | (intro (x : Nat); clear_value x)
    | (intro (x : Core); clear_value x)
    | lift_lets
    | (with_reducible refine xlate_kept ?_ (by assumption))
    | simp only [↓kept_mk_eq]
    | split
theorem checkPart_kept {q : List Instr} {s : State} {n : Nat} {k : Kind} {l : Level} {atomic : Bool} {lin : Nat} {len : Nat} {sR : State} {rR0} (hk : Kept q s) (e : checkPart s n k l atomic lin len = (rR0, sR)) : Kept q sR := by
  have := checkPart_kept' (q := q) (s := s) (n := n) (k := k) (l := l) (atomic := atomic) (lin := lin) (len := len) hk
  rw [e] at this
  exact this

theorem checkLin_kept' {q : List Instr} {s : State} {n : Nat} {k : Kind} {l : Level} {atomic : Bool} {lin : Nat} {w : Nat} (hk : Kept q s) : Kept q (checkLin s n k l atomic lin w).2 := by
  unfold checkLin
  repeat' first
    | (with_reducible assumption)
    | (intro (x : Nat); clear_value x)
    | lift_lets
    | (with_reducible refine checkPart_kept ?_ (by assumption))
    | (with_reducible refine checkPart_kept' ?_)
    | split
theorem checkLin_kept {q : List Instr} {s : State} {n : Nat} {k : Kind} {l : Level} {atomic : Bool} {lin : Nat} {w : Nat} {sR : State} {rR0} (hk : Kept q s) (e : checkLin s n k l atomic lin w = (rR0, sR)) : Kept q sR := by
  have := checkLin_kept' (q := q) (s := s) (n := n) (k := k) (l := l) (atomic := atomic) (lin := lin) (w := w) hk
  rw [e] at this
  exact this

theorem checkAcc_kept' {q : List Instr} {s : State} {n : Nat} {seg : BitVec 3} {off : Word64} {w : Nat} {k : Kind} {aligned : Bool} {atomic : Bool} (hk : Kept q s) : Kept q (checkAcc s n seg off w k aligned atomic).2 := by
  unfold checkAcc
  repeat' first
    | (with_reducible assumption)
    | (intro (x : Core); clear_value x)
    | lift_lets
    | (with_reducible refine checkLin_kept' ?_)
    | split
theorem checkAcc_kept {q : List Instr} {s : State} {n : Nat} {seg : BitVec 3} {off : Word64} {w : Nat} {k : Kind} {aligned : Bool} {atomic : Bool} {sR : State} {rR0} (hk : Kept q s) (e : checkAcc s n seg off w k aligned atomic = (rR0, sR)) : Kept q sR := by
  have := checkAcc_kept' (q := q) (s := s) (n := n) (seg := seg) (off := off) (w := w) (k := k) (aligned := aligned) (atomic := atomic) hk
  rw [e] at this
  exact this

/-! ### `Machine/AccessOps.lean` -/

theorem sendOut_kept {q : List Instr} {s : State} {port : Nat} {r : OutReq} (hk : Kept q s) : Kept q (sendOut s port r) := by
  unfold sendOut
  repeat' first
    | (with_reducible assumption)
    | (with_reducible refine shortStamp_kept' ?_)
    | simp only [↓kept_mk_eq]

theorem setResv_kept {q : List Instr} {s : State} {n : Nat} {pa : PAddr} {lin : BitVec 48} {w : ResvAt} (hk : Kept q s) : Kept q (setResv s n pa lin w) := by
  unfold setResv
  repeat' first
    | (with_reducible assumption)
    | (intro x; refine kept_cut (q := q) (s := x) ?_ (fun _ => ?_) <;> [unfold x; clear_value x])
    | lift_lets
    | (with_reducible refine modCore_kept ?_)
    | (with_reducible refine dropResv_kept ?_)

theorem fillCached_kept' {q : List Instr} {s : State} {n : Nat} {a : OutAcc} {p : Part} (hk : Kept q s) : Kept q (fillCached s n a p).2.2 := by
  unfold fillCached
  repeat' first
    | (with_reducible assumption)
    | (intro x; refine kept_cut (q := q) (s := x) ?_ (fun _ => ?_) <;> [unfold x; clear_value x])
    | (intro (x : Nat); clear_value x)
    | (intro (x : Core); clear_value x)
    | (intro x; subst x)
    | lift_lets
    | (with_reducible refine dropResv_kept ?_)
    | (with_reducible refine coreEv_kept ?_)
    | (with_reducible refine openReq_kept ?_)
    | (with_reducible refine l2Check_kept ?_)
    | (with_reducible refine l1dFill_kept ?_)
    | (with_reducible refine l1dCheck_kept ?_)
    | (with_reducible refine l2Store_kept ?_)
    | (with_reducible refine l2Read_kept ?_ (by assumption))
    | (with_reducible refine setResv_kept ?_)
    | (with_reducible refine kept_ite (fun _ => ?_) (fun _ => ?_))
    | simp only [↓kept_mk_eq]
    | split
theorem fillCached_kept {q : List Instr} {s : State} {n : Nat} {a : OutAcc} {p : Part} {sR : State} {rR0} {rR1} (hk : Kept q s) (e : fillCached s n a p = (rR0, rR1, sR)) : Kept q sR := by
  have := fillCached_kept' (q := q) (s := s) (n := n) (a := a) (p := p) hk
  rw [e] at this
  exact this

theorem fillHome_kept' {q : List Instr} {s : State} {n : Nat} {a : OutAcc} {p : Part} (hk : Kept q s) : Kept q (fillHome s n a p).2.2 := by
  unfold fillHome
  repeat' first
    | (with_reducible assumption)
    | (intro (x : Nat); clear_value x)
    | (intro x; subst x)
    | lift_lets
    | (with_reducible refine send_kept ?_)
    | (with_reducible refine dropResv_kept ?_)
    | simp only [↓kept_mk_eq]
    | split
theorem fillHome_kept {q : List Instr} {s : State} {n : Nat} {a : OutAcc} {p : Part} {sR : State} {rR0} {rR1} (hk : Kept q s) (e : fillHome s n a p = (rR0, rR1, sR)) : Kept q sR := by
  have := fillHome_kept' (q := q) (s := s) (n := n) (a := a) (p := p) hk
  rw [e] at this
  exact this

theorem fillPort_kept' {q : List Instr} {s : State} {n : Nat} {port : Nat} {a : OutAcc} {p : Part} (hk : Kept q s) : Kept q (fillPort s n port a p).2.2 := by
  unfold fillPort
  repeat' first
    | (with_reducible assumption)
    | (intro (x : Nat); clear_value x)
    | (intro x; subst x)
    | lift_lets
    | (with_reducible refine dropResv_kept ?_)
    | (with_reducible refine sendOut_kept ?_)
    | simp only [↓kept_mk_eq]
    | split
theorem fillPort_kept {q : List Instr} {s : State} {n : Nat} {port : Nat} {a : OutAcc} {p : Part} {sR : State} {rR0} {rR1} (hk : Kept q s) (e : fillPort s n port a p = (rR0, rR1, sR)) : Kept q sR := by
  have := fillPort_kept' (q := q) (s := s) (n := n) (port := port) (a := a) (p := p) hk
  rw [e] at this
  exact this

theorem fillPart_kept' {q : List Instr} {s : State} {n : Nat} {a : OutAcc} {p : Part} (hk : Kept q s) : Kept q (fillPart s n a p).2.2 := by
  unfold fillPart
  repeat' first
    | (with_reducible assumption)
    | (with_reducible refine fillCached_kept' ?_)
    | (with_reducible refine fillHome_kept' ?_)
    | (with_reducible refine fillPort_kept' ?_)
    | split
theorem fillPart_kept {q : List Instr} {s : State} {n : Nat} {a : OutAcc} {p : Part} {sR : State} {rR0} {rR1} (hk : Kept q s) (e : fillPart s n a p = (rR0, rR1, sR)) : Kept q sR := by
  have := fillPart_kept' (q := q) (s := s) (n := n) (a := a) (p := p) hk
  rw [e] at this
  exact this

theorem fillParts_kept' {q : List Instr} {n : Nat} {a : OutAcc} {l : List Part} {s : State} (hk : Kept q s) : Kept q (fillParts n a l s).2.2 := by
  induction l generalizing s with
  | nil => exact hk
  | cons e r ih =>
    unfold fillParts
    repeat' first
      | (with_reducible refine ih ?_)
      | (with_reducible assumption)
      | lift_lets
      | (with_reducible refine fillPart_kept' ?_)
theorem fillParts_kept {q : List Instr} {n : Nat} {a : OutAcc} {l : List Part} {s : State} {sR : State} {rR0} {rR1} (hk : Kept q s) (e : fillParts n a l s = (rR0, rR1, sR)) : Kept q sR := by
  have h : Kept q (fillParts n a l s).2.2 := fillParts_kept' hk
  rw [e] at h
  exact h

theorem putAcc_kept {q : List Instr} {s : State} {n : Nat} {a : OutAcc} (hk : Kept q s) : Kept q (putAcc s n a) := by
  unfold putAcc
  repeat' first
    | (with_reducible assumption)
    | (with_reducible refine modCore_kept ?_)

theorem kickList_kept {q : List Instr} {n : Nat} {l : List Nat} {dev : Bool} {s : State} (hk : Kept q s) : Kept q (kickList n l dev s) := by
  induction l generalizing s dev with
  | nil => exact hk
  | cons e r ih =>
    unfold kickList
    repeat' first
      | (with_reducible exact ih ‹_›)
      | (with_reducible refine ih ?_)
      | (with_reducible assumption)
      | lift_lets
      | (with_reducible refine fillParts_kept' ?_)
      | (with_reducible refine putAcc_kept ?_)
      | (with_reducible refine kept_ite (fun _ => ?_) (fun _ => ?_))
      | simp only [↓kept_mk_eq]
      | split

theorem kick_kept {q : List Instr} {s : State} {n : Nat} (hk : Kept q s) : Kept q (kick s n) := by
  unfold kick
  repeat' first
    | (with_reducible assumption)
    | (with_reducible refine kickList_kept ?_)

theorem kickCourse_kept {q : List Instr} {s : State} {c : Nat} (hk : Kept q s) : Kept q (kickCourse s c) := by
  unfold kickCourse
  repeat' first
    | (with_reducible assumption)
    | intro _
    | lift_lets
    | (with_reducible refine kick_kept ?_)
    | (with_reducible refine kept_foldl ?_ ?_)

theorem popStore_kept {q : List Instr} {s : State} {n : Nat} (hk : Kept q s) : Kept q (popStore s n) := by
  unfold popStore
  repeat' first
    | (with_reducible assumption)
    | (intro x; subst x)
    | lift_lets
    | (with_reducible refine modCore_kept ?_)
    | (with_reducible refine kick_kept ?_)

theorem markSent_kept {q : List Instr} {s : State} {n : Nat} (hk : Kept q s) : Kept q (markSent s n) := by
  unfold markSent
  repeat' first
    | (with_reducible assumption)
    | (with_reducible refine modCore_kept ?_)

theorem drainHead_kept {q : List Instr} {s : State} {n : Nat} (hk : Kept q s) : Kept q (drainHead s n) := by
  unfold drainHead
  repeat' first
    | (with_reducible assumption)
    | (intro x; refine kept_cut (q := q) (s := x) ?_ (fun _ => ?_) <;> [unfold x; clear_value x])
    | (intro (x : Nat); clear_value x)
    | (intro (x : Core); clear_value x)
    | lift_lets
    | (with_reducible refine stamped_kept ?_)
    | (with_reducible refine send_kept ?_)
    | (with_reducible refine charge_kept ?_)
    | (with_reducible refine dropResv_kept ?_)
    | (with_reducible refine bankEv_kept ?_)
    | (with_reducible refine openReq_kept ?_)
    | (with_reducible refine l2Check_kept ?_)
    | (with_reducible refine l2Store_kept ?_)
    | (with_reducible refine sendOut_kept ?_)
    | (with_reducible refine popStore_kept ?_)
    | (with_reducible refine markSent_kept ?_)
    | (with_reducible refine kept_ite (fun _ => ?_) (fun _ => ?_))
    | simp only [↓kept_mk_eq]
    | split

theorem drainAll_kept {q : List Instr} {f : Nat} {s : State} {n : Nat} (hk : Kept q s) : Kept q (drainAll f s n) := by
  induction f generalizing s with
  | zero => exact hk
  | succ f ih =>
    unfold drainAll
    repeat' first
      | (with_reducible exact ih ‹_›)
      | (with_reducible assumption)
      | (intro x; refine kept_cut (q := q) (s := x) ?_ (fun _ => ?_) <;> [unfold x; clear_value x])
      | (intro (x : Nat); clear_value x)
      | lift_lets
      | (with_reducible refine drainHead_kept ?_)
      | (with_reducible refine kept_ite (fun _ => ?_) (fun _ => ?_))

theorem ctlAccess_kept {q : List Instr} {s : State} {n : Nat} {w : Nat} {off : Nat} (hk : Kept q s) : Kept q (ctlAccess s n w off) := by
  unfold ctlAccess
  repeat' first
    | (with_reducible assumption)
    | lift_lets
    | (with_reducible refine jrn_kept ?_)
    | (with_reducible refine ctlErr_kept ?_)

theorem ctlLoad_kept' {q : List Instr} {s : State} {n : Nat} {off : Nat} {w : Nat} (hk : Kept q s) : Kept q (ctlLoad s n off w).2 := by
  unfold ctlLoad
  repeat' first
    | (with_reducible assumption)
    | (with_reducible refine free_kept' ?_)
    | (with_reducible refine ctlRead_kept' ?_)
    | (with_reducible refine ctlAccess_kept ?_)
    | split
theorem ctlLoad_kept {q : List Instr} {s : State} {n : Nat} {off : Nat} {w : Nat} {sR : State} {rR0} (hk : Kept q s) (e : ctlLoad s n off w = (rR0, sR)) : Kept q sR := by
  have := ctlLoad_kept' (q := q) (s := s) (n := n) (off := off) (w := w) hk
  rw [e] at this
  exact this

theorem microPart_kept' {q : List Instr} {s : State} {n : Nat} {u : ReqUse} {t : Tdid} {ep : BitVec 8} {atH : Bool} {p : Part} (hk : Kept q s) : Kept q (microPart s n u t ep atH p).2 := by
  unfold microPart
  repeat' first
    | (with_reducible assumption)
    | (intro (x : Nat); clear_value x)
    | (intro (x : Core); clear_value x)
    | (intro x; subst x)
    | lift_lets
    | (with_reducible refine openReq_kept ?_)
    | (with_reducible refine l2Read_kept ?_ (by assumption))
    | (with_reducible refine sendOut_kept ?_)
    | (with_reducible refine ctlLoad_kept' ?_)
    | simp only [↓kept_mk_eq]
    | split
theorem microPart_kept {q : List Instr} {s : State} {n : Nat} {u : ReqUse} {t : Tdid} {ep : BitVec 8} {atH : Bool} {p : Part} {sR : State} {rR0} (hk : Kept q s) (e : microPart s n u t ep atH p = (rR0, sR)) : Kept q sR := by
  have := microPart_kept' (q := q) (s := s) (n := n) (u := u) (t := t) (ep := ep) (atH := atH) (p := p) hk
  rw [e] at this
  exact this

theorem microParts_kept' {q : List Instr} {n : Nat} {u : ReqUse} {t : Tdid} {ep : BitVec 8} {atH : Bool} {l : List Part} {s : State} (hk : Kept q s) : Kept q (microParts n u t ep atH l s).2 := by
  induction l generalizing s with
  | nil => exact hk
  | cons e r ih =>
    unfold microParts
    repeat' first
      | (with_reducible refine kept_eqP (ih ?_) (by assumption))
      | (with_reducible assumption)
      | lift_lets
      | (with_reducible refine microPart_kept ?_ (by assumption))
      | split
theorem microParts_kept {q : List Instr} {n : Nat} {u : ReqUse} {t : Tdid} {ep : BitVec 8} {atH : Bool} {l : List Part} {s : State} {sR : State} {rR0} (hk : Kept q s) (e : microParts n u t ep atH l s = (rR0, sR)) : Kept q sR := by
  have h : Kept q (microParts n u t ep atH l s).2 := microParts_kept' hk
  rw [e] at h
  exact h

theorem microRead_kept' {q : List Instr} {n : Nat} {u : ReqUse} {t : Tdid} {ep : BitVec 8} {atH : Bool} {ps : List Part} {s : State} (hk : Kept q s) : Kept q (microRead n u t ep atH ps s).2 := by
  unfold microRead
  repeat' first
    | (with_reducible assumption)
    | lift_lets
    | (with_reducible refine modCore_kept ?_)
    | (with_reducible refine microParts_kept ?_ (by assumption))
    | split
theorem microRead_kept {q : List Instr} {n : Nat} {u : ReqUse} {t : Tdid} {ep : BitVec 8} {atH : Bool} {ps : List Part} {s : State} {sR : State} {rR0} (hk : Kept q s) (e : microRead n u t ep atH ps s = (rR0, sR)) : Kept q sR := by
  have := microRead_kept' (q := q) (n := n) (u := u) (t := t) (ep := ep) (atH := atH) (ps := ps) (s := s) hk
  rw [e] at this
  exact this

/-! ### `Machine/SysRegs.lean` -/

theorem sysWrite_kept {q : List Instr} {s : State} {n : Nat} {num : Nat} {x : Reg} (hk : Kept q s) : Kept q (sysWrite s n num x) := by
  unfold sysWrite
  repeat' first
    | (with_reducible assumption)
    | (intro (x : Word64); clear_value x)
    | lift_lets
    | (with_reducible refine modCore_kept ?_)
    | (with_reducible refine modHub_kept ?_)
    | (with_reducible refine threshWrite_kept ?_)
    | (with_reducible refine reinWrite_kept ?_)
    | (with_reducible refine kept_ite (fun _ => ?_) (fun _ => ?_))
    | simp only [↓kept_mk_eq]
    | split

theorem rebindClear_kept {q : List Instr} {s : State} {n : Nat} (hk : Kept q s) : Kept q (rebindClear s n) := by
  unfold rebindClear
  repeat' first
    | (with_reducible assumption)
    | lift_lets
    | (with_reducible refine modCore_kept ?_)
    | (with_reducible refine dropResv_kept ?_)

theorem rebind_kept {q : List Instr} {s : State} {n : Nat} {v : Word64} (hk : Kept q s) : Kept q (rebind s n v) := by
  unfold rebind
  repeat' first
    | (with_reducible assumption)
    | (intro x; refine kept_cut (q := q) (s := x) ?_ (fun _ => ?_) <;> [unfold x; clear_value x])
    | (intro (x : Nat); clear_value x)
    | (intro (x : Core); clear_value x)
    | (intro x; subst x)
    | lift_lets
    | (with_reducible refine setCore_kept ?_)
    | (with_reducible refine stamped_kept ?_)
    | (with_reducible refine jrn_kept ?_)
    | (with_reducible refine ctlErr_kept ?_)
    | (with_reducible refine rebindClear_kept ?_)
    | (with_reducible refine kept_ite (fun _ => ?_) (fun _ => ?_))
    | simp only [↓kept_mk_eq]

/-! ### `Machine/TrapOps.lean` -/

theorem answer_kept {q : List Instr} {s : State} {n : Nat} {id : SrcId} {a : Answer} (hk : Kept q s) : Kept q (answer s n id a) := by
  unfold answer
  repeat' first
    | (with_reducible assumption)
    | (with_reducible refine shortStamp_kept' ?_)
    | simp only [↓kept_mk_eq]

theorem refuseOffer_kept {q : List Instr} {s : State} {n : Nat} (hk : Kept q s) : Kept q (refuseOffer s n) := by
  unfold refuseOffer
  repeat' first
    | (with_reducible assumption)
    | lift_lets
    | (with_reducible refine modCore_kept ?_)
    | (with_reducible refine coreEv_kept ?_)
    | (with_reducible refine answer_kept ?_)
    | split

theorem stopCore_kept {q : List Instr} {s : State} {n : Nat} {t : Trap} (hk : Kept q s) : Kept q (stopCore s n t) := by
  unfold stopCore
  repeat' first
    | (with_reducible assumption)
    | lift_lets
    | (with_reducible refine modCore_kept ?_)
    | (with_reducible refine refuseOffer_kept ?_)

theorem doubleTrap_kept {q : List Instr} {s : State} {n : Nat} {t : Trap} (hk : Kept q s) : Kept q (doubleTrap s n t) := by
  unfold doubleTrap
  repeat' first
    | (with_reducible assumption)
    | (intro (x : Core); clear_value x)
    | (intro x; subst x)
    | lift_lets
    | (with_reducible refine jrn_kept ?_)
    | (with_reducible refine stopCore_kept ?_)

theorem beginEntry_kept {q : List Instr} {s : State} {n : Nat} {t : Trap} (hk : Kept q s) : Kept q (beginEntry s n t) := by
  unfold beginEntry
  repeat' first
    | (with_reducible assumption)
    | (intro x; refine kept_cut (q := q) (s := x) ?_ (fun _ => ?_) <;> [unfold x; clear_value x])
    | (intro (x : Core); clear_value x)
    | (intro x; subst x)
    | lift_lets
    | (with_reducible refine setCore_kept ?_)
    | (with_reducible refine modCore_kept ?_)
    | (with_reducible refine coreEv_kept ?_)
    | (with_reducible refine doubleTrap_kept ?_)
    | (with_reducible refine kept_ite (fun _ => ?_) (fun _ => ?_))
    | split

theorem coreHalted_kept {q : List Instr} {s : State} {n : Nat} {cause : Nat} (hk : Kept q s) : Kept q (coreHalted s n cause) := by
  unfold coreHalted
  repeat' first
    | (with_reducible assumption)
    | (intro x; refine kept_cut (q := q) (s := x) ?_ (fun _ => ?_) <;> [unfold x; clear_value x])
    | lift_lets
    | (with_reducible refine modCore_kept ?_)
    | (with_reducible refine jrn_kept ?_)
    | (with_reducible refine alert_kept ?_)
    | (with_reducible refine syncFault_kept ?_)

theorem entryFault_kept {q : List Instr} {s : State} {n : Nat} {code : Nat} {addr : Nat} (hk : Kept q s) : Kept q (entryFault s n code addr) := by
  unfold entryFault
  repeat' first
    | (with_reducible assumption)
    | (intro (x : Core); clear_value x)
    | lift_lets
    | (with_reducible refine modCore_kept ?_)
    | (with_reducible refine coreEv_kept ?_)
    | (with_reducible refine answer_kept ?_)
    | (with_reducible refine doubleTrap_kept ?_)
    | (with_reducible refine coreHalted_kept ?_)
    | (with_reducible refine kept_ite (fun _ => ?_) (fun _ => ?_))
    | simp only [↓kept_mk_eq]
    | split

theorem routineRead_kept' {q : List Instr} {s : State} {n : Nat} {why : WalkFor} {l : Level} {lin : Nat} {w : Nat} (hk : Kept q s) : Kept q (routineRead s n why l lin w).2 := by
  unfold routineRead
  repeat' first
    | (with_reducible assumption)
    | (intro x; subst x)
    | lift_lets
    | (with_reducible refine startWalk_kept ?_)
    | (with_reducible refine checkLin_kept ?_ (by assumption))
    | (with_reducible refine microRead_kept ?_ (by assumption))
    | simp only [↓kept_mk_eq]
    | split
theorem routineRead_kept {q : List Instr} {s : State} {n : Nat} {why : WalkFor} {l : Level} {lin : Nat} {w : Nat} {sR : State} {rR0} (hk : Kept q s) (e : routineRead s n why l lin w = (rR0, sR)) : Kept q sR := by
  have := routineRead_kept' (q := q) (s := s) (n := n) (why := why) (l := l) (lin := lin) (w := w) hk
  rw [e] at this
  exact this

theorem framePart_kept' {q : List Instr} {s : State} {n : Nat} {why : WalkFor} {l : Level} {base : Nat} {limit : Nat} (hk : Kept q s) : Kept q (framePart s n why l base limit).2 := by
  unfold framePart
  repeat' first
    | (with_reducible assumption)
    | (intro (x : Nat); clear_value x)
    | lift_lets
    | (with_reducible refine startWalk_kept ?_)
    | (with_reducible refine checkLin_kept ?_ (by assumption))
    | split
theorem framePart_kept {q : List Instr} {s : State} {n : Nat} {why : WalkFor} {l : Level} {base : Nat} {limit : Nat} {sR : State} {rR0} (hk : Kept q s) (e : framePart s n why l base limit = (rR0, sR)) : Kept q sR := by
  have := framePart_kept' (q := q) (s := s) (n := n) (why := why) (l := l) (base := base) (limit := limit) hk
  rw [e] at this
  exact this

theorem descStep_kept' {q : List Instr} {s : State} {n : Nat} {why : WalkFor} {l : Level} {i : Nat} (hk : Kept q s) : Kept q (descStep s n why l i).2 := by
  unfold descStep
  repeat' first
    | (with_reducible assumption)
    | (intro (x : Nat); clear_value x)
    | (intro (x : Core); clear_value x)
    | lift_lets
    | (with_reducible refine routineRead_kept ?_ (by assumption))
    | (with_reducible refine framePart_kept ?_ (by assumption))
    | split
theorem descStep_kept {q : List Instr} {s : State} {n : Nat} {why : WalkFor} {l : Level} {i : Nat} {sR : State} {rR0} (hk : Kept q s) (e : descStep s n why l i = (rR0, sR)) : Kept q sR := by
  have := descStep_kept' (q := q) (s := s) (n := n) (why := why) (l := l) (i := i) hk
  rw [e] at this
  exact this

theorem entryCommit_kept {q : List Instr} {s : State} {n : Nat} {e1 : Entry} {handler : Word64} {seg : Option (Nat × Nat × Part)} (hk : Kept q s) : Kept q (entryCommit s n e1 handler seg) := by
  unfold entryCommit
  repeat' first
    | (with_reducible assumption)
    | (intro x; refine kept_cut (q := q) (s := x) ?_ (fun _ => ?_) <;> [unfold x; clear_value x])
    | (intro (x : Core); clear_value x)
    | (intro x; subst x)
    | lift_lets
    | (with_reducible refine setCore_kept ?_)
    | (with_reducible refine dropResv_kept ?_)

theorem staleRecord_kept {q : List Instr} {s : State} {n : Nat} {kind : Nat} {aimed : BitVec 8} {id : Option SrcId} (hk : Kept q s) : Kept q (staleRecord s n kind aimed id) := by
  unfold staleRecord
  repeat' first
    | (with_reducible assumption)
    | (intro (x : Core); clear_value x)
    | (intro x; subst x)
    | lift_lets
    | (with_reducible refine jrn_kept ?_)
    | (with_reducible refine coreEv_kept ?_)

theorem turnAway_kept {q : List Instr} {s : State} {n : Nat} {o : Offer} {stale : Bool} (hk : Kept q s) : Kept q (turnAway s n o stale) := by
  unfold turnAway
  repeat' first
    | (with_reducible assumption)
    | (intro x; refine kept_cut (q := q) (s := x) ?_ (fun _ => ?_) <;> [unfold x; clear_value x])
    | lift_lets
    | (with_reducible refine modCore_kept ?_)
    | (with_reducible refine coreEv_kept ?_)
    | (with_reducible refine answer_kept ?_)
    | (with_reducible refine staleRecord_kept ?_)
    | (with_reducible refine kept_ite (fun _ => ?_) (fun _ => ?_))

theorem wakeCore_kept {q : List Instr} {s : State} {n : Nat} {reason : Nat} (hk : Kept q s) : Kept q (wakeCore s n reason) := by
  unfold wakeCore
  repeat' first
    | (with_reducible assumption)
    | (intro (x : Nat); clear_value x)
    | lift_lets
    | (with_reducible refine modCore_kept ?_)

theorem acceptOffer_kept {q : List Instr} {s : State} {n : Nat} {o : Offer} (hk : Kept q s) : Kept q (acceptOffer s n o) := by
  unfold acceptOffer
  repeat' first
    | (with_reducible assumption)
    | lift_lets
    | (with_reducible refine modCore_kept ?_)
    | (with_reducible refine coreEv_kept ?_)
    | (with_reducible refine answer_kept ?_)

theorem beginInterrupt_kept {q : List Instr} {s : State} {n : Nat} {o : Offer} {aband : Bool} (hk : Kept q s) : Kept q (beginInterrupt s n o aband) := by
  unfold beginInterrupt
  repeat' first
    | (with_reducible assumption)
    | (with_reducible refine modCore_kept ?_)

/-! ### `Machine/WalkOps.lean` -/

theorem prefetch_kept {q : List Instr} {s : State} {n : Nat} {lin : Nat} (hk : Kept q s) : Kept q (prefetch s n lin) := by
  unfold prefetch
  repeat' first
    | (with_reducible assumption)
    | (intro (x : Core); clear_value x)
    | (intro x; subst x)
    | lift_lets
    | (with_reducible refine openReq_kept ?_)
    | (with_reducible refine startWalk_kept ?_)
    | (with_reducible refine checkLin_kept ?_ (by assumption))
    | (with_reducible refine kept_ite (fun _ => ?_) (fun _ => ?_))
    | simp only [↓kept_mk_eq]
    | split

theorem walkFault_kept {q : List Instr} {s : State} {n : Nat} {w : Walk} {code : Nat} (hk : Kept q s) : Kept q (walkFault s n w code) := by
  unfold walkFault
  repeat' first
    | (with_reducible assumption)
    | (intro x; refine kept_cut (q := q) (s := x) ?_ (fun _ => ?_) <;> [unfold x; clear_value x])
    | (intro (x : Core); clear_value x)
    | lift_lets
    | (with_reducible refine setCore_kept ?_)
    | (with_reducible refine modCore_kept ?_)
    | (with_reducible refine entryFault_kept ?_)
    | (with_reducible refine kept_ite (fun _ => ?_) (fun _ => ?_))
    | split

theorem installLeaf_kept {q : List Instr} {s : State} {n : Nat} {w : Walk} {pte : Word64} (hk : Kept q s) : Kept q (installLeaf s n w pte) := by
  unfold installLeaf
  repeat' first
    | (with_reducible assumption)
    | (intro x; subst x)
    | lift_lets
    | (with_reducible refine modCore_kept ?_)
    | (with_reducible refine l1tlbInstall_kept ?_)

theorem walkStep_kept {q : List Instr} {s : State} {n : Nat} (hk : Kept q s) : Kept q (walkStep s n) := by
  unfold walkStep
  repeat' first
    | (with_reducible assumption)
    | lift_lets
    | (with_reducible refine modCore_kept ?_)
    | (with_reducible refine free_kept' ?_)
    | (with_reducible refine microRead_kept ?_ (by assumption))
    | (with_reducible refine prefetch_kept ?_)
    | (with_reducible refine walkFault_kept ?_)
    | (with_reducible refine installLeaf_kept ?_)
    | (with_reducible refine kept_ite (fun _ => ?_) (fun _ => ?_))
    | simp only [↓kept_mk_eq]
    | split

theorem lockPage_kept {q : List Instr} {s : State} {n : Nat} {lin : Nat} (hk : Kept q s) : Kept q (lockPage s n lin) := by
  unfold lockPage
  repeat' first
    | (with_reducible assumption)
    | (intro (x : Core); clear_value x)
    | (intro x; subst x)
    | lift_lets
    | (with_reducible refine setCore_kept ?_)
    | (with_reducible refine coreEv_kept ?_)
    | (with_reducible refine kept_ite (fun _ => ?_) (fun _ => ?_))
    | split

theorem unlockPage_kept {q : List Instr} {s : State} {n : Nat} {lin : Nat} (hk : Kept q s) : Kept q (unlockPage s n lin) := by
  unfold unlockPage
  repeat' first
    | (with_reducible assumption)
    | (with_reducible refine modCore_kept ?_)

theorem invalidate_kept {q : List Instr} {s : State} {n : Nat} {i : InvScope} (hk : Kept q s) : Kept q (invalidate s n i) := by
  unfold invalidate
  repeat' first
    | (with_reducible assumption)
    | (intro x; refine kept_cut (q := q) (s := x) ?_ (fun _ => ?_) <;> [unfold x; clear_value x])
    | (intro (x : Core); clear_value x)
    | (intro x; subst x)
    | lift_lets
    | (with_reducible refine setCore_kept ?_)
    | (with_reducible refine modCore_kept ?_)

/-! ### `Machine/Issue.lean` -/

theorem askLine_kept {q : List Instr} {s : State} {n : Nat} {p : Part} (hk : Kept q s) : Kept q (askLine s n p) := by
  unfold askLine
  repeat' first
    | (with_reducible assumption)
    | (intro x; refine kept_cut (q := q) (s := x) ?_ (fun _ => ?_) <;> [unfold x; clear_value x])
    | (intro (x : Nat); clear_value x)
    | (intro (x : Core); clear_value x)
    | (intro x; subst x)
    | lift_lets
    | (with_reducible refine setCore_kept ?_)
    | (with_reducible refine coreEv_kept ?_)
    | (with_reducible refine microPart_kept' ?_)
    | (with_reducible refine kept_ite (fun _ => ?_) (fun _ => ?_))

theorem fetchSyl_kept' {q : List Instr} {s : State} {n : Nat} {pos : Nat} (hk : Kept q s) : Kept q (fetchSyl s n pos).2 := by
  unfold fetchSyl
  repeat' first
    | (with_reducible assumption)
    | (intro (x : Nat); clear_value x)
    | (intro (x : Core); clear_value x)
    | intro _
    | lift_lets
    | (with_reducible refine l1iCheck_kept ?_)
    | (with_reducible refine startWalk_kept ?_)
    | (with_reducible refine checkLin_kept ?_ (by assumption))
    | (with_reducible refine askLine_kept ?_)
    | (with_reducible refine kept_foldl ?_ ?_)
    | simp only [↓kept_mk_eq]
    | split
theorem fetchSyl_kept {q : List Instr} {s : State} {n : Nat} {pos : Nat} {sR : State} {rR0} (hk : Kept q s) (e : fetchSyl s n pos = (rR0, sR)) : Kept q sR := by
  have := fetchSyl_kept' (q := q) (s := s) (n := n) (pos := pos) hk
  rw [e] at this
  exact this

theorem fetchWord_kept' {q : List Instr} {n : Nat} {f pos : Nat} {s : State} (hk : Kept q s) : Kept q (fetchWord n f pos s).2 := by
  induction f generalizing s pos with
  | zero => exact hk
  | succ f ih =>
    unfold fetchWord
    repeat' first
      | (with_reducible refine ih ?_)
      | (with_reducible assumption)
      | lift_lets
      | (with_reducible refine fetchSyl_kept ?_ (by assumption))
      | (with_reducible refine fetchSyl_kept' ?_)
      | split
theorem fetchWord_kept {q : List Instr} {n : Nat} {f pos : Nat} {s : State} {sR : State} {rR0} (hk : Kept q s) (e : fetchWord n f pos s = (rR0, sR)) : Kept q sR := by
  have h : Kept q (fetchWord n f pos s).2 := fetchWord_kept' hk
  rw [e] at h
  exact h

theorem maintCheck_kept' {q : List Instr} {s : State} {n : Nat} {op : MaintOp} {seg : BitVec 3} {off : Word64} (hk : Kept q s) :
    Kept q (maintCheck s n op seg off).2 := by
  unfold maintCheck
  lift_lets
  intro c acc seg1
  have hacc : ∀ k s, Kept q s → Kept q (acc k s).2 := by
    intro k s h
    unfold acc
    try dsimp only
    repeat' first
    | (with_reducible assumption)
    | lift_lets
    | (with_reducible refine startWalk_kept ?_)
    | (with_reducible refine checkAcc_kept ?_ (by assumption))
    | split
  have hseg : ∀ s, Kept q s → Kept q (seg1 s).2 := by
    intro s h
    unfold seg1
    try dsimp only
    split <;> exact h
  clear_value acc seg1
  repeat' first
    | (with_reducible assumption)
    | lift_lets
    | (with_reducible refine startWalk_kept ?_)
    | (with_reducible refine checkLin_kept ?_ (by assumption))
    | (with_reducible refine kept_eqP (hacc _ _ ?_) (by assumption))
    | (with_reducible refine hacc _ _ ?_)
    | (with_reducible refine hseg _ ?_)
    | split
theorem maintCheck_kept {q : List Instr} {s : State} {n : Nat} {op : MaintOp} {seg : BitVec 3} {off : Word64} {sR : State} {rR0}
    (hk : Kept q s) (e : maintCheck s n op seg off = (rR0, sR)) : Kept q sR := kept_eqP (maintCheck_kept' hk) e

theorem mCheck_kept' {q : List Instr} {s : State} {n : Nat} {a : Act} (hk : Kept q s) : Kept q (mCheck s n a).2 := by
  unfold mCheck
  lift_lets
  intro c acc
  have hacc : ∀ seg off w k al at_ , Kept q (acc seg off w k al at_).2 := by
    intro seg off w k al at_
    unfold acc
    try dsimp only
    repeat' first
    | (with_reducible assumption)
    | lift_lets
    | (with_reducible refine startWalk_kept ?_)
    | (with_reducible refine checkAcc_kept ?_ (by assumption))
    | split
  clear_value acc
  repeat' first
    | (with_reducible assumption)
    | lift_lets
    | (with_reducible refine microRead_kept ?_ (by assumption))
    | (with_reducible refine kept_eqP (hacc _ _ _ _ _ _) (by assumption))
    | (with_reducible exact hacc _ _ _ _ _ _)
    | (with_reducible refine maintCheck_kept' ?_)
    | split
    | dsimp only
theorem mCheck_kept {q : List Instr} {s : State} {n : Nat} {a : Act} {sR : State} {rR0}
    (hk : Kept q s) (e : mCheck s n a = (rR0, sR)) : Kept q sR := kept_eqP (mCheck_kept' hk) e

theorem wordM_kept' {q : List Instr} {s : State} {n : Nat} {h : HeadWord} (hk : Kept q s) : Kept q (wordM s n h).2 := by
  unfold wordM
  repeat' first
    | (with_reducible assumption)
    | (with_reducible refine mCheck_kept' ?_)
    | split
theorem wordM_kept {q : List Instr} {s : State} {n : Nat} {h : HeadWord} {sR : State} {rR0} (hk : Kept q s) (e : wordM s n h = (rR0, sR)) : Kept q sR := by
  have := wordM_kept' (q := q) (s := s) (n := n) (h := h) hk
  rw [e] at this
  exact this

theorem doLoad_kept {q : List Instr} {s : State} {n : Nat} {dst : Dst} {w : Nat} {sg : Bool} {m : MRes} (hk : Kept q s) : Kept q (doLoad s n dst w sg m) := by
  unfold doLoad
  repeat' first
    | (with_reducible assumption)
    | (intro x; refine kept_cut (q := q) (s := x) ?_ (fun _ => ?_) <;> [unfold x; clear_value x])
    | (intro (x : Nat); clear_value x)
    | (intro (x : Core); clear_value x)
    | (intro x; subst x)
    | intro _
    | lift_lets
    | (with_reducible refine modCore_kept ?_)
    | (with_reducible refine coreEv_kept ?_)
    | (with_reducible refine l1dFill_kept ?_)
    | (with_reducible refine kick_kept ?_)
    | (with_reducible refine kept_ite (fun _ => ?_) (fun _ => ?_))
    | (with_reducible refine kept_foldl ?_ ?_)
    | simp only [↓kept_mk_eq]
    | split

theorem doSerial_kept {q : List Instr} {s : State} {n : Nat} {k : AccKind} {dst : Dst} {w : Nat} {sg : Bool} {opnd : Word64} {m : MRes} (hk : Kept q s) : Kept q (doSerial s n k dst w sg opnd m) := by
  unfold doSerial
  repeat' first
    | (with_reducible assumption)
    | (intro (x : Core); clear_value x)
    | (intro x; subst x)
    | lift_lets
    | (with_reducible refine modCore_kept ?_)
    | (with_reducible refine kick_kept ?_)

theorem doInvAll_kept {q : List Instr} {s : State} {n : Nat} {sc : InvScope} (hk : Kept q s) : Kept q (doInvAll s n sc) := by
  unfold doInvAll
  try generalize (List.range 256) = r256
  repeat' first
    | (with_reducible assumption)
    | (intro (x : Core); clear_value x)
    | lift_lets
    | (with_reducible refine modCore_kept ?_)
    | (with_reducible refine shortStamp_kept' ?_)
    | simp only [↓kept_mk_eq]

theorem doMaint_kept {q : List Instr} {s : State} {n : Nat} {op : MaintOp} {m : MRes} (hk : Kept q s) : Kept q (doMaint s n op m) := by
  unfold doMaint
  try generalize (List.range 32) = r32
  repeat' first
    | (with_reducible assumption)
    | (intro (x : Nat); clear_value x)
    | (intro (x : Core); clear_value x)
    | (intro x; subst x)
    | lift_lets
    | (with_reducible refine modCore_kept ?_)
    | (with_reducible refine send_kept ?_)
    | (with_reducible refine shortStamp_kept' ?_)
    | (with_reducible refine prefetch_kept ?_)
    | (with_reducible refine lockPage_kept ?_)
    | (with_reducible refine unlockPage_kept ?_)
    | (with_reducible refine doInvAll_kept ?_)
    | (with_reducible refine kept_ite (fun _ => ?_) (fun _ => ?_))
    | simp only [↓kept_mk_eq]
    | split

theorem beginWait_kept {q : List Instr} {s : State} {n : Nat} {r : Run} (hk : Kept q s) : Kept q (beginWait s n r) := by
  unfold beginWait
  repeat' first
    | (with_reducible assumption)
    | (intro x; refine kept_cut (q := q) (s := x) ?_ (fun _ => ?_) <;> [unfold x; clear_value x])
    | lift_lets
    | (with_reducible refine modCore_kept ?_)
    | (with_reducible refine dropResv_kept ?_)
    | (with_reducible refine wakeCore_kept ?_)
    | (with_reducible refine kept_ite (fun _ => ?_) (fun _ => ?_))
    | split

theorem ghostLoad_kept {q : List Instr} {s : State} {n : Nat} {a : Act} (hk : Kept q s) : Kept q (ghostLoad s n a) := by
  unfold ghostLoad
  repeat' first
    | (with_reducible assumption)
    | (intro (x : Core); clear_value x)
    | lift_lets
    | (with_reducible refine charge_kept ?_)
    | (with_reducible refine openReq_kept ?_)
    | (with_reducible refine l1dFill_kept ?_)
    | (with_reducible refine checkAcc_kept ?_ (by assumption))
    | (with_reducible refine kept_ite (fun _ => ?_) (fun _ => ?_))
    | simp only [↓kept_mk_eq]
    | split

theorem ghostWord_kept {q : List Instr} {s : State} {n : Nat} (hk : Kept q s) : Kept q (ghostWord s n) := by
  unfold ghostWord
  repeat' first
    | (with_reducible assumption)
    | (intro x; subst x)
    | intro _
    | lift_lets
    | (with_reducible refine modCore_kept ?_)
    | (with_reducible refine free_kept' ?_)
    | (with_reducible refine ghostLoad_kept ?_)
    | (with_reducible refine kept_ite (fun _ => ?_) (fun _ => ?_))
    | (with_reducible refine kept_foldl ?_ ?_)

theorem wrongPath_kept {q : List Instr} {s : State} {n : Nat} {k : Nat} (hk : Kept q s) : Kept q (wrongPath s n k) := by
  unfold wrongPath
  repeat' first
    | (with_reducible assumption)
    | intro _
    | lift_lets
    | (with_reducible refine modCore_kept ?_)
    | (with_reducible refine ghostWord_kept ?_)
    | (with_reducible refine kept_foldl ?_ ?_)

theorem dropQueue_kept {q : List Instr} {s : State} {n : Nat} (hk : Kept q s) : Kept q (dropQueue s n) := by
  unfold dropQueue
  repeat' first
    | (with_reducible assumption)
    | (with_reducible refine modCore_kept ?_)

theorem doXfer_kept {q : List Instr} {s : State} {n : Nat} {c0 : Core} {len : Nat} {k : XferKind} {taken : Bool} {hint : Bool} {target : Word64} {link : Option (BitVec 6)} (hk : Kept q s) : Kept q (doXfer s n c0 len k taken hint target link) := by
  unfold doXfer
  repeat' first
    | (with_reducible assumption)
    | (intro (x : Nat); clear_value x)
    | (intro (x : Word64); clear_value x)
    | (intro x; subst x)
    | lift_lets
    | (with_reducible refine modCore_kept ?_)
    | (with_reducible refine coreEv_kept ?_)
    | (with_reducible refine wrongPath_kept ?_)
    | (with_reducible refine kept_ite (fun _ => ?_) (fun _ => ?_))

theorem doRfe_kept {q : List Instr} {s : State} {n : Nat} {fr : Option (Word128 × Word128)} (hk : Kept q s) : Kept q (doRfe s n fr) := by
  unfold doRfe
  repeat' first
    | (with_reducible assumption)
    | (intro x; refine kept_cut (q := q) (s := x) ?_ (fun _ => ?_) <;> [unfold x; clear_value x])
    | lift_lets
    | (with_reducible refine modCore_kept ?_)
    | (with_reducible refine dropResv_kept ?_)
    | (with_reducible refine dropQueue_kept ?_)

theorem doAct_kept {q : List Instr} {n : Nat} {c0 : Core} {len : Nat} {m : MRes} {fr : Option (Word128 × Word128)} {s : State} {a : Act} (hk : Kept q s) : Kept q (doAct n c0 len m fr s a) := by
  unfold doAct
  repeat' first
    | (with_reducible assumption)
    | (intro x; refine kept_cut (q := q) (s := x) ?_ (fun _ => ?_) <;> [unfold x; clear_value x])
    | lift_lets
    | (with_reducible refine modCore_kept ?_)
    | (with_reducible refine shortStamp_kept' ?_)
    | (with_reducible refine coreEv_kept ?_)
    | (with_reducible refine sysWrite_kept ?_)
    | (with_reducible refine rebind_kept ?_)
    | (with_reducible refine doLoad_kept ?_)
    | (with_reducible refine doSerial_kept ?_)
    | (with_reducible refine doInvAll_kept ?_)
    | (with_reducible refine doMaint_kept ?_)
    | (with_reducible refine beginWait_kept ?_)
    | (with_reducible refine dropQueue_kept ?_)
    | (with_reducible refine doXfer_kept ?_)
    | (with_reducible refine doRfe_kept ?_)
    | (with_reducible refine kept_ite (fun _ => ?_) (fun _ => ?_))
    | simp only [↓kept_mk_eq]
    | split

theorem commitWord_kept {q : List Instr} {s : State} {n : Nat} {h : HeadWord} {m : MRes} {fr : Option (Word128 × Word128)} (hk : Kept q s) : Kept q (commitWord s n h m fr) := by
  unfold commitWord
  repeat' first
    | (with_reducible assumption)
    | (intro x; refine kept_cut (q := q) (s := x) ?_ (fun _ => ?_) <;> [unfold x; clear_value x])
    | (intro (x : Core); clear_value x)
    | intro _
    | lift_lets
    | (with_reducible refine modCore_kept ?_)
    | (with_reducible refine useToken_kept ?_)
    | (with_reducible refine doAct_kept ?_)
    | (with_reducible refine kept_ite (fun _ => ?_) (fun _ => ?_))
    | (with_reducible refine kept_foldl ?_ ?_)

theorem recordTrap_kept {q : List Instr} {s : State} {n : Nat} {t : Trap} {len : Nat} (hk : Kept q s) : Kept q (recordTrap s n t len) := by
  unfold recordTrap
  repeat' first
    | (with_reducible assumption)
    | (intro x; refine kept_cut (q := q) (s := x) ?_ (fun _ => ?_) <;> [unfold x; clear_value x])
    | lift_lets
    | (with_reducible refine modCore_kept ?_)
    | (with_reducible refine useToken_kept ?_)
    | (with_reducible refine wrongPath_kept ?_)
    | (with_reducible refine kept_ite (fun _ => ?_) (fun _ => ?_))

theorem waitX2_kept {q : List Instr} {s : State} {n : Nat} {len : Nat} (hk : Kept q s) : Kept q (waitX2 s n len) := by
  unfold waitX2
  repeat' first
    | (with_reducible assumption)
    | (intro x; refine kept_cut (q := q) (s := x) ?_ (fun _ => ?_) <;> [unfold x; clear_value x])
    | lift_lets
    | (with_reducible refine modCore_kept ?_)
    | (with_reducible refine useToken_kept ?_)
    | (with_reducible refine kept_ite (fun _ => ?_) (fun _ => ?_))

theorem patchParity_kept {q : List Instr} {s : State} {n : Nat} (hk : Kept q s) : Kept q (patchParity s n) := by
  unfold patchParity
  repeat' first
    | (with_reducible assumption)
    | (intro x; refine kept_cut (q := q) (s := x) ?_ (fun _ => ?_) <;> [unfold x; clear_value x])
    | (intro (x : Core); clear_value x)
    | lift_lets
    | (with_reducible refine setCore_kept ?_)
    | (with_reducible refine jrn_kept ?_)
    | (with_reducible refine stopCore_kept ?_)

theorem runRoutine_kept {q : List Instr} {s : State} {n k : Nat} {f : State → State} (hf : ∀ s, Kept q s → Kept q (f s)) (hk : Kept q s) : Kept q (runRoutine s n k f) := by
  unfold runRoutine
  split
  · exact patchParity_kept hk
  · exact hf _ (modCore_kept hk)

theorem payHold_kept {q : List Instr} {f : Nat} {s : State} {n : Nat} (hk : Kept q s) : Kept q (payHold f s n) := by
  induction f generalizing s with
  | zero => exact hk
  | succ f ih =>
    unfold payHold
    repeat' first
      | (with_reducible refine ih ?_)
      | (with_reducible assumption)
      | lift_lets
      | (with_reducible refine useToken_kept ?_)
      | (with_reducible refine kept_ite (fun _ => ?_) (fun _ => ?_))

theorem tryIssue_kept' {q : List Instr} {s : State} {n : Nat} (hk : Kept q s) : Kept q (tryIssue s n).2 := by
  unfold tryIssue
  repeat' first
    | (with_reducible assumption)
    | (intro x; refine kept_cut (q := q) (s := x) ?_ (fun _ => ?_) <;> [unfold x; clear_value x])
    | (intro (x : Core); clear_value x)
    | (intro x; subst x)
    | lift_lets
    | (with_reducible refine modCore_kept ?_)
    | (with_reducible refine coreEv_kept ?_)
    | (with_reducible refine useToken_kept ?_)
    | (with_reducible refine payOwed_kept ?_)
    | (with_reducible refine fetchWord_kept ?_ (by assumption))
    | (with_reducible refine wordM_kept ?_ (by assumption))
    | (with_reducible refine commitWord_kept ?_)
    | (with_reducible refine recordTrap_kept ?_)
    | (with_reducible refine waitX2_kept ?_)
    | (with_reducible refine patchParity_kept ?_)
    | (with_reducible refine payHold_kept ?_)
    | (with_reducible refine kept_ite (fun _ => ?_) (fun _ => ?_))
    | simp only [↓kept_mk_eq]
    | split
theorem tryIssue_kept {q : List Instr} {s : State} {n : Nat} {sR : State} {rR0} (hk : Kept q s) (e : tryIssue s n = (rR0, sR)) : Kept q sR := by
  have := tryIssue_kept' (q := q) (s := s) (n := n) hk
  rw [e] at this
  exact this

theorem advanceN_kept {q : List Instr} {f : Nat} {s : State} {n : Nat} (hk : Kept q s) : Kept q (advanceN f s n) := by
  induction f generalizing s with
  | zero => exact hk
  | succ f ih =>
    unfold advanceN
    repeat' first
      | (with_reducible refine ih ?_)
      | (with_reducible assumption)
      | lift_lets
      | (with_reducible refine tryIssue_kept ?_ (by assumption))
      | split

theorem fetchAhead_kept {q : List Instr} {n f : Nat} {pc : Word64} {ws : List Instr} {s : State} (hk : Kept q s) : Kept q (fetchAhead n f pc ws s) := by
  induction f generalizing s pc ws with
  | zero => exact hk
  | succ f ih =>
    unfold fetchAhead
    repeat' first
      | (with_reducible refine ih ?_)
      | (with_reducible assumption)
      | (intro (x : Core); clear_value x)
      | (intro x; subst x)
      | lift_lets
      | (with_reducible refine checkLin_kept ?_ (by assumption))
      | (with_reducible refine askLine_kept ?_)
      | (with_reducible refine kept_ite (fun _ => ?_) (fun _ => ?_))
      | split

theorem advance_kept {q : List Instr} {s : State} {n : Nat} (hk : Kept q s) : Kept q (advance s n) := by
  unfold advance
  repeat' first
    | (with_reducible assumption)
    | (with_reducible refine advanceN_kept ?_)

theorem lookAhead_kept {q : List Instr} {s : State} {n : Nat} (hk : Kept q s) : Kept q (lookAhead s n) := by
  unfold lookAhead
  repeat' first
    | (with_reducible assumption)
    | (intro (x : Core); clear_value x)
    | (intro x; subst x)
    | lift_lets
    | (with_reducible refine fetchAhead_kept ?_)
    | (with_reducible refine kept_ite (fun _ => ?_) (fun _ => ?_))

theorem stage_kept {q : List Instr} {i : Instr} {y : Syl} {s : State} (hk : Kept q s) : Kept q (stage i y s) := by
  unfold stage
  repeat' first
    | (with_reducible assumption)
    | (intro (x : Nat); clear_value x)
    | (intro (x : Core); clear_value x)
    | lift_lets
    | (with_reducible refine setCore_kept ?_)
    | (with_reducible refine advance_kept ?_)
    | (with_reducible refine lookAhead_kept ?_)
    | (with_reducible refine kept_ite (fun _ => ?_) (fun _ => ?_))

/-! ### `Machine/CoreEvents.lean` -/

theorem ctlDrop_kept' {q : List Instr} {s : State} {n : Nat} {a : OutAcc} {p : Part} (hk : Kept q s) : Kept q (ctlDrop s n a p).2 := by
  unfold ctlDrop
  repeat' first
    | (with_reducible assumption)
    | lift_lets
    | (with_reducible refine dropResv_kept ?_)
    | (with_reducible refine ctlAccess_kept ?_)
    | simp only [↓kept_mk_eq]
    | split
theorem ctlDrop_kept {q : List Instr} {s : State} {n : Nat} {a : OutAcc} {p : Part} {sR : State} {rR0} (hk : Kept q s) (e : ctlDrop s n a p = (rR0, sR)) : Kept q sR := by
  have := ctlDrop_kept' (q := q) (s := s) (n := n) (a := a) (p := p) hk
  rw [e] at this
  exact this

theorem ctlSplit_kept' {q : List Instr} {s : State} {n : Nat} {a : OutAcc} (hk : Kept q s) : Kept q (ctlSplit s n a).2 := by
  unfold ctlSplit
  repeat' first
    | (with_reducible assumption)
    | (intro x; subst x)
    | lift_lets
    | (with_reducible refine ctlAccess_kept ?_)
    | simp only [↓kept_mk_eq]
    | split
theorem ctlSplit_kept {q : List Instr} {s : State} {n : Nat} {a : OutAcc} {sR : State} {rR0} (hk : Kept q s) (e : ctlSplit s n a = (rR0, sR)) : Kept q sR := by
  have := ctlSplit_kept' (q := q) (s := s) (n := n) (a := a) hk
  rw [e] at this
  exact this

theorem ctlParts_kept' {q : List Instr} {s : State} {n : Nat} {a : OutAcc} (hk : Kept q s) : Kept q (ctlParts s n a).2 := by
  unfold ctlParts
  repeat' first
    | (with_reducible assumption)
    | intro _
    | lift_lets
    | (with_reducible refine ctlLoad_kept' ?_)
    | (with_reducible refine ctlDrop_kept' ?_)
    | (with_reducible refine ctlSplit_kept' ?_)
    | simp only [↓kept_mk_eq]
    | split
    | (with_reducible refine kept_foldl2 ?_ ?_)
theorem ctlParts_kept {q : List Instr} {s : State} {n : Nat} {a : OutAcc} {sR : State} {rR0} (hk : Kept q s) (e : ctlParts s n a = (rR0, sR)) : Kept q sR := by
  have := ctlParts_kept' (q := q) (s := s) (n := n) (a := a) hk
  rw [e] at this
  exact this

theorem loadReturn_kept {q : List Instr} {s : State} {n : Nat} {i : Nat} (hk : Kept q s) : Kept q (loadReturn s n i) := by
  unfold loadReturn
  repeat' first
    | (with_reducible assumption)
    | lift_lets
    | (with_reducible refine modCore_kept ?_)
    | (with_reducible refine putAcc_kept ?_)
    | (with_reducible refine kick_kept ?_)
    | (with_reducible refine advance_kept ?_)
    | (with_reducible refine ctlParts_kept' ?_)
    | (with_reducible refine kept_ite (fun _ => ?_) (fun _ => ?_))
    | simp only [↓kept_mk_eq]
    | split

theorem fillCode_kept {q : List Instr} {s : State} {n : Nat} (hk : Kept q s) : Kept q (fillCode s n) := by
  unfold fillCode
  repeat' first
    | (with_reducible assumption)
    | (intro (x : Core); clear_value x)
    | lift_lets
    | (with_reducible refine modCore_kept ?_)
    | (with_reducible refine l1iFill_kept ?_)
    | (with_reducible refine microRead_kept ?_ (by assumption))
    | (with_reducible refine kept_ite (fun _ => ?_) (fun _ => ?_))
    | simp only [↓kept_mk_eq]
    | split

theorem entryStep_kept {q : List Instr} {s : State} {n : Nat} (hk : Kept q s) : Kept q (entryStep s n) := by
  unfold entryStep
  repeat' first
    | (with_reducible assumption)
    | (intro (x : Core); clear_value x)
    | intro _
    | lift_lets
    | (with_reducible refine entryFault_kept ?_)
    | (with_reducible refine descStep_kept ?_ (by assumption))
    | (with_reducible refine entryCommit_kept ?_)
    | (with_reducible refine runRoutine_kept ?_ ?_)
    | (with_reducible refine kept_ite (fun _ => ?_) (fun _ => ?_))
    | simp only [↓kept_mk_eq]
    | split

theorem rfeRead_kept {q : List Instr} {s : State} {n : Nat} (hk : Kept q s) : Kept q (rfeRead s n) := by
  unfold rfeRead
  repeat' first
    | (with_reducible assumption)
    | (intro (x : Nat); clear_value x)
    | (intro (x : Core); clear_value x)
    | (intro x; subst x)
    | lift_lets
    | (with_reducible refine modCore_kept ?_)
    | (with_reducible refine startWalk_kept ?_)
    | (with_reducible refine checkLin_kept ?_ (by assumption))
    | (with_reducible refine microRead_kept ?_ (by assumption))
    | (with_reducible refine wordM_kept ?_ (by assumption))
    | (with_reducible refine commitWord_kept ?_)
    | (with_reducible refine recordTrap_kept ?_)
    | (with_reducible refine kept_ite (fun _ => ?_) (fun _ => ?_))
    | simp only [↓kept_mk_eq]
    | split

theorem rfeFrame_kept {q : List Instr} {s : State} {n : Nat} (hk : Kept q s) : Kept q (rfeFrame s n) := by
  unfold rfeFrame
  repeat' first
    | (with_reducible assumption)
    | (intro (x : Core); clear_value x)
    | intro _
    | lift_lets
    | (with_reducible refine runRoutine_kept ?_ ?_)
    | (with_reducible refine rfeRead_kept ?_)
    | (with_reducible refine kept_ite (fun _ => ?_) (fun _ => ?_))

theorem fillFail_kept {q : List Instr} {s : State} {n : Nat} (hk : Kept q s) : Kept q (fillFail s n) := by
  unfold fillFail
  repeat' first
    | (with_reducible assumption)
    | (with_reducible refine modCore_kept ?_)

theorem fillStep_kept {q : List Instr} {s : State} {n : Nat} (hk : Kept q s) : Kept q (fillStep s n) := by
  unfold fillStep
  repeat' first
    | (with_reducible assumption)
    | (intro x; refine kept_cut2 (q := q) (s := x) ?_ (fun _ => ?_) <;> [unfold x; clear_value x])
    | (intro (x : Core); clear_value x)
    | lift_lets
    | (with_reducible refine modCore_kept ?_)
    | (with_reducible refine startWalk_kept ?_)
    | (with_reducible refine checkPart_kept ?_ (by assumption))
    | (with_reducible refine microRead_kept ?_ (by assumption))
    | (with_reducible refine descStep_kept' ?_)
    | (with_reducible refine fillFail_kept ?_)
    | (with_reducible refine kept_ite (fun _ => ?_) (fun _ => ?_))
    | simp only [↓kept_mk_eq]
    | split

theorem deliver_kept {q : List Instr} {s : State} {n : Nat} {o : Offer} (hk : Kept q s) : Kept q (deliver s n o) := by
  unfold deliver
  repeat' first
    | (with_reducible assumption)
    | (intro x; refine kept_cut (q := q) (s := x) ?_ (fun _ => ?_) <;> [unfold x; clear_value x])
    | (intro (x : Core); clear_value x)
    | lift_lets
    | (with_reducible refine setCore_kept ?_)
    | (with_reducible refine received_kept ?_)
    | (with_reducible refine coreEv_kept ?_)
    | (with_reducible refine answer_kept ?_)
    | (with_reducible refine wakeCore_kept ?_)
    | (with_reducible refine kept_ite (fun _ => ?_) (fun _ => ?_))
    | simp only [↓kept_mk_eq]
    | split

theorem takeOver_kept {q : List Instr} {s : State} {n : Nat} {o : Offer} {o1 : Offer} {pre : Core} (hk : Kept q s) : Kept q (takeOver s n o o1 pre) := by
  unfold takeOver
  repeat' first
    | (with_reducible assumption)
    | (intro x; refine kept_cut (q := q) (s := x) ?_ (fun _ => ?_) <;> [unfold x; clear_value x])
    | lift_lets
    | (with_reducible refine setCore_kept ?_)
    | (with_reducible refine coreEv_kept ?_)
    | (with_reducible refine answer_kept ?_)
    | (with_reducible refine acceptOffer_kept ?_)
    | (with_reducible refine beginInterrupt_kept ?_)
    | (with_reducible refine kept_ite (fun _ => ?_) (fun _ => ?_))

theorem classP_kept {q : List Instr} {s : State} {n : Nat} (hk : Kept q s) : Kept q (classP s n) := by
  unfold classP
  repeat' first
    | (with_reducible assumption)
    | (intro (x : Core); clear_value x)
    | lift_lets
    | (with_reducible refine turnAway_kept ?_)
    | (with_reducible refine acceptOffer_kept ?_)
    | (with_reducible refine beginInterrupt_kept ?_)
    | (with_reducible refine takeOver_kept ?_)
    | (with_reducible refine kept_ite (fun _ => ?_) (fun _ => ?_))
    | split

theorem classF_kept {q : List Instr} {s : State} {n : Nat} (hk : Kept q s) : Kept q (classF s n) := by
  unfold classF
  repeat' first
    | (with_reducible assumption)
    | (intro (x : Core); clear_value x)
    | (intro x; subst x)
    | lift_lets
    | (with_reducible refine setCore_kept ?_)
    | (with_reducible refine modCore_kept ?_)
    | (with_reducible refine coreEv_kept ?_)
    | (with_reducible refine l1iFill_kept ?_)
    | (with_reducible refine answer_kept ?_)
    | (with_reducible refine entryCommit_kept ?_)
    | (with_reducible refine turnAway_kept ?_)
    | (with_reducible refine acceptOffer_kept ?_)
    | (with_reducible refine beginInterrupt_kept ?_)
    | (with_reducible refine kept_ite (fun _ => ?_) (fun _ => ?_))
    | simp only [↓kept_mk_eq]
    | split

theorem sevDrop_kept {q : List Instr} {s : State} {t : Nat} (hk : Kept q s) : Kept q (sevDrop s t) := by
  unfold sevDrop
  repeat' first
    | (with_reducible assumption)
    | (with_reducible refine modDom_kept ?_)

theorem eventTake_kept {q : List Instr} {s : State} {n : Nat} {ep : BitVec 8} {sender : Tdid} (hk : Kept q s) : Kept q (eventTake s n ep sender) := by
  unfold eventTake
  repeat' first
    | (with_reducible assumption)
    | lift_lets
    | (with_reducible refine received_kept ?_)
    | simp only [↓kept_mk_eq]
    | split

theorem event_kept {q : List Instr} {s : State} {n : Nat} {ep : BitVec 8} {sender : Tdid} (hk : Kept q s) : Kept q (event s n ep sender) := by
  unfold event
  have h : Kept q (eventTake s n ep sender) := eventTake_kept hk
  generalize eventTake s n ep sender = s1 at h ⊢
  dsimp only
  refine kept_ite (fun _ => sevDrop_kept h) (fun _ => ?_)
  refine kept_ite (fun _ => sevDrop_kept (staleRecord_kept h)) (fun _ => ?_)
  refine kept_ite (fun _ => setCore_kept h) (fun _ => ?_)
  generalize (getCore s1 n).run = r
  cases r <;> first | exact wakeCore_kept h | exact setCore_kept h

theorem paceTick_kept {q : List Instr} {s : State} {n : Nat} (hk : Kept q s) : Kept q (paceTick s n) := by
  unfold paceTick
  repeat' first
    | (with_reducible assumption)
    | (intro (x : Nat); clear_value x)
    | (intro (x : Core); clear_value x)
    | (intro x; subst x)
    | lift_lets
    | (with_reducible refine setCore_kept ?_)
    | (with_reducible refine jrn_kept ?_)
    | (with_reducible refine kept_ite (fun _ => ?_) (fun _ => ?_))

theorem blkCheck_kept' {q : List Instr} {n : Nat} {b : Blk} {r5 r6 : Bool} {k6 : Kind} {g5 g6 : Nat} {f i : Nat} {p5 p6 : List Part} {s : State}
    (hk : Kept q s) : Kept q (blkCheck n b r5 r6 k6 g5 g6 f i p5 p6 s).2 := by
  induction f generalizing s i p5 p6 with
  | zero => exact hk
  | succ f ih =>
    unfold blkCheck
    lift_lets
    intro c one
    have hone : ∀ u sg g k s, Kept q s → Kept q (one u sg g k s).2 := by
      intro u sg g k s h
      unfold one
      try dsimp only
      split
      · exact h
      · split
        · exact checkAcc_kept h (by assumption)
        · exact startWalk_kept (checkAcc_kept h (by assumption))
        · exact checkAcc_kept h (by assumption)
    clear_value one
    split
    · exact kept_eqP (hone _ _ _ _ _ hk) (by assumption)
    · exact kept_eqP (hone _ _ _ _ _ hk) (by assumption)
    · have h1 := kept_eqP (hone _ _ _ _ _ hk) (by assumption)
      split
      · exact kept_eqP (hone _ _ _ _ _ h1) (by assumption)
      · exact kept_eqP (hone _ _ _ _ _ h1) (by assumption)
      · exact ih (kept_eqP (hone _ _ _ _ _ h1) (by assumption))
theorem blkCheck_kept {q : List Instr} {n : Nat} {b : Blk} {r5 r6 : Bool} {k6 : Kind} {g5 g6 : Nat} {f i : Nat} {p5 p6 : List Part} {s : State}
    {sR : State} {rR0} (hk : Kept q s) (e : blkCheck n b r5 r6 k6 g5 g6 f i p5 p6 s = (rR0, sR)) : Kept q sR := kept_eqP (blkCheck_kept' hk) e

theorem blkFault_kept {q : List Instr} {s : State} {n : Nat} {code : Nat} {a : Nat} (hk : Kept q s) : Kept q (blkFault s n code a) := by
  unfold blkFault
  repeat' first
    | (with_reducible assumption)
    | lift_lets
    | (with_reducible refine modCore_kept ?_)
    | (with_reducible refine coreEv_kept ?_)

theorem blkCommit_kept {q : List Instr} {s : State} {n : Nat} {b : Blk} {done : Nat} {stop : Bool} {use5 : Bool} {use6 : Bool} {st : List SbEntry} {cost : Nat} (hk : Kept q s) : Kept q (blkCommit s n b done stop use5 use6 st cost) := by
  unfold blkCommit
  repeat' first
    | (with_reducible assumption)
    | (intro (x : Word64); clear_value x)
    | lift_lets
    | (with_reducible refine modCore_kept ?_)

theorem blkUse_kept {q : List Instr} {s : State} {n : Nat} {b : Blk} {ps : List Part} (hk : Kept q s) : Kept q (blkUse s n b ps) := by
  unfold blkUse
  repeat' first
    | (with_reducible assumption)
    | (with_reducible refine modCore_kept ?_)

theorem blkParts_kept' {q : List Instr} {s : State} {n : Nat} {b : Blk} (hk : Kept q s) : Kept q (blkParts s n b).2 := by
  unfold blkParts
  repeat' first
    | (with_reducible assumption)
    | (intro (x : Nat); clear_value x)
    | (intro (x : Core); clear_value x)
    | (intro x; subst x)
    | lift_lets
    | (with_reducible refine blkCheck_kept ?_ (by assumption))
    | simp only [↓kept_mk_eq]
    | split
theorem blkParts_kept {q : List Instr} {s : State} {n : Nat} {b : Blk} {sR : State} {rR0} (hk : Kept q s) (e : blkParts s n b = (rR0, sR)) : Kept q sR := by
  have := blkParts_kept' (q := q) (s := s) (n := n) (b := b) hk
  rw [e] at this
  exact this

theorem blkEnd_kept {q : List Instr} {s : State} {n : Nat} {b : Blk} {cnt : Nat} {p5 : List Part} {p6 : List Part} {d : List PByte} (hk : Kept q s) : Kept q (blkEnd s n b cnt p5 p6 d) := by
  unfold blkEnd
  repeat' first
    | (with_reducible assumption)
    | (intro (x : Nat); clear_value x)
    | (intro (x : Core); clear_value x)
    | (intro x; subst x)
    | lift_lets
    | (with_reducible refine blkFault_kept ?_)
    | (with_reducible refine blkCommit_kept ?_)
    | (with_reducible refine kept_ite (fun _ => ?_) (fun _ => ?_))
    | simp only [↓kept_mk_eq]
    | split

theorem chunk_kept {q : List Instr} {s : State} {n : Nat} {b : Blk} (hk : Kept q s) : Kept q (chunk s n b) := by
  unfold chunk
  repeat' first
    | (with_reducible assumption)
    | lift_lets
    | (with_reducible refine coreEv_kept ?_)
    | (with_reducible refine microRead_kept ?_ (by assumption))
    | (with_reducible refine blkFault_kept ?_)
    | (with_reducible refine blkUse_kept ?_)
    | (with_reducible refine blkParts_kept ?_ (by assumption))
    | (with_reducible refine blkEnd_kept ?_)
    | (with_reducible refine kept_ite (fun _ => ?_) (fun _ => ?_))
    | simp only [↓kept_mk_eq]
    | split

theorem blkStop_kept {q : List Instr} {s : State} {n : Nat} (hk : Kept q s) : Kept q (blkStop s n) := by
  unfold blkStop
  repeat' first
    | (with_reducible assumption)
    | (intro (x : Core); clear_value x)
    | lift_lets
    | (with_reducible refine setCore_kept ?_)
    | (with_reducible refine kept_ite (fun _ => ?_) (fun _ => ?_))
    | split

theorem blkStep_kept {q : List Instr} {s : State} {n : Nat} {b : Blk} (hk : Kept q s) : Kept q (blkStep s n b) := by
  unfold blkStep
  repeat' first
    | (with_reducible assumption)
    | (intro x; refine kept_cut (q := q) (s := x) ?_ (fun _ => ?_) <;> [unfold x; clear_value x])
    | (intro (x : Word64); clear_value x)
    | intro _
    | lift_lets
    | (with_reducible refine runRoutine_kept ?_ ?_)
    | (with_reducible refine chunk_kept ?_)
    | (with_reducible refine blkStop_kept ?_)
    | (with_reducible refine kept_ite (fun _ => ?_) (fun _ => ?_))

theorem tlbInvalidate_kept {q : List Instr} {s : State} {n : Nat} {i : TlbInv} (hk : Kept q s) : Kept q (tlbInvalidate s n i) := by
  unfold tlbInvalidate
  repeat' first
    | (with_reducible assumption)
    | (intro x; refine kept_cut (q := q) (s := x) ?_ (fun _ => ?_) <;> [unfold x; clear_value x])
    | (intro x; subst x)
    | lift_lets
    | (with_reducible refine modCore_kept ?_)
    | (with_reducible refine received_kept ?_)
    | (with_reducible refine invalidate_kept ?_)
    | simp only [↓kept_mk_eq]

theorem tlbAck_kept {q : List Instr} {s : State} {n : Nat} {from_ : Nat} (hk : Kept q s) : Kept q (tlbAck s n from_) := by
  unfold tlbAck
  repeat' first
    | (with_reducible assumption)
    | (intro x; refine kept_cut (q := q) (s := x) ?_ (fun _ => ?_) <;> [unfold x; clear_value x])
    | lift_lets
    | (with_reducible refine modCore_kept ?_)
    | (with_reducible refine kept_ite (fun _ => ?_) (fun _ => ?_))

theorem icinvAt_kept {q : List Instr} {s : State} {k : Nat} {n : Logical} {line : LineNo} (hk : Kept q s) : Kept q (icinvAt s k n line) := by
  unfold icinvAt
  repeat' first
    | (with_reducible assumption)
    | (intro x; refine kept_cut (q := q) (s := x) ?_ (fun _ => ?_) <;> [unfold x; clear_value x])
    | intro _
    | lift_lets
    | (with_reducible refine modCore_kept ?_)
    | (with_reducible refine received_kept ?_)
    | (with_reducible refine kept_foldl ?_ ?_)
    | simp only [↓kept_mk_eq]
    | split

theorem icinvAck_kept {q : List Instr} {s : State} {n : Nat} {k : Nat} (hk : Kept q s) : Kept q (icinvAck s n k) := by
  unfold icinvAck
  repeat' first
    | (with_reducible assumption)
    | lift_lets
    | (with_reducible refine modCore_kept ?_)
    | (with_reducible refine kept_ite (fun _ => ?_) (fun _ => ?_))

end Sys2Proof.Machine
end

