-- ==== Sys2Proof/Laws/KeptMemory.lean ====
section
/-! SUPPORT. What the operations of courses, slices, controllers, hub, budgets and ports keep: the queue of waiting commands, and memory in its canonical form. One lemma for each. -/
namespace Sys2Proof.Machine
set_option linter.all false
set_option maxRecDepth 4000

/-! ### `Machine/HomeOps.lean` -/

theorem sendLine_kept {q : List Instr} {s : State} {m : Msg} (hk : Kept q s) : Kept q (sendLine s m) := by
  unfold sendLine
  repeat' first
    | (with_reducible assumption)
    | lift_lets
    | (with_reducible refine send_kept ?_)
    | (with_reducible refine charge_kept ?_)
    | (with_reducible refine kept_ite (fun _ => ?_) (fun _ => ?_))

theorem putTrk_kept {q : List Instr} {s : State} {h : Nat} {t : Tracker} (hk : Kept q s) : Kept q (putTrk s h t) := by
  unfold putTrk
  repeat' first
    | (with_reducible assumption)
    | (with_reducible refine modSlice_kept ?_)

theorem closeTrk_kept {q : List Instr} {s : State} {h : Nat} {l : LineNo} (hk : Kept q s) : Kept q (closeTrk s h l) := by
  unfold closeTrk
  repeat' first
    | (with_reducible assumption)
    | (with_reducible refine modSlice_kept ?_)

theorem sendFwds_kept {q : List Instr} {s : State} {h : Nat} {t : Tracker} {w : TrkWait} {k : MsgKind} {cs : List Nat} (hk : Kept q s) : Kept q (sendFwds s h t w k cs) := by
  unfold sendFwds
  repeat' first
    | (with_reducible assumption)
    | (intro x; refine kept_cut (q := q) (s := x) ?_ (fun _ => ?_) <;> [unfold x; clear_value x])
    | intro _
    | lift_lets
    | (with_reducible refine send_kept ?_)
    | (with_reducible refine putTrk_kept ?_)
    | (with_reducible refine kept_foldl ?_ ?_)

theorem memRequest_kept' {q : List Instr} {s : State} {h : Nat} {l : LineNo} {write : Bool} {d : LineData} {mask : BitVec 64} {t : Tdid} {ep : BitVec 8} {ovh : Bool} (hk : Kept q s) : Kept q (memRequest s h l write d mask t ep ovh).2 := by
  unfold memRequest
  repeat' first
    | (with_reducible assumption)
    | (intro x; refine kept_cut (q := q) (s := x) ?_ (fun _ => ?_) <;> [unfold x; clear_value x])
    | (intro (x : Nat); clear_value x)
    | lift_lets
    | (with_reducible refine modSlice_kept ?_)
    | (with_reducible refine shortStamp_kept' ?_)
    | simp only [↓kept_mk_eq]
theorem memRequest_kept {q : List Instr} {s : State} {h : Nat} {l : LineNo} {write : Bool} {d : LineData} {mask : BitVec 64} {t : Tdid} {ep : BitVec 8} {ovh : Bool} {sR : State} {rR0} (hk : Kept q s) (e : memRequest s h l write d mask t ep ovh = (rR0, sR)) : Kept q sR := by
  have := memRequest_kept' (q := q) (s := s) (h := h) (l := l) (write := write) (d := d) (mask := mask) (t := t) (ep := ep) (ovh := ovh) hk
  rw [e] at this
  exact this

theorem readMem_kept {q : List Instr} {s : State} {h : Nat} {t : Tracker} (hk : Kept q s) : Kept q (readMem s h t) := by
  unfold readMem
  repeat' first
    | (with_reducible assumption)
    | lift_lets
    | (with_reducible refine putTrk_kept ?_)
    | (with_reducible refine memRequest_kept' ?_)

theorem writeMem_kept {q : List Instr} {s : State} {h : Nat} {t : Tracker} {d : LineData} {mask : BitVec 64} (hk : Kept q s) : Kept q (writeMem s h t d mask) := by
  unfold writeMem
  repeat' first
    | (with_reducible assumption)
    | lift_lets
    | (with_reducible refine putTrk_kept ?_)
    | (with_reducible refine memRequest_kept' ?_)

theorem l3Way_kept' {q : List Instr} {s : State} {h : Nat} {l : LineNo} {k : Nat} (hk : Kept q s) : Kept q (l3Way s h l k).2 := by
  unfold l3Way
  try generalize (List.range 16) = r16
  repeat' first
    | (with_reducible assumption)
    | (intro x; subst x)
    | lift_lets
    | (with_reducible refine free_kept' ?_)
    | simp only [↓kept_mk_eq]
    | split
theorem l3Way_kept {q : List Instr} {s : State} {h : Nat} {l : LineNo} {k : Nat} {sR : State} {rR0} (hk : Kept q s) (e : l3Way s h l k = (rR0, sR)) : Kept q sR := by
  have := l3Way_kept' (q := q) (s := s) (h := h) (l := l) (k := k) hk
  rw [e] at this
  exact this

theorem l3Check_kept {q : List Instr} {s : State} {h : Nat} {l : LineNo} (hk : Kept q s) : Kept q (l3Check s h l) := by
  unfold l3Check
  repeat' first
    | (with_reducible assumption)
    | lift_lets
    | (with_reducible refine modSlice_kept ?_)
    | (with_reducible refine jrn_kept ?_)
    | (with_reducible refine setL3_kept ?_)
    | (with_reducible refine kept_ite (fun _ => ?_) (fun _ => ?_))
    | simp only [↓kept_mk_eq]
    | split

theorem l3Place_kept {q : List Instr} {s : State} {h : Nat} {l : LineNo} {d : LineData} {dirty : Bool} {k : BitVec 4} {t : Tdid} {ep : BitVec 8} {ovh : Bool} (hk : Kept q s) : Kept q (l3Place s h l d dirty k t ep ovh) := by
  unfold l3Place
  repeat' first
    | (with_reducible assumption)
    | lift_lets
    | (with_reducible refine setL3_kept ?_)
    | (with_reducible refine memRequest_kept' ?_)
    | (with_reducible refine l3Way_kept' ?_)
    | (with_reducible refine l3Check_kept ?_)
    | (with_reducible refine kept_ite (fun _ => ?_) (fun _ => ?_))
    | simp only [↓kept_mk_eq]
    | split

theorem l3Drop_kept {q : List Instr} {s : State} {h : Nat} {l : LineNo} (hk : Kept q s) : Kept q (l3Drop s h l) := by
  unfold l3Drop
  repeat' first
    | (with_reducible assumption)
    | (with_reducible refine setL3_kept ?_)
    | split

theorem endClaim_kept {q : List Instr} {s : State} {h : Nat} {set : Nat} {a : BitVec 7} (hk : Kept q s) : Kept q (endClaim s h set a) := by
  unfold endClaim
  repeat' first
    | (with_reducible assumption)
    | lift_lets
    | (with_reducible refine modSlice_kept ?_)
    | (with_reducible refine kept_ite (fun _ => ?_) (fun _ => ?_))
    | split

theorem sendRetry_kept {q : List Instr} {s : State} {h : Nat} {m : Msg} {full : Bool} (hk : Kept q s) : Kept q (sendRetry s h m full) := by
  unfold sendRetry
  repeat' first
    | (with_reducible assumption)
    | (intro x; refine kept_cut (q := q) (s := x) ?_ (fun _ => ?_) <;> [unfold x; clear_value x])
    | lift_lets
    | (with_reducible refine modSlice_kept ?_)
    | (with_reducible refine send_kept ?_)
    | (with_reducible refine bankEv_kept ?_)

theorem recordClaim_kept {q : List Instr} {s : State} {h : Nat} {m : Msg} (hk : Kept q s) : Kept q (recordClaim s h m) := by
  unfold recordClaim
  repeat' first
    | (with_reducible assumption)
    | (intro (x : Nat); clear_value x)
    | lift_lets
    | (with_reducible refine modSlice_kept ?_)
    | (with_reducible refine kept_ite (fun _ => ?_) (fun _ => ?_))

theorem doneAt_kept {q : List Instr} {s : State} {h : Nat} {t : Tracker} {d : Option LineData} {ok : Bool} (hk : Kept q s) : Kept q (doneAt s h t d ok) := by
  unfold doneAt
  repeat' first
    | (with_reducible assumption)
    | (intro x; refine kept_cut (q := q) (s := x) ?_ (fun _ => ?_) <;> [unfold x; clear_value x])
    | (intro x; subst x)
    | lift_lets
    | (with_reducible refine sendLine_kept ?_)
    | (with_reducible refine closeTrk_kept ?_)
    | (with_reducible refine kept_ite (fun _ => ?_) (fun _ => ?_))

theorem homeReserve_kept {q : List Instr} {s : State} {h : Nat} {m : Msg} (hk : Kept q s) : Kept q (homeReserve s h m) := by
  unfold homeReserve
  repeat' first
    | (with_reducible assumption)
    | (with_reducible refine modSlice_kept ?_)
    | split

theorem granted_kept {q : List Instr} {s : State} {l : LineNo} (hk : Kept q s) : Kept q (granted s l) := by
  unfold granted
  repeat' first
    | (with_reducible assumption)
    | (with_reducible refine clearHomeResv_kept ?_)

theorem homeWrite_kept {q : List Instr} {s : State} {h : Nat} {t : Tracker} {old : Option LineData} {base : Bool} (hk : Kept q s) : Kept q (homeWrite s h t old base) := by
  unfold homeWrite
  repeat' first
    | (with_reducible assumption)
    | (intro x; refine kept_cut (q := q) (s := x) ?_ (fun _ => ?_) <;> [unfold x; clear_value x])
    | (intro x; subst x)
    | lift_lets
    | (with_reducible refine clearHomeResv_kept ?_)
    | (with_reducible refine setL3_kept ?_)
    | (with_reducible refine dirFree_kept ?_)
    | (with_reducible refine writeMem_kept ?_)
    | (with_reducible refine doneAt_kept ?_)
    | simp only [↓kept_mk_eq]
    | split

theorem haveData_kept {q : List Instr} {s : State} {h : Nat} {t : Tracker} {d : LineData} {l3 : Option L3Line} (hk : Kept q s) : Kept q (haveData s h t d l3) := by
  unfold haveData
  repeat' first
    | (with_reducible assumption)
    | (intro x; refine kept_cut (q := q) (s := x) ?_ (fun _ => ?_) <;> [unfold x; clear_value x])
    | (intro x; subst x)
    | lift_lets
    | (with_reducible refine sendLine_kept ?_)
    | (with_reducible refine closeTrk_kept ?_)
    | (with_reducible refine l3Drop_kept ?_)
    | (with_reducible refine doneAt_kept ?_)
    | (with_reducible refine homeReserve_kept ?_)
    | (with_reducible refine granted_kept ?_)
    | (with_reducible refine homeWrite_kept ?_)
    | (with_reducible refine kept_ite (fun _ => ?_) (fun _ => ?_))
    | split

theorem gather_kept {q : List Instr} {s : State} {h : Nat} {t : Tracker} (hk : Kept q s) : Kept q (gather s h t) := by
  unfold gather
  repeat' first
    | (with_reducible assumption)
    | lift_lets
    | (with_reducible refine bankEv_kept ?_)
    | (with_reducible refine readMem_kept ?_)
    | (with_reducible refine haveData_kept ?_)
    | split

theorem allocate_kept {q : List Instr} {s : State} {h : Nat} {t : Tracker} (hk : Kept q s) : Kept q (allocate s h t) := by
  unfold allocate
  repeat' first
    | (with_reducible assumption)
    | (intro x; refine kept_cut (q := q) (s := x) ?_ (fun _ => ?_) <;> [unfold x; clear_value x])
    | (intro x; subst x)
    | lift_lets
    | (with_reducible refine setDir_kept ?_)
    | (with_reducible refine bankEv_kept ?_)
    | (with_reducible refine putTrk_kept ?_)
    | (with_reducible refine closeTrk_kept ?_)
    | (with_reducible refine sendFwds_kept ?_)
    | (with_reducible refine endClaim_kept ?_)
    | (with_reducible refine sendRetry_kept ?_)
    | (with_reducible refine recordClaim_kept ?_)
    | (with_reducible refine gather_kept ?_)
    | (with_reducible refine kept_ite (fun _ => ?_) (fun _ => ?_))
    | simp only [↓kept_mk_eq]
    | split

theorem takeOwnership_kept {q : List Instr} {s : State} {h : Nat} {t : Tracker} (hk : Kept q s) : Kept q (takeOwnership s h t) := by
  unfold takeOwnership
  repeat' first
    | (with_reducible assumption)
    | (intro x; subst x)
    | lift_lets
    | (with_reducible refine setDir_kept ?_)
    | (with_reducible refine gather_kept ?_)
    | (with_reducible refine allocate_kept ?_)
    | split

theorem grantUpg_kept {q : List Instr} {s : State} {h : Nat} {t : Tracker} (hk : Kept q s) : Kept q (grantUpg s h t) := by
  unfold grantUpg
  repeat' first
    | (with_reducible assumption)
    | (intro x; subst x)
    | lift_lets
    | (with_reducible refine send_kept ?_)
    | (with_reducible refine setDir_kept ?_)
    | (with_reducible refine closeTrk_kept ?_)
    | (with_reducible refine granted_kept ?_)
    | (with_reducible refine allocate_kept ?_)
    | simp only [↓kept_mk_eq]
    | split

theorem maintDone_kept {q : List Instr} {s : State} {h : Nat} {t : Tracker} {viaWb : Bool} (hk : Kept q s) : Kept q (maintDone s h t viaWb) := by
  unfold maintDone
  repeat' first
    | (with_reducible assumption)
    | (intro x; refine kept_cut (q := q) (s := x) ?_ (fun _ => ?_) <;> [unfold x; clear_value x])
    | (intro x; subst x)
    | lift_lets
    | (with_reducible refine setL3_kept ?_)
    | (with_reducible refine dirFree_kept ?_)
    | (with_reducible refine writeMem_kept ?_)
    | (with_reducible refine l3Drop_kept ?_)
    | (with_reducible refine doneAt_kept ?_)
    | (with_reducible refine kept_ite (fun _ => ?_) (fun _ => ?_))
    | split

theorem serve_kept {q : List Instr} {s : State} {h : Nat} {t : Tracker} (hk : Kept q s) : Kept q (serve s h t) := by
  unfold serve
  repeat' first
    | (with_reducible assumption)
    | (intro x; refine kept_cut (q := q) (s := x) ?_ (fun _ => ?_) <;> [unfold x; clear_value x])
    | (intro (x : Nat); clear_value x)
    | (intro x; subst x)
    | lift_lets
    | (with_reducible refine charge_kept ?_)
    | (with_reducible refine setDir_kept ?_)
    | (with_reducible refine closeTrk_kept ?_)
    | (with_reducible refine sendFwds_kept ?_)
    | (with_reducible refine l3Drop_kept ?_)
    | (with_reducible refine doneAt_kept ?_)
    | (with_reducible refine homeWrite_kept ?_)
    | (with_reducible refine gather_kept ?_)
    | (with_reducible refine allocate_kept ?_)
    | (with_reducible refine takeOwnership_kept ?_)
    | (with_reducible refine grantUpg_kept ?_)
    | (with_reducible refine maintDone_kept ?_)
    | (with_reducible refine kept_ite (fun _ => ?_) (fun _ => ?_))
    | split

theorem beginScrub_kept {q : List Instr} {s : State} {h : Nat} {set : BitVec 13} (hk : Kept q s) : Kept q (beginScrub s h set) := by
  unfold beginScrub
  repeat' first
    | (with_reducible assumption)
    | (intro x; refine kept_cut (q := q) (s := x) ?_ (fun _ => ?_) <;> [unfold x; clear_value x])
    | lift_lets
    | (with_reducible refine modSlice_kept ?_)
    | (with_reducible refine jrn_kept ?_)

theorem dirCheck_kept {q : List Instr} {s : State} {h : Nat} {l : LineNo} (hk : Kept q s) : Kept q (dirCheck s h l) := by
  unfold dirCheck
  repeat' first
    | (with_reducible assumption)
    | lift_lets
    | (with_reducible refine modSlice_kept ?_)
    | (with_reducible refine beginScrub_kept ?_)
    | (with_reducible refine kept_ite (fun _ => ?_) (fun _ => ?_))
    | simp only [↓kept_mk_eq]
    | split

theorem serveAt_kept {q : List Instr} {s : State} {h : Nat} {t : Tracker} (hk : Kept q s) : Kept q (serveAt s h t) := by
  unfold serveAt
  repeat' first
    | (with_reducible assumption)
    | (intro x; refine kept_cut (q := q) (s := x) ?_ (fun _ => ?_) <;> [unfold x; clear_value x])
    | (intro x; subst x)
    | lift_lets
    | (with_reducible refine modSlice_kept ?_)
    | (with_reducible refine closeTrk_kept ?_)
    | (with_reducible refine l3Check_kept ?_)
    | (with_reducible refine sendRetry_kept ?_)
    | (with_reducible refine serve_kept ?_)
    | (with_reducible refine dirCheck_kept ?_)
    | (with_reducible refine kept_ite (fun _ => ?_) (fun _ => ?_))

theorem scrubGoOne_kept {q : List Instr} {s : State} {h : Nat} {b : Scrub} (hk : Kept q s) : Kept q (scrubGoOne s h b) := by
  unfold scrubGoOne
  try generalize (List.range 20) = r20
  repeat' first
    | (with_reducible assumption)
    | (intro x; refine kept_cut (q := q) (s := x) ?_ (fun _ => ?_) <;> [unfold x; clear_value x])
    | (intro x; subst x)
    | intro _
    | lift_lets
    | (with_reducible refine modSlice_kept ?_)
    | (with_reducible refine send_kept ?_)
    | (with_reducible refine kept_ite (fun _ => ?_) (fun _ => ?_))
    | (with_reducible refine kept_foldl ?_ ?_)

theorem scrubGo_kept {q : List Instr} {s : State} {h : Nat} (hk : Kept q s) : Kept q (scrubGo s h) := by
  unfold scrubGo
  repeat' first
    | (with_reducible assumption)
    | intro _
    | lift_lets
    | (with_reducible refine scrubGoOne_kept ?_)
    | (with_reducible refine kept_foldl ?_ ?_)

theorem scrubAck_kept {q : List Instr} {s : State} {h : Nat} {set : BitVec 13} {c : Nat} (hk : Kept q s) : Kept q (scrubAck s h set c) := by
  unfold scrubAck
  repeat' first
    | (with_reducible assumption)
    | (with_reducible refine modSlice_kept ?_)

theorem fwdDone_kept {q : List Instr} {s : State} {h : Nat} {t : Tracker} {b : Nat} {viaWb : Bool} (hk : Kept q s) : Kept q (fwdDone s h t b viaWb) := by
  unfold fwdDone
  repeat' first
    | (with_reducible assumption)
    | (intro x; refine kept_cut (q := q) (s := x) ?_ (fun _ => ?_) <;> [unfold x; clear_value x])
    | (intro x; subst x)
    | lift_lets
    | (with_reducible refine setDir_kept ?_)
    | (with_reducible refine dirFree_kept ?_)
    | (with_reducible refine sendLine_kept ?_)
    | (with_reducible refine closeTrk_kept ?_)
    | (with_reducible refine writeMem_kept ?_)
    | (with_reducible refine doneAt_kept ?_)
    | (with_reducible refine homeReserve_kept ?_)
    | (with_reducible refine granted_kept ?_)
    | (with_reducible refine homeWrite_kept ?_)
    | (with_reducible refine gather_kept ?_)
    | (with_reducible refine kept_ite (fun _ => ?_) (fun _ => ?_))
    | simp only [↓kept_mk_eq]
    | split

theorem invDone_kept {q : List Instr} {s : State} {h : Nat} {t : Tracker} (hk : Kept q s) : Kept q (invDone s h t) := by
  unfold invDone
  repeat' first
    | (with_reducible assumption)
    | lift_lets
    | (with_reducible refine dirFree_kept ?_)
    | (with_reducible refine homeWrite_kept ?_)
    | (with_reducible refine gather_kept ?_)
    | (with_reducible refine takeOwnership_kept ?_)
    | (with_reducible refine grantUpg_kept ?_)
    | (with_reducible refine kept_ite (fun _ => ?_) (fun _ => ?_))
    | split

theorem binvDone_kept {q : List Instr} {s : State} {h : Nat} {t : Tracker} (hk : Kept q s) : Kept q (binvDone s h t) := by
  unfold binvDone
  repeat' first
    | (with_reducible assumption)
    | (intro x; refine kept_cut (q := q) (s := x) ?_ (fun _ => ?_) <;> [unfold x; clear_value x])
    | (intro x; subst x)
    | lift_lets
    | (with_reducible refine setDir_kept ?_)
    | (with_reducible refine dirFree_kept ?_)
    | (with_reducible refine closeTrk_kept ?_)
    | (with_reducible refine l3Place_kept ?_)
    | (with_reducible refine gather_kept ?_)
    | split

theorem dropLanding_kept {q : List Instr} {s : State} {h : Nat} {m : Msg} (hk : Kept q s) : Kept q (dropLanding s h m) := by
  unfold dropLanding
  repeat' first
    | (with_reducible assumption)
    | lift_lets
    | (with_reducible refine modSlice_kept ?_)
    | (with_reducible refine send_kept ?_)

theorem gotAnswer_kept {q : List Instr} {s : State} {h : Nat} {l : LineNo} {c : Nat} {d : Option LineData} {dirty : Bool} {viaWb : Bool} (hk : Kept q s) : Kept q (gotAnswer s h l c d dirty viaWb) := by
  unfold gotAnswer
  repeat' first
    | (with_reducible assumption)
    | (intro x; refine kept_cut (q := q) (s := x) ?_ (fun _ => ?_) <;> [unfold x; clear_value x])
    | lift_lets
    | (with_reducible refine dirFree_kept ?_)
    | (with_reducible refine putTrk_kept ?_)
    | (with_reducible refine closeTrk_kept ?_)
    | (with_reducible refine maintDone_kept ?_)
    | (with_reducible refine serveAt_kept ?_)
    | (with_reducible refine fwdDone_kept ?_)
    | (with_reducible refine invDone_kept ?_)
    | (with_reducible refine binvDone_kept ?_)
    | (with_reducible refine dropLanding_kept ?_)
    | (with_reducible refine kept_ite (fun _ => ?_) (fun _ => ?_))
    | simp only [↓kept_mk_eq]
    | split

theorem lostLine_kept {q : List Instr} {s : State} {h : Nat} {l : LineNo} {a : Nat} {t : Tracker} (hk : Kept q s) : Kept q (lostLine s h l a t) := by
  unfold lostLine
  repeat' first
    | (with_reducible assumption)
    | (intro x; refine kept_cut (q := q) (s := x) ?_ (fun _ => ?_) <;> [unfold x; clear_value x])
    | lift_lets
    | (with_reducible refine setDir_kept ?_)
    | (with_reducible refine putTrk_kept ?_)
    | (with_reducible refine memRequest_kept' ?_)
    | split

theorem lostDone_kept {q : List Instr} {s : State} {h : Nat} {t : Tracker} (hk : Kept q s) : Kept q (lostDone s h t) := by
  unfold lostDone
  repeat' first
    | (with_reducible assumption)
    | (intro x; refine kept_cut (q := q) (s := x) ?_ (fun _ => ?_) <;> [unfold x; clear_value x])
    | (intro (x : Nat); clear_value x)
    | (intro x; subst x)
    | lift_lets
    | (with_reducible refine jrn_kept ?_)
    | (with_reducible refine dirFree_kept ?_)
    | (with_reducible refine bankEv_kept ?_)
    | (with_reducible refine putTrk_kept ?_)
    | (with_reducible refine closeTrk_kept ?_)
    | (with_reducible refine maintDone_kept ?_)
    | (with_reducible refine serveAt_kept ?_)
    | (with_reducible refine binvDone_kept ?_)
    | (with_reducible refine kept_ite (fun _ => ?_) (fun _ => ?_))
    | simp only [↓kept_mk_eq]
    | split

theorem memWritten_kept {q : List Instr} {s : State} {h : Nat} {t : Tracker} (hk : Kept q s) : Kept q (memWritten s h t) := by
  unfold memWritten
  repeat' first
    | (with_reducible assumption)
    | (with_reducible refine closeTrk_kept ?_)
    | (with_reducible refine doneAt_kept ?_)
    | split

theorem acceptWb_kept {q : List Instr} {s : State} {h : Nat} {m : Msg} (hk : Kept q s) : Kept q (acceptWb s h m) := by
  unfold acceptWb
  repeat' first
    | (with_reducible assumption)
    | (intro x; refine kept_cut (q := q) (s := x) ?_ (fun _ => ?_) <;> [unfold x; clear_value x])
    | (intro (x : Nat); clear_value x)
    | lift_lets
    | (with_reducible refine modSlice_kept ?_)
    | (with_reducible refine send_kept ?_)
    | (with_reducible refine setDir_kept ?_)
    | (with_reducible refine dirFree_kept ?_)
    | (with_reducible refine l3Place_kept ?_)
    | (with_reducible refine kept_ite (fun _ => ?_) (fun _ => ?_))
    | simp only [↓kept_mk_eq]
    | split

theorem settle_kept {q : List Instr} {f : Nat} {s : State} {h : Nat} (hk : Kept q s) : Kept q (settle f s h) := by
  induction f generalizing s with
  | zero => exact hk
  | succ f ih =>
    unfold settle
    repeat' first
      | (with_reducible refine ih ?_)
      | (with_reducible assumption)
      | lift_lets
      | (with_reducible refine modSlice_kept ?_)
      | (with_reducible refine serveAt_kept ?_)
      | (with_reducible refine acceptWb_kept ?_)
      | split

theorem settleAll_kept {q : List Instr} {s : State} {h : Nat} (hk : Kept q s) : Kept q (settleAll s h) := by
  unfold settleAll
  repeat' first
    | (with_reducible assumption)
    | (with_reducible refine settle_kept ?_)

theorem settleSlice_kept {q : List Instr} {s : State} {h : Nat} (hk : Kept q s) : Kept q (settleSlice s h) := by
  unfold settleSlice
  repeat' first
    | (with_reducible assumption)
    | lift_lets
    | (with_reducible refine scrubGo_kept ?_)
    | (with_reducible refine settleAll_kept ?_)

theorem trkPeak_kept {q : List Instr} {s : State} {h : Nat} (hk : Kept q s) : Kept q (trkPeak s h) := by
  unfold trkPeak
  repeat' first
    | (with_reducible assumption)
    | (with_reducible refine modSlice_kept ?_)

theorem homeRequest_kept {q : List Instr} {s : State} {m : Msg} (hk : Kept q s) : Kept q (homeRequest s m) := by
  unfold homeRequest
  repeat' first
    | (with_reducible assumption)
    | (intro x; refine kept_cut (q := q) (s := x) ?_ (fun _ => ?_) <;> [unfold x; clear_value x])
    | (intro (x : Nat); clear_value x)
    | lift_lets
    | (with_reducible refine modSlice_kept ?_)
    | (with_reducible refine take_kept ?_)
    | (with_reducible refine bankEv_kept ?_)
    | (with_reducible refine sendRetry_kept ?_)
    | (with_reducible refine settleSlice_kept ?_)
    | (with_reducible refine trkPeak_kept ?_)
    | (with_reducible refine kept_ite (fun _ => ?_) (fun _ => ?_))
    | split

theorem deadAnswer_kept {q : List Instr} {s : State} {h : Nat} {a : Nat} {l : LineNo} (hk : Kept q s) : Kept q (deadAnswer s h a l) := by
  unfold deadAnswer
  repeat' first
    | (with_reducible assumption)
    | lift_lets
    | (with_reducible refine gotAnswer_kept ?_)
    | (with_reducible refine lostLine_kept ?_)
    | (with_reducible refine kept_ite (fun _ => ?_) (fun _ => ?_))
    | split

theorem reclaimEntry_kept {q : List Instr} {s : State} {h : Nat} {a : Nat} {l : LineNo} (hk : Kept q s) : Kept q (reclaimEntry s h a l) := by
  unfold reclaimEntry
  repeat' first
    | (with_reducible assumption)
    | lift_lets
    | (with_reducible refine setDir_kept ?_)
    | (with_reducible refine dirFree_kept ?_)
    | (with_reducible refine lostLine_kept ?_)
    | (with_reducible refine kept_ite (fun _ => ?_) (fun _ => ?_))
    | split

theorem reclaim_kept {q : List Instr} {s : State} {h : Nat} {a : Nat} (hk : Kept q s) : Kept q (reclaim s h a) := by
  unfold reclaim
  repeat' first
    | (with_reducible assumption)
    | (intro x; refine kept_cut (q := q) (s := x) ?_ (fun _ => ?_) <;> [unfold x; clear_value x])
    | (intro x; subst x)
    | intro _
    | lift_lets
    | (with_reducible refine modSlice_kept ?_)
    | (with_reducible refine settleSlice_kept ?_)
    | (with_reducible refine deadAnswer_kept ?_)
    | (with_reducible refine reclaimEntry_kept ?_)
    | (with_reducible refine kept_ite (fun _ => ?_) (fun _ => ?_))
    | (with_reducible refine kept_foldl ?_ ?_)

/-! ### `Machine/Coherence.lean` -/

theorem downAnswer_kept {q : List Instr} {s : State} {m : Msg} (hk : Kept q s) : Kept q (downAnswer s m) := by
  unfold downAnswer
  repeat' first
    | (with_reducible assumption)
    | (intro x; refine kept_cut (q := q) (s := x) ?_ (fun _ => ?_) <;> [unfold x; clear_value x])
    | lift_lets
    | (with_reducible refine send_kept ?_)
    | (with_reducible refine kept_ite (fun _ => ?_) (fun _ => ?_))
    | simp only [↓kept_mk_eq]

theorem atCourse_kept {q : List Instr} {s : State} {m : Msg} {f : State → Nat → State} (hf : ∀ s n, Kept q s → Kept q (f s n)) (hk : Kept q s) : Kept q (atCourse s m f) := by
  unfold atCourse
  exact kept_ite (fun _ => hk) (fun _ => kept_ite (fun _ => downAnswer_kept hk) (fun _ => hf _ _ (take_kept hk)))

theorem atHome_kept {q : List Instr} {s : State} {m : Msg} {f : State → Nat → State} (hf : ∀ s n, Kept q s → Kept q (f s n)) (hk : Kept q s) : Kept q (atHome s m f) := by
  unfold atHome
  exact kept_ite (fun _ => hk) (fun _ => settleSlice_kept (hf _ _ (take_kept hk)))

theorem dropL1i_kept {q : List Instr} {s : State} {c : Nat} {l : LineNo} (hk : Kept q s) : Kept q (dropL1i s c l) := by
  unfold dropL1i
  repeat' first
    | (with_reducible assumption)
    | intro _
    | lift_lets
    | (with_reducible refine modCore_kept ?_)
    | (with_reducible refine kept_foldl ?_ ?_)

theorem scrubStep_kept {q : List Instr} {f : Nat} {s : State} {c : Nat} {m : Msg} (hk : Kept q s) : Kept q (scrubStep f s c m) := by
  induction f generalizing s with
  | zero => exact hk
  | succ f ih =>
    unfold scrubStep
    repeat' first
      | (with_reducible refine ih ?_)
      | (with_reducible assumption)
      | lift_lets
      | (with_reducible refine modCourse_kept ?_)
      | (with_reducible refine send_kept ?_)
      | (with_reducible refine evictFor_kept ?_)
      | (with_reducible refine l2Check_kept ?_)
      | (with_reducible refine kept_ite (fun _ => ?_) (fun _ => ?_))
      | simp only [↓kept_mk_eq]
      | split

theorem answerFwd_kept {q : List Instr} {s : State} {c : Nat} {m : Msg} (hk : Kept q s) : Kept q (answerFwd s c m) := by
  unfold answerFwd
  repeat' first
    | (with_reducible assumption)
    | (intro x; refine kept_cut (q := q) (s := x) ?_ (fun _ => ?_) <;> [unfold x; clear_value x])
    | (intro x; subst x)
    | lift_lets
    | (with_reducible refine send_kept ?_)
    | (with_reducible refine setL2_kept ?_)
    | (with_reducible refine l2Drop_kept ?_)
    | (with_reducible refine bankEv_kept ?_)
    | (with_reducible refine sendLine_kept ?_)
    | (with_reducible refine dropL1i_kept ?_)
    | (with_reducible refine scrubStep_kept ?_)
    | (with_reducible refine kept_ite (fun _ => ?_) (fun _ => ?_))
    | simp only [↓kept_mk_eq]
    | split

theorem serveHeld_kept {q : List Instr} {f : Nat} {s : State} {c : Nat} (hk : Kept q s) : Kept q (serveHeld f s c) := by
  induction f generalizing s with
  | zero => exact hk
  | succ f ih =>
    unfold serveHeld
    repeat' first
      | (with_reducible refine ih ?_)
      | (with_reducible assumption)
      | lift_lets
      | (with_reducible refine modCourse_kept ?_)
      | (with_reducible refine answerFwd_kept ?_)
      | split

theorem fwdCheck_kept {q : List Instr} {c : Nat} {s : State} {m : Msg} (hk : Kept q s) : Kept q (fwdCheck c s m) := by
  unfold fwdCheck
  repeat' first
    | (with_reducible assumption)
    | lift_lets
    | (with_reducible refine l2Check_kept ?_)
    | (with_reducible refine kept_ite (fun _ => ?_) (fun _ => ?_))

theorem goHeld_kept {q : List Instr} {s : State} {c : Nat} (hk : Kept q s) : Kept q (goHeld s c) := by
  unfold goHeld
  repeat' first
    | (with_reducible assumption)
    | intro _
    | lift_lets
    | (with_reducible refine serveHeld_kept ?_)
    | (with_reducible refine fwdCheck_kept ?_)
    | (with_reducible refine kept_foldl ?_ ?_)

theorem receiveFwd_kept {q : List Instr} {s : State} {m : Msg} (hk : Kept q s) : Kept q (receiveFwd s m) := by
  unfold receiveFwd
  repeat' first
    | (with_reducible assumption)
    | (intro x; refine kept_cut (q := q) (s := x) ?_ (fun _ => ?_) <;> [unfold x; clear_value x])
    | intro _
    | lift_lets
    | (with_reducible refine modCourse_kept ?_)
    | (with_reducible refine bankEv_kept ?_)
    | (with_reducible refine atCourse_kept ?_ ?_)
    | (with_reducible refine answerFwd_kept ?_)
    | (with_reducible refine fwdCheck_kept ?_)
    | (with_reducible refine kept_ite (fun _ => ?_) (fun _ => ?_))

theorem captureLine_kept {q : List Instr} {s : State} {n : Nat} {l : LineNo} {d : LineData} (hk : Kept q s) : Kept q (captureLine s n l d) := by
  unfold captureLine
  repeat' first
    | (with_reducible assumption)
    | (intro x; refine kept_cut (q := q) (s := x) ?_ (fun _ => ?_) <;> [unfold x; clear_value x])
    | (intro (x : Nat); clear_value x)
    | (intro (x : Core); clear_value x)
    | (intro x; subst x)
    | lift_lets
    | (with_reducible refine setCore_kept ?_)
    | (with_reducible refine coreEv_kept ?_)
    | (with_reducible refine l1dFill_kept ?_)
    | (with_reducible refine kept_ite (fun _ => ?_) (fun _ => ?_))

theorem goCore_kept {q : List Instr} {s : State} {m : Msg} (hk : Kept q s) : Kept q (goCore s m) := by
  unfold goCore
  repeat' first
    | (with_reducible assumption)
    | (with_reducible refine advance_kept ?_)
    | split

theorem lineReady_kept {q : List Instr} {s : State} {c : Nat} {m : Msg} (hk : Kept q s) : Kept q (lineReady s c m) := by
  unfold lineReady
  repeat' first
    | (with_reducible assumption)
    | (intro x; refine kept_cut (q := q) (s := x) ?_ (fun _ => ?_) <;> [unfold x; clear_value x])
    | intro _
    | lift_lets
    | (with_reducible refine kickCourse_kept ?_)
    | (with_reducible refine drainHead_kept ?_)
    | (with_reducible refine goHeld_kept ?_)
    | (with_reducible refine captureLine_kept ?_)
    | (with_reducible refine goCore_kept ?_)
    | (with_reducible refine kept_ite (fun _ => ?_) (fun _ => ?_))
    | (with_reducible refine kept_foldl ?_ ?_)
    | split

theorem receiveData_kept {q : List Instr} {s : State} {m : Msg} {st : L2St} (hk : Kept q s) : Kept q (receiveData s m st) := by
  unfold receiveData
  repeat' first
    | (with_reducible assumption)
    | (intro (x : Nat); clear_value x)
    | lift_lets
    | (with_reducible refine take_kept ?_)
    | (with_reducible refine charge_kept ?_)
    | (with_reducible refine closeReq_kept ?_)
    | (with_reducible refine l2Install_kept ?_ (by assumption))
    | (with_reducible refine downAnswer_kept ?_)
    | (with_reducible refine lineReady_kept ?_)
    | (with_reducible refine kept_ite (fun _ => ?_) (fun _ => ?_))
    | simp only [↓kept_mk_eq]
    | split

theorem receiveGrant_kept {q : List Instr} {s : State} {m : Msg} (hk : Kept q s) : Kept q (receiveGrant s m) := by
  unfold receiveGrant
  repeat' first
    | (with_reducible assumption)
    | (intro x; refine kept_cut (q := q) (s := x) ?_ (fun _ => ?_) <;> [unfold x; clear_value x])
    | intro _
    | lift_lets
    | (with_reducible refine setL2_kept ?_)
    | (with_reducible refine closeReq_kept ?_)
    | (with_reducible refine atCourse_kept ?_ ?_)
    | (with_reducible refine lineReady_kept ?_)
    | (with_reducible refine kept_ite (fun _ => ?_) (fun _ => ?_))
    | split

theorem pushNf_kept {q : List Instr} {s : State} {n : Nat} {l : LineNo} {d : LineData} (hk : Kept q s) : Kept q (pushNf s n l d) := by
  unfold pushNf
  repeat' first
    | (with_reducible assumption)
    | (with_reducible refine modCore_kept ?_)

theorem captureOne_kept {q : List Instr} {s : State} {n : Nat} {i : Nat} {l : LineNo} {d : LineData} (hk : Kept q s) : Kept q (captureOne s n i l d) := by
  unfold captureOne
  repeat' first
    | (with_reducible assumption)
    | (with_reducible refine modCore_kept ?_)

theorem atHomeNow_kept {q : List Instr} {s : State} {n : Nat} {i : Nat} {l : LineNo} (hk : Kept q s) : Kept q (atHomeNow s n i l) := by
  unfold atHomeNow
  repeat' first
    | (with_reducible assumption)
    | (with_reducible refine modCore_kept ?_)

theorem receiveNf_kept {q : List Instr} {s : State} {m : Msg} (hk : Kept q s) : Kept q (receiveNf s m) := by
  unfold receiveNf
  repeat' first
    | (with_reducible assumption)
    | (intro x; refine kept_cut (q := q) (s := x) ?_ (fun _ => ?_) <;> [unfold x; clear_value x])
    | (intro x; subst x)
    | intro _
    | lift_lets
    | (with_reducible refine modCore_kept ?_)
    | (with_reducible refine bankEv_kept ?_)
    | (with_reducible refine closeReq_kept ?_)
    | (with_reducible refine kickCourse_kept ?_)
    | (with_reducible refine drainHead_kept ?_)
    | (with_reducible refine atCourse_kept ?_ ?_)
    | (with_reducible refine goHeld_kept ?_)
    | (with_reducible refine goCore_kept ?_)
    | (with_reducible refine pushNf_kept ?_)
    | (with_reducible refine captureOne_kept ?_)
    | (with_reducible refine atHomeNow_kept ?_)
    | (with_reducible refine kept_ite (fun _ => ?_) (fun _ => ?_))
    | simp only [↓kept_mk_eq]
    | split

theorem homeResv_kept {q : List Instr} {s : State} {n : Nat} {pa : PAddr} {lin : BitVec 48} (hk : Kept q s) : Kept q (homeResv s n pa lin) := by
  unfold homeResv
  repeat' first
    | (with_reducible assumption)
    | (intro x; refine kept_cut (q := q) (s := x) ?_ (fun _ => ?_) <;> [unfold x; clear_value x])
    | (intro (x : Nat); clear_value x)
    | lift_lets
    | (with_reducible refine modSlice_kept ?_)
    | (with_reducible refine setResv_kept ?_)
    | (with_reducible refine kept_ite (fun _ => ?_) (fun _ => ?_))

theorem homeDone_kept {q : List Instr} {s : State} {c : Nat} {m : Msg} (hk : Kept q s) : Kept q (homeDone s c m) := by
  unfold homeDone
  repeat' first
    | (with_reducible assumption)
    | (intro x; refine kept_cut (q := q) (s := x) ?_ (fun _ => ?_) <;> [unfold x; clear_value x])
    | (intro x; subst x)
    | lift_lets
    | (with_reducible refine modCore_kept ?_)
    | (with_reducible refine dropResv_kept ?_)
    | (with_reducible refine closeHome_kept ?_)
    | (with_reducible refine popStore_kept ?_)
    | (with_reducible refine pushNf_kept ?_)
    | (with_reducible refine captureOne_kept ?_)
    | (with_reducible refine homeResv_kept ?_)
    | (with_reducible refine kept_ite (fun _ => ?_) (fun _ => ?_))
    | simp only [↓kept_mk_eq]
    | split

theorem receiveDone_kept {q : List Instr} {s : State} {m : Msg} (hk : Kept q s) : Kept q (receiveDone s m) := by
  unfold receiveDone
  repeat' first
    | (with_reducible assumption)
    | (intro x; refine kept_cut (q := q) (s := x) ?_ (fun _ => ?_) <;> [unfold x; clear_value x])
    | intro _
    | lift_lets
    | (with_reducible refine take_kept ?_)
    | (with_reducible refine kickCourse_kept ?_)
    | (with_reducible refine atCourse_kept ?_ ?_)
    | (with_reducible refine goHeld_kept ?_)
    | (with_reducible refine goCore_kept ?_)
    | (with_reducible refine homeDone_kept ?_)
    | (with_reducible refine kept_ite (fun _ => ?_) (fun _ => ?_))
    | simp only [↓kept_mk_eq]

theorem receiveWbAck_kept {q : List Instr} {s : State} {m : Msg} (hk : Kept q s) : Kept q (receiveWbAck s m) := by
  unfold receiveWbAck
  repeat' first
    | (with_reducible assumption)
    | intro _
    | lift_lets
    | (with_reducible refine modCourse_kept ?_)
    | (with_reducible refine atCourse_kept ?_ ?_)
    | (with_reducible refine goHeld_kept ?_)

theorem receiveRetry_kept {q : List Instr} {s : State} {m : Msg} (hk : Kept q s) : Kept q (receiveRetry s m) := by
  unfold receiveRetry
  repeat' first
    | (with_reducible assumption)
    | (intro x; refine kept_cut (q := q) (s := x) ?_ (fun _ => ?_) <;> [unfold x; clear_value x])
    | intro _
    | lift_lets
    | (with_reducible refine modCourse_kept ?_)
    | (with_reducible refine free_kept' ?_)
    | (with_reducible refine take_kept ?_)
    | (with_reducible refine bankEv_kept ?_)
    | (with_reducible refine closeReq_kept ?_)
    | (with_reducible refine atCourse_kept ?_ ?_)
    | (with_reducible refine kept_ite (fun _ => ?_) (fun _ => ?_))
    | simp only [↓kept_mk_eq]

theorem reissue_kept {q : List Instr} {s : State} {a : Nat} {l : LineNo} (hk : Kept q s) : Kept q (reissue s a l) := by
  unfold reissue
  repeat' first
    | (with_reducible assumption)
    | lift_lets
    | (with_reducible refine modCourse_kept ?_)
    | (with_reducible refine send_kept ?_)
    | (with_reducible refine kept_ite (fun _ => ?_) (fun _ => ?_))
    | simp only [↓kept_mk_eq]
    | split

theorem setScrub_kept {q : List Instr} {s : State} {m : Msg} (hk : Kept q s) : Kept q (setScrub s m) := by
  unfold setScrub
  repeat' first
    | (with_reducible assumption)
    | (intro (x : Nat); clear_value x)
    | lift_lets
    | (with_reducible refine beginScrub_kept ?_)
    | (with_reducible refine settleSlice_kept ?_)
    | (with_reducible refine receiveFwd_kept ?_)
    | (with_reducible refine kept_ite (fun _ => ?_) (fun _ => ?_))

theorem landed_kept {q : List Instr} {s : State} {m : Msg} (hk : Kept q s) : Kept q (landed s m) := by
  unfold landed
  repeat' first
    | (with_reducible assumption)
    | intro _
    | lift_lets
    | (with_reducible refine modSlice_kept ?_)
    | (with_reducible refine atHome_kept ?_ ?_)
    | (with_reducible refine kept_ite (fun _ => ?_) (fun _ => ?_))

theorem memAnswer_kept {q : List Instr} {s : State} {h : Nat} {a : MemAns} (hk : Kept q s) : Kept q (memAnswer s h a) := by
  unfold memAnswer
  repeat' first
    | (with_reducible assumption)
    | (intro x; refine kept_cut (q := q) (s := x) ?_ (fun _ => ?_) <;> [unfold x; clear_value x])
    | lift_lets
    | (with_reducible refine received_kept ?_)
    | (with_reducible refine haveData_kept ?_)
    | (with_reducible refine lostDone_kept ?_)
    | (with_reducible refine memWritten_kept ?_)
    | (with_reducible refine settleSlice_kept ?_)
    | (with_reducible refine kept_ite (fun _ => ?_) (fun _ => ?_))
    | simp only [↓kept_mk_eq]
    | split

/-! ### `Machine/PlumbOps.lean` -/

theorem setPstat_kept {q : List Instr} {s : State} {b : Nat} {v : Bool} (hk : Kept q s) : Kept q (setPstat s b v) := by
  unfold setPstat
  repeat' first
    | (with_reducible assumption)
    | (intro x; subst x)
    | lift_lets
    | simp only [↓kept_mk_eq]

theorem setPpsMode_kept {q : List Instr} {s : State} {m : Nat} (hk : Kept q s) : Kept q (setPpsMode s m) := by
  unfold setPpsMode
  repeat' first
    | (with_reducible assumption)
    | (intro x; subst x)
    | lift_lets
    | simp only [↓kept_mk_eq]

theorem setAgentAt_kept {q : List Instr} {s : State} {a : Nat} (hk : Kept q s) : Kept q (setAgentAt s a) := by
  unfold setAgentAt
  repeat' first
    | (with_reducible assumption)
    | (intro x; subst x)
    | lift_lets
    | (with_reducible refine setAgent_kept ?_)

theorem setPlumbTime_kept {q : List Instr} {s : State} {v : Nat} (hk : Kept q s) : Kept q (setPlumbTime s v) := by
  unfold setPlumbTime
  have h : Kept q ((List.range 90).foldl setAgentAt s) := kept_foldl (fun s _ h => setAgentAt_kept h) hk
  generalize (List.range 90) = r at h ⊢
  dsimp only
  refine jrn_kept ?_
  rw [kept_mk_eq]
  exact h

theorem ppsEdge_kept {q : List Instr} {s : State} (hk : Kept q s) : Kept q (ppsEdge s) := by
  unfold ppsEdge
  repeat' first
    | (with_reducible assumption)
    | (intro (x : Nat); clear_value x)
    | (intro x; subst x)
    | lift_lets
    | (with_reducible refine setPstat_kept ?_)
    | (with_reducible refine setPpsMode_kept ?_)
    | (with_reducible refine setPlumbTime_kept ?_)
    | (with_reducible refine kept_ite (fun _ => ?_) (fun _ => ?_))
    | simp only [↓kept_mk_eq]
    | split

theorem abandonStep_kept {q : List Instr} {s : State} (hk : Kept q s) : Kept q (abandonStep s) := by
  unfold abandonStep
  repeat' first
    | (with_reducible assumption)
    | (intro x; refine kept_cut (q := q) (s := x) ?_ (fun _ => ?_) <;> [unfold x; clear_value x])
    | (intro x; subst x)
    | lift_lets
    | (with_reducible refine jrn_kept ?_)
    | (with_reducible refine setPpsMode_kept ?_)
    | (with_reducible refine kept_ite (fun _ => ?_) (fun _ => ?_))
    | simp only [↓kept_mk_eq]

theorem plumbTick_kept {q : List Instr} {s : State} (hk : Kept q s) : Kept q (plumbTick s) := by
  unfold plumbTick
  repeat' first
    | (with_reducible assumption)
    | (intro x; subst x)
    | lift_lets
    | (with_reducible refine setPstat_kept ?_)
    | simp only [↓kept_mk_eq]

theorem staticCharge_kept {q : List Instr} {s : State} {n : Nat} (hk : Kept q s) : Kept q (staticCharge s n) := by
  unfold staticCharge
  repeat' first
    | (with_reducible assumption)
    | (intro (x : Nat); clear_value x)
    | (intro (x : Core); clear_value x)
    | lift_lets
    | (with_reducible refine charge_kept ?_)
    | (with_reducible refine kept_ite (fun _ => ?_) (fun _ => ?_))

theorem railMeter_kept {q : List Instr} {s : State} (hk : Kept q s) : Kept q (railMeter s) := by
  unfold railMeter
  try generalize (List.range 4) = r4
  repeat' first
    | (with_reducible assumption)
    | intro _
    | lift_lets
    | (with_reducible refine free_kept' ?_)
    | (with_reducible refine kept_foldl ?_ ?_)
    | simp only [↓kept_mk_eq]

theorem coreTimeEv_kept {q : List Instr} {s : State} {n : Nat} (hk : Kept q s) : Kept q (coreTimeEv s n) := by
  have h1 : ∀ id k, Kept q (coreEvH s n id k) := fun id k => coreEvH_kept hk
  unfold coreTimeEv
  generalize getCore s n = c
  dsimp only
  generalize coreEvH s n = f at *
  generalize c.run = r
  cases r
  all_goals first | exact h1 _ _ | exact hk | (dsimp only; split; exact h1 _ _; exact hk)

theorem loseTokens_kept {q : List Instr} {f : Nat} {s : State} {n : Nat} (hk : Kept q s) : Kept q (loseTokens f s n) := by
  induction f generalizing s with
  | zero => exact hk
  | succ f ih =>
    unfold loseTokens
    repeat' first
      | (with_reducible refine ih ?_)
      | (with_reducible assumption)
      | lift_lets
      | (with_reducible refine modCore_kept ?_)
      | (with_reducible refine useToken_kept ?_)
      | (with_reducible refine kept_ite (fun _ => ?_) (fun _ => ?_))

theorem loseNs_kept {q : List Instr} {s : State} {n : Nat} (hk : Kept q s) : Kept q (loseNs s n) := by
  unfold loseNs
  repeat' first
    | (with_reducible assumption)
    | (intro x; refine kept_cut (q := q) (s := x) ?_ (fun _ => ?_) <;> [unfold x; clear_value x])
    | (intro (x : Nat); clear_value x)
    | (intro (x : Core); clear_value x)
    | lift_lets
    | (with_reducible refine setCore_kept ?_)
    | (with_reducible refine modCore_kept ?_)
    | (with_reducible refine loseTokens_kept ?_)
    | (with_reducible refine kept_ite (fun _ => ?_) (fun _ => ?_))

theorem paceUp_kept {q : List Instr} {f : Nat} {s : State} {n : Nat} (hk : Kept q s) : Kept q (paceUp f s n) := by
  induction f generalizing s with
  | zero => exact hk
  | succ f ih =>
    unfold paceUp
    repeat' first
      | (with_reducible refine ih ?_)
      | (with_reducible assumption)
      | lift_lets
      | (with_reducible refine paceTick_kept ?_)
      | (with_reducible refine kept_ite (fun _ => ?_) (fun _ => ?_))

theorem coreNs_kept {q : List Instr} {s : State} {n : Nat} (hk : Kept q s) : Kept q (coreNs s n) := by
  unfold coreNs
  repeat' first
    | (with_reducible assumption)
    | (intro x; refine kept_cut (q := q) (s := x) ?_ (fun _ => ?_) <;> [unfold x; clear_value x])
    | lift_lets
    | (with_reducible refine advance_kept ?_)
    | (with_reducible refine loseNs_kept ?_)
    | (with_reducible refine paceUp_kept ?_)
    | (with_reducible refine kept_ite (fun _ => ?_) (fun _ => ?_))

theorem tick_kept {q : List Instr} {s : State} (hk : Kept q s) : Kept q (tick s) := by
  unfold tick
  generalize (1000000 : Nat) = million
  repeat' first
    | (with_reducible assumption)
    | (intro x; refine kept_cut (q := q) (s := x) ?_ (fun _ => ?_) <;> [unfold x; clear_value x])
    | (intro (x : Nat); clear_value x)
    | intro _
    | lift_lets
    | (with_reducible refine bankEv_kept ?_)
    | (with_reducible refine plumbTick_kept ?_)
    | (with_reducible refine staticCharge_kept ?_)
    | (with_reducible refine railMeter_kept ?_)
    | (with_reducible refine coreNs_kept ?_)
    | (with_reducible refine coreTimeEv_kept ?_)
    | (with_reducible refine kept_ite (fun _ => ?_) (fun _ => ?_))
    | (with_reducible refine kept_foldl ?_ ?_)

theorem syncStop_kept {q : List Instr} {s : State} {e1 : BitVec 7 × Int} (hk : Kept q s) : Kept q (syncStop s e1) := by
  unfold syncStop
  repeat' first
    | (with_reducible assumption)
    | (intro x; refine kept_cut (q := q) (s := x) ?_ (fun _ => ?_) <;> [unfold x; clear_value x])
    | (intro (x : Nat); clear_value x)
    | (intro x; subst x)
    | lift_lets
    | (with_reducible refine jrn_kept ?_)
    | (with_reducible refine setPstat_kept ?_)
    | (with_reducible refine kept_ite (fun _ => ?_) (fun _ => ?_))
    | simp only [↓kept_mk_eq]

/-! ### `Machine/HubEvents.lean` -/

theorem hubAccept_kept {q : List Instr} {s : State} {n : Nat} {o : Offer} (hk : Kept q s) : Kept q (hubAccept s n o) := by
  unfold hubAccept
  repeat' first
    | (with_reducible assumption)
    | (intro x; refine kept_cut (q := q) (s := x) ?_ (fun _ => ?_) <;> [unfold x; clear_value x])
    | (intro (x : Nat); clear_value x)
    | lift_lets
    | (with_reducible refine modSrc_kept ?_)
    | (with_reducible refine modHub_kept ?_)
    | (with_reducible refine hubEval_kept ?_)

theorem hubHandback_kept {q : List Instr} {s : State} {n : Nat} {id : SrcId} (hk : Kept q s) : Kept q (hubHandback s n id) := by
  unfold hubHandback
  repeat' first
    | (with_reducible assumption)
    | (intro x; refine kept_cut (q := q) (s := x) ?_ (fun _ => ?_) <;> [unfold x; clear_value x])
    | (intro (x : Nat); clear_value x)
    | (intro x; subst x)
    | lift_lets
    | (with_reducible refine setSrc_kept ?_)
    | (with_reducible refine modHub_kept ?_)
    | (with_reducible refine hubEval_kept ?_)
    | (with_reducible refine hubEvalSrc_kept ?_)
    | (with_reducible refine kept_ite (fun _ => ?_) (fun _ => ?_))
    | split

theorem irqStale_kept {q : List Instr} {s : State} {t : Nat} (hk : Kept q s) : Kept q (irqStale s t) := by
  unfold irqStale
  repeat' first
    | (with_reducible assumption)
    | (with_reducible refine modDom_kept ?_)

theorem answerTake_kept {q : List Instr} {s : State} {n : Nat} {id : SrcId} {a : Answer} (hk : Kept q s) : Kept q (answerTake s n id a) := by
  unfold answerTake
  repeat' first
    | (with_reducible assumption)
    | lift_lets
    | (with_reducible refine received_kept ?_)
    | simp only [↓kept_mk_eq]
    | split

theorem hubAnswer_kept {q : List Instr} {s : State} {n : Nat} {id : SrcId} {a : Answer} (hk : Kept q s) : Kept q (hubAnswer s n id a) := by
  unfold hubAnswer
  repeat' first
    | (with_reducible assumption)
    | (intro x; refine kept_cut (q := q) (s := x) ?_ (fun _ => ?_) <;> [unfold x; clear_value x])
    | lift_lets
    | (with_reducible refine modHub_kept ?_)
    | (with_reducible refine hubChoose_kept ?_)
    | (with_reducible refine hubEvalSrc_kept ?_)
    | (with_reducible refine hubAccept_kept ?_)
    | (with_reducible refine hubHandback_kept ?_)
    | (with_reducible refine irqStale_kept ?_)
    | (with_reducible refine answerTake_kept ?_)
    | simp only [↓kept_mk_eq]
    | split

theorem mapPair_kept {q : List Instr} {s : State} {n : Nat} {t : Nat} {v : Nat} (hk : Kept q s) : Kept q (mapPair s n t v) := by
  unfold mapPair
  repeat' first
    | (with_reducible assumption)
    | (intro (x : Nat); clear_value x)
    | lift_lets
    | (with_reducible refine jrn_kept ?_)
    | (with_reducible refine hubEval_kept ?_)
    | (with_reducible refine kept_ite (fun _ => ?_) (fun _ => ?_))
    | simp only [↓kept_mk_eq]
    | split

theorem bindingReport_kept {q : List Instr} {s : State} {n : Nat} (hk : Kept q s) : Kept q (bindingReport s n) := by
  unfold bindingReport
  repeat' first
    | (with_reducible assumption)
    | (intro x; refine kept_cut (q := q) (s := x) ?_ (fun _ => ?_) <;> [unfold x; clear_value x])
    | (intro (x : Core); clear_value x)
    | lift_lets
    | (with_reducible refine modCore_kept ?_)
    | (with_reducible refine modHub_kept ?_)
    | (with_reducible refine received_kept ?_)
    | (with_reducible refine hubEval_kept ?_)
    | (with_reducible refine mapPair_kept ?_)
    | (with_reducible refine kept_ite (fun _ => ?_) (fun _ => ?_))
    | simp only [↓kept_mk_eq]

theorem sevTake_kept {q : List Instr} {s : State} {t : Tdid} {g : Bool} {target : BitVec 8} (hk : Kept q s) : Kept q (sevTake s t g target) := by
  unfold sevTake
  repeat' first
    | (with_reducible assumption)
    | lift_lets
    | (with_reducible refine received_kept ?_)
    | simp only [↓kept_mk_eq]
    | split

theorem msiDrop_kept {q : List Instr} {s : State} {k : Nat} {data : BitVec 32} {reason : Nat} (hk : Kept q s) : Kept q (msiDrop s k data reason) := by
  unfold msiDrop
  repeat' first
    | (with_reducible assumption)
    | (intro x; refine kept_cut (q := q) (s := x) ?_ (fun _ => ?_) <;> [unfold x; clear_value x])
    | lift_lets
    | (with_reducible refine jrn_kept ?_)
    | simp only [↓kept_mk_eq]

theorem msiMap_kept {q : List Instr} {s : State} {k : Nat} {data : BitVec 32} (hk : Kept q s) : Kept q (msiMap s k data) := by
  unfold msiMap
  repeat' first
    | (with_reducible assumption)
    | (intro (x : Nat); clear_value x)
    | (intro (x : Word64); clear_value x)
    | lift_lets
    | (with_reducible refine setPend_kept ?_)
    | (with_reducible refine msiDrop_kept ?_)
    | (with_reducible refine kept_ite (fun _ => ?_) (fun _ => ?_))

theorem msiTake_kept {q : List Instr} {s : State} {k : BitVec 12} {epoch : BitVec 8} {data : BitVec 32} (hk : Kept q s) : Kept q (msiTake s k epoch data) := by
  unfold msiTake
  repeat' first
    | (with_reducible assumption)
    | lift_lets
    | (with_reducible refine received_kept ?_)
    | simp only [↓kept_mk_eq]
    | split

theorem clrPend_kept {q : List Instr} {s : State} {id : Nat} (hk : Kept q s) : Kept q (clrPend s id) := by
  unfold clrPend
  repeat' first
    | (with_reducible assumption)
    | lift_lets
    | (with_reducible refine modSrc_kept ?_)
    | (with_reducible refine hubEvalSrc_kept ?_)
    | (with_reducible refine kept_ite (fun _ => ?_) (fun _ => ?_))

theorem srcWrite_kept {q : List Instr} {s : State} {id : Nat} {w : Word64} (hk : Kept q s) : Kept q (srcWrite s id w) := by
  unfold srcWrite
  repeat' first
    | (with_reducible assumption)
    | (intro x; refine kept_cut (q := q) (s := x) ?_ (fun _ => ?_) <;> [unfold x; clear_value x])
    | (intro (x : Word64); clear_value x)
    | (intro x; subst x)
    | lift_lets
    | (with_reducible refine setSrc_kept ?_)
    | (with_reducible refine ctlErr_kept ?_)
    | (with_reducible refine hubEval_kept ?_)
    | (with_reducible refine hubEvalSrc_kept ?_)
    | (with_reducible refine kept_ite (fun _ => ?_) (fun _ => ?_))
    | split

/-! ### `Machine/Perf.lean` -/

theorem pmGlobalApply_kept {q : List Instr} {s : State} {v : Word64} (hk : Kept q s) : Kept q (pmGlobalApply s v) := by
  unfold pmGlobalApply
  repeat' first
    | (with_reducible assumption)
    | (intro x; refine kept_cut (q := q) (s := x) ?_ (fun _ => ?_) <;> [unfold x; clear_value x])
    | (intro (x : Nat); clear_value x)
    | (intro (x : Word64); clear_value x)
    | lift_lets
    | (with_reducible refine kept_ite (fun _ => ?_) (fun _ => ?_))
    | simp only [↓kept_mk_eq]

theorem markLate_kept {q : List Instr} {s : State} {b : Nat} (hk : Kept q s) : Kept q (markLate s b) := by
  unfold markLate
  repeat' first
    | (with_reducible assumption)
    | (intro x; refine kept_cut (q := q) (s := x) ?_ (fun _ => ?_) <;> [unfold x; clear_value x])
    | lift_lets
    | (with_reducible refine bkSet_kept ?_)
    | (with_reducible refine kept_ite (fun _ => ?_) (fun _ => ?_))
    | simp only [↓kept_mk_eq]

theorem bankCopy_kept {q : List Instr} {s : State} {b : Nat} (hk : Kept q s) : Kept q (bankCopy s b) := by
  unfold bankCopy
  try generalize (List.range 4) = r4
  try generalize (List.range 8) = r8
  repeat' first
    | (with_reducible assumption)
    | intro _
    | lift_lets
    | (with_reducible refine modCore_kept ?_)
    | (with_reducible refine bkSet_kept ?_)
    | (with_reducible refine kept_ite (fun _ => ?_) (fun _ => ?_))
    | (with_reducible refine kept_foldl ?_ ?_)

theorem bankFreeze_kept {q : List Instr} {s : State} {b : Nat} {v : Bool} (hk : Kept q s) : Kept q (bankFreeze s b v) := by
  unfold bankFreeze
  repeat' first
    | (with_reducible assumption)
    | lift_lets
    | (with_reducible refine modCore_kept ?_)
    | (with_reducible refine kept_ite (fun _ => ?_) (fun _ => ?_))
    | simp only [↓kept_mk_eq]

theorem pmRecord_kept {q : List Instr} {s : State} {cls : Nat} {T : Nat} {k : Nat} (hk : Kept q s) : Kept q (pmRecord s cls T k) := by
  unfold pmRecord
  repeat' first
    | (with_reducible assumption)
    | (with_reducible refine putRec_kept ?_)

theorem snapBank_kept {q : List Instr} {s : State} {b : Nat} (hk : Kept q s) : Kept q (snapBank s b) := by
  unfold snapBank
  repeat' first
    | (with_reducible assumption)
    | (intro x; refine kept_cut (q := q) (s := x) ?_ (fun _ => ?_) <;> [unfold x; clear_value x])
    | (intro x; subst x)
    | lift_lets
    | (with_reducible refine markLate_kept ?_)
    | (with_reducible refine bankCopy_kept ?_)
    | (with_reducible refine pmRecord_kept ?_)
    | (with_reducible refine kept_ite (fun _ => ?_) (fun _ => ?_))
    | simp only [↓kept_mk_eq]

theorem freezeBank_kept {q : List Instr} {s : State} {b : Nat} (hk : Kept q s) : Kept q (freezeBank s b) := by
  unfold freezeBank
  repeat' first
    | (with_reducible assumption)
    | (intro x; refine kept_cut (q := q) (s := x) ?_ (fun _ => ?_) <;> [unfold x; clear_value x])
    | (intro x; subst x)
    | lift_lets
    | (with_reducible refine markLate_kept ?_)
    | (with_reducible refine bankFreeze_kept ?_)
    | (with_reducible refine pmRecord_kept ?_)
    | (with_reducible refine kept_ite (fun _ => ?_) (fun _ => ?_))
    | simp only [↓kept_mk_eq]

theorem bwCtlApply_kept {q : List Instr} {s : State} {b : Nat} {v : Word64} (hk : Kept q s) : Kept q (bwCtlApply s b v) := by
  unfold bwCtlApply
  repeat' first
    | (with_reducible assumption)
    | lift_lets
    | (with_reducible refine ctlErr_kept ?_)
    | (with_reducible refine bkSet_kept ?_)
    | (with_reducible refine kept_ite (fun _ => ?_) (fun _ => ?_))

/-! ### `Machine/Budget.lean` -/

theorem setBalance_kept {q : List Instr} {s : State} {t : Nat} {r : Nat} {v : Int} (hk : Kept q s) : Kept q (setBalance s t r v) := by
  unfold setBalance
  repeat' first
    | (with_reducible assumption)
    | (with_reducible refine modBud_kept ?_)

theorem notify_kept {q : List Instr} {s : State} {t : Nat} {r : Nat} {dry : Bool} (hk : Kept q s) : Kept q (notify s t r dry) := by
  unfold notify
  repeat' first
    | (with_reducible assumption)
    | (with_reducible refine shortStamp_kept' ?_)
    | simp only [↓kept_mk_eq]

theorem noticeTake_kept {q : List Instr} {s : State} {e1 : Nat × Tdid × BitVec 2 × Nat × Bool × BitVec 24} (hk : Kept q s) : Kept q (noticeTake s e1) := by
  unfold noticeTake
  repeat' first
    | (with_reducible assumption)
    | lift_lets
    | (with_reducible refine received_kept ?_)
    | (with_reducible refine kept_ite (fun _ => ?_) (fun _ => ?_))
    | simp only [↓kept_mk_eq]

theorem setDry_kept {q : List Instr} {s : State} {t : Nat} {r : Nat} (hk : Kept q s) : Kept q (setDry s t r) := by
  unfold setDry
  repeat' first
    | (with_reducible assumption)
    | (intro x; refine kept_cut (q := q) (s := x) ?_ (fun _ => ?_) <;> [unfold x; clear_value x])
    | (intro (x : Word64); clear_value x)
    | (intro x; subst x)
    | lift_lets
    | (with_reducible refine setBud_kept ?_)
    | (with_reducible refine notify_kept ?_)
    | (with_reducible refine kept_ite (fun _ => ?_) (fun _ => ?_))

theorem release_kept {q : List Instr} {s : State} {t : Nat} {r : Nat} (hk : Kept q s) : Kept q (release s t r) := by
  unfold release
  repeat' first
    | (with_reducible assumption)
    | lift_lets
    | (with_reducible refine modBud_kept ?_)
    | (with_reducible refine notify_kept ?_)

theorem refillOne_kept {q : List Instr} {s : State} {t : Nat} {r : Nat} {credit : Word64} (hk : Kept q s) : Kept q (refillOne s t r credit) := by
  unfold refillOne
  repeat' first
    | (with_reducible assumption)
    | (intro x; refine kept_cut (q := q) (s := x) ?_ (fun _ => ?_) <;> [unfold x; clear_value x])
    | (intro x; subst x)
    | lift_lets
    | (with_reducible refine setBud_kept ?_)
    | (with_reducible refine setBalance_kept ?_)
    | (with_reducible refine release_kept ?_)
    | (with_reducible refine kept_ite (fun _ => ?_) (fun _ => ?_))

theorem refillAll_kept {q : List Instr} {s : State} {t : Nat} {cs : List Word64} (hk : Kept q s) : Kept q (refillAll s t cs) := by
  unfold refillAll
  try generalize (List.range 4) = r4
  repeat' first
    | (with_reducible assumption)
    | intro _
    | lift_lets
    | (with_reducible refine refillOne_kept ?_)
    | (with_reducible refine kept_foldl ?_ ?_)
    | split

theorem applyRefill_kept {q : List Instr} {s : State} {t : Nat} {ep : BitVec 8} {cs : List Word64} (hk : Kept q s) : Kept q (applyRefill s t ep cs) := by
  unfold applyRefill
  repeat' first
    | (with_reducible assumption)
    | lift_lets
    | (with_reducible refine jrn_kept ?_)
    | (with_reducible refine refillAll_kept ?_)
    | (with_reducible refine kept_ite (fun _ => ?_) (fun _ => ?_))

theorem boundaryRefills_kept {q : List Instr} {s : State} {use : Bool} (hk : Kept q s) : Kept q (boundaryRefills s use) := by
  unfold boundaryRefills
  repeat' first
    | (with_reducible assumption)
    | (intro x; refine kept_cut (q := q) (s := x) ?_ (fun _ => ?_) <;> [unfold x; clear_value x])
    | (intro x; subst x)
    | intro _
    | lift_lets
    | (with_reducible refine refillAll_kept ?_)
    | (with_reducible refine applyRefill_kept ?_)
    | (with_reducible refine kept_foldl ?_ ?_)
    | simp only [↓kept_mk_eq]
    | split

theorem applyTargets_kept {q : List Instr} {s : State} (hk : Kept q s) : Kept q (applyTargets s) := by
  unfold applyTargets
  try generalize (List.range 32) = r32
  repeat' first
    | (with_reducible assumption)
    | (intro x; refine kept_cut (q := q) (s := x) ?_ (fun _ => ?_) <;> [unfold x; clear_value x])
    | intro _
    | lift_lets
    | (with_reducible refine modCourse_kept ?_)
    | (with_reducible refine seqEval_kept ?_)
    | (with_reducible refine kept_foldl ?_ ?_)
    | split

theorem boundary_kept {q : List Instr} {s : State} {b : Nat} (hk : Kept q s) : Kept q (boundary s b) := by
  unfold boundary
  repeat' first
    | (with_reducible assumption)
    | (intro x; refine kept_cut (q := q) (s := x) ?_ (fun _ => ?_) <;> [unfold x; clear_value x])
    | (intro x; subst x)
    | lift_lets
    | (with_reducible refine mapCores_kept ?_)
    | (with_reducible refine jrn_kept ?_)
    | (with_reducible refine alert_kept ?_)
    | (with_reducible refine boundaryRefills_kept ?_)
    | (with_reducible refine applyTargets_kept ?_)
    | (with_reducible refine kept_ite (fun _ => ?_) (fun _ => ?_))
    | simp only [↓kept_mk_eq]

theorem syncSteps_kept {q : List Instr} {f : Nat} {s : State} {t : Nat} (hk : Kept q s) : Kept q (syncSteps f s t) := by
  induction f generalizing s with
  | zero => exact hk
  | succ f ih =>
    unfold syncSteps
    repeat' first
      | (with_reducible refine ih ?_)
      | (with_reducible assumption)
      | lift_lets
      | (with_reducible refine boundary_kept ?_)
      | (with_reducible refine kept_ite (fun _ => ?_) (fun _ => ?_))

theorem syncBoundary_kept {q : List Instr} {s : State} {t : Nat} (hk : Kept q s) : Kept q (syncBoundary s t) := by
  unfold syncBoundary
  repeat' first
    | (with_reducible assumption)
    | (with_reducible refine syncSteps_kept ?_)

theorem openAccount_kept {q : List Instr} {s : State} {t : Nat} (hk : Kept q s) : Kept q (openAccount s t) := by
  unfold openAccount
  repeat' first
    | (with_reducible assumption)
    | (intro x; refine kept_cut (q := q) (s := x) ?_ (fun _ => ?_) <;> [unfold x; clear_value x])
    | (intro (x : Nat); clear_value x)
    | (intro x; subst x)
    | lift_lets
    | (with_reducible refine setBud_kept ?_)
    | (with_reducible refine refillAll_kept ?_)
    | (with_reducible refine syncBoundary_kept ?_)

theorem sendDraw_kept {q : List Instr} {s : State} {n : Nat} (hk : Kept q s) : Kept q (sendDraw s n) := by
  unfold sendDraw
  repeat' first
    | (with_reducible assumption)
    | lift_lets
    | (with_reducible refine modCore_kept ?_)
    | (with_reducible refine shortStamp_kept' ?_)

theorem sendLease_kept {q : List Instr} {s : State} {k : Nat} {g : Nat} (hk : Kept q s) : Kept q (sendLease s k g) := by
  unfold sendLease
  repeat' first
    | (with_reducible assumption)
    | lift_lets
    | (with_reducible refine modCore_kept ?_)
    | (with_reducible refine shortStamp_kept' ?_)

theorem takeGrace_kept {q : List Instr} {s : State} {n : Nat} {r : Nat} (hk : Kept q s) : Kept q (takeGrace s n r) := by
  unfold takeGrace
  repeat' first
    | (with_reducible assumption)
    | (intro x; refine kept_cut (q := q) (s := x) ?_ (fun _ => ?_) <;> [unfold x; clear_value x])
    | (intro (x : Nat); clear_value x)
    | (intro (x : Core); clear_value x)
    | lift_lets
    | (with_reducible refine setCore_kept ?_)
    | (with_reducible refine modDom_kept ?_)
    | (with_reducible refine modBud_kept ?_)
    | (with_reducible refine jrn_kept ?_)

theorem stallCore_kept {q : List Instr} {s : State} {n : Nat} (hk : Kept q s) : Kept q (stallCore s n) := by
  unfold stallCore
  repeat' first
    | (with_reducible assumption)
    | (intro (x : Core); clear_value x)
    | (intro x; subst x)
    | lift_lets
    | (with_reducible refine setCore_kept ?_)
    | (with_reducible refine takeGrace_kept ?_)
    | (with_reducible refine kept_ite (fun _ => ?_) (fun _ => ?_))
    | split

theorem applyUsage_kept {q : List Instr} {s : State} {u : UsageRep} (hk : Kept q s) : Kept q (applyUsage s u) := by
  unfold applyUsage
  repeat' first
    | (with_reducible assumption)
    | (intro x; refine kept_cut (q := q) (s := x) ?_ (fun _ => ?_) <;> [unfold x; clear_value x])
    | (intro (x : Nat); clear_value x)
    | (intro x; subst x)
    | lift_lets
    | (with_reducible refine setBalance_kept ?_)
    | (with_reducible refine setDry_kept ?_)
    | (with_reducible refine syncBoundary_kept ?_)
    | (with_reducible refine kept_ite (fun _ => ?_) (fun _ => ?_))

theorem setNotice_kept {q : List Instr} {s : State} {p : Nat} {t : Nat} {r : Nat} {k : Nat} {dry : Bool} (hk : Kept q s) : Kept q (setNotice s p t r k dry) := by
  unfold setNotice
  repeat' first
    | (with_reducible assumption)
    | simp only [↓kept_mk_eq]

theorem coreDry_kept {q : List Instr} {s : State} {n : Nat} {t : Nat} (hk : Kept q s) : Kept q (coreDry s n t) := by
  unfold coreDry
  repeat' first
    | (with_reducible assumption)
    | (intro (x : Core); clear_value x)
    | lift_lets
    | (with_reducible refine setCore_kept ?_)
    | (with_reducible refine stallCore_kept ?_)
    | (with_reducible refine kept_ite (fun _ => ?_) (fun _ => ?_))

theorem releasePoint_kept {q : List Instr} {s : State} {p : Nat} {t : Nat} {r : Nat} (hk : Kept q s) : Kept q (releasePoint s p t r) := by
  unfold releasePoint
  repeat' first
    | (with_reducible assumption)
    | (intro x; refine kept_cut (q := q) (s := x) ?_ (fun _ => ?_) <;> [unfold x; clear_value x])
    | (intro (x : Nat); clear_value x)
    | (intro (x : Core); clear_value x)
    | lift_lets
    | (with_reducible refine setCore_kept ?_)
    | (with_reducible refine kickCourse_kept ?_)
    | (with_reducible refine advance_kept ?_)
    | (with_reducible refine sendDraw_kept ?_)
    | (with_reducible refine kept_ite (fun _ => ?_) (fun _ => ?_))

theorem runPlan_kept {q : List Instr} {s : State} {leak : List Nat} (hk : Kept q s) : Kept q (runPlan s leak) := by
  have hmid : ∀ (s : State) p v x, Kept q s → Kept q { s with plan := p, planV := v, planSt := x } := fun _ _ _ _ h => h
  unfold runPlan
  generalize List.range 32 = r
  extract_lets P ovh res10P a10 ds e s1 s2 vt s3 s4
  refine kept_foldl (fun s _ h => seqEval_kept h) ?_
  refine kept_foldl (fun s _ h => modCourse_kept h) ?_
  refine hmid _ _ _ _ ?_
  refine kept_foldl (fun s _ h => modCourse_kept h) ?_
  refine kept_foldl (fun s _ h => modBud_kept h) ?_
  exact hk

theorem arbServed_kept {q : List Instr} {s : State} {a : Arb} {r : Nat} (hk : Kept q s) : Kept q (arbServed s a r) := by
  unfold arbServed
  repeat' first
    | (with_reducible assumption)
    | (intro x; subst x)
    | lift_lets
    | (with_reducible refine setArb_kept ?_)

/-! ### `Machine/MemCtl.lean` -/

theorem setMark_kept {q : List Instr} {s : State} {ch : Nat} {r : Nat} {sc : Nat} {d : Option Nat} (hk : Kept q s) : Kept q (setMark s ch r sc d) := by
  unfold setMark
  repeat' first
    | (with_reducible assumption)
    | (with_reducible refine modMc_kept ?_)

theorem markRecord_kept {q : List Instr} {s : State} {ch : Nat} {r : Nat} {sc : Nat} {d : Nat} {cause : Nat} (hk : Kept q s) : Kept q (markRecord s ch r sc d cause) := by
  unfold markRecord
  repeat' first
    | (with_reducible assumption)
    | (intro x; refine kept_cut (q := q) (s := x) ?_ (fun _ => ?_) <;> [unfold x; clear_value x])
    | lift_lets
    | (with_reducible refine modMc_kept ?_)
    | (with_reducible refine jrn_kept ?_)

theorem corrected_kept {q : List Instr} {s : State} {ch : Nat} {r : Nat} {sc : Nat} {d : Nat} (hk : Kept q s) : Kept q (corrected s ch r sc d) := by
  unfold corrected
  repeat' first
    | (with_reducible assumption)
    | (intro x; refine kept_cut (q := q) (s := x) ?_ (fun _ => ?_) <;> [unfold x; clear_value x])
    | (intro (x : Nat); clear_value x)
    | (intro (x : Word64); clear_value x)
    | (intro x; subst x)
    | lift_lets
    | (with_reducible refine setMc_kept ?_)
    | (with_reducible refine setMark_kept ?_)
    | (with_reducible refine markRecord_kept ?_)
    | (with_reducible refine kept_ite (fun _ => ?_) (fun _ => ?_))
    | split

theorem ueRecord_kept {q : List Instr} {s : State} {ch : Nat} {l : LineNo} {bad : BitVec 8} {origin : Nat} {t : Tdid} (hk : Kept q s) : Kept q (ueRecord s ch l bad origin t) := by
  unfold ueRecord
  repeat' first
    | (with_reducible assumption)
    | (intro x; refine kept_cut (q := q) (s := x) ?_ (fun _ => ?_) <;> [unfold x; clear_value x])
    | lift_lets
    | (with_reducible refine modMc_kept ?_)
    | (with_reducible refine jrn_kept ?_)
    | (with_reducible refine setFault_kept ?_)

theorem readCounts_kept {q : List Instr} {s : State} {ch : Nat} {l : LineNo} {q1 : ReadRes} {origin : Nat} {t : Tdid} (hk : Kept q s) : Kept q (readCounts s ch l q1 origin t) := by
  unfold readCounts
  repeat' first
    | (with_reducible assumption)
    | (intro x; refine kept_cut (q := q) (s := x) ?_ (fun _ => ?_) <;> [unfold x; clear_value x])
    | lift_lets
    | (with_reducible refine modMc_kept ?_)
    | (with_reducible refine bankEv_kept ?_)
    | (with_reducible refine corrected_kept ?_)
    | (with_reducible refine ueRecord_kept ?_)
    | (with_reducible refine kept_ite (fun _ => ?_) (fun _ => ?_))
    | split

theorem bwAdd_kept {q : List Instr} {s : State} {b : Nat} {ab : Nat} {k : Nat} (hk : Kept q s) : Kept q (bwAdd s b ab k) := by
  unfold bwAdd
  repeat' first
    | (with_reducible assumption)
    | simp only [↓kept_mk_eq]

theorem dramCharge_kept {q : List Instr} {s : State} {ch : Nat} {key : Nat} {l : LineNo} {write : Bool} {from_ : Nat} (hk : Kept q s) : Kept q (dramCharge s ch key l write from_) := by
  unfold dramCharge
  repeat' first
    | (with_reducible assumption)
    | (intro x; refine kept_cut (q := q) (s := x) ?_ (fun _ => ?_) <;> [unfold x; clear_value x])
    | (intro (x : Nat); clear_value x)
    | lift_lets
    | (with_reducible refine countLed_kept ?_)
    | (with_reducible refine addUse_kept ?_)
    | (with_reducible refine charge_kept ?_)
    | (with_reducible refine bankEv_kept ?_)
    | (with_reducible refine bwAdd_kept ?_)
    | (with_reducible refine kept_ite (fun _ => ?_) (fun _ => ?_))

theorem engCheck_kept {q : List Instr} {s : State} {l : LineNo} (hk : Kept q s) : Kept q (engCheck s l) := by
  unfold engCheck
  try generalize (List.range 32) = r32
  repeat' first
    | (with_reducible assumption)
    | (intro (x : Nat); clear_value x)
    | intro _
    | lift_lets
    | (with_reducible refine l2Check_kept ?_)
    | (with_reducible refine l3Check_kept ?_)
    | (with_reducible refine dirCheck_kept ?_)
    | (with_reducible refine kept_foldl ?_ ?_)

theorem engRead_kept' {q : List Instr} {s : State} {key : Nat} {l : LineNo} {agent : Nat} (hk : Kept q s) : Kept q (engRead s key l agent).2 := by
  unfold engRead
  repeat' first
    | (with_reducible assumption)
    | (intro x; refine kept_cut (q := q) (s := x) ?_ (fun _ => ?_) <;> [unfold x; clear_value x])
    | (intro (x : Nat); clear_value x)
    | (intro x; subst x)
    | lift_lets
    | (with_reducible refine charge_kept ?_)
    | (with_reducible refine cohRead_kept' ?_)
    | (with_reducible refine dramCharge_kept ?_)
    | (with_reducible refine engCheck_kept ?_)
    | (with_reducible refine kept_ite (fun _ => ?_) (fun _ => ?_))
theorem engRead_kept {q : List Instr} {s : State} {key : Nat} {l : LineNo} {agent : Nat} {sR : State} {rR0} (hk : Kept q s) (e : engRead s key l agent = (rR0, sR)) : Kept q sR := by
  have := engRead_kept' (q := q) (s := s) (key := key) (l := l) (agent := agent) hk
  rw [e] at this
  exact this

theorem engWrite_kept {q : List Instr} {s : State} {key : Nat} {l : LineNo} {d : LineData} {mask : BitVec 64} {agent : Nat} (hk : Kept q s) : Kept q (engWrite s key l d mask agent) := by
  unfold engWrite
  repeat' first
    | (with_reducible assumption)
    | (intro x; refine kept_cut (q := q) (s := x) ?_ (fun _ => ?_) <;> [unfold x; clear_value x])
    | (intro (x : Nat); clear_value x)
    | lift_lets
    | (with_reducible refine charge_kept ?_)
    | (with_reducible refine cohWrite_kept ?_)
    | (with_reducible refine dramCharge_kept ?_)
    | (with_reducible refine engCheck_kept ?_)
    | (with_reducible refine kept_ite (fun _ => ?_) (fun _ => ?_))

theorem engineOr_kept {q : List Instr} {f wait : State → State} {s : State} (hf : ∀ s, Kept q s → Kept q (f s) ∧ Kept q (wait s)) (hk : Kept q s) : Kept q (engineOr f wait s) := by
  unfold engineOr
  have h1 : Kept q (f { s with engHold := none }) := (hf _ (by rw [kept_mk_eq]; exact hk)).1
  generalize f { s with engHold := none } = t at h1 ⊢
  dsimp only
  split
  · exact h1
  · exact (hf _ hk).2
  · refine (hf _ ?_).2
    rw [kept_mk_eq]
    exact bankEv_kept (modSlice_kept (free_kept' hk))

theorem engine_kept {q : List Instr} {f : State → State} {s : State} (hf : ∀ s, Kept q s → Kept q (f s)) (hk : Kept q s) : Kept q (engine f s) :=
  engineOr_kept (fun s h => ⟨hf s h, h⟩) hk

theorem engReadBytes_kept' {q : List Instr} {f : Nat} {s : State} {key pa n agent : Nat} (hk : Kept q s) : Kept q (engReadBytes f s key pa n agent).2 := by
  induction f generalizing s pa n with
  | zero => exact hk
  | succ f ih =>
    unfold engReadBytes
    repeat' first
      | (with_reducible refine ih ?_)
      | (with_reducible assumption)
      | (intro (x : Nat); clear_value x)
      | lift_lets
      | (with_reducible refine engRead_kept' ?_)
      | simp only [↓kept_mk_eq]
      | split
theorem engReadBytes_kept {q : List Instr} {f : Nat} {s : State} {key pa n agent : Nat} {sR : State} {rR0} (hk : Kept q s) (e : engReadBytes f s key pa n agent = (rR0, sR)) : Kept q sR := by
  have h : Kept q (engReadBytes f s key pa n agent).2 := engReadBytes_kept' hk
  rw [e] at h
  exact h

theorem engWriteBytes_kept {q : List Instr} {f : Nat} {s : State} {key pa : Nat} {bs : List PByte} {agent : Nat} (hk : Kept q s) : Kept q (engWriteBytes f s key pa bs agent) := by
  induction f generalizing s pa bs with
  | zero => exact hk
  | succ f ih =>
    unfold engWriteBytes
    repeat' first
      | (with_reducible refine ih ?_)
      | (with_reducible assumption)
      | (intro (x : Nat); clear_value x)
      | lift_lets
      | (with_reducible refine engWrite_kept ?_)
      | (with_reducible refine kept_ite (fun _ => ?_) (fun _ => ?_))

theorem sendAns_kept {q : List Instr} {s : State} {m : Nat} {r : MemReq} {d : Option LineData} (hk : Kept q s) : Kept q (sendAns s m r d) := by
  unfold sendAns
  repeat' first
    | (with_reducible assumption)
    | (with_reducible refine shortStamp_kept' ?_)
    | simp only [↓kept_mk_eq]

theorem endPanic_kept {q : List Instr} {s : State} {m : Nat} (hk : Kept q s) : Kept q (endPanic s m) := by
  unfold endPanic
  repeat' first
    | (with_reducible assumption)
    | (intro x; refine kept_cut (q := q) (s := x) ?_ (fun _ => ?_) <;> [unfold x; clear_value x])
    | (intro x; subst x)
    | lift_lets
    | (with_reducible refine setMc_kept ?_)
    | (with_reducible refine jrn_kept ?_)
    | (with_reducible refine kept_ite (fun _ => ?_) (fun _ => ?_))
    | split

theorem passEnd_kept {q : List Instr} {s : State} {m : Nat} (hk : Kept q s) : Kept q (passEnd s m) := by
  unfold passEnd
  repeat' first
    | (with_reducible assumption)
    | (intro x; refine kept_cut (q := q) (s := x) ?_ (fun _ => ?_) <;> [unfold x; clear_value x])
    | (intro (x : Nat); clear_value x)
    | (intro x; subst x)
    | lift_lets
    | (with_reducible refine setMc_kept ?_)
    | (with_reducible refine jrn_kept ?_)

theorem scrubRead_kept {q : List Instr} {s : State} {m : Nat} {errs : List SymErr} (hk : Kept q s) : Kept q (scrubRead s m errs) := by
  unfold scrubRead
  repeat' first
    | (with_reducible assumption)
    | (intro x; refine kept_cut (q := q) (s := x) ?_ (fun _ => ?_) <;> [unfold x; clear_value x])
    | (intro (x : Nat); clear_value x)
    | (intro x; subst x)
    | lift_lets
    | (with_reducible refine modMc_kept ?_)
    | (with_reducible refine bankEv_kept ?_)
    | (with_reducible refine readCounts_kept ?_)
    | (with_reducible refine dramCharge_kept ?_)
    | (with_reducible refine passEnd_kept ?_)
    | (with_reducible refine kept_ite (fun _ => ?_) (fun _ => ?_))
    | simp only [↓kept_mk_eq]
    | split

theorem setSpare_kept {q : List Instr} {s : State} {m : Nat} {k : Nat} (hk : Kept q s) : Kept q (setSpare s m k) := by
  unfold setSpare
  repeat' first
    | (with_reducible assumption)
    | (intro x; refine kept_cut (q := q) (s := x) ?_ (fun _ => ?_) <;> [unfold x; clear_value x])
    | (intro x; subst x)
    | lift_lets
    | (with_reducible refine modMc_kept ?_)
    | (with_reducible refine jrn_kept ?_)

theorem copyLine_kept {q : List Instr} {s : State} {m : Nat} {k : Nat} {errs : List SymErr} (hk : Kept q s) : Kept q (copyLine s m k errs) := by
  unfold copyLine
  repeat' first
    | (with_reducible assumption)
    | (intro (x : Nat); clear_value x)
    | (intro x; subst x)
    | lift_lets
    | (with_reducible refine modMc_kept ?_)
    | (with_reducible refine readCounts_kept ?_)
    | (with_reducible refine dramCharge_kept ?_)
    | (with_reducible refine kept_ite (fun _ => ?_) (fun _ => ?_))
    | simp only [↓kept_mk_eq]
    | split

theorem spareSwitch_kept {q : List Instr} {s : State} {m : Nat} (hk : Kept q s) : Kept q (spareSwitch s m) := by
  unfold spareSwitch
  repeat' first
    | (with_reducible assumption)
    | (intro x; refine kept_cut (q := q) (s := x) ?_ (fun _ => ?_) <;> [unfold x; clear_value x])
    | (intro (x : Nat); clear_value x)
    | (intro (x : Word64); clear_value x)
    | (intro x; subst x)
    | intro _
    | lift_lets
    | (with_reducible refine setMc_kept ?_)
    | (with_reducible refine memSetLine_kept ?_)
    | (with_reducible refine kept_foldl ?_ ?_)

theorem spareEnded_kept {q : List Instr} {s : State} {m : Nat} (hk : Kept q s) : Kept q (spareEnded s m) := by
  unfold spareEnded
  repeat' first
    | (with_reducible assumption)
    | (intro x; refine kept_cut (q := q) (s := x) ?_ (fun _ => ?_) <;> [unfold x; clear_value x])
    | (intro x; subst x)
    | lift_lets
    | (with_reducible refine operationDone_kept ?_)
    | (with_reducible refine kept_ite (fun _ => ?_) (fun _ => ?_))
    | simp only [↓kept_mk_eq]
    | split

/-! ### `Machine/PortOps.lean` -/

theorem portBytes_kept {q : List Instr} {s : State} {p : Nat} {t : Nat} {dir : Nat} {bytes : Nat} (hk : Kept q s) : Kept q (portBytes s p t dir bytes) := by
  unfold portBytes
  repeat' first
    | (with_reducible assumption)
    | (intro x; refine kept_cut (q := q) (s := x) ?_ (fun _ => ?_) <;> [unfold x; clear_value x])
    | (intro (x : Nat); clear_value x)
    | lift_lets
    | (with_reducible refine countLed_kept ?_)
    | (with_reducible refine addUse_kept ?_)
    | (with_reducible refine charge_kept ?_)
    | (with_reducible refine bankEv_kept ?_)
    | (with_reducible refine bwAdd_kept ?_)
    | (with_reducible refine kept_ite (fun _ => ?_) (fun _ => ?_))

theorem rpStatus_kept {q : List Instr} {s : State} {p : Nat} {b : Nat} {v : Bool} (hk : Kept q s) : Kept q (rpStatus s p b v) := by
  unfold rpStatus
  repeat' first
    | (with_reducible assumption)
    | (with_reducible refine modRp_kept ?_)

theorem aer_kept {q : List Instr} {s : State} {p : Nat} {l : Nat} (hk : Kept q s) : Kept q (aer s p l) := by
  unfold aer
  repeat' first
    | (with_reducible assumption)
    | (with_reducible refine rpStatus_kept ?_)

theorem storeDone_kept {q : List Instr} {s : State} {r : OutReq} (hk : Kept q s) : Kept q (storeDone s r) := by
  unfold storeDone
  repeat' first
    | (with_reducible assumption)
    | (intro (x : Nat); clear_value x)
    | lift_lets
    | (with_reducible refine popStore_kept ?_)
    | (with_reducible refine advance_kept ?_)
    | (with_reducible refine kept_ite (fun _ => ?_) (fun _ => ?_))
    | split

theorem readDone_kept {q : List Instr} {s : State} {r : OutReq} {d : List PByte} (hk : Kept q s) : Kept q (readDone s r d) := by
  unfold readDone
  repeat' first
    | (with_reducible assumption)
    | (intro (x : Nat); clear_value x)
    | (intro (x : Core); clear_value x)
    | lift_lets
    | (with_reducible refine modCore_kept ?_)
    | (with_reducible refine setResv_kept ?_)
    | (with_reducible refine putAcc_kept ?_)
    | (with_reducible refine kick_kept ?_)
    | (with_reducible refine advance_kept ?_)
    | (with_reducible refine pushNf_kept ?_)
    | (with_reducible refine kept_ite (fun _ => ?_) (fun _ => ?_))
    | simp only [↓kept_mk_eq]
    | split

theorem scDone_kept {q : List Instr} {s : State} {r : OutReq} {ok : Bool} (hk : Kept q s) : Kept q (scDone s r ok) := by
  unfold scDone
  repeat' first
    | (with_reducible assumption)
    | (intro x; refine kept_cut (q := q) (s := x) ?_ (fun _ => ?_) <;> [unfold x; clear_value x])
    | (intro (x : Nat); clear_value x)
    | lift_lets
    | (with_reducible refine modCore_kept ?_)
    | (with_reducible refine dropResv_kept ?_)
    | (with_reducible refine kick_kept ?_)
    | (with_reducible refine advance_kept ?_)

theorem cplTo_kept {q : List Instr} {s : State} {p : Nat} {tag : Nat} {d : List Byte} {ep : Bool} {ur : Bool} (hk : Kept q s) : Kept q (cplTo s p tag d ep ur) := by
  unfold cplTo
  repeat' first
    | (with_reducible assumption)
    | (with_reducible refine modRp_kept ?_)

theorem unreached_kept {q : List Instr} {s : State} {r : OutReq} {ur : Bool} (hk : Kept q s) : Kept q (unreached s r ur) := by
  unfold unreached
  repeat' first
    | (with_reducible assumption)
    | (with_reducible refine storeDone_kept ?_)
    | (with_reducible refine readDone_kept ?_)
    | (with_reducible refine scDone_kept ?_)
    | (with_reducible refine cplTo_kept ?_)
    | split

theorem endOutst_kept {q : List Instr} {s : State} {p : Nat} {f : OutReq → Bool} (hk : Kept q s) : Kept q (endOutst s p f) := by
  unfold endOutst
  repeat' first
    | (with_reducible assumption)
    | (intro x; refine kept_cut (q := q) (s := x) ?_ (fun _ => ?_) <;> [unfold x; clear_value x])
    | (intro x; subst x)
    | intro _
    | lift_lets
    | (with_reducible refine modRp_kept ?_)
    | (with_reducible refine unreached_kept ?_)
    | (with_reducible refine kept_foldl ?_ ?_)

theorem haltCtx_kept {q : List Instr} {s : State} {k : Nat} {cause : Nat} (hk : Kept q s) : Kept q (haltCtx s k cause) := by
  unfold haltCtx
  repeat' first
    | (with_reducible assumption)
    | (intro x; refine kept_cut (q := q) (s := x) ?_ (fun _ => ?_) <;> [unfold x; clear_value x])
    | (intro x; subst x)
    | lift_lets
    | (with_reducible refine setCtx_kept ?_)
    | (with_reducible refine jrn_kept ?_)
    | (with_reducible refine kept_ite (fun _ => ?_) (fun _ => ?_))

theorem haltPort_kept {q : List Instr} {s : State} {p : Nat} {f : Ctx → Bool} (hk : Kept q s) : Kept q (haltPort s p f) := by
  unfold haltPort
  repeat' first
    | (with_reducible assumption)
    | intro _
    | lift_lets
    | (with_reducible refine haltCtx_kept ?_)
    | (with_reducible refine kept_ite (fun _ => ?_) (fun _ => ?_))
    | (with_reducible refine kept_foldl ?_ ?_)

end Sys2Proof.Machine
end

