-- ==== Sys2Proof/Laws/KeptDevice.lean ====
section
/-! SUPPORT. What the operations of the Keystone, the ports, the journal and the power domains keep: the queue of waiting commands, and memory in its canonical form. One lemma for each. -/
namespace Sys2Proof.Machine
set_option linter.all false
set_option maxRecDepth 4000

/-! ### `Machine/KsOps.lean` -/

theorem setPath_kept {q : List Instr} {s : State} {p : KPath} {x : PathSt} (hk : Kept q s) : Kept q (setPath s p x) := by
  unfold setPath
  repeat' first
    | (with_reducible assumption)
    | (intro x; subst x)
    | lift_lets
    | simp only [↓kept_mk_eq]
    | split

theorem replyReady_kept {q : List Instr} {s : State} {p : KPath} {r : List Byte} (hk : Kept q s) : Kept q (replyReady s p r) := by
  unfold replyReady
  repeat' first
    | (with_reducible assumption)
    | (intro x; refine kept_cut (q := q) (s := x) ?_ (fun _ => ?_) <;> [unfold x; clear_value x])
    | (intro x; subst x)
    | lift_lets
    | (with_reducible refine alert_kept ?_)
    | (with_reducible refine setPath_kept ?_)
    | simp only [↓kept_mk_eq]
    | split

theorem rxErr_kept {q : List Instr} {s : State} {p : KPath} {kind : Nat} (hk : Kept q s) : Kept q (rxErr s p kind) := by
  unfold rxErr
  repeat' first
    | (with_reducible assumption)
    | (with_reducible refine jrn_kept ?_)

theorem autoAnswer_kept {q : List Instr} {f : Nat} {s : State} (hk : Kept q s) : Kept q (autoAnswer f s) := by
  induction f generalizing s with
  | zero => exact hk
  | succ f ih =>
    unfold autoAnswer
    repeat' first
      | (with_reducible refine ih ?_)
      | (with_reducible assumption)
      | (intro x; subst x)
      | lift_lets
      | (with_reducible refine ksCmdRecord_kept ?_)
      | (with_reducible refine setPath_kept ?_)
      | (with_reducible refine replyReady_kept ?_)
      | (with_reducible refine rxErr_kept ?_)
      | (with_reducible refine kept_ite (fun _ => ?_) (fun _ => ?_))
      | simp only [↓kept_mk_eq]
      | split

theorem ksGoOn_kept {q : List Instr} {s : State} (hk : Kept q s) : Kept q (ksGoOn s) := by
  unfold ksGoOn
  repeat' first
    | (with_reducible assumption)
    | (with_reducible refine autoAnswer_kept ?_)

theorem finish_kept {q : List Instr} {s : State} {p : Packet} {st : Nat} {payload : List Byte} (hk : Kept q s) : Kept q (finish s p st payload) := by
  unfold finish
  repeat' first
    | (with_reducible assumption)
    | (intro x; refine kept_cut (q := q) (s := x) ?_ (fun _ => ?_) <;> [unfold x; clear_value x])
    | (intro x; subst x)
    | lift_lets
    | (with_reducible refine ksCmdRecord_kept ?_)
    | (with_reducible refine setPath_kept ?_)
    | (with_reducible refine replyReady_kept ?_)
    | (with_reducible refine ksGoOn_kept ?_)
    | (with_reducible refine kept_ite (fun _ => ?_) (fun _ => ?_))
    | simp only [↓kept_mk_eq]

theorem badState_kept {q : List Instr} {s : State} {p : Packet} {reason : Nat} {detail : Nat} (hk : Kept q s) : Kept q (badState s p reason detail) := by
  unfold badState
  repeat' first
    | (with_reducible assumption)
    | (with_reducible refine finish_kept ?_)

theorem badParam_kept {q : List Instr} {s : State} {p : Packet} {off : Nat} (hk : Kept q s) : Kept q (badParam s p off) := by
  unfold badParam
  repeat' first
    | (with_reducible assumption)
    | (with_reducible refine finish_kept ?_)

theorem ok_kept {q : List Instr} {s : State} {p : Packet} {payload : List Byte} (hk : Kept q s) : Kept q (ok s p payload) := by
  unfold ok
  repeat' first
    | (with_reducible assumption)
    | (with_reducible refine finish_kept ?_)

theorem ksRun_kept {q : List Instr} {s : State} {op : Nat} {len : Nat → Bool} {g : Legal} {f : State → Packet → State} (hf : ∀ s p, Kept q s → Kept q (f s p)) (hk : Kept q s) : Kept q (ksRun s op len g f) := by
  unfold ksRun
  have h1 : Kept q (ksGoOn s) := ksGoOn_kept hk
  generalize ksGoOn s = s1 at h1 ⊢
  dsimp only
  split
  · exact h1
  · split
    · exact h1
    · split
      · refine finish_kept ?_; rw [kept_mk_eq]; exact h1
      · split
        · refine badState_kept ?_; rw [kept_mk_eq]; exact h1
        · refine hf _ _ ?_; rw [kept_mk_eq]; exact h1

theorem submit_kept {q : List Instr} {s : State} {path : KPath} {l : List Byte} (hk : Kept q s) : Kept q (submit s path l) := by
  unfold submit
  repeat' first
    | (with_reducible assumption)
    | (intro x; refine kept_cut (q := q) (s := x) ?_ (fun _ => ?_) <;> [unfold x; clear_value x])
    | (intro (x : Nat); clear_value x)
    | (intro x; subst x)
    | lift_lets
    | (with_reducible refine setPath_kept ?_)
    | (with_reducible refine rxErr_kept ?_)
    | (with_reducible refine ksGoOn_kept ?_)
    | (with_reducible refine kept_ite (fun _ => ?_) (fun _ => ?_))
    | simp only [↓kept_mk_eq]
    | split

theorem enterCold_kept {q : List Instr} {s : State} {held : Bool} (hk : Kept q s) : Kept q (enterCold s held) := by
  refine ⟨hk.1, ?_⟩
  show Memory.wf State.reset.mem = true
  rfl

theorem clearAlerts_kept {q : List Instr} {s : State} {c : BitVec 32} (hk : Kept q s) : Kept q (clearAlerts s c) := by
  unfold clearAlerts
  repeat' first
    | (with_reducible assumption)
    | (intro x; subst x)
    | lift_lets
    | simp only [↓kept_mk_eq]

/-! ### `Machine/RotOps.lean` -/

theorem setPd_kept {q : List Instr} {s : State} {d : Nat} {k : Nat} (hk : Kept q s) : Kept q (setPd s d k) := by
  unfold setPd
  repeat' first
    | (with_reducible assumption)
    | simp only [↓kept_mk_eq]

theorem setVote_kept {q : List Instr} {s : State} {d : Nat} {b : Nat} {v : Bool} (hk : Kept q s) : Kept q (setVote s d b v) := by
  unfold setVote
  repeat' first
    | (with_reducible assumption)
    | simp only [↓kept_mk_eq]

theorem patchFail_kept {q : List Instr} {s : State} {n : Nat} {p : Nat} (hk : Kept q s) : Kept q (patchFail s n p) := by
  unfold patchFail
  repeat' first
    | (with_reducible assumption)
    | lift_lets
    | (with_reducible refine jrn_kept ?_)
    | (with_reducible refine setFault_kept ?_)

theorem loadPatch_kept {q : List Instr} {s : State} {p : Nat} {n : Nat} {good : Bool} (hk : Kept q s) : Kept q (loadPatch s p n good) := by
  unfold loadPatch
  repeat' first
    | (with_reducible assumption)
    | (intro x; refine kept_cut (q := q) (s := x) ?_ (fun _ => ?_) <;> [unfold x; clear_value x])
    | (intro (x : Word64); clear_value x)
    | (intro x; subst x)
    | lift_lets
    | (with_reducible refine modCore_kept ?_)
    | (with_reducible refine setPhys_kept ?_)
    | (with_reducible refine patchFail_kept ?_)
    | (with_reducible refine kept_ite (fun _ => ?_) (fun _ => ?_))

theorem promote_kept {q : List Instr} {s : State} {c : Nat} (hk : Kept q s) : Kept q (promote s c) := by
  unfold promote
  try generalize (List.range 9) = r9
  repeat' first
    | (with_reducible assumption)
    | lift_lets
    | (with_reducible refine setPhys_kept ?_)
    | (with_reducible refine kept_ite (fun _ => ?_) (fun _ => ?_))
    | simp only [↓kept_mk_eq]
    | split

theorem rotateRecord_kept {q : List Instr} {s : State} {n : Nat} {out : Nat} {into : Nat} {reason : Nat} {pause : Nat} {bad : Bool} (hk : Kept q s) : Kept q (rotateRecord s n out into reason pause bad) := by
  unfold rotateRecord
  repeat' first
    | (with_reducible assumption)
    | (with_reducible refine jrn_kept ?_)

theorem switchTo_kept {q : List Instr} {s : State} {n : Nat} {b : Nat} {r : Rotation} (hk : Kept q s) : Kept q (switchTo s n b r) := by
  unfold switchTo
  repeat' first
    | (with_reducible assumption)
    | (intro x; refine kept_cut (q := q) (s := x) ?_ (fun _ => ?_) <;> [unfold x; clear_value x])
    | (intro (x : Nat); clear_value x)
    | (intro x; subst x)
    | lift_lets
    | (with_reducible refine modCore_kept ?_)
    | (with_reducible refine setPhys_kept ?_)
    | (with_reducible refine modCourse_kept ?_)
    | (with_reducible refine dropResv_kept ?_)
    | (with_reducible refine hubEval_kept ?_)
    | (with_reducible refine syncFault_kept ?_)
    | (with_reducible refine advance_kept ?_)
    | (with_reducible refine ok_kept ?_)
    | (with_reducible refine setPd_kept ?_)
    | (with_reducible refine setVote_kept ?_)
    | (with_reducible refine promote_kept ?_)
    | (with_reducible refine rotateRecord_kept ?_)
    | simp only [↓kept_mk_eq]
    | split

theorem spareUp_kept' {q : List Instr} {s : State} {n : Nat} {b : Nat} {rb : Bool × Bool} (hk : Kept q s) : Kept q (spareUp s n b rb).2 := by
  unfold spareUp
  repeat' first
    | (with_reducible assumption)
    | (intro x; refine kept_cut (q := q) (s := x) ?_ (fun _ => ?_) <;> [unfold x; clear_value x])
    | (intro x; subst x)
    | lift_lets
    | (with_reducible refine modCore_kept ?_)
    | (with_reducible refine setPhys_kept ?_)
    | (with_reducible refine syncFault_kept ?_)
    | (with_reducible refine setPd_kept ?_)
    | (with_reducible refine setVote_kept ?_)
    | (with_reducible refine patchFail_kept ?_)
    | (with_reducible refine promote_kept ?_)
    | split
theorem spareUp_kept {q : List Instr} {s : State} {n : Nat} {b : Nat} {rb : Bool × Bool} {sR : State} {rR0} (hk : Kept q s) (e : spareUp s n b rb = (rR0, sR)) : Kept q sR := by
  have := spareUp_kept' (q := q) (s := s) (n := n) (b := b) (rb := rb) hk
  rw [e] at this
  exact this

theorem rotBegin_kept {q : List Instr} {s : State} {n : Nat} {r : Rotation} (hk : Kept q s) : Kept q (rotBegin s n r) := by
  unfold rotBegin
  repeat' first
    | (with_reducible assumption)
    | (intro x; refine kept_cut (q := q) (s := x) ?_ (fun _ => ?_) <;> [unfold x; clear_value x])
    | (intro x; subst x)
    | lift_lets
    | (with_reducible refine modCore_kept ?_)
    | (with_reducible refine refuseOffer_kept ?_)
    | simp only [↓kept_mk_eq]

theorem rotFail_kept {q : List Instr} {s : State} {r : Rotation} (hk : Kept q s) : Kept q (rotFail s r) := by
  unfold rotFail
  repeat' first
    | (with_reducible assumption)
    | (intro x; refine kept_cut (q := q) (s := x) ?_ (fun _ => ?_) <;> [unfold x; clear_value x])
    | (intro x; subst x)
    | lift_lets
    | (with_reducible refine finish_kept ?_)
    | (with_reducible refine rotateRecord_kept ?_)
    | simp only [↓kept_mk_eq]
    | split

theorem unhouse_kept {q : List Instr} {s : State} {n : Nat} (hk : Kept q s) : Kept q (unhouse s n) := by
  unfold unhouse
  repeat' first
    | (with_reducible assumption)
    | (intro x; refine kept_cut (q := q) (s := x) ?_ (fun _ => ?_) <;> [unfold x; clear_value x])
    | (intro (x : Nat); clear_value x)
    | lift_lets
    | (with_reducible refine modCore_kept ?_)
    | (with_reducible refine setPhys_kept ?_)
    | (with_reducible refine modCourse_kept ?_)
    | (with_reducible refine syncFault_kept ?_)
    | (with_reducible refine refuseOffer_kept ?_)
    | (with_reducible refine setPd_kept ?_)
    | (with_reducible refine setVote_kept ?_)
    | simp only [↓kept_mk_eq]
    | split

theorem autoRotate_kept {q : List Instr} {s : State} {n : Nat} {reason : Nat} {rb : Bool × Bool} (hk : Kept q s) : Kept q (autoRotate s n reason rb) := by
  unfold autoRotate
  repeat' first
    | (with_reducible assumption)
    | (intro (x : Nat); clear_value x)
    | lift_lets
    | (with_reducible refine setPhys_kept ?_)
    | (with_reducible refine rotateRecord_kept ?_)
    | (with_reducible refine switchTo_kept ?_)
    | (with_reducible refine spareUp_kept ?_ (by assumption))
    | (with_reducible refine rotBegin_kept ?_)
    | (with_reducible refine unhouse_kept ?_)
    | (with_reducible refine kept_ite (fun _ => ?_) (fun _ => ?_))
    | simp only [↓kept_mk_eq]
    | split

theorem abandonReturn_kept {q : List Instr} {s : State} {a : Nat} (hk : Kept q s) : Kept q (abandonReturn s a) := by
  unfold abandonReturn
  repeat' first
    | (with_reducible assumption)
    | (intro x; refine kept_cut (q := q) (s := x) ?_ (fun _ => ?_) <;> [unfold x; clear_value x])
    | (intro x; subst x)
    | lift_lets
    | (with_reducible refine jrn_kept ?_)
    | (with_reducible refine operationDone_kept ?_)
    | simp only [↓kept_mk_eq]
    | split

theorem courseLost_kept {q : List Instr} {s : State} {c : Nat} (hk : Kept q s) : Kept q (courseLost s c) := by
  unfold courseLost
  try generalize (List.range 256) = r256
  try generalize (List.range 9) = r9
  repeat' first
    | (with_reducible assumption)
    | (intro x; refine kept_cut (q := q) (s := x) ?_ (fun _ => ?_) <;> [unfold x; clear_value x])
    | (intro (x : Core); clear_value x)
    | (intro x; subst x)
    | intro _
    | lift_lets
    | (with_reducible refine setCore_kept ?_)
    | (with_reducible refine setPhys_kept ?_)
    | (with_reducible refine modCourse_kept ?_)
    | (with_reducible refine dropResv_kept ?_)
    | (with_reducible refine setPd_kept ?_)
    | (with_reducible refine setVote_kept ?_)
    | (with_reducible refine rotFail_kept ?_)
    | (with_reducible refine kept_foldl ?_ ?_)

theorem portLost_kept {q : List Instr} {s : State} {p : Nat} (hk : Kept q s) : Kept q (portLost s p) := by
  unfold portLost
  repeat' first
    | (with_reducible assumption)
    | (intro x; refine kept_cut (q := q) (s := x) ?_ (fun _ => ?_) <;> [unfold x; clear_value x])
    | (intro x; subst x)
    | intro _
    | lift_lets
    | (with_reducible refine modRp_kept ?_)
    | (with_reducible refine dropResv_kept ?_)
    | (with_reducible refine unreached_kept ?_)
    | (with_reducible refine endOutst_kept ?_)
    | (with_reducible refine haltPort_kept ?_)
    | (with_reducible refine kept_foldl ?_ ?_)

theorem windowsBack_kept {q : List Instr} {s : State} {a : Nat} (hk : Kept q s) : Kept q (windowsBack s a) := by
  unfold windowsBack
  repeat' first
    | (with_reducible assumption)
    | (intro x; subst x)
    | lift_lets
    | simp only [↓kept_mk_eq]

theorem declareDead_kept {q : List Instr} {s : State} {a : Nat} {reason : Option Nat} (hk : Kept q s) : Kept q (declareDead s a reason) := by
  unfold declareDead
  repeat' first
    | (with_reducible assumption)
    | (intro x; refine kept_cut (q := q) (s := x) ?_ (fun _ => ?_) <;> [unfold x; clear_value x])
    | (intro (x : Nat); clear_value x)
    | lift_lets
    | (with_reducible refine free_kept' ?_)
    | (with_reducible refine jrn_kept ?_)
    | (with_reducible refine alert_kept ?_)
    | (with_reducible refine syncFault_kept ?_)
    | (with_reducible refine abandonReturn_kept ?_)
    | (with_reducible refine courseLost_kept ?_)
    | (with_reducible refine portLost_kept ?_)
    | (with_reducible refine kept_ite (fun _ => ?_) (fun _ => ?_))
    | simp only [↓kept_mk_eq]
    | split

/-! ### `Machine/Pcie.lean` -/

theorem setIoTlb_kept {q : List Instr} {s : State} {a : Nat} {t : List IoTlb} (hk : Kept q s) : Kept q (setIoTlb s a t) := by
  unfold setIoTlb
  repeat' first
    | (with_reducible assumption)
    | lift_lets
    | (with_reducible refine modRp_kept ?_)
    | (with_reducible refine kept_ite (fun _ => ?_) (fun _ => ?_))
    | simp only [↓kept_mk_eq]

theorem ioInstall_kept {q : List Instr} {s : State} {a : Nat} {e1 : IoTlb} (hk : Kept q s) : Kept q (ioInstall s a e1) := by
  unfold ioInstall
  repeat' first
    | (with_reducible assumption)
    | (intro x; subst x)
    | lift_lets
    | (with_reducible refine free_kept' ?_)
    | (with_reducible refine setIoTlb_kept ?_)
    | (with_reducible refine kept_ite (fun _ => ?_) (fun _ => ?_))

theorem ioWalk_kept' {q : List Instr} {f : Nat} {s : State} {u : IoUnit} {lin : Nat} {write : Bool} {table : Nat} (hk : Kept q s) : Kept q (ioWalk f s u lin write table).2 := by
  induction f generalizing s table with
  | zero => exact hk
  | succ f ih =>
    unfold ioWalk
    repeat' first
      | (with_reducible refine ih ?_)
      | (with_reducible assumption)
      | (intro (x : Nat); clear_value x)
      | lift_lets
      | (with_reducible refine engReadBytes_kept' ?_)
      | (with_reducible refine ioInstall_kept ?_)
      | simp only [↓kept_mk_eq]
      | split
theorem ioWalk_kept {q : List Instr} {f : Nat} {s : State} {u : IoUnit} {lin : Nat} {write : Bool} {table : Nat} {sR : State} {rR0} (hk : Kept q s) (e : ioWalk f s u lin write table = (rR0, sR)) : Kept q sR := by
  have h : Kept q (ioWalk f s u lin write table).2 := ioWalk_kept' hk
  rw [e] at h
  exact h

theorem ioTranslate_kept' {q : List Instr} {s : State} {u : IoUnit} {addr : Nat} {write : Bool} (hk : Kept q s) : Kept q (ioTranslate s u addr write).2 := by
  unfold ioTranslate
  repeat' first
    | (with_reducible assumption)
    | (intro x; subst x)
    | lift_lets
    | (with_reducible refine bankEv_kept ?_)
    | (with_reducible refine setIoTlb_kept ?_)
    | (with_reducible refine ioWalk_kept' ?_)
    | (with_reducible refine kept_ite (fun _ => ?_) (fun _ => ?_))
    | simp only [↓kept_mk_eq]
    | split
theorem ioTranslate_kept {q : List Instr} {s : State} {u : IoUnit} {addr : Nat} {write : Bool} {sR : State} {rR0} (hk : Kept q s) (e : ioTranslate s u addr write = (rR0, sR)) : Kept q sR := by
  have := ioTranslate_kept' (q := q) (s := s) (u := u) (addr := addr) (write := write) hk
  rw [e] at this
  exact this

theorem failReply_kept {q : List Instr} {s : State} {p : Nat} {t : Tlp} (hk : Kept q s) : Kept q (failReply s p t) := by
  unfold failReply
  repeat' first
    | (with_reducible assumption)
    | lift_lets
    | (with_reducible refine cplTo_kept ?_)
    | (with_reducible refine kept_ite (fun _ => ?_) (fun _ => ?_))

theorem ioFault_kept {q : List Instr} {s : State} {p : Nat} {k : Nat} {kind : Nat} {addr : Nat} (hk : Kept q s) : Kept q (ioFault s p k kind addr) := by
  unfold ioFault
  repeat' first
    | (with_reducible assumption)
    | (with_reducible refine jrn_kept ?_)

theorem ctxFault_kept {q : List Instr} {s : State} {p : Nat} {k : Nat} {kind : Nat} {t : Tlp} {addr : Nat} {silent : Bool} (hk : Kept q s) : Kept q (ctxFault s p k kind t addr silent) := by
  unfold ctxFault
  repeat' first
    | (with_reducible assumption)
    | (intro x; refine kept_cut (q := q) (s := x) ?_ (fun _ => ?_) <;> [unfold x; clear_value x])
    | (intro (x : Word64); clear_value x)
    | (intro x; subst x)
    | lift_lets
    | (with_reducible refine setCtx_kept ?_)
    | (with_reducible refine bankEv_kept ?_)
    | (with_reducible refine aer_kept ?_)
    | (with_reducible refine failReply_kept ?_)
    | (with_reducible refine ioFault_kept ?_)
    | (with_reducible refine kept_ite (fun _ => ?_) (fun _ => ?_))

theorem inboundLine_kept {q : List Instr} {s : State} {p : Nat} {k : Nat} {t : Tlp} {off : Nat} {n : Nat} (hk : Kept q s) : Kept q (inboundLine s p k t off n) := by
  unfold inboundLine
  repeat' first
    | (with_reducible assumption)
    | (intro (x : Nat); clear_value x)
    | (intro x; subst x)
    | lift_lets
    | (with_reducible refine jrn_kept ?_)
    | (with_reducible refine bankEv_kept ?_)
    | (with_reducible refine sendOut_kept ?_)
    | (with_reducible refine engReadBytes_kept' ?_)
    | (with_reducible refine engWriteBytes_kept ?_)
    | (with_reducible refine portBytes_kept ?_)
    | (with_reducible refine rpStatus_kept ?_)
    | (with_reducible refine cplTo_kept ?_)
    | (with_reducible refine haltCtx_kept ?_)
    | (with_reducible refine ioTranslate_kept ?_ (by assumption))
    | (with_reducible refine ctxFault_kept ?_)
    | (with_reducible refine kept_ite (fun _ => ?_) (fun _ => ?_))
    | simp only [↓kept_mk_eq]
    | split

theorem haltedFault_kept {q : List Instr} {s : State} {p : Nat} {k : Nat} {t : Tlp} (hk : Kept q s) : Kept q (haltedFault s p k t) := by
  unfold haltedFault
  repeat' first
    | (with_reducible assumption)
    | (intro x; subst x)
    | lift_lets
    | (with_reducible refine setCtx_kept ?_)
    | (with_reducible refine ctxFault_kept ?_)

theorem inboundCtx_kept {q : List Instr} {s : State} {p : Nat} {k : Nat} {ep : BitVec 8} {t : Tlp} (hk : Kept q s) : Kept q (inboundCtx s p k ep t) := by
  unfold inboundCtx
  repeat' first
    | (with_reducible assumption)
    | (intro x; refine kept_cut (q := q) (s := x) ?_ (fun _ => ?_) <;> [unfold x; clear_value x])
    | (intro x; subst x)
    | intro _
    | lift_lets
    | (with_reducible refine shortStamp_kept' ?_)
    | (with_reducible refine bankEv_kept ?_)
    | (with_reducible refine portBytes_kept ?_)
    | (with_reducible refine failReply_kept ?_)
    | (with_reducible refine ioFault_kept ?_)
    | (with_reducible refine ctxFault_kept ?_)
    | (with_reducible refine inboundLine_kept ?_)
    | (with_reducible refine haltedFault_kept ?_)
    | (with_reducible refine kept_ite (fun _ => ?_) (fun _ => ?_))
    | (with_reducible refine kept_foldl ?_ ?_)
    | simp only [↓kept_mk_eq]

theorem inboundGo_kept {q : List Instr} {s : State} {p : Nat} {k : Nat} {ep : BitVec 8} {t : Tlp} (hk : Kept q s) : Kept q (inboundGo s p k ep t) := by
  unfold inboundGo
  repeat' first
    | (with_reducible assumption)
    | (intro (x : Nat); clear_value x)
    | (intro x; subst x)
    | intro _
    | lift_lets
    | (with_reducible refine modRp_kept ?_)
    | (with_reducible refine arbServed_kept ?_)
    | (with_reducible refine engineOr_kept ?_ ?_)
    | (with_reducible refine inboundCtx_kept ?_)
    | (with_reducible refine kept_ite (fun _ => ?_) (fun _ => ?_))
    | (with_reducible refine And.intro ?_ ?_)

theorem servePort_kept {q : List Instr} {f : Nat} {s : State} {p : Nat} (hk : Kept q s) : Kept q (servePort f s p) := by
  induction f generalizing s with
  | zero => exact hk
  | succ f ih =>
    unfold servePort
    repeat' first
      | (with_reducible refine ih ?_)
      | (with_reducible assumption)
      | lift_lets
      | (with_reducible refine modRp_kept ?_)
      | (with_reducible refine inboundGo_kept ?_)
      | split

theorem portGoOn_kept {q : List Instr} {s : State} {p : Nat} (hk : Kept q s) : Kept q (portGoOn s p) := by
  unfold portGoOn
  repeat' first
    | (with_reducible assumption)
    | (with_reducible refine servePort_kept ?_)

theorem serveInq_kept {q : List Instr} {s : State} {p : Nat} {d : Nat} (hk : Kept q s) : Kept q (serveInq s p d) := by
  unfold serveInq
  repeat' first
    | (with_reducible assumption)
    | intro _
    | lift_lets
    | (with_reducible refine modRp_kept ?_)
    | (with_reducible refine arbServed_kept ?_)
    | (with_reducible refine engine_kept ?_ ?_)
    | (with_reducible refine inboundCtx_kept ?_)
    | split

theorem sendLink_kept {q : List Instr} {s : State} {p : Nat} {r : OutReq} (hk : Kept q s) : Kept q (sendLink s p r) := by
  unfold sendLink
  repeat' first
    | (with_reducible assumption)
    | (intro x; refine kept_cut (q := q) (s := x) ?_ (fun _ => ?_) <;> [unfold x; clear_value x])
    | lift_lets
    | (with_reducible refine modRp_kept ?_)
    | (with_reducible refine bankEv_kept ?_)
    | (with_reducible refine portBytes_kept ?_)
    | (with_reducible refine storeDone_kept ?_)
    | (with_reducible refine scDone_kept ?_)
    | (with_reducible refine kept_ite (fun _ => ?_) (fun _ => ?_))
    | split

theorem giveGrant_kept {q : List Instr} {s : State} {p : Nat} {r : OutReq} (hk : Kept q s) : Kept q (giveGrant s p r) := by
  unfold giveGrant
  repeat' first
    | (with_reducible assumption)
    | (intro x; subst x)
    | lift_lets
    | (with_reducible refine modRp_kept ?_)

theorem outbound_kept {q : List Instr} {s : State} {p : Nat} {r : OutReq} (hk : Kept q s) : Kept q (outbound s p r) := by
  unfold outbound
  repeat' first
    | (with_reducible assumption)
    | lift_lets
    | (with_reducible refine aer_kept ?_)
    | (with_reducible refine scDone_kept ?_)
    | (with_reducible refine unreached_kept ?_)
    | (with_reducible refine sendLink_kept ?_)
    | (with_reducible refine giveGrant_kept ?_)
    | (with_reducible refine kept_ite (fun _ => ?_) (fun _ => ?_))
    | split

theorem portDown_kept {q : List Instr} {s : State} {p : Nat} {r : OutReq} (hk : Kept q s) : Kept q (portDown s p r) := by
  unfold portDown
  repeat' first
    | (with_reducible assumption)
    | lift_lets
    | (with_reducible refine received_kept ?_)
    | (with_reducible refine shortStamp_kept' ?_)
    | (with_reducible refine unreached_kept ?_)

theorem ctxApply_kept {q : List Instr} {s : State} {k : Nat} {v : Word64} {resume : Bool} (hk : Kept q s) : Kept q (ctxApply s k v resume) := by
  unfold ctxApply
  repeat' first
    | (with_reducible assumption)
    | (intro x; refine kept_cut (q := q) (s := x) ?_ (fun _ => ?_) <;> [unfold x; clear_value x])
    | (intro (x : Nat); clear_value x)
    | (intro (x : Word64); clear_value x)
    | (intro x; subst x)
    | lift_lets
    | (with_reducible refine setCtx_kept ?_)
    | (with_reducible refine ctlErr_kept ?_)
    | (with_reducible refine portGoOn_kept ?_)
    | (with_reducible refine kept_ite (fun _ => ?_) (fun _ => ?_))

theorem ioinvStart_kept {q : List Instr} {s : State} {w : Word64} (hk : Kept q s) : Kept q (ioinvStart s w) := by
  unfold ioinvStart
  try generalize (List.range 6) = r6
  repeat' first
    | (with_reducible assumption)
    | (intro x; refine kept_cut (q := q) (s := x) ?_ (fun _ => ?_) <;> [unfold x; clear_value x])
    | intro _
    | lift_lets
    | (with_reducible refine modRp_kept ?_)
    | (with_reducible refine kept_ite (fun _ => ?_) (fun _ => ?_))
    | (with_reducible refine kept_foldl ?_ ?_)
    | simp only [↓kept_mk_eq]

/-! ### `Machine/Dma.lean` -/

theorem chAddr_kept' {q : List Instr} {s : State} {x : Chan} {ch : Nat} {addr : Nat} {write : Bool} (hk : Kept q s) : Kept q (chAddr s x ch addr write).2 := by
  unfold chAddr
  repeat' first
    | (with_reducible assumption)
    | (with_reducible refine ioTranslate_kept ?_ (by assumption))
    | split
theorem chAddr_kept {q : List Instr} {s : State} {x : Chan} {ch : Nat} {addr : Nat} {write : Bool} {sR : State} {rR0} (hk : Kept q s) (e : chAddr s x ch addr write = (rR0, sR)) : Kept q sR := by
  have := chAddr_kept' (q := q) (s := s) (x := x) (ch := ch) (addr := addr) (write := write) hk
  rw [e] at this
  exact this

theorem chParts_kept' {q : List Instr} {x : Chan} {ch : Nat} {write : Bool} {l : List (Nat × Nat)} {s : State} (hk : Kept q s) : Kept q (chParts x ch write l s).2 := by
  induction l generalizing s with
  | nil => exact hk
  | cons e r ih =>
    unfold chParts
    repeat' first
      | (with_reducible refine kept_eqP (ih ?_) (by assumption))
      | (with_reducible assumption)
      | lift_lets
      | (with_reducible refine chAddr_kept ?_ (by assumption))
      | split
theorem chParts_kept {q : List Instr} {x : Chan} {ch : Nat} {write : Bool} {l : List (Nat × Nat)} {s : State} {sR : State} {rR0} (hk : Kept q s) (e : chParts x ch write l s = (rR0, sR)) : Kept q sR := by
  have h : Kept q (chParts x ch write l s).2 := chParts_kept' hk
  rw [e] at h
  exact h

theorem chRead_kept' {q : List Instr} {s : State} {key agent : Nat} {l : List (Nat × Nat)} (hk : Kept q s) : Kept q (chRead s key agent l).2 := by
  induction l generalizing s with
  | nil => exact hk
  | cons e r ih =>
    unfold chRead
    repeat' first
      | (with_reducible refine ih ?_)
      | (with_reducible assumption)
      | lift_lets
      | (with_reducible refine engReadBytes_kept' ?_)
theorem chRead_kept {q : List Instr} {s : State} {key agent : Nat} {l : List (Nat × Nat)} {sR : State} {rR0} (hk : Kept q s) (e : chRead s key agent l = (rR0, sR)) : Kept q sR := by
  have h : Kept q (chRead s key agent l).2 := chRead_kept' hk
  rw [e] at h
  exact h

theorem chHalt_kept {q : List Instr} {s : State} {ch : Nat} {code : Nat} {addr : Nat} {irq : Bool} (hk : Kept q s) : Kept q (chHalt s ch code addr irq) := by
  unfold chHalt
  repeat' first
    | (with_reducible assumption)
    | (intro x; refine kept_cut (q := q) (s := x) ?_ (fun _ => ?_) <;> [unfold x; clear_value x])
    | (intro x; subst x)
    | lift_lets
    | (with_reducible refine setChan_kept ?_)
    | (with_reducible refine jrn_kept ?_)

theorem descDone_kept {q : List Instr} {s : State} {ch : Nat} {d : List Byte} (hk : Kept q s) : Kept q (descDone s ch d) := by
  unfold descDone
  repeat' first
    | (with_reducible assumption)
    | (intro (x : Nat); clear_value x)
    | (intro x; subst x)
    | lift_lets
    | (with_reducible refine setChan_kept ?_)

theorem descFetch_kept {q : List Instr} {s : State} {ch : Nat} (hk : Kept q s) : Kept q (descFetch s ch) := by
  unfold descFetch
  repeat' first
    | (with_reducible assumption)
    | (intro (x : Nat); clear_value x)
    | (intro x; subst x)
    | lift_lets
    | (with_reducible refine setChan_kept ?_)
    | (with_reducible refine engReadBytes_kept' ?_)
    | (with_reducible refine chAddr_kept ?_ (by assumption))
    | (with_reducible refine chHalt_kept ?_)
    | (with_reducible refine kept_ite (fun _ => ?_) (fun _ => ?_))
    | simp only [↓kept_mk_eq]
    | split

theorem chChunk_kept {q : List Instr} {s : State} {ch : Nat} {d : List Byte} (hk : Kept q s) : Kept q (chChunk s ch d) := by
  unfold chChunk
  repeat' first
    | (with_reducible assumption)
    | (intro (x : Nat); clear_value x)
    | (intro x; subst x)
    | lift_lets
    | (with_reducible refine setChan_kept ?_)
    | (with_reducible refine engWriteBytes_kept ?_)
    | (with_reducible refine chAddr_kept ?_ (by assumption))
    | (with_reducible refine chParts_kept ?_ (by assumption))
    | (with_reducible refine chRead_kept' ?_)
    | (with_reducible refine chHalt_kept ?_)
    | (with_reducible refine descDone_kept ?_)
    | (with_reducible refine kept_ite (fun _ => ?_) (fun _ => ?_))
    | simp only [↓kept_mk_eq]
    | split

theorem dmaStep_kept {q : List Instr} {s : State} {ch : Nat} (hk : Kept q s) : Kept q (dmaStep s ch) := by
  unfold dmaStep
  repeat' first
    | (with_reducible assumption)
    | (intro x; refine kept_cut (q := q) (s := x) ?_ (fun _ => ?_) <;> [unfold x; clear_value x])
    | (intro x; subst x)
    | lift_lets
    | (with_reducible refine setChan_kept ?_)
    | (with_reducible refine descFetch_kept ?_)
    | (with_reducible refine chChunk_kept ?_)
    | (with_reducible refine kept_ite (fun _ => ?_) (fun _ => ?_))
    | split

theorem dmaComplete_kept {q : List Instr} {s : State} {k : Nat} (hk : Kept q s) : Kept q (dmaComplete s k) := by
  unfold dmaComplete
  repeat' first
    | (with_reducible assumption)
    | (intro (x : Nat); clear_value x)
    | (intro x; subst x)
    | lift_lets
    | (with_reducible refine setChan_kept ?_)
    | (with_reducible refine jrn_kept ?_)
    | (with_reducible refine setPend_kept ?_)
    | (with_reducible refine engWriteBytes_kept ?_)
    | (with_reducible refine chAddr_kept ?_ (by assumption))
    | (with_reducible refine kept_ite (fun _ => ?_) (fun _ => ?_))
    | simp only [↓kept_mk_eq]
    | split

theorem chApply_kept {q : List Instr} {s : State} {ch : Nat} {v : Word64} (hk : Kept q s) : Kept q (chApply s ch v) := by
  unfold chApply
  repeat' first
    | (with_reducible assumption)
    | (intro x; refine kept_cut (q := q) (s := x) ?_ (fun _ => ?_) <;> [unfold x; clear_value x])
    | (intro (x : Nat); clear_value x)
    | (intro (x : Word64); clear_value x)
    | (intro x; subst x)
    | lift_lets
    | (with_reducible refine setChan_kept ?_)
    | (with_reducible refine ctlErr_kept ?_)
    | (with_reducible refine kept_ite (fun _ => ?_) (fun _ => ?_))

theorem chPause_kept {q : List Instr} {s : State} {t : Nat} (hk : Kept q s) : Kept q (chPause s t) := by
  unfold chPause
  repeat' first
    | (with_reducible assumption)
    | (intro (x : Nat); clear_value x)
    | (intro x; subst x)
    | intro _
    | lift_lets
    | (with_reducible refine setChan_kept ?_)
    | (with_reducible refine kept_ite (fun _ => ?_) (fun _ => ?_))
    | (with_reducible refine kept_foldl ?_ ?_)

/-! ### `Machine/Journal.lean` -/

theorem ringPut_kept {q : List Instr} {s : State} {r : JRec} (hk : Kept q s) : Kept q (ringPut s r) := by
  unfold ringPut
  repeat' first
    | (with_reducible assumption)
    | (intro x; refine kept_cut (q := q) (s := x) ?_ (fun _ => ?_) <;> [unfold x; clear_value x])
    | (intro x; subst x)
    | lift_lets
    | (with_reducible refine alert_kept ?_)
    | (with_reducible refine kept_ite (fun _ => ?_) (fun _ => ?_))
    | simp only [↓kept_mk_eq]

theorem ringDropRec_kept {q : List Instr} {s : State} {r : JRec} (hk : Kept q s) : Kept q (ringDropRec s r) := by
  unfold ringDropRec
  repeat' first
    | (with_reducible assumption)
    | (intro x; subst x)
    | lift_lets
    | simp only [↓kept_mk_eq]

theorem gapPlace_kept {q : List Instr} {s : State} (hk : Kept q s) : Kept q (gapPlace s) := by
  unfold gapPlace
  repeat' first
    | (with_reducible assumption)
    | (intro x; refine kept_cut (q := q) (s := x) ?_ (fun _ => ?_) <;> [unfold x; clear_value x])
    | (intro (x : Nat); clear_value x)
    | (intro x; subst x)
    | lift_lets
    | (with_reducible refine setAgent_kept ?_)
    | (with_reducible refine stamped_kept ?_)
    | (with_reducible refine ringPut_kept ?_)
    | (with_reducible refine kept_ite (fun _ => ?_) (fun _ => ?_))
    | simp only [↓kept_mk_eq]

theorem ringArrive_kept {q : List Instr} {s : State} {r : JRec} (hk : Kept q s) : Kept q (ringArrive s r) := by
  unfold ringArrive
  repeat' first
    | (with_reducible assumption)
    | (intro x; refine kept_cut (q := q) (s := x) ?_ (fun _ => ?_) <;> [unfold x; clear_value x])
    | (intro x; subst x)
    | lift_lets
    | (with_reducible refine ringPut_kept ?_)
    | (with_reducible refine ringDropRec_kept ?_)
    | (with_reducible refine gapPlace_kept ?_)
    | (with_reducible refine kept_ite (fun _ => ?_) (fun _ => ?_))
    | simp only [↓kept_mk_eq]

theorem ringWritten_kept {q : List Instr} {s : State} (hk : Kept q s) : Kept q (ringWritten s) := by
  unfold ringWritten
  repeat' first
    | (with_reducible assumption)
    | lift_lets
    | (with_reducible refine engWriteBytes_kept ?_)
    | simp only [↓kept_mk_eq]
    | split

theorem jrnArrive_kept {q : List Instr} {s : State} {r : JRec} (hk : Kept q s) : Kept q (jrnArrive s r) := by
  unfold jrnArrive
  repeat' first
    | (with_reducible assumption)
    | (intro x; subst x)
    | lift_lets
    | (with_reducible refine ringArrive_kept ?_)
    | simp only [↓kept_mk_eq]
    | split

theorem endSet_kept {q : List Instr} {s : State} (hk : Kept q s) : Kept q (endSet s) := by
  unfold endSet
  repeat' first
    | (with_reducible assumption)
    | (intro x; subst x)
    | intro _
    | lift_lets
    | (with_reducible refine ringArrive_kept ?_)
    | (with_reducible refine kept_foldl ?_ ?_)
    | simp only [↓kept_mk_eq]
    | split

theorem endReady_kept {q : List Instr} {f : Nat} {s : State} (hk : Kept q s) : Kept q (endReady f s) := by
  induction f generalizing s with
  | zero => exact hk
  | succ f ih =>
    unfold endReady
    repeat' first
      | (with_reducible refine ih ?_)
      | (with_reducible assumption)
      | lift_lets
      | (with_reducible refine endSet_kept ?_)
      | (with_reducible refine kept_ite (fun _ => ?_) (fun _ => ?_))
      | split

theorem ringFlush_kept {q : List Instr} {s : State} (hk : Kept q s) : Kept q (ringFlush s) := by
  unfold ringFlush
  repeat' first
    | (with_reducible assumption)
    | intro _
    | lift_lets
    | (with_reducible refine ringWritten_kept ?_)
    | (with_reducible refine kept_foldl ?_ ?_)

theorem jrnStart_kept {q : List Instr} {s : State} (hk : Kept q s) : Kept q (jrnStart s) := by
  unfold jrnStart
  repeat' first
    | (with_reducible assumption)
    | (intro x; refine kept_cut (q := q) (s := x) ?_ (fun _ => ?_) <;> [unfold x; clear_value x])
    | (intro (x : Nat); clear_value x)
    | (intro x; subst x)
    | intro _
    | lift_lets
    | (with_reducible refine gapPlace_kept ?_)
    | (with_reducible refine ringArrive_kept ?_)
    | (with_reducible refine kept_foldl ?_ ?_)
    | simp only [↓kept_mk_eq]

theorem jrnCtlApply_kept {q : List Instr} {s : State} {v : Word64} (hk : Kept q s) : Kept q (jrnCtlApply s v) := by
  unfold jrnCtlApply
  repeat' first
    | (with_reducible assumption)
    | (intro x; refine kept_cut (q := q) (s := x) ?_ (fun _ => ?_) <;> [unfold x; clear_value x])
    | (intro (x : Word64); clear_value x)
    | (intro x; subst x)
    | lift_lets
    | (with_reducible refine ctlErr_kept ?_)
    | (with_reducible refine alert_kept ?_)
    | (with_reducible refine ringFlush_kept ?_)
    | (with_reducible refine jrnStart_kept ?_)
    | (with_reducible refine kept_ite (fun _ => ?_) (fun _ => ?_))
    | simp only [↓kept_mk_eq]

theorem jrnTailApply_kept {q : List Instr} {s : State} {v : Word64} (hk : Kept q s) : Kept q (jrnTailApply s v) := by
  unfold jrnTailApply
  repeat' first
    | (with_reducible assumption)
    | (intro x; refine kept_cut (q := q) (s := x) ?_ (fun _ => ?_) <;> [unfold x; clear_value x])
    | (intro (x : Nat); clear_value x)
    | (intro x; subst x)
    | lift_lets
    | (with_reducible refine ctlErr_kept ?_)
    | (with_reducible refine gapPlace_kept ?_)
    | (with_reducible refine kept_ite (fun _ => ?_) (fun _ => ?_))
    | simp only [↓kept_mk_eq]

theorem jrnStatusApply_kept {q : List Instr} {s : State} {v : Word64} (hk : Kept q s) : Kept q (jrnStatusApply s v) := by
  unfold jrnStatusApply
  repeat' first
    | (with_reducible assumption)
    | (intro x; subst x)
    | lift_lets
    | simp only [↓kept_mk_eq]

/-! ### `Machine/Minutes.lean` -/

theorem captureFlags_kept {q : List Instr} {s : State} (hk : Kept q s) : Kept q (captureFlags s) := by
  unfold captureFlags
  repeat' first
    | (with_reducible assumption)
    | (intro x; subst x)
    | lift_lets
    | simp only [↓kept_mk_eq]

theorem ledWrite_kept {q : List Instr} {s : State} {pa : Nat} {l : List Byte} (hk : Kept q s) : Kept q (ledWrite s pa l) := by
  unfold ledWrite
  repeat' first
    | (with_reducible assumption)
    | (with_reducible refine engWriteBytes_kept ?_)
    | split

theorem ledOverrun_kept {q : List Instr} {s : State} {k : Nat} (hk : Kept q s) : Kept q (ledOverrun s k) := by
  unfold ledOverrun
  repeat' first
    | (with_reducible assumption)
    | (intro x; refine kept_cut (q := q) (s := x) ?_ (fun _ => ?_) <;> [unfold x; clear_value x])
    | (intro x; subst x)
    | lift_lets
    | (with_reducible refine jrn_kept ?_)
    | (with_reducible refine alert_kept ?_)
    | (with_reducible refine kept_ite (fun _ => ?_) (fun _ => ?_))
    | simp only [↓kept_mk_eq]
    | split

theorem closeMinute_kept {q : List Instr} {s : State} {rails : Option Nat} (hk : Kept q s) : Kept q (closeMinute s rails) := by
  unfold closeMinute
  try generalize (List.range 88) = r88
  repeat' first
    | (with_reducible assumption)
    | (intro x; refine kept_cut (q := q) (s := x) ?_ (fun _ => ?_) <;> [unfold x; clear_value x])
    | (intro (x : Nat); clear_value x)
    | (intro x; subst x)
    | intro _
    | lift_lets
    | (with_reducible refine ledWrite_kept ?_)
    | (with_reducible refine ledOverrun_kept ?_)
    | simp only [↓kept_mk_eq]
    | split
    | (with_reducible refine kept_foldlQ ?_ ?_)

theorem sealMinute_kept {q : List Instr} {s : State} {c : Closing} (hk : Kept q s) : Kept q (sealMinute s c) := by
  unfold sealMinute
  repeat' first
    | (with_reducible assumption)
    | (intro x; refine kept_cut (q := q) (s := x) ?_ (fun _ => ?_) <;> [unfold x; clear_value x])
    | (intro (x : Nat); clear_value x)
    | (intro x; subst x)
    | lift_lets
    | (with_reducible refine jrn_kept ?_)
    | (with_reducible refine ledWrite_kept ?_)
    | simp only [↓kept_mk_eq]
    | split

theorem ledAckApply_kept {q : List Instr} {s : State} {v : Word64} (hk : Kept q s) : Kept q (ledAckApply s v) := by
  unfold ledAckApply
  repeat' first
    | (with_reducible assumption)
    | (intro x; subst x)
    | lift_lets
    | (with_reducible refine ctlErr_kept ?_)
    | (with_reducible refine kept_ite (fun _ => ?_) (fun _ => ?_))
    | simp only [↓kept_mk_eq]

/-! ### `Machine/Power.lean` -/

theorem pdRecord_kept {q : List Instr} {s : State} {d : Nat} {st : Nat} {point : Nat} (hk : Kept q s) : Kept q (pdRecord s d st point) := by
  unfold pdRecord
  repeat' first
    | (with_reducible assumption)
    | lift_lets
    | (with_reducible refine jrn_kept ?_)
    | (with_reducible refine kept_ite (fun _ => ?_) (fun _ => ?_))

theorem setSaved_kept {q : List Instr} {s : State} {n : Nat} {v : Bool} (hk : Kept q s) : Kept q (setSaved s n v) := by
  unfold setSaved
  repeat' first
    | (with_reducible assumption)
    | (intro x; subst x)
    | lift_lets
    | (with_reducible refine modCourse_kept ?_)

theorem pdAbandon_kept {q : List Instr} {s : State} {d : Nat} (hk : Kept q s) : Kept q (pdAbandon s d) := by
  unfold pdAbandon
  repeat' first
    | (with_reducible assumption)
    | (intro x; refine kept_cut (q := q) (s := x) ?_ (fun _ => ?_) <;> [unfold x; clear_value x])
    | (intro (x : Nat); clear_value x)
    | (intro (x : Word64); clear_value x)
    | lift_lets
    | (with_reducible refine setPd_kept ?_)
    | (with_reducible refine pdRecord_kept ?_)
    | (with_reducible refine setSaved_kept ?_)
    | simp only [↓kept_mk_eq]
    | split

theorem voteEval_kept {q : List Instr} {s : State} {d : Nat} (hk : Kept q s) : Kept q (voteEval s d) := by
  unfold voteEval
  repeat' first
    | (with_reducible assumption)
    | (intro x; refine kept_cut (q := q) (s := x) ?_ (fun _ => ?_) <;> [unfold x; clear_value x])
    | (intro x; subst x)
    | lift_lets
    | (with_reducible refine setPd_kept ?_)
    | (with_reducible refine pdAbandon_kept ?_)
    | (with_reducible refine kept_ite (fun _ => ?_) (fun _ => ?_))
    | simp only [↓kept_mk_eq]
    | split

theorem flushCourse_kept {q : List Instr} {s : State} {c : Nat} (hk : Kept q s) : Kept q (flushCourse s c) := by
  unfold flushCourse
  repeat' first
    | (with_reducible assumption)
    | (intro x; refine kept_cut (q := q) (s := x) ?_ (fun _ => ?_) <;> [unfold x; clear_value x])
    | (intro x; subst x)
    | intro _
    | lift_lets
    | (with_reducible refine modCourse_kept ?_)
    | (with_reducible refine setDir_kept ?_)
    | (with_reducible refine dirFree_kept ?_)
    | (with_reducible refine homeSet_kept ?_)
    | (with_reducible refine dramCharge_kept ?_)
    | (with_reducible refine kept_ite (fun _ => ?_) (fun _ => ?_))
    | (with_reducible refine kept_foldl ?_ ?_)
    | split

theorem pdSave_kept {q : List Instr} {s : State} {d : Nat} (hk : Kept q s) : Kept q (pdSave s d) := by
  unfold pdSave
  repeat' first
    | (with_reducible assumption)
    | lift_lets
    | (with_reducible refine setSaved_kept ?_)
    | (with_reducible refine flushCourse_kept ?_)
    | (with_reducible refine kept_ite (fun _ => ?_) (fun _ => ?_))
    | split

theorem pdPassC_kept {q : List Instr} {s : State} {d : Nat} (hk : Kept q s) : Kept q (pdPassC s d) := by
  unfold pdPassC
  repeat' first
    | (with_reducible assumption)
    | (with_reducible refine modCore_kept ?_)
    | split

theorem pdCut_kept {q : List Instr} {s : State} {d : Nat} (hk : Kept q s) : Kept q (pdCut s d) := by
  unfold pdCut
  repeat' first
    | (with_reducible assumption)
    | lift_lets
    | (with_reducible refine modCore_kept ?_)
    | (with_reducible refine modRp_kept ?_)
    | (with_reducible refine kept_ite (fun _ => ?_) (fun _ => ?_))
    | split

theorem coreUp_kept {q : List Instr} {s : State} {d : Nat} {n : Nat} {rb : Bool × Bool} (hk : Kept q s) : Kept q (coreUp s d n rb) := by
  unfold coreUp
  repeat' first
    | (with_reducible assumption)
    | (intro x; refine kept_cut (q := q) (s := x) ?_ (fun _ => ?_) <;> [unfold x; clear_value x])
    | (intro x; subst x)
    | lift_lets
    | (with_reducible refine modCore_kept ?_)
    | (with_reducible refine wakeCore_kept ?_)
    | (with_reducible refine setPd_kept ?_)
    | (with_reducible refine setVote_kept ?_)
    | (with_reducible refine loadPatch_kept ?_)
    | (with_reducible refine unhouse_kept ?_)
    | (with_reducible refine setSaved_kept ?_)
    | (with_reducible refine kept_ite (fun _ => ?_) (fun _ => ?_))

theorem setMargin_kept {q : List Instr} {s : State} {c : Nat} {m : Int} (hk : Kept q s) : Kept q (setMargin s c m) := by
  unfold setMargin
  repeat' first
    | (with_reducible assumption)
    | (with_reducible refine modCourse_kept ?_)

theorem marginEval_kept {q : List Instr} {s : State} {c : Nat} (hk : Kept q s) : Kept q (marginEval s c) := by
  unfold marginEval
  repeat' first
    | (with_reducible assumption)
    | (intro x; refine kept_cut (q := q) (s := x) ?_ (fun _ => ?_) <;> [unfold x; clear_value x])
    | (intro (x : Nat); clear_value x)
    | (intro x; subst x)
    | intro _
    | lift_lets
    | (with_reducible refine setEff_kept ?_)
    | (with_reducible refine effRaise_kept ?_)
    | (with_reducible refine setMargin_kept ?_)
    | (with_reducible refine kept_ite (fun _ => ?_) (fun _ => ?_))
    | (with_reducible refine kept_foldl ?_ ?_)

theorem thermRecord_kept {q : List Instr} {s : State} {sensor : Nat} {t8 : Int} {event : Nat} (hk : Kept q s) : Kept q (thermRecord s sensor t8 event) := by
  unfold thermRecord
  repeat' first
    | (with_reducible assumption)
    | (with_reducible refine jrn_kept ?_)

theorem thermLimit_kept {q : List Instr} {s : State} {sensor : Nat} {t8 : Int} {lim : Int} {bit : Nat} {gbit : Nat} {event : Nat} (hk : Kept q s) : Kept q (thermLimit s sensor t8 lim bit gbit event) := by
  unfold thermLimit
  repeat' first
    | (with_reducible assumption)
    | (intro x; refine kept_cut (q := q) (s := x) ?_ (fun _ => ?_) <;> [unfold x; clear_value x])
    | (intro (x : Nat); clear_value x)
    | (intro x; subst x)
    | lift_lets
    | (with_reducible refine alert_kept ?_)
    | (with_reducible refine thermRecord_kept ?_)
    | (with_reducible refine kept_ite (fun _ => ?_) (fun _ => ?_))
    | simp only [↓kept_mk_eq]

theorem thermMax_kept {q : List Instr} {s : State} (hk : Kept q s) : Kept q (thermMax s) := by
  unfold thermMax
  repeat' first
    | (with_reducible assumption)
    | simp only [↓kept_mk_eq]
    | split

theorem throttleCourse_kept {q : List Instr} {s : State} {hi : Bool} {c : Nat} (hk : Kept q s) : Kept q (throttleCourse s hi c) := by
  unfold throttleCourse
  repeat' first
    | (with_reducible assumption)
    | (intro x; refine kept_cut (q := q) (s := x) ?_ (fun _ => ?_) <;> [unfold x; clear_value x])
    | (intro (x : Nat); clear_value x)
    | (intro x; subst x)
    | lift_lets
    | (with_reducible refine setCourse_kept ?_)
    | (with_reducible refine alert_kept ?_)
    | (with_reducible refine seqEval_kept ?_)
    | (with_reducible refine thermRecord_kept ?_)
    | (with_reducible refine kept_ite (fun _ => ?_) (fun _ => ?_))
    | simp only [↓kept_mk_eq]

theorem pollOne_kept {q : List Instr} {s : State} {i : Nat} {a : Option RegRead} (hk : Kept q s) : Kept q (pollOne s i a) := by
  unfold pollOne
  repeat' first
    | (with_reducible assumption)
    | (intro x; refine kept_cut (q := q) (s := x) ?_ (fun _ => ?_) <;> [unfold x; clear_value x])
    | (intro (x : Word64); clear_value x)
    | (intro x; subst x)
    | lift_lets
    | (with_reducible refine jrn_kept ?_)
    | (with_reducible refine kept_ite (fun _ => ?_) (fun _ => ?_))
    | simp only [↓kept_mk_eq]
    | split

/-! ### `Machine/KsCmds.lean` -/

theorem ctlMeet_kept {q : List Instr} {s : State} {off : Nat} {ks : Bool} {n stamp : Nat} {f : State → State} (hf : ∀ s, Kept q s → Kept q (f s)) (hk : Kept q s) : Kept q (ctlMeet s off ks n stamp f) := by
  unfold ctlMeet
  have h1 : Kept q (if ctlTakes s off ks stamp then f s else s) := kept_ite (fun _ => hf s hk) (fun _ => hk)
  generalize (if ctlTakes s off ks stamp then f s else s) = s1 at h1 ⊢
  dsimp only
  split
  · rw [kept_mk_eq]; exact h1
  · refine jrn_kept ?_; rw [kept_mk_eq]; exact h1

theorem ksSet_kept {q : List Instr} {s : State} {off : Nat} {f : State → State} (hf : ∀ s, Kept q s → Kept q (f s)) (hk : Kept q s) : Kept q (ksSet s off f) := ctlMeet_kept hf hk

theorem readMinute_kept {q : List Instr} {s : State} {p : Packet} (hk : Kept q s) : Kept q (readMinute s p) := by
  unfold readMinute
  extract_lets m part k a
  generalize a + 262144 = a1
  generalize a + 4096 * part = a2
  clear_value m part k a
  have h1 := engReadBytes_kept' (f := 3) (key := ovhKey) (pa := a1) (n := 128) (agent := agKs) hk
  generalize engReadBytes 3 s ovhKey a1 128 agKs = r1 at h1 ⊢
  obtain ⟨t, s1⟩ := r1
  dsimp only at h1 ⊢
  refine kept_ite (fun _ => badParam_kept hk) (fun _ => ?_)
  refine kept_ite (fun _ => badParam_kept hk) (fun _ => ?_)
  refine kept_ite (fun _ => badParam_kept hk) (fun _ => ?_)
  refine kept_ite (fun _ => ok_kept h1) (fun _ => ?_)
  refine kept_ite (fun _ => badParam_kept h1) (fun _ => ?_)
  exact ok_kept (engReadBytes_kept' h1)

theorem setPps_kept {q : List Instr} {s : State} {mode : Nat} {edge : Nat} (hk : Kept q s) : Kept q (setPps s mode edge) := by
  unfold setPps
  repeat' first
    | (with_reducible assumption)
    | (intro x; refine kept_cut (q := q) (s := x) ?_ (fun _ => ?_) <;> [unfold x; clear_value x])
    | (intro (x : Nat); clear_value x)
    | (intro x; subst x)
    | lift_lets
    | (with_reducible refine setPstat_kept ?_)
    | (with_reducible refine kept_ite (fun _ => ?_) (fun _ => ?_))
    | simp only [↓kept_mk_eq]

theorem trimActs_kept {q : List Instr} {s : State} {i : Nat} (hk : Kept q s) : Kept q (trimActs s i) := by
  unfold trimActs
  repeat' first
    | (with_reducible assumption)
    | lift_lets
    | (with_reducible refine marginEval_kept ?_)
    | (with_reducible refine kept_ite (fun _ => ?_) (fun _ => ?_))

theorem domWrite_kept {q : List Instr} {s : State} {t : Nat} {l : List Byte} {rt : Bool} {opens : Bool} (hk : Kept q s) : Kept q (domWrite s t l rt opens) := by
  unfold domWrite
  repeat' first
    | (with_reducible assumption)
    | (intro x; refine kept_cut (q := q) (s := x) ?_ (fun _ => ?_) <;> [unfold x; clear_value x])
    | (intro x; subst x)
    | intro _
    | lift_lets
    | (with_reducible refine modDom_kept ?_)
    | (with_reducible refine modBud_kept ?_)
    | (with_reducible refine ksSet_kept ?_ ?_)

theorem clearWindow_kept {q : List Instr} {s : State} {t : Nat} {w : Nat} (hk : Kept q s) : Kept q (clearWindow s t w) := by
  unfold clearWindow
  repeat' first
    | (with_reducible assumption)
    | (intro x; refine kept_cut (q := q) (s := x) ?_ (fun _ => ?_) <;> [unfold x; clear_value x])
    | lift_lets
    | (with_reducible refine modDom_kept ?_)
    | simp only [↓kept_mk_eq]

theorem clearWindows_kept {q : List Instr} {s : State} {t : Nat} (hk : Kept q s) : Kept q (clearWindows s t) := by
  unfold clearWindows
  try generalize (List.range 16) = r16
  repeat' first
    | (with_reducible assumption)
    | intro _
    | lift_lets
    | (with_reducible refine ksSet_kept ?_ ?_)
    | (with_reducible refine clearWindow_kept ?_)
    | (with_reducible refine kept_foldl ?_ ?_)

theorem domOpened_kept {q : List Instr} {s : State} {p : Packet} (hk : Kept q s) : Kept q (domOpened s p) := by
  unfold domOpened
  repeat' first
    | (with_reducible assumption)
    | (intro x; refine kept_cut (q := q) (s := x) ?_ (fun _ => ?_) <;> [unfold x; clear_value x])
    | (intro (x : Nat); clear_value x)
    | lift_lets
    | (with_reducible refine modDom_kept ?_)
    | (with_reducible refine openAccount_kept ?_)
    | (with_reducible refine ok_kept ?_)
    | (with_reducible refine domWrite_kept ?_)
    | (with_reducible refine clearWindows_kept ?_)

theorem stagePatch_kept' {q : List Instr} {s : State} {img : List Byte} (hk : Kept q s) : Kept q (stagePatch s img).2 := by
  unfold stagePatch
  try generalize (List.range 4352) = r4352
  repeat' first
    | (with_reducible assumption)
    | (intro x; refine kept_cut (q := q) (s := x) ?_ (fun _ => ?_) <;> [unfold x; clear_value x])
    | (intro (x : Nat); clear_value x)
    | (intro x; subst x)
    | lift_lets
    | (with_reducible refine jrn_kept ?_)
    | simp only [↓kept_mk_eq]
    | split
theorem stagePatch_kept {q : List Instr} {s : State} {img : List Byte} {sR : State} {rR0} (hk : Kept q s) (e : stagePatch s img = (rR0, sR)) : Kept q sR := by
  have := stagePatch_kept' (q := q) (s := s) (img := img) hk
  rw [e] at this
  exact this

theorem installKey_kept {q : List Instr} {s : State} {key : List Byte} {seed : Option (List Byte)} (hk : Kept q s) : Kept q (installKey s key seed) := by
  unfold installKey
  repeat' first
    | (with_reducible assumption)
    | (intro (x : Word64); clear_value x)
    | (intro x; subst x)
    | lift_lets
    | (with_reducible refine kept_ite (fun _ => ?_) (fun _ => ?_))
    | simp only [↓kept_mk_eq]

/-! ### `Machine/KsMaint.lean` -/

theorem powerOn_kept {q : List Instr} {s : State} {d : Nat} (hk : Kept q s) : Kept q (powerOn s d) := by
  unfold powerOn
  repeat' first
    | (with_reducible assumption)
    | lift_lets
    | (with_reducible refine setPd_kept ?_)
    | (with_reducible refine pdRecord_kept ?_)
    | (with_reducible refine kept_ite (fun _ => ?_) (fun _ => ?_))

theorem startCore_kept {q : List Instr} {s : State} {p : Nat} {n : Nat} {pc : Word64} (hk : Kept q s) : Kept q (startCore s p n pc) := by
  unfold startCore
  repeat' first
    | (with_reducible assumption)
    | (intro x; refine kept_cut (q := q) (s := x) ?_ (fun _ => ?_) <;> [unfold x; clear_value x])
    | (intro x; subst x)
    | lift_lets
    | (with_reducible refine modCore_kept ?_)
    | (with_reducible refine setPhys_kept ?_)
    | (with_reducible refine modHub_kept ?_)
    | (with_reducible refine hubEval_kept ?_)
    | (with_reducible refine advance_kept ?_)
    | (with_reducible refine setPd_kept ?_)
    | (with_reducible refine setVote_kept ?_)
    | (with_reducible refine powerOn_kept ?_)
    | simp only [↓kept_mk_eq]

theorem houseCourse_kept' {q : List Instr} {s : State} {c : Nat} {good : Nat → Bool} (hk : Kept q s) : Kept q (houseCourse s c good).2 := by
  unfold houseCourse
  try generalize (List.range 9) = r9
  repeat' first
    | (with_reducible assumption)
    | (intro x; subst x)
    | intro _
    | lift_lets
    | (with_reducible refine setCore_kept ?_)
    | (with_reducible refine setPhys_kept ?_)
    | (with_reducible refine kept_ite (fun _ => ?_) (fun _ => ?_))
    | simp only [↓kept_mk_eq]
    | split
    | (with_reducible refine kept_foldl2 ?_ ?_)
theorem houseCourse_kept {q : List Instr} {s : State} {c : Nat} {good : Nat → Bool} {sR : State} {rR0} (hk : Kept q s) (e : houseCourse s c good = (rR0, sR)) : Kept q sR := by
  have := houseCourse_kept' (q := q) (s := s) (c := c) (good := good) hk
  rw [e] at this
  exact this

/-! ### `Machine/Startup.lean` -/

theorem tapDrive_kept {q : List Instr} {s : State} (hk : Kept q s) : Kept q (tapDrive s) := by
  unfold tapDrive
  repeat' first
    | (with_reducible assumption)
    | (intro x; subst x)
    | lift_lets
    | simp only [↓kept_mk_eq]

theorem fillFailed_kept {q : List Instr} {s : State} {code : Nat} (hk : Kept q s) : Kept q (fillFailed s code) := by
  unfold fillFailed
  repeat' first
    | (with_reducible assumption)
    | (intro x; refine kept_cut (q := q) (s := x) ?_ (fun _ => ?_) <;> [unfold x; clear_value x])
    | (intro x; subst x)
    | lift_lets
    | (with_reducible refine operationDone_kept ?_)
    | simp only [↓kept_mk_eq]
    | split

theorem trainFailed_kept {q : List Instr} {s : State} {m : Nat} {ranks : List (BitVec 8)} (hk : Kept q s) : Kept q (trainFailed s m ranks) := by
  unfold trainFailed
  repeat' first
    | (with_reducible assumption)
    | intro _
    | lift_lets
    | (with_reducible refine modMc_kept ?_)
    | (with_reducible refine jrn_kept ?_)
    | (with_reducible refine kept_ite (fun _ => ?_) (fun _ => ?_))
    | (with_reducible refine kept_foldl ?_ ?_)

theorem clearCaches_kept {q : List Instr} {s : State} (hk : Kept q s) : Kept q (clearCaches s) := by
  unfold clearCaches
  repeat' first
    | (with_reducible assumption)
    | (intro x; refine kept_cut (q := q) (s := x) ?_ (fun _ => ?_) <;> [unfold x; clear_value x])
    | lift_lets
    | (with_reducible refine mapCores_kept ?_)
    | simp only [↓kept_mk_eq]

theorem noCore_kept {q : List Instr} {s : State} {n : Nat} (hk : Kept q s) : Kept q (noCore s n) := by
  unfold noCore
  repeat' first
    | (with_reducible assumption)
    | (intro x; refine kept_cut (q := q) (s := x) ?_ (fun _ => ?_) <;> [unfold x; clear_value x])
    | lift_lets
    | (with_reducible refine modCore_kept ?_)
    | (with_reducible refine modCourse_kept ?_)
    | (with_reducible refine kept_ite (fun _ => ?_) (fun _ => ?_))

theorem beginAccounts_kept {q : List Instr} {s : State} (hk : Kept q s) : Kept q (beginAccounts s) := by
  unfold beginAccounts
  try generalize (List.range 88) = r88
  repeat' first
    | (with_reducible assumption)
    | (intro x; refine kept_cut (q := q) (s := x) ?_ (fun _ => ?_) <;> [unfold x; clear_value x])
    | (intro (x : Nat); clear_value x)
    | (intro x; subst x)
    | lift_lets
    | (with_reducible refine openAccount_kept ?_)
    | simp only [↓kept_mk_eq]

theorem core0Phys_kept' {q : List Instr} {s : State} {rbs : List (Bool × Bool)} (hk : Kept q s) : Kept q (core0Phys s rbs).2 := by
  unfold core0Phys
  repeat' first
    | (with_reducible assumption)
    | lift_lets
    | (with_reducible refine setPhys_kept ?_)
    | (with_reducible refine loadPatch_kept ?_)
    | simp only [↓kept_mk_eq]
    | split
theorem core0Phys_kept {q : List Instr} {s : State} {rbs : List (Bool × Bool)} {sR : State} {rR0} (hk : Kept q s) (e : core0Phys s rbs = (rR0, sR)) : Kept q sR := by
  have := core0Phys_kept' (q := q) (s := s) (rbs := rbs) hk
  rw [e] at this
  exact this

theorem tapSelect_kept {q : List Instr} {s : State} {i : TapIr} (hk : Kept q s) : Kept q (tapSelect s i) := by
  unfold tapSelect
  repeat' first
    | (with_reducible assumption)
    | (intro x; subst x)
    | lift_lets
    | (with_reducible refine tapDrive_kept ?_)
    | simp only [↓kept_mk_eq]

/-! ### `Machine/CtlWrite.lean` -/

theorem judged_kept' {q : List Instr} {s : State} {old : Word64} {new : Word64} {fs : List (Bool × Nat × Nat)} (hk : Kept q s) : Kept q (judged s old new fs).1 := by
  unfold judged
  repeat' first
    | (with_reducible assumption)
    | lift_lets
    | (with_reducible refine ctlErr_kept ?_)
    | (with_reducible refine kept_ite (fun _ => ?_) (fun _ => ?_))
theorem judged_kept {q : List Instr} {s : State} {old : Word64} {new : Word64} {fs : List (Bool × Nat × Nat)} {sR : State} {rR} (hk : Kept q s) (e : judged s old new fs = (sR, rR)) : Kept q sR := by
  have := judged_kept' (q := q) (s := s) (old := old) (new := new) (fs := fs) hk
  rw [e] at this
  exact this

theorem putPmask_kept {q : List Instr} {s : State} {i : Nat} {wv : Word64} {wm : Word64} (hk : Kept q s) : Kept q (putPmask s i wv wm) := by
  unfold putPmask
  repeat' first
    | (with_reducible assumption)
    | (intro (x : Word64); clear_value x)
    | lift_lets
    | (with_reducible refine judged_kept' ?_)
    | simp only [↓kept_mk_eq]

theorem putCoh_kept {q : List Instr} {s : State} {wv : Word64} {wm : Word64} (hk : Kept q s) : Kept q (putCoh s wv wm) := by
  unfold putCoh
  repeat' first
    | (with_reducible assumption)
    | (intro (x : Word64); clear_value x)
    | lift_lets
    | (with_reducible refine judged_kept' ?_)
    | simp only [↓kept_mk_eq]

theorem putTherm_kept {q : List Instr} {s : State} {wv : Word64} {wm : Word64} (hk : Kept q s) : Kept q (putTherm s wv wm) := by
  unfold putTherm
  repeat' first
    | (with_reducible assumption)
    | (intro (x : Word64); clear_value x)
    | (intro x; subst x)
    | lift_lets
    | (with_reducible refine judged_kept' ?_)
    | simp only [↓kept_mk_eq]

theorem putCorePwr_kept {q : List Instr} {s : State} {n : Nat} {wv : Word64} {wm : Word64} (hk : Kept q s) : Kept q (putCorePwr s n wv wm) := by
  unfold putCorePwr
  repeat' first
    | (with_reducible assumption)
    | (intro (x : Word64); clear_value x)
    | lift_lets
    | (with_reducible refine modCore_kept ?_)
    | (with_reducible refine voteEval_kept ?_)
    | (with_reducible refine judged_kept' ?_)
    | simp only [↓kept_mk_eq]
    | split

theorem putVote_kept {q : List Instr} {s : State} {d : Nat} {wv : Word64} {wm : Word64} (hk : Kept q s) : Kept q (putVote s d wv wm) := by
  unfold putVote
  repeat' first
    | (with_reducible assumption)
    | (intro (x : Word64); clear_value x)
    | lift_lets
    | (with_reducible refine voteEval_kept ?_)
    | (with_reducible refine judged_kept' ?_)
    | simp only [↓kept_mk_eq]

theorem putPmGlobal_kept {q : List Instr} {s : State} {wv : Word64} {wm : Word64} (hk : Kept q s) : Kept q (putPmGlobal s wv wm) := by
  unfold putPmGlobal
  repeat' first
    | (with_reducible assumption)
    | (with_reducible refine pmGlobalApply_kept ?_)

theorem writeGlobal_kept {q : List Instr} {s : State} {off : Nat} {wv : Word64} {wm : Word64} (hk : Kept q s) : Kept q (writeGlobal s off wv wm) := by
  unfold writeGlobal
  repeat' first
    | (with_reducible assumption)
    | lift_lets
    | (with_reducible refine modCore_kept ?_)
    | (with_reducible refine syncFault_kept ?_)
    | (with_reducible refine putPmask_kept ?_)
    | (with_reducible refine putCoh_kept ?_)
    | (with_reducible refine putTherm_kept ?_)
    | (with_reducible refine putCorePwr_kept ?_)
    | (with_reducible refine putVote_kept ?_)
    | (with_reducible refine putPmGlobal_kept ?_)
    | (with_reducible refine kept_ite (fun _ => ?_) (fun _ => ?_))
    | simp only [↓kept_mk_eq]
    | split

theorem putMbCtl_kept {q : List Instr} {s : State} {wv : Word64} {wm : Word64} (hk : Kept q s) : Kept q (putMbCtl s wv wm) := by
  unfold putMbCtl
  repeat' first
    | (with_reducible assumption)
    | (intro x; refine kept_cut (q := q) (s := x) ?_ (fun _ => ?_) <;> [unfold x; clear_value x])
    | (intro x; subst x)
    | lift_lets
    | (with_reducible refine submit_kept ?_)
    | (with_reducible refine kept_ite (fun _ => ?_) (fun _ => ?_))
    | simp only [↓kept_mk_eq]

theorem putMbStatus_kept {q : List Instr} {s : State} {wv : Word64} {wm : Word64} (hk : Kept q s) : Kept q (putMbStatus s wv wm) := by
  unfold putMbStatus
  repeat' first
    | (with_reducible assumption)
    | (intro (x : Word64); clear_value x)
    | (intro x; subst x)
    | lift_lets
    | simp only [↓kept_mk_eq]

theorem writeMailbox_kept {q : List Instr} {s : State} {off : Nat} {wv : Word64} {wm : Word64} (hk : Kept q s) : Kept q (writeMailbox s off wv wm) := by
  unfold writeMailbox
  repeat' first
    | (with_reducible assumption)
    | (intro x; subst x)
    | lift_lets
    | (with_reducible refine putMbCtl_kept ?_)
    | (with_reducible refine putMbStatus_kept ?_)
    | (with_reducible refine kept_ite (fun _ => ?_) (fun _ => ?_))
    | simp only [↓kept_mk_eq]

theorem writePlumb_kept {q : List Instr} {s : State} {off : Nat} {wv : Word64} {wm : Word64} (hk : Kept q s) : Kept q (writePlumb s off wv wm) := by
  unfold writePlumb
  repeat' first
    | (with_reducible assumption)
    | (intro x; subst x)
    | lift_lets
    | (with_reducible refine kept_ite (fun _ => ?_) (fun _ => ?_))
    | simp only [↓kept_mk_eq]

theorem writeJournal_kept {q : List Instr} {s : State} {off : Nat} {wv : Word64} {wm : Word64} (hk : Kept q s) : Kept q (writeJournal s off wv wm) := by
  unfold writeJournal
  repeat' first
    | (with_reducible assumption)
    | (intro x; subst x)
    | lift_lets
    | (with_reducible refine jrnCtlApply_kept ?_)
    | (with_reducible refine jrnTailApply_kept ?_)
    | (with_reducible refine jrnStatusApply_kept ?_)
    | (with_reducible refine ledAckApply_kept ?_)
    | (with_reducible refine kept_ite (fun _ => ?_) (fun _ => ?_))
    | simp only [↓kept_mk_eq]

theorem putHclaim_kept {q : List Instr} {s : State} {n : Nat} {wv : Word64} {wm : Word64} (hk : Kept q s) : Kept q (putHclaim s n wv wm) := by
  unfold putHclaim
  repeat' first
    | (with_reducible assumption)
    | (with_reducible refine threshWrite_kept ?_)

theorem writeHub_kept {q : List Instr} {s : State} {off : Nat} {wv : Word64} {wm : Word64} (hk : Kept q s) : Kept q (writeHub s off wv wm) := by
  unfold writeHub
  repeat' first
    | (with_reducible assumption)
    | lift_lets
    | (with_reducible refine setPend_kept ?_)
    | (with_reducible refine clrPend_kept ?_)
    | (with_reducible refine srcWrite_kept ?_)
    | (with_reducible refine putHclaim_kept ?_)
    | (with_reducible refine kept_ite (fun _ => ?_) (fun _ => ?_))
    | simp only [↓kept_mk_eq]
    | split

theorem eventOnResume_kept {q : List Instr} {s : State} {n : Nat} (hk : Kept q s) : Kept q (eventOnResume s n) := by
  unfold eventOnResume
  repeat' first
    | (with_reducible assumption)
    | lift_lets
    | (with_reducible refine modCore_kept ?_)
    | (with_reducible refine wakeCore_kept ?_)
    | (with_reducible refine kept_ite (fun _ => ?_) (fun _ => ?_))
    | split

theorem advanceDom_kept {q : List Instr} {s : State} {t : Nat} (hk : Kept q s) : Kept q (advanceDom s t) := by
  unfold advanceDom
  repeat' first
    | (with_reducible assumption)
    | intro _
    | lift_lets
    | (with_reducible refine hubEval_kept ?_)
    | (with_reducible refine advance_kept ?_)
    | (with_reducible refine eventOnResume_kept ?_)
    | (with_reducible refine kept_ite (fun _ => ?_) (fun _ => ?_))
    | (with_reducible refine kept_foldl ?_ ?_)

theorem putDomCtl_kept {q : List Instr} {s : State} {t : Nat} {wv : Word64} {wm : Word64} (hk : Kept q s) : Kept q (putDomCtl s t wv wm) := by
  unfold putDomCtl
  repeat' first
    | (with_reducible assumption)
    | (intro (x : Word64); clear_value x)
    | (intro x; subst x)
    | lift_lets
    | (with_reducible refine modDom_kept ?_)
    | (with_reducible refine chPause_kept ?_)
    | (with_reducible refine judged_kept' ?_)
    | (with_reducible refine advanceDom_kept ?_)
    | (with_reducible refine kept_ite (fun _ => ?_) (fun _ => ?_))

theorem clearFready_kept {q : List Instr} {s : State} {t : Nat} (hk : Kept q s) : Kept q (clearFready s t) := by
  unfold clearFready
  repeat' first
    | (with_reducible assumption)
    | (with_reducible refine mapCores_kept ?_)

theorem putWindow_kept' {q : List Instr} {s : State} {n : Nat} {off : Nat} {t : Nat} {h : Nat} {wv : Word64} {wm : Word64} (hk : Kept q s) : Kept q (putWindow s n off t h wv wm).1 := by
  unfold putWindow
  repeat' first
    | (with_reducible assumption)
    | (intro x; refine kept_cut (q := q) (s := x) ?_ (fun _ => ?_) <;> [unfold x; clear_value x])
    | (intro (x : Nat); clear_value x)
    | (intro (x : Word64); clear_value x)
    | (intro x; subst x)
    | lift_lets
    | (with_reducible refine modDom_kept ?_)
    | (with_reducible refine shortStamp_kept' ?_)
    | (with_reducible refine clearFready_kept ?_)
    | simp only [↓kept_mk_eq]
    | split
theorem putWindow_kept {q : List Instr} {s : State} {n : Nat} {off : Nat} {t : Nat} {h : Nat} {wv : Word64} {wm : Word64} {sR : State} {rR} (hk : Kept q s) (e : putWindow s n off t h wv wm = (sR, rR)) : Kept q sR := by
  have := putWindow_kept' (q := q) (s := s) (n := n) (off := off) (t := t) (h := h) (wv := wv) (wm := wm) hk
  rw [e] at this
  exact this

theorem writeDomain_kept {q : List Instr} {s : State} {off : Nat} {wv : Word64} {wm : Word64} (hk : Kept q s) : Kept q (writeDomain s off wv wm) := by
  unfold writeDomain
  repeat' first
    | (with_reducible assumption)
    | (intro (x : Nat); clear_value x)
    | lift_lets
    | (with_reducible refine modDom_kept ?_)
    | (with_reducible refine putDomCtl_kept ?_)
    | (with_reducible refine kept_ite (fun _ => ?_) (fun _ => ?_))

theorem putBudCtl_kept {q : List Instr} {s : State} {wv : Word64} {wm : Word64} (hk : Kept q s) : Kept q (putBudCtl s wv wm) := by
  unfold putBudCtl
  repeat' first
    | (with_reducible assumption)
    | (intro (x : Nat); clear_value x)
    | (intro (x : Word64); clear_value x)
    | lift_lets
    | (with_reducible refine judged_kept' ?_)
    | simp only [↓kept_mk_eq]

theorem putPlanCtl_kept {q : List Instr} {s : State} {wv : Word64} {wm : Word64} (hk : Kept q s) : Kept q (putPlanCtl s wv wm) := by
  unfold putPlanCtl
  try generalize (List.range 32) = r32
  repeat' first
    | (with_reducible assumption)
    | (intro x; refine kept_cut (q := q) (s := x) ?_ (fun _ => ?_) <;> [unfold x; clear_value x])
    | (intro (x : Word64); clear_value x)
    | intro _
    | lift_lets
    | (with_reducible refine seqEval_kept ?_)
    | (with_reducible refine kept_ite (fun _ => ?_) (fun _ => ?_))
    | (with_reducible refine kept_foldl ?_ ?_)
    | simp only [↓kept_mk_eq]

theorem putArbCtl_kept {q : List Instr} {s : State} {wv : Word64} {wm : Word64} (hk : Kept q s) : Kept q (putArbCtl s wv wm) := by
  unfold putArbCtl
  repeat' first
    | (with_reducible assumption)
    | (intro (x : Word64); clear_value x)
    | lift_lets
    | (with_reducible refine judged_kept' ?_)
    | simp only [↓kept_mk_eq]

theorem putVcourse_kept {q : List Instr} {s : State} {c : Nat} {wv : Word64} {wm : Word64} (hk : Kept q s) : Kept q (putVcourse s c wv wm) := by
  unfold putVcourse
  repeat' first
    | (with_reducible assumption)
    | (intro (x : Word64); clear_value x)
    | lift_lets
    | (with_reducible refine modCourse_kept ?_)
    | (with_reducible refine seqEval_kept ?_)
    | (with_reducible refine judged_kept' ?_)

theorem putBwt_kept {q : List Instr} {s : State} {t : Nat} {wv : Word64} {wm : Word64} (hk : Kept q s) : Kept q (putBwt s t wv wm) := by
  unfold putBwt
  repeat' first
    | (with_reducible assumption)
    | (intro (x : Word64); clear_value x)
    | lift_lets
    | (with_reducible refine modBud_kept ?_)
    | (with_reducible refine judged_kept' ?_)

theorem putBud_kept {q : List Instr} {s : State} {t : Nat} {o : Nat} {wv : Word64} {wm : Word64} (hk : Kept q s) : Kept q (putBud s t o wv wm) := by
  unfold putBud
  repeat' first
    | (with_reducible assumption)
    | (intro x; subst x)
    | lift_lets
    | (with_reducible refine modBud_kept ?_)
    | (with_reducible refine putBwt_kept ?_)
    | simp only [↓kept_mk_eq]
    | split

theorem writeBudget_kept {q : List Instr} {s : State} {off : Nat} {wv : Word64} {wm : Word64} (hk : Kept q s) : Kept q (writeBudget s off wv wm) := by
  unfold writeBudget
  repeat' first
    | (with_reducible assumption)
    | lift_lets
    | (with_reducible refine putBudCtl_kept ?_)
    | (with_reducible refine putPlanCtl_kept ?_)
    | (with_reducible refine putArbCtl_kept ?_)
    | (with_reducible refine putVcourse_kept ?_)
    | (with_reducible refine putBud_kept ?_)
    | (with_reducible refine kept_ite (fun _ => ?_) (fun _ => ?_))
    | simp only [↓kept_mk_eq]
    | split

theorem writeBank_kept {q : List Instr} {s : State} {b : Nat} {off : Nat} {wv : Word64} {wm : Word64} (hk : Kept q s) : Kept q (writeBank s b off wv wm) := by
  unfold writeBank
  repeat' first
    | (with_reducible assumption)
    | lift_lets
    | (with_reducible refine bkSet_kept ?_)
    | (with_reducible refine bwCtlApply_kept ?_)
    | (with_reducible refine kept_ite (fun _ => ?_) (fun _ => ?_))
    | simp only [↓kept_mk_eq]
    | split

theorem writeCourse_kept {q : List Instr} {s : State} {c : Nat} {off : Nat} {wv : Word64} {wm : Word64} (hk : Kept q s) : Kept q (writeCourse s c off wv wm) := by
  unfold writeCourse
  repeat' first
    | (with_reducible assumption)
    | lift_lets
    | (with_reducible refine modCourse_kept ?_)
    | (with_reducible refine writeBank_kept ?_)
    | (with_reducible refine kept_ite (fun _ => ?_) (fun _ => ?_))

theorem putSliceTrk_kept {q : List Instr} {s : State} {h : Nat} {wv : Word64} {wm : Word64} (hk : Kept q s) : Kept q (putSliceTrk s h wv wm) := by
  unfold putSliceTrk
  repeat' first
    | (with_reducible assumption)
    | (intro (x : Nat); clear_value x)
    | lift_lets
    | (with_reducible refine modSlice_kept ?_)

theorem putChan_kept {q : List Instr} {s : State} {k : Nat} {o : Nat} {wv : Word64} {wm : Word64} (hk : Kept q s) : Kept q (putChan s k o wv wm) := by
  unfold putChan
  repeat' first
    | (with_reducible assumption)
    | (intro (x : Word64); clear_value x)
    | (intro x; subst x)
    | lift_lets
    | (with_reducible refine setChan_kept ?_)
    | (with_reducible refine judged_kept' ?_)
    | simp only [↓kept_mk_eq]
    | split

theorem writeSlice_kept {q : List Instr} {s : State} {c : Nat} {off : Nat} {wv : Word64} {wm : Word64} (hk : Kept q s) : Kept q (writeSlice s c off wv wm) := by
  unfold writeSlice
  repeat' first
    | (with_reducible assumption)
    | lift_lets
    | (with_reducible refine modSlice_kept ?_)
    | (with_reducible refine writeBank_kept ?_)
    | (with_reducible refine putSliceTrk_kept ?_)
    | (with_reducible refine putChan_kept ?_)
    | (with_reducible refine kept_ite (fun _ => ?_) (fun _ => ?_))
    | split

theorem putMcCtl_kept {q : List Instr} {s : State} {m : Nat} {wv : Word64} {wm : Word64} (hk : Kept q s) : Kept q (putMcCtl s m wv wm) := by
  unfold putMcCtl
  repeat' first
    | (with_reducible assumption)
    | (intro (x : Word64); clear_value x)
    | lift_lets
    | (with_reducible refine modMc_kept ?_)
    | (with_reducible refine judged_kept' ?_)

theorem putScrub_kept {q : List Instr} {s : State} {m : Nat} {wv : Word64} {wm : Word64} (hk : Kept q s) : Kept q (putScrub s m wv wm) := by
  unfold putScrub
  repeat' first
    | (with_reducible assumption)
    | (intro (x : Word64); clear_value x)
    | lift_lets
    | (with_reducible refine modMc_kept ?_)
    | (with_reducible refine judged_kept' ?_)

theorem writeMc_kept {q : List Instr} {s : State} {m : Nat} {off : Nat} {wv : Word64} {wm : Word64} (hk : Kept q s) : Kept q (writeMc s m off wv wm) := by
  unfold writeMc
  repeat' first
    | (with_reducible assumption)
    | lift_lets
    | (with_reducible refine modMc_kept ?_)
    | (with_reducible refine writeBank_kept ?_)
    | (with_reducible refine putMcCtl_kept ?_)
    | (with_reducible refine putScrub_kept ?_)
    | (with_reducible refine kept_ite (fun _ => ?_) (fun _ => ?_))
    | split

theorem putRpCfg_kept {q : List Instr} {s : State} {p : Nat} {wv : Word64} {wm : Word64} (hk : Kept q s) : Kept q (putRpCfg s p wv wm) := by
  unfold putRpCfg
  repeat' first
    | (with_reducible assumption)
    | (intro (x : Word64); clear_value x)
    | lift_lets
    | (with_reducible refine modRp_kept ?_)
    | (with_reducible refine judged_kept' ?_)

theorem putCtx_kept {q : List Instr} {s : State} {k : Nat} {o : Nat} {wv : Word64} {wm : Word64} (hk : Kept q s) : Kept q (putCtx s k o wv wm) := by
  unfold putCtx
  repeat' first
    | (with_reducible assumption)
    | (intro x; subst x)
    | lift_lets
    | (with_reducible refine setCtx_kept ?_)
    | split

theorem writePort_kept {q : List Instr} {s : State} {p : Nat} {off : Nat} {wv : Word64} {wm : Word64} (hk : Kept q s) : Kept q (writePort s p off wv wm) := by
  unfold writePort
  repeat' first
    | (with_reducible assumption)
    | lift_lets
    | (with_reducible refine modRp_kept ?_)
    | (with_reducible refine writeBank_kept ?_)
    | (with_reducible refine putRpCfg_kept ?_)
    | (with_reducible refine putCtx_kept ?_)
    | (with_reducible refine kept_ite (fun _ => ?_) (fun _ => ?_))

theorem regWrite_kept {q : List Instr} {s : State} {off : Nat} {wv : Word64} {wm : Word64} (hk : Kept q s) : Kept q (regWrite s off wv wm) := by
  unfold regWrite
  repeat' first
    | (with_reducible assumption)
    | lift_lets
    | (with_reducible refine writeGlobal_kept ?_)
    | (with_reducible refine writeMailbox_kept ?_)
    | (with_reducible refine writePlumb_kept ?_)
    | (with_reducible refine writeJournal_kept ?_)
    | (with_reducible refine writeHub_kept ?_)
    | (with_reducible refine writeDomain_kept ?_)
    | (with_reducible refine writeBudget_kept ?_)
    | (with_reducible refine writeCourse_kept ?_)
    | (with_reducible refine writeSlice_kept ?_)
    | (with_reducible refine writeMc_kept ?_)
    | (with_reducible refine writePort_kept ?_)
    | (with_reducible refine kept_ite (fun _ => ?_) (fun _ => ?_))

theorem cfgStore_kept {q : List Instr} {s : State} {o : Nat} {v : Word64} (hk : Kept q s) : Kept q (cfgStore s o v) := by
  unfold cfgStore
  repeat' first
    | (with_reducible assumption)
    | (intro (x : Nat); clear_value x)
    | (intro x; subst x)
    | lift_lets
    | (with_reducible refine kept_ite (fun _ => ?_) (fun _ => ?_))
    | simp only [↓kept_mk_eq]

/-! ### `Machine/CtlCmds.lean` -/

theorem ctlDone_kept {q : List Instr} {s : State} {n : Nat} {off : Nat} (hk : Kept q s) : Kept q (ctlDone s n off) := by
  unfold ctlDone
  repeat' first
    | (with_reducible assumption)
    | lift_lets
    | (with_reducible refine popStore_kept ?_)
    | (with_reducible refine advance_kept ?_)
    | (with_reducible refine kept_ite (fun _ => ?_) (fun _ => ?_))
    | split

theorem ctxPerform_kept {q : List Instr} {s : State} {k : Nat} {st : CtlStore} (hk : Kept q s) : Kept q (ctxPerform s k st) := by
  unfold ctxPerform
  repeat' first
    | (with_reducible assumption)
    | lift_lets
    | (with_reducible refine ctxApply_kept ?_)
    | (with_reducible refine ctlDone_kept ?_)

theorem ctxStore_kept {q : List Instr} {s : State} {k : Nat} {st : CtlStore} (hk : Kept q s) : Kept q (ctxStore s k st) := by
  unfold ctxStore
  repeat' first
    | (with_reducible assumption)
    | (intro x; subst x)
    | lift_lets
    | (with_reducible refine setCtx_kept ?_)
    | (with_reducible refine ctxPerform_kept ?_)
    | (with_reducible refine kept_ite (fun _ => ?_) (fun _ => ?_))

theorem ctxGo_kept {q : List Instr} {f : Nat} {s : State} {k : Nat} (hk : Kept q s) : Kept q (ctxGo f s k) := by
  induction f generalizing s with
  | zero => exact hk
  | succ f ih =>
    unfold ctxGo
    repeat' first
      | (with_reducible refine ih ?_)
      | (with_reducible assumption)
      | (intro x; subst x)
      | lift_lets
      | (with_reducible refine setCtx_kept ?_)
      | (with_reducible refine ctxPerform_kept ?_)
      | (with_reducible refine kept_ite (fun _ => ?_) (fun _ => ?_))
      | split

theorem chPerform_kept {q : List Instr} {s : State} {k : Nat} {st : CtlStore} (hk : Kept q s) : Kept q (chPerform s k st) := by
  unfold chPerform
  repeat' first
    | (with_reducible assumption)
    | lift_lets
    | (with_reducible refine chApply_kept ?_)
    | (with_reducible refine ctlDone_kept ?_)

theorem chStore_kept {q : List Instr} {s : State} {k : Nat} {st : CtlStore} (hk : Kept q s) : Kept q (chStore s k st) := by
  unfold chStore
  repeat' first
    | (with_reducible assumption)
    | (intro x; subst x)
    | lift_lets
    | (with_reducible refine setChan_kept ?_)
    | (with_reducible refine chPerform_kept ?_)
    | (with_reducible refine kept_ite (fun _ => ?_) (fun _ => ?_))

theorem chGo_kept {q : List Instr} {f : Nat} {s : State} {k : Nat} (hk : Kept q s) : Kept q (chGo f s k) := by
  induction f generalizing s with
  | zero => exact hk
  | succ f ih =>
    unfold chGo
    repeat' first
      | (with_reducible refine ih ?_)
      | (with_reducible assumption)
      | (intro x; subst x)
      | lift_lets
      | (with_reducible refine setChan_kept ?_)
      | (with_reducible refine chPerform_kept ?_)
      | (with_reducible refine kept_ite (fun _ => ?_) (fun _ => ?_))
      | split

theorem ioinvStore_kept {q : List Instr} {s : State} {st : CtlStore} (hk : Kept q s) : Kept q (ioinvStore s st) := by
  unfold ioinvStore
  repeat' first
    | (with_reducible assumption)
    | lift_lets
    | (with_reducible refine ioinvStart_kept ?_)
    | (with_reducible refine ctlDone_kept ?_)
    | (with_reducible refine kept_ite (fun _ => ?_) (fun _ => ?_))
    | simp only [↓kept_mk_eq]

theorem windowStore_kept {q : List Instr} {s : State} {st : CtlStore} {t : Nat} {h : Nat} (hk : Kept q s) : Kept q (windowStore s st t h) := by
  unfold windowStore
  repeat' first
    | (with_reducible assumption)
    | (intro x; refine kept_cut (q := q) (s := x) ?_ (fun _ => ?_) <;> [unfold x; clear_value x])
    | (intro (x : Nat); clear_value x)
    | (intro x; subst x)
    | intro _
    | lift_lets
    | (with_reducible refine ctlMeet_kept ?_ ?_)
    | (with_reducible refine putWindow_kept' ?_)
    | (with_reducible refine ctlDone_kept ?_)
    | (with_reducible refine kept_ite (fun _ => ?_) (fun _ => ?_))

theorem ctlPerform_kept {q : List Instr} {s : State} {st : CtlStore} (hk : Kept q s) : Kept q (ctlPerform s st) := by
  unfold ctlPerform
  repeat' first
    | (with_reducible assumption)
    | (intro (x : Nat); clear_value x)
    | intro _
    | lift_lets
    | (with_reducible refine ctlMeet_kept ?_ ?_)
    | (with_reducible refine regWrite_kept ?_)
    | (with_reducible refine cfgStore_kept ?_)
    | (with_reducible refine ctlDone_kept ?_)
    | (with_reducible refine ctxStore_kept ?_)
    | (with_reducible refine chStore_kept ?_)
    | (with_reducible refine ioinvStore_kept ?_)
    | (with_reducible refine windowStore_kept ?_)
    | (with_reducible refine kept_ite (fun _ => ?_) (fun _ => ?_))
    | split

theorem ctlArrive_kept {q : List Instr} {s : State} {st : CtlStore} (hk : Kept q s) : Kept q (ctlArrive s st) := by
  unfold ctlArrive
  repeat' first
    | (with_reducible assumption)
    | (intro x; refine kept_cut (q := q) (s := x) ?_ (fun _ => ?_) <;> [unfold x; clear_value x])
    | lift_lets
    | (with_reducible refine received_kept ?_)
    | (with_reducible refine ctlAccess_kept ?_)
    | (with_reducible refine ctlDone_kept ?_)
    | (with_reducible refine ctlPerform_kept ?_)
    | (with_reducible refine kept_ite (fun _ => ?_) (fun _ => ?_))
    | simp only [↓kept_mk_eq]
    | split

end Sys2Proof.Machine
end

