-- ==== Sys2Proof/Laws/Seen.lean ====
section
/-! SUPPORT. What the accesses, messages and maintenance operations of a core leave alone: the registers and the mode of every core, an
empty DE, and the bytes of DRAM. -/
namespace Sys2Proof.Machine
set_option linter.all false
set_option maxRecDepth 4000

/-- A core has the registers and the mode of another, and no words at DE where that has none: what the words of other cores, and the
requests of its own, leave of it. -/
def Alike (x y : Core) : Prop := regsOf x = regsOf y ∧ (y.word = [] → x.word = [])

theorem Alike.trans {x y z : Core} (h : Alike x y) (k : Alike y z) : Alike x z := ⟨h.1.trans k.1, fun e => h.2 (k.2 e)⟩

/-- Every core is alike what `F` tells, and the bytes of DRAM are `M`. -/
def Seen (F : Nat → Core) (M : List Host.Cell) (s : State) : Prop := (∀ k, Alike (getCore s k) (F k)) ∧ s.mem = M

theorem seen_refl {s : State} : Seen (getCore s) s.mem s := ⟨fun _ => ⟨rfl, fun h => h⟩, rfl⟩

theorem seen_mk_eq {F : Nat → Core} {M : List Host.Cell} {X : State} {x0 x1 x3 x4 x6 x7 x8 x9 x10 x11 x12 x13 x14 x15 x16 x17 x18 x19 x20 x21 x22 x23 x24 x25 x26 x27 x28 x29 x30 x31 x32 x33 x34 x35 x36 x37 x38 x39 x40 x41 x42 x43 x44 x45 x46 x47 x48 x49 x50 x51 x52 x53 x54 x55 x56 x57 x58 x59 x60 x61 x62 x63 x64 x65 x66 x67 x68 x69 x70 x71 x72 x73 x74 x75 x76 x77 x78 x79 x80 x81 x82 x83 x84 x85 x86 x87 x88 x89 x90 x91 x92 x93 x94} : Seen F M (State.mk x0 x1 X.mem x3 x4 X.cores x6 x7 x8 x9 x10 x11 x12 x13 x14 x15 x16 x17 x18 x19 x20 x21 x22 x23 x24 x25 x26 x27 x28 x29 x30 x31 x32 x33 x34 x35 x36 x37 x38 x39 x40 x41 x42 x43 x44 x45 x46 x47 x48 x49 x50 x51 x52 x53 x54 x55 x56 x57 x58 x59 x60 x61 x62 x63 x64 x65 x66 x67 x68 x69 x70 x71 x72 x73 x74 x75 x76 x77 x78 x79 x80 x81 x82 x83 x84 x85 x86 x87 x88 x89 x90 x91 x92 x93 x94) = Seen F M X := rfl

theorem seen_cut {F : Nat → Core} {M : List Host.Cell} {s : State} {P : Prop} (h : Seen F M s) (k : Seen F M s → P) : P := k h
theorem seen_cut2 {F : Nat → Core} {M : List Host.Cell} {β : Type} {s : β × State} {P : Prop} (h : Seen F M s.2) (k : Seen F M s.2 → P) : P := k h

theorem seen_foldl {F : Nat → Core} {M : List Host.Cell} {α : Type} {f : State → α → State} {l : List α} {s : State}
    (hf : ∀ s x, Seen F M s → Seen F M (f s x)) (h : Seen F M s) : Seen F M (l.foldl f s) := by
  induction l generalizing s with
  | nil => exact h
  | cons a r ih => exact ih (hf s a h)

theorem seen_ite {F : Nat → Core} {M : List Host.Cell} {c : Prop} [Decidable c] {a b : State} (ha : c → Seen F M a) (hb : ¬c → Seen F M b) :
    Seen F M (if c then a else b) := by
  split
  · exact ha ‹_›
  · exact hb ‹_›

theorem seen_eqP {F : Nat → Core} {M : List Host.Cell} {β : Type} {X : β × State} {b : β} {t : State} (h : Seen F M X.2) (e : X = (b, t)) : Seen F M t := by
  rw [e] at h; exact h

theorem seen_eqP3 {F : Nat → Core} {M : List Host.Cell} {β γ : Type} {X : β × γ × State} {b : β} {c : γ} {t : State} (h : Seen F M X.2.2) (e : X = (b, c, t)) :
    Seen F M t := by
  rw [e] at h; exact h

theorem setCore_seen {F : Nat → Core} {M : List Host.Cell} {s : State} {n : Nat} {x : Core} (hx : Alike x (getCore s n)) (h : Seen F M s) :
    Seen F M (setCore s n x) := by
  refine ⟨fun k => ?_, h.2⟩
  rw [getCore_setCore]
  split
  · subst k; exact hx.trans (h.1 n)
  · exact h.1 k

theorem modCore_seen {F : Nat → Core} {M : List Host.Cell} {s : State} {n : Nat} {f : Core → Core} (hf : ∀ c, Alike (f c) c) (h : Seen F M s) :
    Seen F M (modCore s n f) := setCore_seen (hf _) h

theorem tmapv_alike {f : Nat → Core → Core} (hf : ∀ n c, Alike (f n c) c) (l t : Tbl Core) (k : Nat) :
    Alike (tget coreInit (l.foldl (fun a e => tset coreInit a e.1 (f e.1 (tget coreInit a e.1))) t) k) (tget coreInit t k) := by
  induction l generalizing t with
  | nil => exact ⟨rfl, fun h => h⟩
  | cons a r ih =>
    rw [List.foldl_cons]
    refine (ih _).trans ?_
    rw [tget_tset]
    split
    · subst k; exact hf _ _
    · exact ⟨rfl, fun h => h⟩

theorem mapCores_seen {F : Nat → Core} {M : List Host.Cell} {s : State} {f : Nat → Core → Core} (hf : ∀ n c, Alike (f n c) c)
    (h : Seen F M s) : Seen F M (mapCores s f) :=
  ⟨fun k => (tmapv_alike hf s.cores s.cores k).trans (h.1 k), h.2⟩

theorem setRp_seen {F : Nat → Core} {M : List Host.Cell} {s : State} {c : Nat} {x : Rp} (hk : Seen F M s) : Seen F M (setRp s c x) := by
  unfold setRp
  repeat' first
    | (with_reducible assumption)
    | simp only [↓seen_mk_eq]

theorem releaseGrant_seen {F : Nat → Core} {M : List Host.Cell} {s : State} {p : Nat} {n : Nat} {l : LineNo} (hk : Seen F M s) : Seen F M (releaseGrant s p n l) := by
  unfold releaseGrant
  repeat' first
    | (with_reducible assumption)
    | (intro x; refine seen_cut (F := F) (M := M) (s := x) ?_ (fun _ => ?_) <;> [unfold x; clear_value x])
    | intro _
    | lift_lets
    | (with_reducible refine setRp_seen ?_)
    | (with_reducible refine seen_ite (fun _ => ?_) (fun _ => ?_))
    | simp only [↓seen_mk_eq]

theorem setSlice_seen {F : Nat → Core} {M : List Host.Cell} {s : State} {c : Nat} {x : Slice} (hk : Seen F M s) : Seen F M (setSlice s c x) := by
  unfold setSlice
  repeat' first
    | (with_reducible assumption)
    | simp only [↓seen_mk_eq]

theorem modSlice_seen {F : Nat → Core} {M : List Host.Cell} {s : State} {c : Nat} {f : Slice → Slice} (hk : Seen F M s) : Seen F M (modSlice s c f) := by
  unfold modSlice
  repeat' first
    | (with_reducible assumption)
    | (with_reducible refine setSlice_seen ?_)

theorem setCourse_seen {F : Nat → Core} {M : List Host.Cell} {s : State} {c : Nat} {x : Course} (hk : Seen F M s) : Seen F M (setCourse s c x) := by
  unfold setCourse
  repeat' first
    | (with_reducible assumption)
    | simp only [↓seen_mk_eq]

theorem modCourse_seen {F : Nat → Core} {M : List Host.Cell} {s : State} {c : Nat} {f : Course → Course} (hk : Seen F M s) : Seen F M (modCourse s c f) := by
  unfold modCourse
  repeat' first
    | (with_reducible assumption)
    | (with_reducible refine setCourse_seen ?_)

theorem setHub_seen {F : Nat → Core} {M : List Host.Cell} {s : State} {n : Nat} {x : HubCore} (hk : Seen F M s) : Seen F M (setHub s n x) := by
  unfold setHub
  repeat' first
    | (with_reducible assumption)
    | simp only [↓seen_mk_eq]

theorem modHub_seen {F : Nat → Core} {M : List Host.Cell} {s : State} {n : Nat} {f : HubCore → HubCore} (hk : Seen F M s) : Seen F M (modHub s n f) := by
  unfold modHub
  repeat' first
    | (with_reducible assumption)
    | (with_reducible refine setHub_seen ?_)

theorem setSrc_seen {F : Nat → Core} {M : List Host.Cell} {s : State} {k : Nat} {x : Src} (hk : Seen F M s) : Seen F M (setSrc s k x) := by
  unfold setSrc
  repeat' first
    | (with_reducible assumption)
    | simp only [↓seen_mk_eq]

theorem modSrc_seen {F : Nat → Core} {M : List Host.Cell} {s : State} {k : Nat} {f : Src → Src} (hk : Seen F M s) : Seen F M (modSrc s k f) := by
  unfold modSrc
  repeat' first
    | (with_reducible assumption)
    | (with_reducible refine setSrc_seen ?_)

theorem setAgent_seen {F : Nat → Core} {M : List Host.Cell} {s : State} {a : Nat} {x : Agent} (hk : Seen F M s) : Seen F M (setAgent s a x) := by
  unfold setAgent
  repeat' first
    | (with_reducible assumption)
    | simp only [↓seen_mk_eq]

theorem dropResv_seen {F : Nat → Core} {M : List Host.Cell} {s : State} {n : Nat} (hk : Seen F M s) : Seen F M (dropResv s n) := by
  unfold dropResv
  repeat' first
    | (with_reducible assumption)
    | (with_reducible refine modCore_seen (fun c => ?_) ?_)
    | (show Alike _ _; exact ⟨rfl, fun h => h⟩)
    | (intro x; refine seen_cut (F := F) (M := M) (s := x) ?_ (fun _ => ?_) <;> [unfold x; clear_value x])
    | lift_lets
    | (with_reducible refine releaseGrant_seen ?_)
    | (with_reducible refine modSlice_seen ?_)
    | simp only [↓seen_mk_eq]
    | split

theorem putAcc_seen {F : Nat → Core} {M : List Host.Cell} {s : State} {n : Nat} {a : OutAcc} (hk : Seen F M s) : Seen F M (putAcc s n a) := by
  unfold putAcc
  repeat' first
    | (with_reducible assumption)
    | (with_reducible refine modCore_seen (fun c => ?_) ?_)
    | (show Alike _ _; exact ⟨rfl, fun h => h⟩)

theorem qdrop_seen {F : Nat → Core} {M : List Host.Cell} {s : State} (hk : Seen F M s) : Seen F M (qdrop s) := by
  unfold qdrop
  repeat' first
    | (with_reducible assumption)
    | intro _
    | lift_lets
    | simp only [↓seen_mk_eq]

theorem putRec_seen {F : Nat → Core} {M : List Host.Cell} {s : State} {a : Nat} {stamp : Nat} {cls : Nat} {t : Tdid} {p : List Byte} (hk : Seen F M s) : Seen F M (putRec s a stamp cls t p) := by
  unfold putRec
  repeat' first
    | (with_reducible assumption)
    | intro _
    | lift_lets
    | (with_reducible refine setAgent_seen ?_)
    | (with_reducible refine qdrop_seen ?_)
    | (with_reducible refine seen_ite (fun _ => ?_) (fun _ => ?_))

theorem stamped_seen {F : Nat → Core} {M : List Host.Cell} {s : State} {a : Nat} (hk : Seen F M s) : Seen F M (stamped s a) := by
  unfold stamped
  repeat' first
    | (with_reducible assumption)
    | intro _
    | lift_lets
    | (with_reducible refine setAgent_seen ?_)

theorem jrn_seen {F : Nat → Core} {M : List Host.Cell} {s : State} {a : Nat} {cls : Nat} {t : Tdid} {payload : List Byte} (hk : Seen F M s) : Seen F M (jrn s a cls t payload) := by
  unfold jrn
  repeat' first
    | (with_reducible assumption)
    | intro _
    | lift_lets
    | (with_reducible refine putRec_seen ?_)
    | (with_reducible refine stamped_seen ?_)
    | (with_reducible refine seen_foldl ?_ ?_)
    | split

theorem addUse_seen {F : Nat → Core} {M : List Host.Cell} {s : State} {a : Nat} {t : Nat} {r : Nat} {k : Nat} (hk : Seen F M s) : Seen F M (addUse s a t r k) := by
  unfold addUse
  repeat' first
    | (with_reducible assumption)
    | simp only [↓seen_mk_eq]

theorem countLedAt_seen {F : Nat → Core} {M : List Host.Cell} {s : State} {a : Nat} {t : Nat} {at_ : Nat} {f : Counts → Counts} (hk : Seen F M s) : Seen F M (countLedAt s a t at_ f) := by
  unfold countLedAt
  repeat' first
    | (with_reducible assumption)
    | intro _
    | lift_lets
    | simp only [↓seen_mk_eq]

theorem countLed_seen {F : Nat → Core} {M : List Host.Cell} {s : State} {a : Nat} {t : Nat} {f : Counts → Counts} (hk : Seen F M s) : Seen F M (countLed s a t f) := by
  unfold countLed
  repeat' first
    | (with_reducible assumption)
    | (with_reducible refine countLedAt_seen ?_)

theorem charge_seen {F : Nat → Core} {M : List Host.Cell} {s : State} {a : Nat} {t : Nat} {e : Nat} (hk : Seen F M s) : Seen F M (charge s a t e) := by
  unfold charge
  repeat' first
    | (with_reducible assumption)
    | (intro x; refine seen_cut (F := F) (M := M) (s := x) ?_ (fun _ => ?_) <;> [unfold x; clear_value x])
    | intro _
    | lift_lets
    | (with_reducible refine addUse_seen ?_)
    | (with_reducible refine countLed_seen ?_)
    | (with_reducible refine seen_ite (fun _ => ?_) (fun _ => ?_))
    | simp only [↓seen_mk_eq]

theorem shortStamp_seen' {F : Nat → Core} {M : List Host.Cell} {s : State} {a : Nat} (hk : Seen F M s) : Seen F M (shortStamp s a).2 := by
  unfold shortStamp
  repeat' first
    | (with_reducible assumption)
    | (with_reducible refine stamped_seen ?_)
theorem shortStamp_seen {F : Nat → Core} {M : List Host.Cell} {s : State} {a : Nat} {sR : State} {r0} (hk : Seen F M s) (e : shortStamp s a = (r0, sR)) : Seen F M sR := seen_eqP (shortStamp_seen' hk) e

theorem send_seen {F : Nat → Core} {M : List Host.Cell} {s : State} {m : Msg} (hk : Seen F M s) : Seen F M (send s m) := by
  unfold send
  repeat' first
    | (with_reducible assumption)
    | (intro x; refine seen_cut (F := F) (M := M) (s := x) ?_ (fun _ => ?_) <;> [unfold x; clear_value x])
    | intro _
    | lift_lets
    | (with_reducible refine stamped_seen ?_)
    | simp only [↓seen_mk_eq]

theorem openReq_seen {F : Nat → Core} {M : List Host.Cell} {s : State} {c : Nat} {m : Msg} (hk : Seen F M s) : Seen F M (openReq s c m) := by
  unfold openReq
  repeat' first
    | (with_reducible assumption)
    | (intro x; refine seen_cut (F := F) (M := M) (s := x) ?_ (fun _ => ?_) <;> [unfold x; clear_value x])
    | lift_lets
    | (with_reducible refine modCourse_seen ?_)
    | (with_reducible refine send_seen ?_)

theorem bkSet_seen {F : Nat → Core} {M : List Host.Cell} {s : State} {b : Nat} {r : Nat} {v : Word64} (hk : Seen F M s) : Seen F M (bkSet s b r v) := by
  unfold bkSet
  repeat' first
    | (with_reducible assumption)
    | simp only [↓seen_mk_eq]

theorem bankEv_seen {F : Nat → Core} {M : List Host.Cell} {s : State} {b : Nat} {ev : Nat} {k : Nat} {a : EvAttr} (hk : Seen F M s) : Seen F M (bankEv s b ev k a) := by
  unfold bankEv
  try generalize (List.range 4) = r4
  repeat' first
    | (with_reducible assumption)
    | intro _
    | lift_lets
    | (with_reducible refine bkSet_seen ?_)
    | (with_reducible refine seen_ite (fun _ => ?_) (fun _ => ?_))
    | (with_reducible refine seen_foldl ?_ ?_)

theorem setL2_seen {F : Nat → Core} {M : List Host.Cell} {s : State} {c : Nat} {k : Nat} {v : L2Line} (hk : Seen F M s) : Seen F M (setL2 s c k v) := by
  unfold setL2
  repeat' first
    | (with_reducible assumption)
    | (with_reducible refine modCourse_seen ?_)

theorem dropL1d_seen {F : Nat → Core} {M : List Host.Cell} {s : State} {c : Nat} {l : LineNo} {keep : Nat → Bool} (hk : Seen F M s) : Seen F M (dropL1d s c l keep) := by
  unfold dropL1d
  repeat' first
    | (with_reducible assumption)
    | (with_reducible refine modCore_seen (fun c => ?_) ?_)
    | (show Alike _ _; exact ⟨rfl, fun h => h⟩)
    | intro _
    | lift_lets
    | (with_reducible refine seen_ite (fun _ => ?_) (fun _ => ?_))
    | (with_reducible refine seen_foldl ?_ ?_)

theorem clearResv_seen {F : Nat → Core} {M : List Host.Cell} {s : State} {l : LineNo} {p : Nat → Bool} (hk : Seen F M s) : Seen F M (clearResv s l p) := by
  unfold clearResv
  repeat' first
    | (with_reducible assumption)
    | (with_reducible refine mapCores_seen (fun n c => ?_) ?_)
    | (show Alike _ _; exact ⟨rfl, fun h => h⟩)
    | (show Alike _ _; split)

theorem free_seen' {F : Nat → Core} {M : List Host.Cell} {s : State} (hk : Seen F M s) : Seen F M (free s).2 := by
  unfold free
  repeat' first
    | (with_reducible assumption)
    | simp only [↓seen_mk_eq]
theorem free_seen {F : Nat → Core} {M : List Host.Cell} {s : State} {sR : State} {r0} (hk : Seen F M s) (e : free s = (r0, sR)) : Seen F M sR := seen_eqP (free_seen' hk) e

theorem l2Drop_seen {F : Nat → Core} {M : List Host.Cell} {s : State} {c : Nat} {l : LineNo} (hk : Seen F M s) : Seen F M (l2Drop s c l) := by
  unfold l2Drop
  repeat' first
    | (with_reducible assumption)
    | (intro x; refine seen_cut (F := F) (M := M) (s := x) ?_ (fun _ => ?_) <;> [unfold x; clear_value x])
    | lift_lets
    | (with_reducible refine setL2_seen ?_)
    | (with_reducible refine dropL1d_seen ?_)
    | (with_reducible refine clearResv_seen ?_)
    | split

theorem evictFor_seen {F : Nat → Core} {M : List Host.Cell} {s : State} {c : Nat} {e : L2Line} {t : Tdid} {key : Nat} (hk : Seen F M s) : Seen F M (evictFor s c e t key) := by
  unfold evictFor
  repeat' first
    | (with_reducible assumption)
    | (intro x; refine seen_cut (F := F) (M := M) (s := x) ?_ (fun _ => ?_) <;> [unfold x; clear_value x])
    | intro _
    | lift_lets
    | (with_reducible refine modCourse_seen ?_)
    | (with_reducible refine charge_seen ?_)
    | (with_reducible refine send_seen ?_)
    | (with_reducible refine bankEv_seen ?_)
    | (with_reducible refine l2Drop_seen ?_)
    | split

theorem evict_seen {F : Nat → Core} {M : List Host.Cell} {s : State} {c : Nat} {e : L2Line} {t : Tdid} (hk : Seen F M s) : Seen F M (evict s c e t) := by
  unfold evict
  repeat' first
    | (with_reducible assumption)
    | (with_reducible refine evictFor_seen ?_)

theorem l2Sound_seen' {F : Nat → Core} {M : List Host.Cell} {s : State} {c : Nat} {e : L2Line} (hk : Seen F M s) : Seen F M (l2Sound s c e).2 := by
  unfold l2Sound
  repeat' first
    | (with_reducible assumption)
    | (intro x; refine seen_cut (F := F) (M := M) (s := x) ?_ (fun _ => ?_) <;> [unfold x; clear_value x])
    | intro _
    | lift_lets
    | (with_reducible refine modCourse_seen ?_)
    | (with_reducible refine jrn_seen ?_)
    | (with_reducible refine seen_ite (fun _ => ?_) (fun _ => ?_))
    | split
theorem l2Sound_seen {F : Nat → Core} {M : List Host.Cell} {s : State} {c : Nat} {e : L2Line} {sR : State} {r0} (hk : Seen F M s) (e : l2Sound s c e = (r0, sR)) : Seen F M sR := seen_eqP (l2Sound_seen' hk) e

theorem l1Par_seen {F : Nat → Core} {M : List Host.Cell} {s : State} {n : Nat} (hk : Seen F M s) : Seen F M (l1Par s n) := by
  unfold l1Par
  repeat' first
    | (with_reducible assumption)
    | (with_reducible refine modCourse_seen ?_)

theorem l1dCheck_seen {F : Nat → Core} {M : List Host.Cell} {s : State} {n : Nat} {l : LineNo} (hk : Seen F M s) : Seen F M (l1dCheck s n l) := by
  unfold l1dCheck
  repeat' first
    | (with_reducible assumption)
    | (with_reducible refine setCore_seen ?_ ?_)
    | (show Alike _ _; exact ⟨rfl, fun h => h⟩)
    | intro _
    | lift_lets
    | (with_reducible refine l1Par_seen ?_)
    | (with_reducible refine seen_ite (fun _ => ?_) (fun _ => ?_))

theorem l2Check_seen {F : Nat → Core} {M : List Host.Cell} {s : State} {c : Nat} {l : LineNo} (hk : Seen F M s) : Seen F M (l2Check s c l) := by
  unfold l2Check
  repeat' first
    | (with_reducible assumption)
    | lift_lets
    | (with_reducible refine setL2_seen ?_)
    | (with_reducible refine evictFor_seen ?_)
    | (with_reducible refine l2Sound_seen' ?_)
    | (with_reducible refine seen_ite (fun _ => ?_) (fun _ => ?_))
    | simp only [↓seen_mk_eq]
    | split

theorem sendOut_seen {F : Nat → Core} {M : List Host.Cell} {s : State} {port : Nat} {r : OutReq} (hk : Seen F M s) : Seen F M (sendOut s port r) := by
  unfold sendOut
  repeat' first
    | (with_reducible assumption)
    | (with_reducible refine shortStamp_seen' ?_)
    | simp only [↓seen_mk_eq]

theorem l1dFill_seen {F : Nat → Core} {M : List Host.Cell} {s : State} {n : Nat} {l : LineNo} (hk : Seen F M s) : Seen F M (l1dFill s n l) := by
  unfold l1dFill
  repeat' first
    | (with_reducible assumption)
    | (with_reducible refine setCore_seen ?_ ?_)
    | (show Alike _ _; exact ⟨rfl, fun h => h⟩)
    | intro _
    | lift_lets
    | (with_reducible refine free_seen' ?_)
    | (with_reducible refine seen_ite (fun _ => ?_) (fun _ => ?_))

theorem hubChoose_seen {F : Nat → Core} {M : List Host.Cell} {s : State} {n : Nat} (hk : Seen F M s) : Seen F M (hubChoose s n) := by
  unfold hubChoose
  repeat' first
    | (with_reducible assumption)
    | lift_lets
    | (with_reducible refine modHub_seen ?_)
    | (with_reducible refine stamped_seen ?_)
    | (with_reducible refine seen_ite (fun _ => ?_) (fun _ => ?_))
    | split

theorem hubEval_seen {F : Nat → Core} {M : List Host.Cell} {s : State} {n : Nat} (hk : Seen F M s) : Seen F M (hubEval s n) := by
  unfold hubEval
  repeat' first
    | (with_reducible assumption)
    | lift_lets
    | (with_reducible refine modHub_seen ?_)
    | (with_reducible refine hubChoose_seen ?_)

theorem hubEvalSrc_seen {F : Nat → Core} {M : List Host.Cell} {s : State} {id : Nat} (hk : Seen F M s) : Seen F M (hubEvalSrc s id) := by
  unfold hubEvalSrc
  repeat' first
    | (with_reducible assumption)
    | (with_reducible refine hubEval_seen ?_)
    | split

theorem setPend_seen {F : Nat → Core} {M : List Host.Cell} {s : State} {id : Nat} (hk : Seen F M s) : Seen F M (setPend s id) := by
  unfold setPend
  repeat' first
    | (with_reducible assumption)
    | lift_lets
    | (with_reducible refine modSrc_seen ?_)
    | (with_reducible refine hubEvalSrc_seen ?_)
    | (with_reducible refine seen_ite (fun _ => ?_) (fun _ => ?_))

theorem pmBump_seen {F : Nat → Core} {M : List Host.Cell} {s : State} {n : Nat} {i : Nat} {k : Nat} (hk : Seen F M s) : Seen F M (pmBump s n i k) := by
  have hp : ∀ (c : Core) k v, Alike (pmSet c k v) c := fun _ _ _ => ⟨rfl, fun h => h⟩
  unfold pmBump
  extract_lets c
  split
  extract_lets c1 c2 s2
  have h1 : Alike c1 (getCore s n) := hp _ _ _
  split
  · have h2 : Seen F M s2 := setCore_seen ((hp _ _ _).trans h1) hk
    exact seen_ite (fun _ => setPend_seen h2) (fun _ => h2)
  · exact setCore_seen h1 hk

theorem coreEv_seen {F : Nat → Core} {M : List Host.Cell} {s : State} {n : Nat} {ev : Nat} {k : Nat} {line : Option LineNo} (hk : Seen F M s) : Seen F M (coreEv s n ev k line) := by
  unfold coreEv
  try generalize (List.range 8) = r8
  repeat' first
    | (with_reducible assumption)
    | intro _
    | lift_lets
    | (with_reducible refine pmBump_seen ?_)
    | (with_reducible refine seen_ite (fun _ => ?_) (fun _ => ?_))
    | (with_reducible refine seen_foldl ?_ ?_)

theorem l2Read_seen' {F : Nat → Core} {M : List Host.Cell} {s : State} {n : Nat} {l : LineNo} {i : Nat} {u : ReqUse} {t : Tdid} {ep : BitVec 8} {atH : Bool} (hk : Seen F M s) : Seen F M (l2Read s n l i u t ep atH).2 := by
  unfold l2Read
  repeat' first
    | (with_reducible assumption)
    | (intro x; refine seen_cut (F := F) (M := M) (s := x) ?_ (fun _ => ?_) <;> [unfold x; clear_value x])
    | intro _
    | lift_lets
    | (with_reducible refine charge_seen ?_)
    | (with_reducible refine openReq_seen ?_)
    | (with_reducible refine bankEv_seen ?_)
    | (with_reducible refine l2Check_seen ?_)
    | split
theorem l2Read_seen {F : Nat → Core} {M : List Host.Cell} {s : State} {n : Nat} {l : LineNo} {i : Nat} {u : ReqUse} {t : Tdid} {ep : BitVec 8} {atH : Bool} {sR : State} {r0} (hk : Seen F M s) (e : l2Read s n l i u t ep atH = (r0, sR)) : Seen F M sR := seen_eqP (l2Read_seen' hk) e

theorem setResv_seen {F : Nat → Core} {M : List Host.Cell} {s : State} {n : Nat} {pa : PAddr} {lin : BitVec 48} {w : ResvAt} (hk : Seen F M s) : Seen F M (setResv s n pa lin w) := by
  unfold setResv
  repeat' first
    | (with_reducible assumption)
    | (with_reducible refine modCore_seen (fun c => ?_) ?_)
    | (show Alike _ _; exact ⟨rfl, fun h => h⟩)
    | lift_lets
    | (with_reducible refine dropResv_seen ?_)

theorem l2Store_seen {F : Nat → Core} {M : List Host.Cell} {s : State} {c : Nat} {n : Nat} {k : Nat} {e : L2Line} {off : Nat} {bs : List PByte} (hk : Seen F M s) : Seen F M (l2Store s c n k e off bs) := by
  unfold l2Store
  repeat' first
    | (with_reducible assumption)
    | (intro x; refine seen_cut (F := F) (M := M) (s := x) ?_ (fun _ => ?_) <;> [unfold x; clear_value x])
    | lift_lets
    | (with_reducible refine setL2_seen ?_)
    | (with_reducible refine dropL1d_seen ?_)
    | (with_reducible refine clearResv_seen ?_)

theorem fillPort_seen' {F : Nat → Core} {M : List Host.Cell} {s : State} {n port : Nat} {a : OutAcc} {p : Part} (hk : Seen F M s) :
    Seen F M (fillPort s n port a p).2.2 := by
  unfold fillPort
  extract_lets c go
  have h1 : ∀ r, Seen F M (go r).2.2 := fun r => sendOut_seen hk
  clear_value go
  split
  · exact hk
  · split
    · exact h1 _
    · split
      · exact dropResv_seen hk
      · exact h1 _
    · exact h1 _
theorem fillPort_seen {F : Nat → Core} {M : List Host.Cell} {s : State} {n port : Nat} {a : OutAcc} {p : Part} {sR : State} {r0} {r1}
    (hk : Seen F M s) (e : fillPort s n port a p = (r0, r1, sR)) : Seen F M sR := seen_eqP3 (fillPort_seen' hk) e

theorem fillHome_seen' {F : Nat → Core} {M : List Host.Cell} {s : State} {n : Nat} {a : OutAcc} {p : Part} (hk : Seen F M s) : Seen F M (fillHome s n a p).2.2 := by
  unfold fillHome
  repeat' first
    | (with_reducible assumption)
    | intro _
    | lift_lets
    | (with_reducible refine dropResv_seen ?_)
    | (with_reducible refine send_seen ?_)
    | simp only [↓seen_mk_eq]
    | split
theorem fillHome_seen {F : Nat → Core} {M : List Host.Cell} {s : State} {n : Nat} {a : OutAcc} {p : Part} {sR : State} {r0} {r1} (hk : Seen F M s) (e : fillHome s n a p = (r0, r1, sR)) : Seen F M sR := seen_eqP3 (fillHome_seen' hk) e

theorem fillCached_seen' {F : Nat → Core} {M : List Host.Cell} {s : State} {n : Nat} {a : OutAcc} {p : Part} (hk : Seen F M s) : Seen F M (fillCached s n a p).2.2 := by
  unfold fillCached
  repeat' first
    | (with_reducible assumption)
    | (intro x; refine seen_cut (F := F) (M := M) (s := x) ?_ (fun _ => ?_) <;> [unfold x; clear_value x])
    | intro _
    | lift_lets
    | (with_reducible refine dropResv_seen ?_)
    | (with_reducible refine openReq_seen ?_)
    | (with_reducible refine l1dCheck_seen ?_)
    | (with_reducible refine l2Check_seen ?_)
    | (with_reducible refine l1dFill_seen ?_)
    | (with_reducible refine coreEv_seen ?_)
    | (with_reducible refine l2Read_seen ?_ (by assumption))
    | (with_reducible refine setResv_seen ?_)
    | (with_reducible refine l2Store_seen ?_)
    | (with_reducible refine seen_ite (fun _ => ?_) (fun _ => ?_))
    | simp only [↓seen_mk_eq]
    | split
theorem fillCached_seen {F : Nat → Core} {M : List Host.Cell} {s : State} {n : Nat} {a : OutAcc} {p : Part} {sR : State} {r0} {r1} (hk : Seen F M s) (e : fillCached s n a p = (r0, r1, sR)) : Seen F M sR := seen_eqP3 (fillCached_seen' hk) e

theorem fillPart_seen' {F : Nat → Core} {M : List Host.Cell} {s : State} {n : Nat} {a : OutAcc} {p : Part} (hk : Seen F M s) : Seen F M (fillPart s n a p).2.2 := by
  unfold fillPart
  repeat' first
    | (with_reducible assumption)
    | (with_reducible refine fillPort_seen' ?_)
    | (with_reducible refine fillHome_seen' ?_)
    | (with_reducible refine fillCached_seen' ?_)
    | split
theorem fillPart_seen {F : Nat → Core} {M : List Host.Cell} {s : State} {n : Nat} {a : OutAcc} {p : Part} {sR : State} {r0} {r1} (hk : Seen F M s) (e : fillPart s n a p = (r0, r1, sR)) : Seen F M sR := seen_eqP3 (fillPart_seen' hk) e

theorem fillParts_seen' {F : Nat → Core} {M : List Host.Cell} {s : State} {n : Nat} {a : OutAcc} {l : List Part} (hk : Seen F M s) : Seen F M (fillParts n a l s).2.2 := by
  induction l generalizing s with
  | nil => exact hk
  | cons e r ih =>
    unfold fillParts
    repeat' first
      | (with_reducible refine ih ?_)
      | (with_reducible assumption)
      | lift_lets
      | (with_reducible refine fillPart_seen' ?_)
theorem fillParts_seen {F : Nat → Core} {M : List Host.Cell} {s : State} {n : Nat} {a : OutAcc} {l : List Part} {sR : State} {r0 r1} (hk : Seen F M s) (e : fillParts n a l s = (r0, r1, sR)) : Seen F M sR := seen_eqP3 (fillParts_seen' hk) e

theorem kickList_seen {F : Nat → Core} {M : List Host.Cell} {s : State} {n : Nat} {l : List Nat} {dev : Bool} (hk : Seen F M s) : Seen F M (kickList n l dev s) := by
  induction l generalizing s dev with
  | nil => exact hk
  | cons e r ih =>
    unfold kickList
    repeat' first
      | (with_reducible refine ih ?_)
      | (with_reducible assumption)
      | lift_lets
      | (with_reducible refine putAcc_seen ?_)
      | (with_reducible refine fillParts_seen' ?_)
      | (with_reducible refine seen_ite (fun _ => ?_) (fun _ => ?_))
      | simp only [↓seen_mk_eq]
      | split

theorem kick_seen {F : Nat → Core} {M : List Host.Cell} {s : State} {n : Nat} (hk : Seen F M s) : Seen F M (kick s n) := by
  unfold kick
  repeat' first
    | (with_reducible assumption)
    | (with_reducible refine kickList_seen ?_)

theorem doSerial_seen {F : Nat → Core} {M : List Host.Cell} {s : State} {n : Nat} {k : AccKind} {dst : Dst} {w : Nat} {sg : Bool} {opnd : Word64} {m : MRes} (hk : Seen F M s) : Seen F M (doSerial s n k dst w sg opnd m) := by
  unfold doSerial
  repeat' first
    | (with_reducible assumption)
    | (with_reducible refine modCore_seen (fun c => ?_) ?_)
    | (show Alike _ _; exact ⟨rfl, fun h => h⟩)
    | intro _
    | lift_lets
    | (with_reducible refine kick_seen ?_)

theorem l1tlbInstall_seen {F : Nat → Core} {M : List Host.Cell} {s : State} {n : Nat} {fetch : Bool} {e : TlbEnt} (hk : Seen F M s) : Seen F M (l1tlbInstall s n fetch e) := by
  unfold l1tlbInstall
  repeat' first
    | (with_reducible assumption)
    | (with_reducible refine modCore_seen (fun c => ?_) ?_)
    | (show Alike _ _; exact ⟨rfl, fun h => h⟩)
    | (show Alike _ _; split)
    | lift_lets
    | (with_reducible refine free_seen' ?_)

theorem xlate_seen' {F : Nat → Core} {M : List Host.Cell} {s : State} {n : Nat} {k : Kind} {l : Level} {lin : Nat} (hk : Seen F M s) : Seen F M (xlate s n k l lin).2 := by
  unfold xlate
  repeat' first
    | (with_reducible assumption)
    | (with_reducible refine setCore_seen ?_ ?_)
    | (show Alike _ _; exact ⟨rfl, fun h => h⟩)
    | (show Alike _ _; split)
    | (intro x; refine seen_cut (F := F) (M := M) (s := x) ?_ (fun _ => ?_) <;> [unfold x; clear_value x])
    | intro _
    | lift_lets
    | (with_reducible refine coreEv_seen ?_)
    | (with_reducible refine l1tlbInstall_seen ?_)
    | (with_reducible refine seen_ite (fun _ => ?_) (fun _ => ?_))
    | simp only [↓seen_mk_eq]
    | split
theorem xlate_seen {F : Nat → Core} {M : List Host.Cell} {s : State} {n : Nat} {k : Kind} {l : Level} {lin : Nat} {sR : State} {r0} (hk : Seen F M s) (e : xlate s n k l lin = (r0, sR)) : Seen F M sR := seen_eqP (xlate_seen' hk) e

theorem checkPart_seen' {F : Nat → Core} {M : List Host.Cell} {s : State} {n : Nat} {k : Kind} {l : Level} {atomic : Bool} {lin : Nat} {len : Nat} (hk : Seen F M s) : Seen F M (checkPart s n k l atomic lin len).2 := by
  unfold checkPart
  repeat' first
    | (with_reducible assumption)
    | intro _
    | lift_lets
    | (with_reducible refine xlate_seen ?_ (by assumption))
    | simp only [↓seen_mk_eq]
    | split
theorem checkPart_seen {F : Nat → Core} {M : List Host.Cell} {s : State} {n : Nat} {k : Kind} {l : Level} {atomic : Bool} {lin : Nat} {len : Nat} {sR : State} {r0} (hk : Seen F M s) (e : checkPart s n k l atomic lin len = (r0, sR)) : Seen F M sR := seen_eqP (checkPart_seen' hk) e

theorem checkLin_seen' {F : Nat → Core} {M : List Host.Cell} {s : State} {n : Nat} {k : Kind} {l : Level} {atomic : Bool} {lin : Nat} {w : Nat} (hk : Seen F M s) : Seen F M (checkLin s n k l atomic lin w).2 := by
  unfold checkLin
  repeat' first
    | (with_reducible assumption)
    | intro _
    | lift_lets
    | (with_reducible refine checkPart_seen ?_ (by assumption))
    | (with_reducible refine checkPart_seen' ?_)
    | split
theorem checkLin_seen {F : Nat → Core} {M : List Host.Cell} {s : State} {n : Nat} {k : Kind} {l : Level} {atomic : Bool} {lin : Nat} {w : Nat} {sR : State} {r0} (hk : Seen F M s) (e : checkLin s n k l atomic lin w = (r0, sR)) : Seen F M sR := seen_eqP (checkLin_seen' hk) e

theorem startWalk_seen {F : Nat → Core} {M : List Host.Cell} {s : State} {n : Nat} {why : WalkFor} {k : Kind} {l : Level} {lin : Nat} (hk : Seen F M s) : Seen F M (startWalk s n why k l lin) := by
  unfold startWalk
  repeat' first
    | (with_reducible assumption)
    | (with_reducible refine modCore_seen (fun c => ?_) ?_)
    | (show Alike _ _; exact ⟨rfl, fun h => h⟩)
    | (intro x; refine seen_cut (F := F) (M := M) (s := x) ?_ (fun _ => ?_) <;> [unfold x; clear_value x])
    | intro _
    | lift_lets
    | (with_reducible refine coreEv_seen ?_)
    | (with_reducible refine seen_ite (fun _ => ?_) (fun _ => ?_))

theorem prefetch_seen {F : Nat → Core} {M : List Host.Cell} {s : State} {n : Nat} {lin : Nat} (hk : Seen F M s) : Seen F M (prefetch s n lin) := by
  unfold prefetch
  repeat' first
    | (with_reducible assumption)
    | intro _
    | lift_lets
    | (with_reducible refine openReq_seen ?_)
    | (with_reducible refine checkLin_seen ?_ (by assumption))
    | (with_reducible refine startWalk_seen ?_)
    | (with_reducible refine seen_ite (fun _ => ?_) (fun _ => ?_))
    | simp only [↓seen_mk_eq]
    | split

theorem lockPage_seen {F : Nat → Core} {M : List Host.Cell} {s : State} {n : Nat} {lin : Nat} (hk : Seen F M s) : Seen F M (lockPage s n lin) := by
  unfold lockPage
  repeat' first
    | (with_reducible assumption)
    | (with_reducible refine setCore_seen ?_ ?_)
    | (show Alike _ _; exact ⟨rfl, fun h => h⟩)
    | intro _
    | lift_lets
    | (with_reducible refine coreEv_seen ?_)
    | (with_reducible refine seen_ite (fun _ => ?_) (fun _ => ?_))
    | split

theorem unlockPage_seen {F : Nat → Core} {M : List Host.Cell} {s : State} {n : Nat} {lin : Nat} (hk : Seen F M s) : Seen F M (unlockPage s n lin) := by
  unfold unlockPage
  repeat' first
    | (with_reducible assumption)
    | (with_reducible refine modCore_seen (fun c => ?_) ?_)
    | (show Alike _ _; exact ⟨rfl, fun h => h⟩)

theorem doInvAll_seen {F : Nat → Core} {M : List Host.Cell} {s : State} {n : Nat} {sc : InvScope} (hk : Seen F M s) : Seen F M (doInvAll s n sc) := by
  unfold doInvAll
  try generalize (List.range 256) = r256
  repeat' first
    | (with_reducible assumption)
    | (with_reducible refine modCore_seen (fun c => ?_) ?_)
    | (show Alike _ _; exact ⟨rfl, fun h => h⟩)
    | lift_lets
    | (with_reducible refine shortStamp_seen' ?_)
    | simp only [↓seen_mk_eq]

theorem doMaint_seen {F : Nat → Core} {M : List Host.Cell} {s : State} {n : Nat} {op : MaintOp} {m : MRes} (hk : Seen F M s) :
    Seen F M (doMaint s n op m) := by
  have hb : ∀ (s : State) b, Seen F M s → Seen F M (modCore s n (fun c => { c with busy := b })) := fun s b h => modCore_seen (fun _ => ⟨rfl, fun h => h⟩) h
  have hi : ∀ (s : State) (x : List (Logical × BitVec 5 × LineNo × BitVec 24)), Seen F M s → Seen F M { s with icNet := x } := fun _ _ h => h
  unfold doMaint
  extract_lets c k home
  have hh : ∀ kd, Seen F M (home kd) := by
    intro kd
    unfold home
    split
    · split
      · exact hk
      · exact hb _ _ (send_seen hk)
    · exact hk
  clear_value home
  generalize List.range 256 = r256
  generalize List.range 32 = r32
  cases op
  · exact hh _
  · exact hh _
  · exact hh _
  · exact seen_ite (fun _ => prefetch_seen hk) (fun _ => hk)
  · dsimp only
    split
    · exact seen_ite (fun _ => hk) (fun _ => hb _ _ (hi _ _ (shortStamp_seen' hk)))
    · exact hk
  · exact doInvAll_seen hk
  · exact seen_ite (fun _ => hk) (fun _ => lockPage_seen hk)
  · exact seen_ite (fun _ => hk) (fun _ => unlockPage_seen hk)

theorem checkAcc_seen' {F : Nat → Core} {M : List Host.Cell} {s : State} {n : Nat} {seg : BitVec 3} {off : Word64} {w : Nat} {k : Kind} {aligned : Bool} {atomic : Bool} (hk : Seen F M s) : Seen F M (checkAcc s n seg off w k aligned atomic).2 := by
  unfold checkAcc
  repeat' first
    | (with_reducible assumption)
    | intro _
    | lift_lets
    | (with_reducible refine checkLin_seen' ?_)
    | split
theorem checkAcc_seen {F : Nat → Core} {M : List Host.Cell} {s : State} {n : Nat} {seg : BitVec 3} {off : Word64} {w : Nat} {k : Kind} {aligned : Bool} {atomic : Bool} {sR : State} {r0} (hk : Seen F M s) (e : checkAcc s n seg off w k aligned atomic = (r0, sR)) : Seen F M sR := seen_eqP (checkAcc_seen' hk) e

theorem ghostLoad_seen {F : Nat → Core} {M : List Host.Cell} {s : State} {n : Nat} {a : Act} (hk : Seen F M s) : Seen F M (ghostLoad s n a) := by
  unfold ghostLoad
  repeat' first
    | (with_reducible assumption)
    | intro _
    | lift_lets
    | (with_reducible refine charge_seen ?_)
    | (with_reducible refine openReq_seen ?_)
    | (with_reducible refine l1dFill_seen ?_)
    | (with_reducible refine checkAcc_seen ?_ (by assumption))
    | (with_reducible refine seen_ite (fun _ => ?_) (fun _ => ?_))
    | simp only [↓seen_mk_eq]
    | split

/-! ### The words at DE through a commit (R90, R93) -/

/-- A core that holds no words at DE holds none afterwards. -/
def SameWords (s t : State) : Prop := ∀ n, (getCore s n).word = [] → (getCore t n).word = []

theorem SameWords.refl (s : State) : SameWords s s := fun _ h => h
theorem SameWords.trans {s t u : State} (h : SameWords s t) (k : SameWords t u) : SameWords s u := fun n e => k n (h n e)

theorem sameWords_of_seen {s t : State} (h : Seen (getCore s) s.mem t) : SameWords s t := fun n => (h.1 n).2

theorem setCore_nil {s : State} {n : Nat} {x : Core} (hx : (getCore s n).word = [] → x.word = []) : SameWords s (setCore s n x) := fun k e => by
  rw [getCore_setCore]
  split
  · subst k; exact hx e
  · exact e

theorem setCore_words {s : State} {n : Nat} {x : Core} (hx : x.word = (getCore s n).word) : SameWords s (setCore s n x) :=
  setCore_nil (fun e => hx.trans e)

theorem modCore_words {s : State} {n : Nat} {f : Core → Core} (hf : ∀ c, (f c).word = c.word) : SameWords s (modCore s n f) :=
  setCore_words (hf _)

theorem modCore_drops {s : State} {n : Nat} {f : Core → Core} (hf : ∀ c, (f c).word = []) : SameWords s (modCore s n f) :=
  setCore_nil (fun _ => hf _)

theorem sameWords_ite {s : State} {c : Prop} [Decidable c] {a b : State} (ha : c → SameWords s a) (hb : ¬c → SameWords s b) :
    SameWords s (if c then a else b) := by
  split
  · exact ha ‹_›
  · exact hb ‹_›

theorem foldl_words {α : Type} {f : State → α → State} {l : List α} {s : State} (hf : ∀ s x, SameWords s (f s x)) : SameWords s (l.foldl f s) := by
  induction l generalizing s with
  | nil => exact .refl s
  | cons a r ih => exact (hf s a).trans ih

theorem writeGb_word (c : Core) (r : BitVec 6) (b : Nat) (x : Reg) : (writeGb c r b x).word = c.word := by
  unfold writeGb
  split
  · rfl
  · dsimp only
    split
    · rfl
    · split <;> rfl

theorem writeG_word (c : Core) (r : BitVec 6) (x : Reg) : (writeG c r x).word = c.word := writeGb_word _ _ _ _

theorem writeDst_word (c : Core) (d : Dst) (v : Nat) (p : Bool) : (writeDst c d v p).word = c.word := by
  cases d
  · rfl
  · exact writeGb_word _ _ _ _
  · rfl
  · rfl

theorem dropResv_words (s : State) (n : Nat) : SameWords s (dropResv s n) := sameWords_of_seen (dropResv_seen seen_refl)

theorem wakeCore_words (s : State) (n reason : Nat) : SameWords s (wakeCore s n reason) := by
  unfold wakeCore
  refine modCore_words (fun c => ?_)
  dsimp only
  split
  · exact writeG_word _ _ _
  · rfl

theorem beginWait_words (s : State) (n : Nat) (r : Run) : SameWords s (beginWait s n r) := by
  have h1 : SameWords s (modCore (dropResv s n) n (fun c => { c with run := r })) :=
    (dropResv_words s n).trans (modCore_words (fun _ => rfl))
  unfold beginWait
  generalize modCore (dropResv s n) n (fun c => { c with run := r }) = s1 at h1 ⊢
  dsimp only
  split
  · exact sameWords_ite (fun _ => h1.trans (wakeCore_words _ _ _)) (fun _ => h1)
  · exact h1

theorem setEff_words (s : State) (n k : Nat) : SameWords s (setEff s n k) := modCore_words (fun _ => rfl)

theorem vseqLimit_words (s : State) (c n k : Nat) : SameWords s (vseqLimit s c n k) := by
  unfold vseqLimit
  exact sameWords_of_seen (jrn_seen (by rw [seen_mk_eq]; exact seen_refl))

theorem seqEval_words (s : State) (c : Nat) : SameWords s (seqEval s c) := by
  unfold seqEval
  extract_lets t s1
  have h1 : SameWords s s1 := sameWords_of_seen (modCourse_seen seen_refl)
  clear_value s1
  refine sameWords_ite (fun _ => h1.trans ?_) (fun _ => sameWords_ite (fun _ => h1.trans ?_) (fun _ => h1))
  · unfold effLower
    refine foldl_words (fun s n => ?_)
    exact sameWords_ite (fun _ => setEff_words _ _ _) (fun _ => .refl _)
  · unfold effRaise
    refine foldl_words (fun s n => ?_)
    refine sameWords_ite (fun _ => setEff_words _ _ _) (fun _ => ?_)
    refine SameWords.trans ?_ (setEff_words _ _ _)
    exact sameWords_ite (fun _ => vseqLimit_words _ _ _ _) (fun _ => .refl _)

theorem reinWrite_words (s : State) (n : Nat) (v : Word64) : SameWords s (reinWrite s n v) := by
  unfold reinWrite
  extract_lets c x pace s1 s2 s3
  have h1 : SameWords s s1 := setCore_words rfl
  have h2 : SameWords s s2 := sameWords_ite (fun _ => h1.trans (setEff_words _ _ _)) (fun _ => h1)
  have h3 : SameWords s s3 := sameWords_ite (fun _ => h2.trans (setEff_words _ _ _)) (fun _ => h2)
  exact h3.trans (seqEval_words _ _)

theorem hubEval_words (s : State) (k : Nat) : SameWords s (hubEval s k) := sameWords_of_seen (hubEval_seen seen_refl)
theorem hubEvalSrc_words (s : State) (k : Nat) : SameWords s (hubEvalSrc s k) := sameWords_of_seen (hubEvalSrc_seen seen_refl)
theorem modHub_words (s : State) (k : Nat) (f : HubCore → HubCore) : SameWords s (modHub s k f) := sameWords_of_seen (modHub_seen seen_refl)
theorem setSrc_words (s : State) (k : Nat) (x : Src) : SameWords s (setSrc s k x) := sameWords_of_seen (setSrc_seen seen_refl)

theorem setThreshold_words (s : State) (n : Nat) (l : Level) (th : BitVec 8) : SameWords s (setThreshold s n l th) := by
  unfold setThreshold
  refine SameWords.trans ?_ (hubEval_words _ _)
  split
  · exact modHub_words _ _ _
  · exact (modHub_words _ _ _).trans (modCore_words (fun _ => rfl))

theorem setClaimId_words (s : State) (n : Nat) (l : Level) (id : SrcId) : SameWords s (setClaimId s n l id) := modHub_words _ _ _
theorem spurious_words (s : State) : SameWords s (spurious s) := fun _ h => h

theorem hubClaim_words (s : State) (n : Nat) (l : Level) : SameWords s (hubClaim s n l) := by
  unfold hubClaim
  cases l <;> dsimp only
  all_goals
    split
    · exact (spurious_words s).trans (setClaimId_words _ _ _ _)
    · refine sameWords_ite (fun _ => ?_) (fun _ => ?_)
      · exact ((modHub_words _ _ _).trans (setSrc_words _ _ _)).trans (setClaimId_words _ _ _ _)
      · refine SameWords.trans (SameWords.trans (SameWords.trans (SameWords.trans ?_ (spurious_words _)) (setClaimId_words _ _ _ _)) (hubEval_words _ _))
          (hubEvalSrc_words _ _)
        exact sameWords_ite (fun _ => (modHub_words _ _ _).trans (setSrc_words _ _ _)) (fun _ => modHub_words _ _ _)

theorem hubEoi_words (s : State) (n : Nat) (l : Level) (k : Nat) : SameWords s (hubEoi s n l k) := by
  unfold hubEoi
  extract_lets x
  split
  · exact sameWords_ite (fun _ => ((setSrc_words _ _ _).trans (hubEval_words _ _)).trans (hubEvalSrc_words _ _)) (fun _ => .refl _)
  · exact .refl _

theorem threshWrite_words (s : State) (n : Nat) (l : Level) (v : Word64) : SameWords s (threshWrite s n l v) := by
  unfold threshWrite
  extract_lets s1
  have h1 : SameWords s s1 := setThreshold_words _ _ _ _
  clear_value s1
  split
  · exact h1.trans (hubClaim_words _ _ _)
  · exact h1.trans (hubEoi_words _ _ _ _)
  · exact h1

theorem sysWrite_words (s : State) (n num : Nat) (x : Reg) : SameWords s (sysWrite s n num x) := by
  have hb : ∀ (c : Core) (l : Level) (b : TrapBank), (setBank c l b).word = c.word := fun c l b => by cases l <;> rfl
  have hp : ∀ (c : Core) (k : Nat) (v : Word64), (pmWrite c k v).word = c.word := fun c k v => by
    unfold pmWrite
    repeat' split
    all_goals rfl
  unfold sysWrite
  dsimp only
  cases bankNum num with
  | some e => exact modCore_words (fun c => writeGb_word _ _ _ _)
  | none =>
    dsimp only
    refine sameWords_ite (fun _ => modCore_words (fun _ => rfl)) (fun _ => ?_)
    refine sameWords_ite (fun _ => modCore_words (fun c => hb _ _ _)) (fun _ => ?_)
    refine sameWords_ite (fun _ => modCore_words (fun _ => rfl)) (fun _ => ?_)
    refine sameWords_ite (fun _ => modCore_words (fun _ => rfl)) (fun _ => ?_)
    refine sameWords_ite (fun _ => modCore_words (fun _ => rfl)) (fun _ => ?_)
    refine sameWords_ite (fun _ => modCore_words (fun _ => rfl)) (fun _ => ?_)
    refine sameWords_ite (fun _ => modCore_words (fun _ => rfl)) (fun _ => ?_)
    refine sameWords_ite (fun _ => modCore_words (fun _ => rfl)) (fun _ => ?_)
    refine sameWords_ite (fun _ => modCore_words (fun _ => rfl)) (fun _ => ?_)
    refine sameWords_ite (fun _ => modCore_words (fun _ => rfl)) (fun _ => ?_)
    refine sameWords_ite (fun _ => modCore_words (fun _ => rfl)) (fun _ => ?_)
    refine sameWords_ite (fun _ => modCore_words (fun c => by split <;> rfl)) (fun _ => ?_)
    refine sameWords_ite (fun _ => SameWords.trans (modCore_words (f := fun c => { c with evmask := x.v }) (fun _ => rfl)) (modHub_words _ _ _)) (fun _ => ?_)
    refine sameWords_ite (fun _ => threshWrite_words _ _ _ _) (fun _ => ?_)
    refine sameWords_ite (fun _ => modCore_words (fun _ => rfl)) (fun _ => ?_)
    refine sameWords_ite (fun _ => reinWrite_words _ _ _) (fun _ => ?_)
    refine sameWords_ite (fun _ => modCore_words (fun c => hp _ _ _)) (fun _ => ?_)
    exact .refl _

theorem rebindClear_words (s : State) (n : Nat) : SameWords s (rebindClear s n) :=
  (dropResv_words _ _).trans (modCore_words (f := fun c => { c with pred := {}, evflag := false, fready := false, ffill := false, fbuf := none }) (fun _ => rfl))

theorem endGrace_word (c : Core) : (endGrace c).word = c.word := rfl

theorem rebind_words (s : State) (n : Nat) (v : Word64) : SameWords s (rebind s n v) := by
  unfold rebind
  extract_lets t s1 st s2 c left s3
  have h1 : SameWords s s1 := rebindClear_words _ _
  refine sameWords_ite (fun _ => h1.trans (sameWords_of_seen (jrn_seen (by unfold ctlErr; rw [seen_mk_eq]; exact seen_refl)))) (fun _ => ?_)
  have h2 : SameWords s s2 := h1.trans (sameWords_of_seen (stamped_seen seen_refl))
  have h3 : SameWords s2 s3 := by
    unfold s3
    split
    · exact .refl _
    · exact fun _ h => h
  have hc : (getCore s3 n).word = c.word := by
    unfold s3
    split <;> rfl
  refine (h2.trans h3).trans (setCore_words ?_)
  rw [endGrace_word, hc]

theorem coreEv_words (s : State) (n ev k : Nat) (l : Option LineNo) : SameWords s (coreEv s n ev k l) := sameWords_of_seen (coreEv_seen seen_refl)
theorem kick_words (s : State) (n : Nat) : SameWords s (kick s n) := sameWords_of_seen (kick_seen seen_refl)

theorem doLoad_words (s : State) (n : Nat) (dst : Dst) (w : Nat) (sg : Bool) (m : MRes) : SameWords s (doLoad s n dst w sg m) := by
  unfold doLoad
  extract_lets c k s1
  have h1 : SameWords s s1 := sameWords_ite (fun _ => coreEv_words _ _ _ _ _) (fun _ => .refl _)
  clear_value s1
  split
  · rename_i s2 fw w0 w1 ps a s3 s4 v o b heq
    extract_lets v1
    have h2 : SameWords s1 s2 := foldl_words (fun s p => sameWords_ite (fun _ => sameWords_of_seen (l1dFill_seen seen_refl)) (fun _ => .refl _))
    clear_value v1 s2
    exact (h1.trans h2).trans (modCore_words (fun c => writeDst_word c dst v1.1 v1.2))
  · rename_i s2 fw w0 w1 ps a s3 s4 v b heq
    clear_value v
    have h2 : SameWords s s3 := sameWords_ite (fun _ => h1.trans (coreEv_words _ _ _ _ _)) (fun _ => h1)
    have h3 : SameWords s s4 := sameWords_ite (fun _ => h2.trans (coreEv_words _ _ _ _ _)) (fun _ => h2)
    clear_value s4
    clear_value a
    refine sameWords_ite (fun _ => h3.trans (modCore_words (fun c => writeDst_word c dst v.1 v.2))) (fun _ => ?_)
    exact (h3.trans (modCore_words (f := fun c => { c with accs := c.accs ++ [a], nextIdx := c.nextIdx + 1 }) (fun _ => rfl))).trans (kick_words _ _)

theorem ghostWord_words (s : State) (n : Nat) : SameWords s (ghostWord s n) := by
  unfold ghostWord
  extract_lets h
  by_cases he : (getCore s n).word = []
  · have hc : h.complete = false := by unfold h headWord; rw [he]; rfl
    rw [hc]
    exact .refl _
  · refine sameWords_ite (fun _ => .refl _) (fun _ => ?_)
    have hf : SameWords s (free s).2 := fun _ h => h
    have hg : getCore (free s).2 n = getCore s n := rfl
    generalize free s = fs at hf hg ⊢
    obtain ⟨r, s1⟩ := fs
    dsimp only at hf hg ⊢
    have h2 : SameWords s (modCore s1 n (fun c => { c with word := h.rest })) := hf.trans (setCore_nil (fun e => absurd (hg ▸ e) he))
    generalize modCore s1 n (fun c => { c with word := h.rest }) = s2 at h2 ⊢
    exact sameWords_ite (fun _ => h2) (fun _ => h2.trans (foldl_words (fun s e => sameWords_of_seen (ghostLoad_seen seen_refl))))

theorem dropQueue_words (s : State) (n : Nat) : SameWords s (dropQueue s n) := modCore_drops (fun _ => rfl)

theorem wrongPath_words (s : State) (n k : Nat) : SameWords s (wrongPath s n k) :=
  (foldl_words (fun s _ => ghostWord_words s n)).trans (modCore_drops (fun _ => rfl))

theorem doXfer_words (s : State) (n : Nat) (c0 : Core) (len : Nat) (k : XferKind) (taken hint : Bool) (target : Word64)
    (link : Option (BitVec 6)) : SameWords s (doXfer s n c0 len k taken hint target link) := by
  unfold doXfer
  extract_lets next tgt0 tgt base x pl
  split
  extract_lets s1 s2 s3
  have h1 : SameWords s s1 := modCore_words (fun c => by
    dsimp only
    split
    · exact writeG_word _ _ _
    · rfl)
  have h2 : SameWords s s2 := sameWords_ite (fun _ => h1) (fun _ => h1.trans (wrongPath_words _ _ _))
  have h3 : SameWords s s3 := sameWords_ite (fun _ => h2.trans (coreEv_words _ _ _ _ _)) (fun _ => h2)
  exact sameWords_ite (fun _ => h3.trans (coreEv_words _ _ _ _ _)) (fun _ => h3)

theorem doRfe_words (s : State) (n : Nat) (fr : Option (Word128 × Word128)) : SameWords s (doRfe s n fr) := by
  unfold doRfe
  refine ((dropResv_words s n).trans (dropQueue_words _ _)).trans (modCore_words (fun c => ?_))
  dsimp only
  split <;> rfl

/-- The effect of a syllable leaves the words at DE (R93). -/
theorem doAct_words (n : Nat) (c0 : Core) (len : Nat) (m : MRes) (fr : Option (Word128 × Word128)) (s : State) (a : Act) :
    SameWords s (doAct n c0 len m fr s a) := by
  cases a <;> unfold doAct <;> dsimp only
  case nop => exact .refl _
  case fence => exact .refl _
  case wG => exact modCore_words (fun c => writeG_word _ _ _)
  case load => exact doLoad_words _ _ _ _ _ _
  case store =>
    refine SameWords.trans (sameWords_ite (fun _ => coreEv_words _ _ _ _ _) (fun _ => .refl _)) (modCore_words (fun _ => rfl))
  case atomic => exact sameWords_of_seen (doSerial_seen seen_refl)
  case lr => exact sameWords_of_seen (doSerial_seen seen_refl)
  case sc => exact sameWords_of_seen (doSerial_seen seen_refl)
  case block => exact sameWords_ite (fun _ => .refl _) (fun _ => modCore_words (fun _ => rfl))
  case maint => exact sameWords_of_seen (doMaint_seen seen_refl)
  case tlbid => exact sameWords_of_seen (doInvAll_seen seen_refl)
  case tlbia => exact sameWords_of_seen (doInvAll_seen seen_refl)
  case xfer => exact doXfer_words _ _ _ _ _ _ _ _ _
  case rfe => exact doRfe_words _ _ _
  case mfs => exact modCore_words (fun c => writeG_word _ _ _)
  case mts =>
    exact sameWords_ite (fun _ => (rebind_words _ _ _).trans (dropQueue_words _ _))
      (fun _ => sameWords_ite (fun _ => (sysWrite_words _ _ _ _).trans (dropQueue_words _ _)) (fun _ => sysWrite_words _ _ _ _))
  case wfe => exact sameWords_ite (fun _ => modCore_words (f := fun c => { c with evflag := false }) (fun _ => rfl)) (fun _ => beginWait_words _ _ _)
  case sev => exact fun k h => sameWords_of_seen (t := (shortStamp s (courseOf s n)).2) (shortStamp_seen' seen_refl) k h
  case waitt r d =>
    exact sameWords_ite
      (fun _ => modCore_words (f := fun c => writeG { c with evflag := false } r { v := 1 }) (fun c => writeG_word { c with evflag := false } r { v := 1 }))
      (fun _ => sameWords_ite (fun _ => modCore_words (f := fun c => writeG c r { v := 0 }) (fun c => writeG_word c r _)) (fun _ => beginWait_words _ _ _))
  case nap => exact SameWords.trans (modCore_words (f := fun c => { c with l1i := [], l1d := [], napAt := coreTime s n }) (fun _ => rfl)) (beginWait_words _ _ _)
  case rdtime r => exact modCore_words (f := fun c => writeG c r { v := BitVec.ofNat 64 (coreTime s n) }) (fun c => writeG_word c r _)
  case wV r v => exact modCore_words (f := fun c => writeV c r { v := v }) (fun _ => rfl)
  case longG r v => exact modCore_words (f := fun c => { c with results := c.results ++ [{ idx := c.nextIdx, dst := gDst c r, g := v }], nextIdx := c.nextIdx + 1 }) (fun _ => rfl)
  case longV r v => exact modCore_words (f := fun c => { c with results := c.results ++ [{ idx := c.nextIdx, dst := .v r, v := v }], nextIdx := c.nextIdx + 1 }) (fun _ => rfl)
  case lseg r _ _ => exact modCore_words (f := fun c => writeSg c r m.desc) (fun _ => rfl)
  case trapOp code arg => exact setCore_words rfl
  case pflush => exact modCore_drops (f := fun c => { c with pred := {}, word := [] }) (fun _ => rfl)
  case pbar cl => exact modCore_drops (f := fun c => { c with word := [], pctl := if cl then c.pctl &&& 0xEF else c.pctl ||| 0x10 }) (fun _ => rfl)

/-- A committed word behind which none waits leaves DE empty (R90, R93). -/
theorem commitWord_word {s : State} {n : Nat} {h : HeadWord} {m : MRes} {fr : Option (Word128 × Word128)} (hr : h.rest = []) :
    (getCore (commitWord s n h m fr) n).word = [] := by
  unfold commitWord
  extract_lets c0 s1 s2
  have h2 : (getCore s2 n).word = [] := by
    unfold s2 modCore
    rw [getCore_setCore, if_pos rfl]
    exact hr
  exact foldl_words (fun s e => doAct_words _ _ _ _ _ _ _) n h2

end Sys2Proof.Machine
end

