-- ==== Sys2Proof/Laws/Words.lean ====
section
/-! SUPPORT. What the last syllable of a word does when the word passes its checks: it commits the word, and a word of one syllable
does that syllable's effect after the token and the PC. -/
namespace Sys2Proof.Machine
set_option linter.all false
set_option maxRecDepth 4000

theorem reached_word (i : Instr) (y : Syl) (s : State) : (getCore (reached i y s) y.n.toNat).word = (getCore s y.n.toNat).word ++ [i] := by
  unfold reached; rw [getCore_setCore, if_pos rfl]

theorem mayTry_empty {s : State} {n : Nat} (h : (getCore s n).word = []) : mayTry s n = false := by
  have : (headWord (getCore s n)).complete = false := by unfold headWord; rw [h]; rfl
  unfold mayTry
  simp only [this, Bool.and_false]

theorem advanceN_empty {s : State} {n : Nat} (h : (getCore s n).word = []) (k : Nat) : advanceN k s n = s := by
  cases k with
  | zero => rfl
  | succ k =>
    unfold advanceN tryIssue
    rw [mayTry_empty h]
    rfl

/-- What `readyAt` asks, one by one. -/
theorem ready_cases {i : Instr} {y : Syl} {s : State} (h : readyAt i y s = true) :
    takesSyl y s = true ∧ mayTry (reached i y s) y.n.toNat = true ∧ (getCore s y.n.toNat).atX2 = false ∧ (getCore s y.n.toNat).owe = 0 ∧
    pendHold (getCore s y.n.toNat) (wordAt i y s) = 0 ∧ tokenReady (getCore s y.n.toNat) (coreTime s y.n.toNat) = true := by
  unfold readyAt at h
  simp only [Bool.and_eq_true, beq_iff_eq, Bool.not_eq_true'] at h
  obtain ⟨⟨⟨⟨⟨h1, h2⟩, h3⟩, h4⟩, h5⟩, h6⟩ := h
  exact ⟨h1, h2, h3, h4, h5, h6⟩

/-- What `passesChecks` asks, one by one. -/
theorem passes_cases {i : Instr} {y : Syl} {s : State} (h : passesChecks i y s = true) :
    readyAt i y s = true ∧ (wordAt i y s).rest = [] ∧ (∃ u, (fetchAt i y s).1 = .ok u) ∧
    encTrap (getCore (fetchAt i y s).2 y.n.toNat) (wordAt i y s) = none ∧ held (fetchAt i y s).2 y.n.toNat (wordAt i y s) = false ∧
    (bindWord (wordAt i y s) && bindTooSoon (fetchAt i y s).2 y.n.toNat) = false ∧ (x2At i y s).1 = .ok (x2Res i y s) ∧
    wordParity (x2At i y s).2 y.n.toNat (wordAt i y s) (x2Res i y s) = false := by
  unfold passesChecks at h
  simp only [Bool.and_eq_true, List.isEmpty_iff, beq_iff_eq, Bool.not_eq_true', Option.isNone_iff_eq_none] at h
  obtain ⟨⟨⟨⟨⟨⟨⟨h1, h2⟩, h6⟩, h7⟩, h8⟩, h9⟩, h10⟩, h11⟩ := h
  refine ⟨h1, h2, ?_, h7, h8, h9, ?_, h11⟩
  · revert h6; cases (fetchAt i y s).1 <;> simp
  · unfold x2Res; revert h10; cases (x2At i y s).1 <;> simp

theorem reached_core (i : Instr) (y : Syl) (s : State) :
    getCore (reached i y s) y.n.toNat = { getCore s y.n.toNat with word := (getCore s y.n.toNat).word ++ [i] } := by
  unfold reached; rw [getCore_setCore, if_pos rfl]

theorem tryIssue_issues {i : Instr} {y : Syl} {s : State} (h : issues i y s = true) :
    tryIssue (reached i y s) y.n.toNat = (true, issued i y s) := by
  unfold issues at h
  rw [Bool.and_eq_true, Bool.not_eq_true'] at h
  obtain ⟨hp, hr⟩ := h
  obtain ⟨hq, h2, ⟨u, h6⟩, h7, h8, h9, h10, h11⟩ := passes_cases hp
  obtain ⟨h1, h3, hx, h4, hd, h5⟩ := ready_cases hq
  have ho : (getCore (reached i y s) y.n.toNat).owe = 0 := by rw [reached_core]; exact h4
  have hx2 : (getCore (reached i y s) y.n.toNat).atX2 = false := by rw [reached_core]; exact hx
  have hpd : pendHold (getCore (reached i y s) y.n.toNat) (headWord (getCore (reached i y s) y.n.toNat)) = 0 := by
    rw [← hd]; unfold pendHold; rw [reached_core]; unfold wordAt; rw [reached_core]
  have ht : tokenReady (getCore (reached i y s) y.n.toNat) (coreTime (reached i y s) y.n.toNat) = true := by
    rw [reached_core]; exact h5
  have hw : payHold 64 (reached i y s) y.n.toNat = reached i y s := by
    unfold payHold; rw [hpd]; rfl
  unfold tryIssue
  rw [h3]
  dsimp only [Bool.not_true]
  rw [if_neg (by decide), ho]
  unfold payOwed
  rw [hw, ho, hpd, ht, hx2]
  rw [if_neg (by decide)]
  have e6 : fetchWord y.n.toNat (extent (headWord (getCore (reached i y s) y.n.toNat))) 0 (reached i y s) = (.ok u, (fetchAt i y s).2) := by
    rw [← h6]; rfl
  rw [e6]
  dsimp only
  have e7 : encTrap (getCore (fetchAt i y s).2 y.n.toNat) (headWord (getCore (reached i y s) y.n.toNat)) = none := h7
  rw [e7]
  dsimp only
  have e8 : held (fetchAt i y s).2 y.n.toNat (headWord (getCore (reached i y s) y.n.toNat)) = false := h8
  have e9 : (bindWord (headWord (getCore (reached i y s) y.n.toNat)) && bindTooSoon (fetchAt i y s).2 y.n.toNat) = false := h9
  rw [e8, e9]
  rw [if_neg (by decide), if_neg (by decide)]
  have e10 : wordM (fetchAt i y s).2 y.n.toNat (headWord (getCore (reached i y s) y.n.toNat)) = (.ok (x2Res i y s), (x2At i y s).2) := by
    rw [← h10]; rfl
  rw [e10]
  dsimp only
  have e11 : wordParity (x2At i y s).2 y.n.toNat (headWord (getCore (reached i y s) y.n.toNat)) (x2Res i y s) = false := h11
  rw [e11, if_neg (by decide)]
  have er : rfeWord (headWord (getCore (reached i y s) y.n.toNat)) = false := hr
  rw [er, if_neg (by decide)]
  rfl

theorem lookAhead_empty {s : State} {n : Nat} (h : (getCore s n).word = []) : lookAhead s n = s := by
  have : (headWord (getCore s n)).complete = false := by unfold headWord; rw [h]; rfl
  unfold lookAhead
  simp only [this, Bool.not_false, Bool.true_or, if_true]

/-- A syllable whose word issues commits the word (R93, R96). -/
theorem stage_issues {i : Instr} {y : Syl} {s : State} (h : issues i y s = true) : stage i y s = issued i y s := by
  have hp : passesChecks i y s = true := (Bool.and_eq_true _ _ ▸ h : _ ∧ _).1
  obtain ⟨hq, h2, -⟩ := passes_cases hp
  have h1 := (ready_cases hq).1
  unfold takesSyl at h1
  rw [Bool.and_eq_true, decide_eq_true_eq] at h1
  unfold stage
  dsimp only
  rw [if_neg (by rw [h1.1]; simp; omega)]
  have e : advance (reached i y s) y.n.toNat = issued i y s := by
    unfold advance advanceN
    rw [tryIssue_issues h]
    exact advanceN_empty (by unfold issued; exact commitWord_word h2) 5
  show lookAhead (advance (reached i y s) y.n.toNat) y.n.toNat = _
  rw [e]
  exact lookAhead_empty (by unfold issued; exact commitWord_word h2)

/-- The word of one syllable with its stop bit, alone at DE. -/
theorem wordAt_alone {i : Instr} {y : Syl} {s : State} {f : Syl → Core → Staged} (hs : sylOf i = some (y, f)) (hst : ∀ c, (f y c).stop = y.s)
    (ho : y.odd = none) (hy : y.s = true) (he : (getCore s y.n.toNat).word = []) :
    wordAt i y s = { ops := [(0, { f y (getCore (reached i y s) y.n.toNat) with lat := latency i })], len := (f y (getCore (reached i y s) y.n.toNat)).len,
                     complete := true, rest := [] } := by
  unfold wordAt headWord
  rw [reached_word, he]
  generalize getCore (reached i y s) y.n.toNat = c
  simp only [List.nil_append, takeWord, hs, stagedOf, ho]
  simp [hst, hy]

theorem issuesAlone_cases {i : Instr} {y : Syl} {s : State} (h : issuesAlone i y s = true) :
    y.odd = none ∧ y.s = true ∧ (getCore s y.n.toNat).word = [] ∧ issues i y s = true := by
  unfold issuesAlone at h
  simp only [Bool.and_eq_true, List.isEmpty_iff, Option.isNone_iff_eq_none] at h
  exact ⟨h.1.1.1, h.1.1.2, h.1.2, h.2⟩

theorem reached_quiet (i : Instr) (y : Syl) (s : State) : Quiet y.n.toNat (archOf (getCore s y.n.toNat)) s (reached i y s) :=
  setCore_quiet rfl quiet_refl

theorem fetchAt_quiet {i : Instr} {y : Syl} {s : State} (h : passesChecks i y s = true) :
    Quiet y.n.toNat (archOf (getCore s y.n.toNat)) s (fetchAt i y s).2 := by
  obtain ⟨-, -, ⟨u, h6⟩, -⟩ := passes_cases h
  exact fetchWord_quiet (reached_quiet i y s) (u := u) (by rw [← h6]; rfl)

/-- A core whose PC has moved past some syllables. -/
def movedPc (c : Core) (k : Nat) : Core := { c with pc := c.pc + BitVec.ofNat 64 (4 * k) }

/-- The state in which the effect of an issued word begins (R93, R96). -/
def began (s : State) (n : Nat) (h : HeadWord) : State :=
  modCore (if (getCore s n).atX2 then s else useToken s n (some (extent h))) n (fun c =>
    { c with pc := (getCore s n).pc + BitVec.ofNat 64 (4 * h.len), word := h.rest, ulines := [], fresh := none, busy := .none,
             warmLeft := if startsBlock (getCore s n) h then c.warmLeft else c.warmLeft - 1, pend := c.pend ++ newPend h, atX2 := false,
             uaddr := none, fcode := none, tie := none })

theorem commitWord_began (s : State) (n : Nat) (h : HeadWord) (m : MRes) (fr : Option (Word128 × Word128)) :
    commitWord s n h m fr = h.ops.foldl (fun t e => doAct n (getCore s n) h.len m fr t e.2.act) (began s n h) := rfl

theorem elseSame_setCore (s : State) (n : Nat) (x : Core) : ElseSame n s (setCore s n x) :=
  ⟨fun k hk => by rw [getCore_setCore, if_neg hk], fun _ => rfl, rfl, rfl, rfl, rfl, rfl, rfl, rfl, rfl, rfl, rfl, rfl, rfl, rfl, rfl, rfl, rfl, rfl, rfl, rfl, rfl, rfl, rfl, rfl⟩

theorem began_quiet {n : Nat} {A : Core} {s0 s : State} (h : HeadWord) (hq : Quiet n A s0 s) : Quiet n (movedPc A h.len) s0 (began s n h) := by
  have ht : Quiet n A s0 (if (getCore s n).atX2 then s else useToken s n (some (extent h))) :=
    quiet_ite (fun _ => hq) (fun _ => useToken_quiet hq)
  have hpc : (getCore s n).pc = A.pc := by rw [← hq.1]; rfl
  unfold began
  rw [hpc]
  generalize (if (getCore s n).atX2 then s else useToken s n (some (extent h))) = t at ht
  refine ⟨?_, ht.2.trans (elseSame_setCore _ _ _)⟩
  unfold modCore
  rw [getCore_setCore, if_pos rfl, ← ht.1]
  rfl

/-- The core's own effect after that. -/
theorem modCore_does {n : Nat} {A : Core} {s0 s : State} {g : Core → Core} (hg : ∀ c, archOf (g c) = archOf (g (archOf c))) (hq : Quiet n A s0 s) :
    Quiet n (archOf (g A)) s0 (modCore s n g) := by
  refine ⟨?_, hq.2.trans ?_⟩
  · unfold modCore
    rw [getCore_setCore, if_pos rfl, hg, hq.1]
  · exact elseSame_setCore _ _ _

/-- The checks at X2 of a word of one syllable. -/
theorem x2At_alone {i : Instr} {y : Syl} {s : State} {f : Syl → Core → Staged} (hs : sylOf i = some (y, f)) (hst : ∀ c, (f y c).stop = y.s)
    (hw : ∀ c w, f y { c with word := w } = f y c) (h : issuesAlone i y s = true) :
    x2At i y s = if (f y (getCore s y.n.toNat)).unit == 2 then mCheck (fetchAt i y s).2 y.n.toNat (f y (getCore s y.n.toNat)).act
      else (.ok {}, (fetchAt i y s).2) := by
  obtain ⟨ho, hy, he, -⟩ := issuesAlone_cases h
  have hc : f y (getCore (reached i y s) y.n.toNat) = f y (getCore s y.n.toNat) := by rw [reached_core, hw]
  have hwd := wordAt_alone hs hst ho hy he
  rw [hc] at hwd
  unfold x2At wordM
  rw [hwd]
  simp only [List.find?]
  by_cases hu : ((f y (getCore s y.n.toNat)).unit == 2) = true
  · simp only [hu, if_true]
  · rw [Bool.not_eq_true] at hu
    simp only [hu, Bool.false_eq_true, if_false]

/-- The word of one syllable that issues: the state before its effect, and its effect. -/
theorem issued_word {i : Instr} {y : Syl} {s : State} {f : Syl → Core → Staged} (hs : sylOf i = some (y, f)) (hst : ∀ c, (f y c).stop = y.s)
    (hw : ∀ c w, f y { c with word := w } = f y c) (h : issuesAlone i y s = true)
    (hm : ∀ u A m, Quiet y.n.toNat A s u → (mCheck u y.n.toNat (f y (getCore s y.n.toNat)).act).1 = .ok m →
      Quiet y.n.toNat A s (mCheck u y.n.toNat (f y (getCore s y.n.toNat)).act).2) :
    ∃ c0 s2, archOf c0 = archOf (getCore s y.n.toNat) ∧
      Quiet y.n.toNat (movedPc (archOf (getCore s y.n.toNat)) (f y (getCore s y.n.toNat)).len) s s2 ∧
      issued i y s = doAct y.n.toNat c0 (f y (getCore s y.n.toNat)).len (x2Res i y s) none s2 (f y (getCore s y.n.toNat)).act := by
  obtain ⟨ho, hy, he, hi⟩ := issuesAlone_cases h
  have hp : passesChecks i y s = true := (Bool.and_eq_true _ _ ▸ hi : _ ∧ _).1
  have hc : f y (getCore (reached i y s) y.n.toNat) = f y (getCore s y.n.toNat) := by rw [reached_core, hw]
  have hwd := wordAt_alone hs hst ho hy he
  rw [hc] at hwd
  have hx : Quiet y.n.toNat (archOf (getCore s y.n.toNat)) s (x2At i y s).2 := by
    have h10 := (passes_cases hp).2.2.2.2.2.2.1
    rw [x2At_alone hs hst hw h] at h10 ⊢
    by_cases hu : ((f y (getCore s y.n.toNat)).unit == 2) = true
    · rw [if_pos hu] at h10 ⊢
      exact hm _ _ _ (fetchAt_quiet hp) h10
    · rw [if_neg hu]
      exact fetchAt_quiet hp
  have q := began_quiet (wordAt i y s) hx
  rw [hwd] at q
  refine ⟨getCore (x2At i y s).2 y.n.toNat, _, hx.1, q, ?_⟩
  unfold issued
  rw [commitWord_began, hwd]
  rfl

/-- What a syllable that acts on its own core alone does. -/
theorem does_of_core {i : Instr} {y : Syl} {s : State} {f : Syl → Core → Staged} {g : Core → Core} (hs : sylOf i = some (y, f))
    (he : exec i s = .next (stage i y s)) (hst : ∀ c, (f y c).stop = y.s) (hl : (f y (getCore s y.n.toNat)).len = sylLen y)
    (hw : ∀ c w, f y { c with word := w } = f y c)
    (hm : ∀ u A m, Quiet y.n.toNat A s u → (mCheck u y.n.toNat (f y (getCore s y.n.toNat)).act).1 = .ok m →
      Quiet y.n.toNat A s (mCheck u y.n.toNat (f y (getCore s y.n.toNat)).act).2)
    (ha : ∀ c0 s2, archOf c0 = archOf (getCore s y.n.toNat) → ∃ s3, (∀ A, Quiet y.n.toNat A s s2 → Quiet y.n.toNat A s s3) ∧
      doAct y.n.toNat c0 (sylLen y) (x2Res i y s) none s2 (f y (getCore s y.n.toNat)).act = modCore s3 y.n.toNat g)
    (hg : ∀ c, archOf (g c) = archOf (g (archOf c))) : Does i y s g := by
  intro h
  obtain ⟨c0, s2, h0, hq, e⟩ := issued_word hs hst hw h hm
  rw [hl] at hq e
  obtain ⟨s3, h3, e3⟩ := ha c0 s2 h0
  rw [e3] at e
  refine ⟨_, by rw [he, stage_issues (issuesAlone_cases h).2.2.2, e], ?_⟩
  have := modCore_does hg (h3 _ hq)
  refine ⟨this.1.trans ?_, this.2⟩
  exact (hg (pastWord y (getCore s y.n.toNat))).symm

theorem writeGb_arch (r : BitVec 6) (b : Nat) (x : Reg) (c : Core) : archOf (writeGb c r b x) = archOf (writeGb (archOf c) r b x) := by
  unfold writeGb
  split
  · rfl
  · dsimp only
    split
    · rfl
    · split <;> rfl

theorem writeG_arch (r : BitVec 6) (x : Reg) (c : Core) : archOf (writeG c r x) = archOf (writeG (archOf c) r x) := writeGb_arch _ _ _ _

theorem writeDst_arch (d : Dst) (v : Nat) (p : Bool) (c : Core) : archOf (writeDst c d v p) = archOf (writeDst (archOf c) d v p) := by
  cases d
  · rfl
  · exact writeGb_arch _ _ _ _
  · rfl
  · rfl

end Sys2Proof.Machine
end

