-- ==== Sys2Proof/Tests/Slice0.lean ====
section
/-! SUPPORT. Tests: each is one command on a small state. Expected values come from the rules of spec/ that the tests name. A test
with a premise of a statement in it also shows that the premise can be met. -/
namespace Sys2Proof.Machine
set_option Elab.async false

/-- The command goes on to a state of which `P` is true. -/
def goes (i : Instr) (s : State) (P : State → Bool) : Bool := match exec i s with | .next t => P t | _ => false
/-- The registers of the first cores and all of memory are as they were. -/
def same (s t : State) : Bool :=
  t.mem == s.mem && t.memPoison == s.memPoison && (List.range 3).all (fun k => regsOf (getCore t k) == regsOf (getCore s k))
/-- As `goes`, and the registers and the memory stay. -/
def keeps (i : Instr) (s : State) (P : State → Bool) : Bool := goes i s (fun t => same s t && P t)
/-- The command changes nothing. -/
def idles (i : Instr) (s : State) : Bool := goes i s (fun t => t == s)

/-! ### A core that runs -/

def line1 : LineData := { bits := 0x0706050403028180, poison := 0 }
/-- Logical core 0 at H, its code in L1I and one data line in L1D. -/
def core1 : Core := {
  run := .run
  pc := 0x4000
  l1i := [(0x100, {})]
  l1d := [0x200]
  g := [(1, { v := 0x8000 }), (2, { v := 5 }), (3, { v := 0xFFFFFFFFFFFFFFFE }), (5, { v := 0x9000 })]
  v := [(1, { v := 0x3FF00000000000004000000000000000 }), (2, { v := 0x3FF80000000000003FF0000000000000 })] }
/-- That core at physical core 0, in a device that serves; its course holds the data line in M. -/
def dev1 : State := {
  State.reset with
  dramTop := 0x400000000
  cores := [(0, core1)]
  phys := [(0, { st := .running, logical := some 0 })]
  courses := [(0, { l2 := [(16 * 0x200, { st := .m, line := 0x200, data := line1 })] })]
  votes := ((List.range 32).map (288 + ·) ++ (List.range 6).map (368 + ·)).map (fun d => (d, 0x4000000000000001))
  ks := { State.reset.ks with st := .serving, inReset := false, bootst := 1 }
  plumb := { State.reset.plumb with counting := true, now := 1000 } }
/-- The same with another core 0. -/
def devWith (f : Core → Core) : State := setCore dev1 0 (f core1)
def y0 : Syl := { n := 0, d := 4, a := 2, b := 3 }
/-- The value of a general register after a syllable of core 0. -/
def g4 (i : Instr) (s : State) : Option Word64 := (next? (exec i s)).map (fun t => (readG (getCore t 0) 4).v)
def v4 (i : Instr) (s : State) : Option Word128 := (next? (exec i s)).map (fun t => (readV (getCore t 0) 4).v)

/-! ### Words (R90 to R99) -/

theorem test_word_forms : goes (.add { y0 with s := false }) dev1 (fun t => (getCore t 0).word.length == 1 && (getCore t 0).pc == 0x4000) = true := by
  decide +kernel
def y1 : Syl := { y0 with a1 := true }
def dev2 : State := devWith (fun c => { c with word := [.ldi { y0 with d := 6, a := 0, b := 9, q := 8, s := false }] })
theorem test_word_commits : (issues (.add y1) y1 dev2 && goes (.add y1) dev2 (fun t =>
      (readG (getCore t 0) 4).v == 3 && (readG (getCore t 0) 6).v == 9 && (getCore t 0).pc == 0x4008)) = true := by decide +kernel
theorem test_word_breach : ((trapFound (.add y0) y0 dev2).map (·.code) == some 0x01 && (headWord (getCore dev2 0)).complete == false &&
    goes (.add y0) dev2 (fun t => (getCore t 0).trap == trapFound (.add y0) y0 dev2 && (readG (getCore t 0) 6).v == 0)) = true := by decide +kernel
/-- CINV at U is privileged (R106, R97). -/
def devU : State := devWith (fun c => { c with level := .u, lease := 100, sg := [(0, 0x0000FFFFFFFFFFFF8005000000000000)], itlb := [{ guest := true, tag := 0, asn := 0, lvl := 1, vpn := 4, pte := 0x401F }] })
def yM : Syl := { n := 0, a := 1, q := 1 }
theorem test_privilege : ((trapFound (.cinv yM) yM devU).map (·.code) == some 0x03 && lvlNum (getCore devU 0).level < lvlNum (sylCinv yM (getCore devU 0)).minLevel &&
    goes (.cinv yM) devU (fun t => ((getCore t 0).trap.map (·.code)) == some 0x03)) = true := by decide +kernel

/-! ### A0 and A1 (R112 to R114): G2 = 5, G3 = -2 -/

def yB (a b : BitVec 6) (q : BitVec 4 := 0) : Syl := { n := 0, d := 4, a := a, b := b, q := q }
def yA1 (a b : BitVec 6) : Syl := { yB a b with a1 := true }
theorem test_integer_values : [
    (Instr.add (yB 2 3), (3 : Word64)), (.sub (yB 2 3), 7), (.and (yB 2 3), 4), (.or (yB 2 3), 0xFFFFFFFFFFFFFFFF), (.xor (yB 2 3), 0xFFFFFFFFFFFFFFFB),
    (.andn (yB 2 3), 1), (.shl (yB 2 3), 0x4000000000000000), (.shr (yB 3 2), 0x07FFFFFFFFFFFFFF), (.sar (yB 3 2), 0xFFFFFFFFFFFFFFFF),
    (.ror (yB 3 2), 0xF7FFFFFFFFFFFFFF), (.cmpeq (yB 2 2), 1), (.cmplt (yB 2 3), 0), (.cmpltu (yB 2 3), 1), (.min (yB 2 3), 0xFFFFFFFFFFFFFFFE),
    (.max (yB 2 3), 5), (.minu (yB 2 3), 5), (.maxu (yB 2 3), 0xFFFFFFFFFFFFFFFE), (.clz (yB 2 0), 61), (.ctz (yB 3 0), 1), (.popc (yB 3 0), 63),
    (.ldi (yB 0 0x3F 8), 0xFFFFFFFFFFFFFFFF), (.ldhi (yB 2 1 8), 0x40000005), (.mul (yA1 2 3), 0xFFFFFFFFFFFFFFF6), (.mulh (yA1 2 3), 0xFFFFFFFFFFFFFFFF),
    (.mulhu (yA1 2 3), 4)].all (fun e => g4 e.1 dev1 == some e.2) = true := by decide +kernel
/-- Width 32 with sign or zero extension (R101, R113). -/
theorem test_widths : [(Instr.add (yB 2 3 1), (3 : Word64)), (.sub (yB 3 2 1), 0xFFFFFFFFFFFFFFF9), (.sub (yB 3 2 2), 0xFFFFFFF9), (.clz (yB 2 0 1), 29),
    (.shl (yB 2 3 2), 0x40000000)].all (fun e => g4 e.1 dev1 == some e.2) = true := by decide +kernel
/-- R114: a result of division is pending; division by zero gives all ones, or the dividend. -/
theorem test_division : [(Instr.div (yA1 3 2), (0 : Word64)), (.divu (yA1 3 2), 0x3333333333333332), (.rem (yA1 3 2), 0xFFFFFFFFFFFFFFFE), (.remu (yA1 3 2), 4),
    (.div (yA1 2 0), 0xFFFFFFFFFFFFFFFF), (.rem (yA1 2 0), 5)].all (fun e => goes e.1 dev1 (fun t => (getCore t 0).results.map (fun r => (r.dst, r.g)) ==
      [(.g 4 0, e.2)] && (readG (getCore t 0) 4).v == 0)) = true := by decide +kernel
/-- G0 reads as zero and discards writes (R81). -/
theorem test_g0 : goes (.add { y0 with d := 0 }) dev1 (fun t => (readG (getCore t 0) 0).v == 0 && (getCore t 0).pc == 0x4004) = true := by decide +kernel

/-! ### F (R140, R141): V1 = (1.0, 2.0) in its high and low elements of 64 bits, V2 = (1.5, 1.0) -/

def yV (q : BitVec 4 := 0) : Syl := { n := 0, d := 4, a := 1, b := 2, q := q }
theorem test_vector_values : [
    (Instr.vadd (yV 4), (0x7FE80000000000007FF0000000000000 : Word128)), (.vsub (yV 0), 0xFFF80000000000000010000000000000),
    (.vand yV, 0x3FF00000000000000000000000000000), (.vor yV, 0x3FF80000000000007FF0000000000000), (.vxor yV, 0x00080000000000007FF0000000000000),
    (.vshl yV, 0x3FF00000000000004000000000000000), (.vmin yV, 0x3FF00000000000003FF0000000000000), (.vmax yV, 0x3FF80000000000004000000000000000),
    (.vcmpeq yV, 0), (.vcmpgt yV, 0x0000000000000000FFFFFFFFFFFFFFFF), (.vmov { yV with b := 0 }, 0x3FF00000000000004000000000000000),
    (.vinsg { yV with a := 3, b := 1 }, 0xFFFFFFFFFFFFFFFE0000000000000000), (.vsplat { yV 12 with a := 2, b := 0 }, 0x05050505050505050505050505050505),
    (.vshuf { yV with b := 1 }, 0x3F000000000000000000000000000000),
    (.fadd yV, 0x40040000000000004008000000000000), (.fsub yV, 0xBFE00000000000003FF0000000000000), (.fmul yV, 0x3FF80000000000004000000000000000),
    (.fma yV, 0x3FF80000000000004000000000000000), (.fmin yV, 0x3FF00000000000003FF0000000000000), (.fmax yV, 0x3FF80000000000004000000000000000),
    (.fcmpeq yV, 0), (.fcmplt yV, 0xFFFFFFFFFFFFFFFF0000000000000000), (.fcvtfi { yV with b := 0 }, 0x00000000000000010000000000000002),
    (.fcvtif { yV with a := 3, b := 0 }, 0)].all (fun e => v4 e.1 dev1 == some e.2) = true := by decide +kernel

/-! ### M: G1 addresses the line in L1D, G5 a line in no cache; segment 1 -/

def yL (a : BitVec 6 := 1) : Syl := { n := 0, d := 4, a := a, q := 3 }
theorem test_load_values : [(Instr.ld8s yL, (0xFFFFFFFFFFFFFF80 : Word64)), (.ld8u yL, 0x80), (.ld16s yL, 0xFFFFFFFFFFFF8180), (.ld16u yL, 0x8180),
    (.ld32s yL, 0x03028180), (.ld32u yL, 0x03028180), (.ld64 yL, 0x0706050403028180)].all (fun e => g4 e.1 dev1 == some e.2) = true := by decide +kernel
theorem test_ldv_value : v4 (.ldv yL) dev1 = some 0x0706050403028180 := by decide +kernel
/-- A load whose line no cache holds asks the line's home for it (R157, R253). -/
theorem test_load_waits : ((x2Res (.ld64 (yL 5)) (yL 5) dev1).parts.all (partAtHand dev1 0) == false && issuesAlone (.ld64 (yL 5)) (yL 5) dev1 &&
    goes (.ld64 (yL 5)) dev1 (fun t => (getCore t 0).accs.map (·.idx) == [1] && t.net.map (fun m => (m.kind, m.line)) == [(.rdS, 0x240)])) = true := by decide +kernel
/-- R118, R155: G3 = -2, lowest byte first. -/
def yS : Syl := { n := 0, d := 3, a := 1, q := 3 }
theorem test_store_bytes : [(Instr.st8 yS, 1), (.st16 yS, 2), (.st32 yS, 4), (.st64 yS, 8), (.stv yS, 16)].all (fun e =>
    goes e.1 dev1 (fun t => (getCore t 0).sb.map (fun x => (x.pa, x.bytes.length, (x.bytes.head?).map (·.b))) ==
      [(0x8000, e.2, some (if e.2 = 16 then 0 else 0xFE))])) = true := by decide +kernel
def yAt : Syl := { n := 0, d := 4, a := 1, b := 2, q := 2 }
/-- R123, R126: atomics, LR and SC issue with their kind, width and operand. -/
theorem test_atomics_send : [(Instr.aswap yAt, AccKind.atomic .swap, 8), (.aadd yAt, .atomic .add, 8), (.amin yAt, .atomic .min, 8), (.amax yAt, .atomic .max, 8),
    (.aminu yAt, .atomic .minu, 8), (.amaxu yAt, .atomic .maxu, 8), (.aswapw yAt, .atomic .swap, 4), (.aaddw yAt, .atomic .add, 4),
    (.aminw yAt, .atomic .min, 4), (.amaxw yAt, .atomic .max, 4), (.aminuw yAt, .atomic .minu, 4), (.amaxuw yAt, .atomic .maxu, 4),
    (.lr { yAt with b := 0 }, .lr, 8), (.sc yAt, .sc, 8)].all (fun e =>
      goes e.1 dev1 (fun t => (getCore t 0).accs.map (fun a => (a.kind, a.width, a.dst)) == [(e.2.1, e.2.2, .g 4 0)])) = true := by decide +kernel
/-- A misaligned atomic is a fault of its word (R116, R123). -/
theorem test_atomic_misaligned : goes (.aadd { yAt with a := 2 }) dev1 (fun t => (getCore t 0).trap.isSome && (getCore t 0).accs == []) = true := by decide +kernel
theorem test_fence : goes (.fence { n := 0, d := 15 }) dev1 (fun t => (getCore t 0).pc == 0x4004 && same { dev1 with cores := t.cores } t) = true := by decide +kernel
def yBk : Syl := { n := 0, a := 1, q := 2 }
/-- R130: G4 is zero, and MOVB ends at once; else it begins with the PC at its own word. -/
theorem test_block : (goes (.movb yBk) dev1 (fun t => (getCore t 0).blk == none && (getCore t 0).pc == 0x4004) &&
    [(Instr.movb yBk, BlkOp.movb), (.setb { yBk with q := 0 }, .setb), (.cmpb yBk, .cmpb), (.scanb { yBk with a := 0 }, .scanb)].all (fun e =>
      goes e.1 (devWith (fun c => writeG c 4 { v := 100 })) (fun t => (getCore t 0).blk.map (·.op) == some e.2 && (getCore t 0).pc == 0x4000))) = true := by decide +kernel
def yP (a : BitVec 6) : Syl := { n := 0, a := a, q := 3 }
theorem test_maintenance : ([(Instr.cflush (yP 1), MsgKind.flushReq), (.cclean (yP 1), .cleanReq), (.cinv (yP 1), .invReq)].all (fun e =>
      goes e.1 dev1 (fun t => (getCore t 0).busy == .maint 0x200 && t.net.map (fun m => (m.kind, m.line)) == [(e.2, 0x200)])) &&
    goes (.icinv (yP 1)) dev1 (fun t => match (getCore t 0).busy with | .icinv w => w == 1 | _ => false)) = true := by decide +kernel
theorem test_tlb_maintenance : [Instr.tlbi (yP 1), .tlbid { n := 0, a := 2 }, .tlbia { n := 0 }].all (fun i =>
    goes i dev1 (fun t => t.invNet.map (·.1) == [0] && (match (getCore t 0).busy with | .tlb w => w == 1 | _ => false))) = true := by decide +kernel
theorem test_pref_and_locks : [Instr.pref (yP 1), .tlblk (yP 1), .tlbulk (yP 1)].all (fun i =>
    goes i dev1 (fun t => (getCore t 0).pc == 0x4004 && regsOf (getCore t 0) == regsOf { core1 with pc := 0x4004 })) = true := by decide +kernel
/-- R139, R223: an LSEG of a descriptor that is there and legal. -/
def devSeg : State := { dev1 with
                        courses := [(0, { l2 := [(16 * 0x200, { st := .m, line := 0x200, data := { bits := 0x0000FFFFFFFFFFFF8003000000001000 } })] })] }
theorem test_lseg : goes (.lseg { n := 0, d := 6, a := 1, q := 3 }) devSeg (fun t => readSg (getCore t 0) 6 == 0x0000FFFFFFFFFFFF8003000000001000) = true := by decide +kernel

/-! ### B (R142 to R148) -/

def yJ (q : BitVec 4) (a b : BitVec 6) : Syl := { n := 0, d := 2, a := a, b := b, q := q }
/-- R142: taken, the PC is 4 × D on; not taken, the next word. G2 = 5, G3 = -2. -/
theorem test_branches : [(Instr.br (yJ 0 2 2), (0x4008 : Word64)), (.br (yJ 0 2 3), 0x4004), (.br (yJ 1 2 3), 0x4008), (.br (yJ 2 3 2), 0x4008), (.br (yJ 3 3 2), 0x4004),
    (.br (yJ 4 2 3), 0x4008), (.br (yJ 5 2 3), 0x4004), (.br (yJ 6 0 0), 0x4008), (.jr { n := 0, a := 1 }, 0x8000), (.call { n := 0, d := 0x3F, a := 9 }, 0x3FFC),
    (.callr { n := 0, a := 9, b := 1 }, 0x8000), (.ret { n := 0, a := 1 }, 0x8000)].all (fun e => goes e.1 dev1 (fun t => (getCore t 0).pc == e.2)) = true := by
  decide +kernel
theorem test_links : [Instr.call { n := 0, d := 0x3F, a := 9 }, .callr { n := 0, a := 9, b := 1 }].all (fun i =>
    goes i dev1 (fun t => (readG (getCore t 0) 9).v == 0x4004)) = true := by decide +kernel
/-- SYSCALL returns after itself; BREAK to its own word. -/
theorem test_traps : [(Instr.syscall { n := 0, b := 7 }, (0x30 : BitVec 8), (0x4004 : Word64)), (.hypercall { n := 0, b := 7 }, 0x31, 0x4004),
    (.brk { n := 0, b := 7 }, 0x38, 0x4000)].all (fun e => goes e.1 dev1 (fun t =>
      (getCore t 0).trap == some { code := e.2.1, addr := 7, pc := e.2.2 })) = true := by decide +kernel
theorem test_break_premise : fetchesAlone (.brk { n := 0, b := 7 }) { n := 0, b := 7 } dev1 = true := by decide +kernel
def devH : State := devWith (fun c => { c with hbusy := true, trapH := { cause := 0, trapPc := 0x4100, trapSt := 0x7, tAddr := 0 } })
/-- R205: TRAPST.LEVEL = H, IE = 1. -/
theorem test_rfe : (passesChecks (.rfe { n := 0 }) { n := 0 } devH && lvlOf (fld (bankOf (getCore devH 0) .h).trapSt 0 2) == some .h &&
    goes (.rfe { n := 0 }) devH (fun t => (getCore t 0).pc == 0x4100 && (getCore t 0).ie && !(getCore t 0).hbusy)) = true := by decide +kernel

/-- A syllable that names system register `k`. -/
def ySys (k : Nat) (d : BitVec 6 := 4) : Syl := { n := 0, d := d, a := BitVec.ofNat 6 (k / 64), b := BitVec.ofNat 6 (k % 64) }
/-- R143: every register number of MFS issues; what some of them read at reset. -/
theorem test_mfs : (([0, 1, 2, 3, 4, 9, 10, 11, 12, 0x11, 0x13, 0x15, 0x17, 0x19, 0x1B, 0x1C, 0x20, 0x30, 0x40, 0x90, 0x91, 0xA0, 0xB0, 0xBF] : List Nat).all (fun k =>
      issuesAlone (.mfs (ySys k)) (ySys k) dev1) &&
    [(0x1C, (0x81030003031F073E : Word64)), (0x00, 0x3), (0x20, 0), (0x91, 0)].all (fun e => g4 (.mfs (ySys e.1)) dev1 == some e.2)) = true := by decide +kernel
/-- MTS of G3 = -2: reserved bits keep their value. -/
theorem test_mts : goes (.mts (ySys 0x20 3)) dev1 (fun t => (getCore t 0).ptbase == 0x8FFFFFFFFFFFF000) &&
    goes (.mts (ySys 0x1B 3)) dev1 (fun t => (getCore t 0).tdesc3 == 0x0000FFFFFFFFE000) && goes (.mts (ySys 0x17 3)) dev1 (fun t =>
      (getCore t 0).tentry3 == 0xFFFFFFFFFFFFFFFC) && goes (.mts (ySys 0x00 3)) dev1 (fun t => (getCore t 0).ie && (getCore t 0).level == .h) = true := by decide +kernel
theorem test_mts_issues : ([0, 1, 2, 3, 4, 9, 10, 11, 12, 0x13, 0x17, 0x1B, 0x1C, 0x20, 0xB0, 0xBF, 0x119] : List Nat).all (fun k =>
      issuesAlone (.mts (ySys k 3)) (ySys k 3) dev1) = true := by decide +kernel
theorem test_mts_rows : (goes (.mtsLockheld (ySys 0x30 2)) dev1 (fun t => (getCore t 0).held == 5) &&
    [0x11, 0x15, 0x19].all (fun k => goes (.mtsTmode (ySys k 3)) (devWith (fun c => { c with fready := true })) (fun t => !(getCore t 0).fready && (getCore t 0).ffill)) &&
    goes (.mtsPctl (ySys 0x60 3)) dev1 (fun t => (getCore t 0).pctl == 0x0E) && goes (.mtsEvmask (ySys 0x40 2)) dev1 (fun t => (getHub t 0).evmask == 5) &&
    goes (.sThreshold (ySys 0x50 2)) dev1 (fun t => (getHub t 0).thS == 5)) = true := by decide +kernel
/-- THRESH.OP = 1 with nothing to claim, and with source 64 accepted; OP = 2 ends it (R350 to R352). -/
def devOp (v : Word64) (l : List (BitVec 13)) : State :=
  { devWith (fun c => writeG c 6 { v := v }) with
    hubs := [(0, { getHub dev1 0 with unclS := l })]
    srcs := [(64, { getSrc dev1 64 with w := 5, inserv := some (0, .s, 5) })] }
theorem test_claims : (goes (.sClaim (ySys 0x50 6)) (devOp 0x4000000000000000 []) (fun t => (getHub t 0).idS == 0x1FFF) &&
    goes (.sClaim (ySys 0x50 6)) (devOp 0x4000000000000000 [64]) (fun t => (getHub t 0).idS == 64 && (getHub t 0).unclS == []) && srcPrio (getSrc (devOp 0 [64]) 64) != 0 &&
    goes (.sEoi (ySys 0x50 6)) (devOp 0x8000000000400000 [64]) (fun t => (getSrc t 64).inserv == none)) = true := by decide +kernel
/-- MTS to TDID with DOMAIN = 0 is valid; 5 names a domain that is not (R62, R63). -/
theorem test_rebinding : (domValid dev1 0 && goes (.mtsTdid (ySys 0x90 0)) dev1 (fun t => (getCore t 0).epoch == 1 && (getCore t 0).busy == .bind) &&
    !domValid dev1 5 && goes (.mtsTdid (ySys 0x90 2)) dev1 (fun t => (getCore t 0).epoch == 0)) = true := by decide +kernel
theorem test_rein : issuesAlone (.mtsRein (ySys 0xA0 2)) (ySys 0xA0 2) dev1 = true := by decide +kernel
/-- R146 to R148. -/
theorem test_waiting : (goes (.wfe { n := 0 }) dev1 (fun t => (getCore t 0).run == .wfe && (getCore t 0).pc == 0x4004) &&
    goes (.wfe { n := 0 }) (devWith (fun c => { c with evflag := true })) (fun t => (getCore t 0).run == .run && !(getCore t 0).evflag) &&
    goes (.waitt { n := 0, d := 4, a := 2 }) dev1 (fun t => (getCore t 0).run == .run && (readG (getCore t 0) 4).v == 0) &&
    goes (.waitt { n := 0, d := 4, a := 3 }) dev1 (fun t => (getCore t 0).run == .waitt 4 0xFFFFFFFFFFFFFFFE) &&
    goes (.waitt { n := 0, d := 4, a := 3 }) (devWith (fun c => { c with evflag := true })) (fun t => (readG (getCore t 0) 4).v == 1) &&
    goes (.nap { n := 0 }) dev1 (fun t => (getCore t 0).run == .nap && (getCore t 0).l1i == [])) = true := by decide +kernel
theorem test_events_sent : (goes (.sev { n := 0, a := 2, b := 1 }) dev1 (fun t => t.sevs.map (fun x => (x.1, x.2.1, x.2.2.1)) == [(0, true, 5)]) && (g4 (.rdtime { n := 0, d := 4 }) dev1 == some 1000) &&
    goes (.pflush { n := 0 }) dev1 (fun t => (getCore t 0).pred == {}) && goes (.pbar { n := 0, b := 0 }) dev1 (fun t => (getCore t 0).pctl == 0x10)) = true := by decide +kernel
/-- The premise of the statements about syllables: each issues alone. -/
theorem test_syllables_issue : [Instr.nop { n := 0 }, .add (yB 2 3), .sub (yB 2 3), .and (yB 2 3), .or (yB 2 3), .xor (yB 2 3), .andn (yB 2 3), .shl (yB 2 3), .shr (yB 2 3),
    .sar (yB 2 3), .ror (yB 2 3), .cmpeq (yB 2 3), .cmplt (yB 2 3), .cmpltu (yB 2 3), .min (yB 2 3), .max (yB 2 3), .minu (yB 2 3), .maxu (yB 2 3), .clz (yB 2 0),
    .ctz (yB 2 0), .popc (yB 2 0), .ldi (yB 0 1 8), .ldhi (yB 2 1 8), .mul (yA1 2 3), .mulh (yA1 2 3), .mulhu (yA1 2 3), .div (yA1 2 3), .divu (yA1 2 3), .rem (yA1 2 3),
    .remu (yA1 2 3), .vadd yV, .vsub yV, .vand yV, .vor yV, .vxor yV, .vshl yV, .vshr yV, .vmin yV, .vmax yV, .vcmpeq yV, .vcmpgt yV, .vmov { yV with b := 0 },
    .vinsg { yV with b := 1 }, .vextg { yV with b := 1 }, .vsplat { yV with b := 0 }, .vshuf { yV with b := 3 }, .fadd yV, .fsub yV, .fmul yV, .fdiv yV,
    .fsqrt { yV with b := 0 }, .fma yV, .fms yV, .fmin yV, .fmax yV, .fcmpeq yV, .fcmplt yV, .fcvtif { yV with b := 0 }, .fcvtfi { yV with b := 0 }, .ld8s yL, .ld8u yL,
    .ld16s yL, .ld16u yL, .ld32s yL, .ld32u yL, .ld64 yL, .ldv yL, .st8 yS, .st16 yS, .st32 yS, .st64 yS, .stv yS, .aswap yAt, .aadd yAt, .amin yAt, .amax yAt, .aminu yAt,
    .amaxu yAt, .aswapw yAt, .aaddw yAt, .aminw yAt, .amaxw yAt, .aminuw yAt, .amaxuw yAt, .lr { yAt with b := 0 }, .sc yAt, .fence { n := 0, d := 15 }, .movb yBk,
    .setb { yBk with q := 0 }, .cmpb yBk, .scanb { yBk with a := 0 }, .cflush (yP 1), .cclean (yP 1), .cinv (yP 1), .icinv (yP 1), .pref (yP 1), .tlblk (yP 1),
    .tlbulk (yP 1), .tlbi (yP 1), .tlbid { n := 0, a := 2 }, .tlbia { n := 0 }, .br (yJ 0 2 2), .jr { n := 0, a := 1 }, .call { n := 0, a := 9 },
    .callr { n := 0, a := 9, b := 1 }, .ret { n := 0, a := 1 }, .syscall { n := 0 }, .hypercall { n := 0 }, .mtsTdid (ySys 0x90 0), .mtsRein (ySys 0xA0 2),
    .mtsLockheld (ySys 0x30 2), .mtsTmode (ySys 0x11 2), .mtsTmode (ySys 0x15 2), .mtsTmode (ySys 0x19 2), .mtsPctl (ySys 0x60 2), .mtsEvmask (ySys 0x40 2),
    .sThreshold (ySys 0x50 2), .sClaim (ySys 0x50 2), .sEoi (ySys 0x50 2), .wfe { n := 0 }, .sev { n := 0 }, .waitt { n := 0 }, .nap { n := 0 }, .rdtime { n := 0 },
    .pflush { n := 0 }, .pbar { n := 0 }].all (fun i => match sylOf i with | some (y, _) => issuesAlone i y dev1 | none => false) = true := by decide +kernel
theorem test_lseg_issues : issuesAlone (.lseg { n := 0, d := 6, a := 1, q := 3 }) { n := 0, d := 6, a := 1, q := 3 } devSeg = true := by decide +kernel

/-! ### What reaches a core (R126 to R207, R236, R242) -/

def onCore (f : Core → Core) (i : Instr) (P : Core → Bool) : Bool := goes i (devWith f) (fun t => t.mem == dev1.mem && P (getCore t 0))
def acc1 : OutAcc := { idx := 1, kind := .load, dst := .g 4 0, width := 8, parts := [{ pa := 0x9000, len := 8, data := some (pbytes 8 77 false) }] }
/-- R152: the data of load 1 reaches G4; load 2 is not outstanding. A result of the divider reaches G4 once (R110). -/
theorem test_load_data : (accDone acc1 && goes (.loadDataReturn 0 1) (devWith (fun c => { c with accs := [acc1] })) (fun t => (readG (getCore t 0) 4).v == 77 &&
      (getCore t 0).accs == []) && idles (.loadDataReturn 0 2) dev1) = true := by decide +kernel
theorem test_result_write : (goes (.resultWrite 0 1) (devWith (fun c => { c with results := [{ idx := 1, dst := .g 4 0, g := 9 }] })) (fun t =>
      (readG (getCore t 0) 4).v == 9 && (getCore t 0).results == []) && idles (.resultWrite 0 2) dev1) = true := by decide +kernel
def sb1 : SbEntry := { pa := 0x8000, bytes := pbytes 8 0x1122334455667788 false }
def devSb (e : SbEntry) : State := devWith (fun c => { c with sb := [e] })
/-- R155, R156: the drain of a store to a line in M, to a control register, to a root port and to an uncached line. -/
theorem test_store_drain : (idles (.storeDrain 0) dev1 &&
    (region (devSb sb1) 0x8000 == .dram && !storeBlocked core1 sb1 false && (l2Find (getCourse dev1 0) 0x200).isSome &&
      goes (.storeDrain 0) (devSb sb1) (fun t => (getCore t 0).sb == [] && ((l2Find (getCourse t 0) 0x200).map (fun x => fld x.2.data.bits 0 64)) == some 0x1122334455667788)) &&
    [({ sb1 with pa := 0xFFF0000000000, mt := .device } : SbEntry)].all (fun e => region dev1 e.pa.toNat == .ctl && !storeBlocked core1 e true &&
      goes (.storeDrain 0) (devSb e) (fun t => t.ctlNet.map (fun m => (m.width, m.val)) == [(8, 0x1122334455667788)] && (getCore t 0).sb == [{ e with sent := true }])) &&
    [({ sb1 with pa := 0xFF00000000000, mt := .device } : SbEntry)].all (fun e => region dev1 e.pa.toNat == .port 0 && !storeBlocked core1 e true &&
      goes (.storeDrain 0) (devSb e) (fun t => t.outNet.map (fun m => (m.1, m.2.kind, m.2.pa)) == [(0, .store, e.pa)] && (getCore t 0).sb == [{ e with sent := true }])) &&
    [({ sb1 with mt := .uncached } : SbEntry)].all (fun e => !storeBlocked core1 e false &&
      goes (.storeDrain 0) (devSb e) (fun t => t.net.map (fun m => (m.kind, m.line)) == [(.hwr, 0x200)]))) = true := by decide +kernel
/-- R159: the code line is in the course's L2. -/
theorem test_fetch_fill : goes (.l1iMissFill 0) (devWith (fun c => { c with fetching := some (0x200, .cached) })) (fun t =>
      (getCore t 0).fetching == none && (getCore t 0).l1i.any (fun e => e.1 == 0x200)) = true := by decide +kernel
def walk1 : Walk := { why := .data, kind := .read, lin := 0x8000, guest := true, tag := 0, asn := 0, lvl := 1, table := 8, at_ := .s }
/-- R236: an entry of the table in the course's L2 (page 8, entry 8 is in line 0x201; here the line is not there and is asked for). -/
theorem test_walk : (idles (.walkEntryRead 0) dev1 && goes (.walkEntryRead 0) (devWith (fun c => { c with level := .s, walk := some walk1 })) (fun t =>
      t.net.map (fun m => (m.kind, m.line)) == [(.rdS, 0x201)] && t.mem == dev1.mem)) = true := by decide +kernel
theorem test_warm_up : (onCore (fun c => { c with warm := true }) (.warmUpEnd 0) (fun c => !c.warm) && idles (.warmUpEnd 0) dev1 &&
    idles (.warmUpEnd 0) (devWith (fun c => { c with warm := true, warmLeft := 3 })) &&
    idles (.classFFillDone 0) dev1 && goes (.classFFillDone 0) (devWith (fun c => { c with ffill := true })) (fun t => t.mem == dev1.mem)) = true := by decide +kernel
def trap1 : Trap := { code := 0x10, addr := 0x1234, pc := 0x4000 }
/-- R188, R192: the entry begins at H; at S with S busy it is redirected; with H busy the core stops. -/
theorem test_exception_entry : (onCore (fun c => { c with trap := some trap1 }) (.exceptionEntry 0) (fun c => (c.entry.map (fun e => (e.lvl, e.redir))) == some (.h, false)) &&
    [false, true].all (fun b => goes (.exceptionEntry 0) (devWith (fun c => { c with level := .s, sbusy := b, trap := some { trap1 with code := 0x0B } })) (fun t =>
      (getCore t 0).entry.map (fun e => (e.lvl, e.redir)) == some (if b then (.h, true) else (.s, false)))) &&
    goes (.exceptionEntry 0) (devWith (fun c => { c with hbusy := true, trap := some trap1 })) (fun t => (getCore t 0).dead == some 0x10)) = true := by decide +kernel
def entry1 : Entry := { kind := .exception, trap := trap1, lvl := .h }
/-- R188: cause, PC and address are saved, H is entered with IE clear at TENTRY[3]. -/
theorem test_entry_commit : goes (.trapEntryCommit 0) (devWith (fun c => { c with ie := true, tentry3 := 0x6000, entry := some entry1 })) (fun t =>
    let c := getCore t 0
    c.pc == 0x6000 && c.hbusy && !c.ie && c.trapH.cause == 0x10 && c.trapH.trapPc == 0x4000 && c.trapH.tAddr == 0x1234 && c.trapH.trapSt.getLsbD 2 && c.entry == none) = true := by
  decide +kernel
def segs1 : LineData := { bits := 0x0000FFFFFFFFFFFF80030000000010000000FFFFFFFFFFFF8005000000000000 }
/-- R205: SEG = 1; the frame is the 32 bytes at the top of segment 7. -/
def devFrame : State :=
  let d := setCore dev1 0 { core1 with word := [.rfe { n := 0 }], busy := .rfe, hbusy := true, sg := [(7, 0x000000000000001F8003000000008000)],
                                       trapH := { cause := 0, trapPc := 0x4100, trapSt := 0x23, tAddr := 0 } }
  { d with courses := [(0, { l2 := [(16 * 0x200, { st := .m, line := 0x200, data := segs1 })] })] }
/-- The answers of cores to offers that are on their way. -/
def told (t : State) : List (Logical × SrcId × Answer) := t.answers.map (fun a => (a.1, a.2.1, a.2.2.1))
/-- R196, R199: a core that has not started refuses; one that runs holds the offer; it is accepted at S with IE set. -/
def offer1 : Offer := { id := 64, epoch := 0, tdid := 0, prio := 9 }
theorem test_offer_arrives : (goes (.interruptOffer 1 offer1) dev1 (fun t => told t == [(1, 64, .refuse)]) &&
    goes (.interruptOffer 0 offer1) dev1 (fun t => (getCore t 0).offer == some offer1 && (getCore t 0).run == .run && t.answers == []) &&
    judge (devWith (fun c => { c with run := .wfe, ie := true, level := .s })) 0 { core1 with run := .wfe, ie := true, level := .s } offer1 true none == .accept &&
    goes (.interruptOffer 0 offer1) (devWith (fun c => { c with run := .wfe, ie := true, level := .s })) (fun t => (getCore t 0).run == .run) &&
    judge (devWith (fun c => { c with run := .wfe, hbusy := true, level := .s })) 0 { core1 with run := .wfe, hbusy := true, level := .s } offer1 true none != .accept) = true := by decide +kernel

def devOffer (f : Core → Core) : State := devWith (fun c => f { c with offer := some offer1 })
theorem test_offer_judged : ([(judge (devOffer (fun c => { c with ie := true })) 0 { core1 with ie := true } offer1 false none, Verdict.accept),
      (judge dev1 0 core1 offer1 false none, .refuse), (judge dev1 0 { core1 with epoch := 1 } offer1 false none, .stale)].all (fun e => e.1 == e.2) &&
    goes (.classPEntry 0) (devOffer (fun c => { c with ie := true })) (fun t => told t == [(0, 64, .accept)] && (getCore t 0).entry.map (fun e => (e.kind, e.lvl)) == some (.classP, .h)) &&
    goes (.classPEntry 0) (devOffer id) (fun t => told t == [(0, 64, .refuse)] && (getCore t 0).offer == none) &&
    goes (.classPEntry 0) (devOffer (fun c => { c with epoch := 1 })) (fun t => told t == [(0, 64, .stale)] && (getCore t 0).offer == none)) = true := by decide +kernel
def fbuf1 : FBuf := { handler := 0x6000, seg := false, base := 0, limit := 0, framePa := 0, line := 0x180, data := {}, pages := [], tag := 3, lin := 0x6000, lineMt := .cached, frameMt := .cached }
def devF : State := devWith (fun c => { c with level := .s, ie := true, dom := 3, fready := true, fbuf := some fbuf1, offer := some { offer1 with tdid := 3, clsF := true } })
/-- R201 to R204. -/
theorem test_class_f : (classFOk (getCore devF 0) && judge devF 0 (getCore devF 0) { offer1 with tdid := 3, clsF := true } false none == .accept &&
    goes (.classFEntry 0) devF (fun t => let c := getCore t 0
      c.pc == 0x6000 && c.owe == 28 && !c.ie && c.sbusy && c.trapS.cause == 0x8000000000000040 && c.trapS.trapPc == 0x4000 && told t == [(0, 64, .accept)])) = true := by decide +kernel
/-- R77, R144, R146. -/
theorem test_event_arrives : (onCore id (.eventArrival 0 0 0) (fun c => c.evflag) && goes (.eventArrival 0 1 0) dev1 (fun t => !(getCore t 0).evflag) &&
    goes (.eventArrival 0 0 0) (devWith (fun c => { c with run := .wfe })) (fun t => (getCore t 0).run == .run && !(getCore t 0).evflag) &&
    goes (.eventArrival 0 0 0) (devWith (fun c => { c with run := .waitt 4 5000 })) (fun t => (getCore t 0).run == .run && (readG (getCore t 0) 4).v == 1)) = true := by decide +kernel
theorem test_deadline : (idles (.waittDeadline 0) (devWith (fun c => { c with run := .waitt 4 5000 })) &&
    goes (.waittDeadline 0) (devWith (fun c => { c with run := .waitt 4 900 })) (fun t => (getCore t 0).run == .run && (readG (getCore t 0) 4).v == 0)) = true := by decide +kernel
/-- R41 to R43: EFF = 500 is 2 tokens each nanosecond; a full bank slips. -/
theorem test_pace : (onCore (fun c => { c with pl := true, plNow := true, eff := 500, effGen := 500, acc := 7 }) (.paceGeneratorTick 0) (fun c => c.bank == 2 && c.acc == 7 && !c.slip) &&
    onCore (fun c => { c with pl := true, plNow := true, eff := 500, effGen := 500, bank := 8 }) (.paceGeneratorTick 0) (fun c => c.bank == 8 && c.slip) &&
    onCore (fun c => { c with pl := true, plNow := true, eff := 500, effGen := 500, run := .wfe }) (.paceGeneratorTick 0) (fun c => c.bank == 0) &&
    goes (.paceGeneratorTick 0) dev1 (fun t => (getCore t 0).bank == 0)) = true := by decide +kernel
/-- R130 to R134: SETB of 16 bytes in the data line. -/
def devBlk : State := devWith (fun c => writeG (writeG { c with blk := some { op := .movb, esz := 1, seg5 := 1, seg6 := 1 } } 4 { v := 16 }) 6 { v := 0x8020 })
theorem test_block_chunk : (idles (.blockChunk 0 false) dev1 && goes (.blockChunk 0 false) (setCore devBlk 0 (writeG (getCore devBlk 0) 5 { v := 0x8000 })) (fun t => t.mem == dev1.mem) &&
    goes (.blockChunk 0 true) devBlk (fun t => (getCore t 0).dead == some 0 && (getCore t 0).upatch.getLsbD 2)) = true := by decide +kernel
def tlb1 : TlbEnt := { guest := true, tag := 3, asn := 0, lvl := 1, vpn := 8, pte := 0x801F }
/-- R242: entries of domain 3 leave; an acknowledgement is owed, and the last one received ends the wait. -/
theorem test_tlb_invalidation : (goes (.tlbInvalidation 0 { from_ := 1, scope := .domain 3 }) (devWith (fun c => { c with itlb := [tlb1], dtlb := [tlb1, { tlb1 with tag := 4 }], l2tlb := [tlb1] })) (fun t =>
      (getCore t 0).itlb == [] && (getCore t 0).dtlb == [{ tlb1 with tag := 4 }] && (getCore t 0).l2tlb == []) &&
    onCore (fun c => { c with busy := .tlb 3 }) (.tlbInvAck 0 1) (fun c => c.busy == .tlb (1 : BitVec 256)) && goes (.tlbInvAck 0 1) (devWith (fun c => { c with busy := .tlb 2 })) (fun t =>
      (getCore t 0).busy == Busy.none)) = true := by decide +kernel
theorem test_icinv : (goes (.icinvBroadcast 0 0 0x100) dev1 (fun t => (getCore t 0).l1i == []) &&
    onCore (fun c => { c with busy := .icinv 3 }) (.icinvAck 0 1) (fun c => c.busy == .icinv (1 : BitVec 32)) && goes (.icinvAck 0 0) (devWith (fun c => { c with busy := .icinv 1 })) (fun t =>
      (getCore t 0).busy == Busy.none)) = true := by decide +kernel
theorem test_rfe_frame : ((frameRead devFrame 0).isSome && goes (.rfeFrameCommit 0) devFrame (fun t => (getCore t 0).pc == 0x4100)) = true := by decide +kernel


/-! ### Coherence (R253 to R283): line 0x200 has its home at slice 16 -/

def msg1 : Msg := { kind := .rdS, src := 0, dst := 48, line := 0x200, req := 0 }
def home1 (d : Tbl DirEnt) (l : Tbl L3Line) (trk : List Tracker := []) (landing : List Msg := []) : State :=
  { dev1 with slices := [(16, { dir := d, l3 := l, trk := trk, landing := landing })] }
def owned1 : DirEnt := { st := .owned, line := 0x200, holders := 3 }
def set1 : Nat := dirSet 0x200
def l3set1 : Nat := l3Set 0x200
def x1 : L3Line := { valid := true, dirty := true, line := 0x200, data := line1 }
def homeOwned : State := home1 [(20 * set1, owned1)] []
def homeL3 : State := home1 [] [(16 * l3set1, x1)]
/-- The messages that a command adds to the mortar. -/
def sends (i : Instr) (s : State) (P : List Msg → Bool) : Bool := keeps i s (fun t => P (t.net.drop s.net.length))
theorem test_home_is_idle : ([homeOwned, homeL3, dev1].all (fun s => (getSlice s 16).trk.isEmpty && (getSlice s 16).queue.isEmpty && (getSlice s 16).landing.isEmpty &&
      [MsgKind.rdS, .rdO, .upg, .hrd, .hlr, .hwr, .hat, .hsc, .cleanReq].all (fun k => !homeHeld s 16 { msg1 with kind := k })) && !agentDown dev1 0 &&
    (dirFind (getSlice homeOwned 16) 0x200).isSome && (l3Find (getSlice homeL3 16) 0x200).isSome && (match dirAlloc homeL3 16 0x200 0 0 with | .way _ => true | _ => false)) = true := by decide +kernel
/-- R261 to R264: an owner is forwarded to, course 3. -/
theorem test_home_forwards : [(Instr.rdS msg1, MsgKind.fwdS), (.hrd msg1, .fwdS), (.hlr msg1, .fwdS), (.rdO msg1, .fwdO), (.upg msg1, .fwdO), (.hwr msg1, .fwdO),
    (.hat msg1, .fwdO), (.cleanReq msg1, .clean)].all (fun e => sends e.1 homeOwned (fun l => l.map (fun r => (r.kind, r.dst, r.line)) == [(e.2, 3, 0x200)])) = true := by decide +kernel
/-- R260: the L3 serves; the requester owns. -/
theorem test_home_serves : ([Instr.rdS msg1, .rdO msg1, .upg msg1].all (fun i => sends i homeL3 (fun l => l.map (fun r => (r.kind, r.dst, r.data)) == [(.dataO, 0, some line1)]) &&
      goes i homeL3 (fun t => (dirFind (getSlice t 16) 0x200).map (fun e => (e.2.st, e.2.holders)) == some (.owned, 0))) &&
    sends (.hrd msg1) homeL3 (fun l => l.map (fun r => (r.kind, r.data)) == [(.hDone, some line1)]) &&
    keeps (.hrd msg1) dev1 (fun t => t.memNet.map (fun r => (r.2.line, r.2.write)) == [(0x200, false)]) &&
    sends (.hlr { msg1 with core := some 7 }) homeL3 (fun l => l.map (·.kind) == [.hDone]) &&
    sends (.hwr { msg1 with mask := 1, data := some { bits := 0xAA } }) homeL3 (fun l => l.map (·.kind) == [.hDone]) &&
    goes (.hwr { msg1 with mask := 1, data := some { bits := 0xAA } }) homeL3 (fun t => (l3Find (getSlice t 16) 0x200).map (fun e => fld e.2.data.bits 0 16) == some 0x81AA) &&
    keeps (.hwr { msg1 with mask := 1, data := some { bits := 0xAA } }) dev1 (fun t => t.memNet.map (fun r => (r.2.line, r.2.write, r.2.mask)) == [(0x200, true, 1)]) &&
    sends (.hat { msg1 with atomic := some { op := .add, wid := 8, off := 0, opnd := 1 } }) homeL3 (fun l => l.map (fun r => (r.kind, r.data)) == [(.hDone, some line1)]) &&
    goes (.hat { msg1 with atomic := some { op := .add, wid := 8, off := 0, opnd := 1 } }) homeL3 (fun t => (l3Find (getSlice t 16) 0x200).map (fun e => fld e.2.data.bits 0 8) == some 0x81) &&
    sends (.hsc { msg1 with core := some 7 }) homeL3 (fun l => l.map (fun r => (r.kind, r.ok)) == [(.hDone, false)])) = true := by decide +kernel
theorem test_home_maintains : (upCourses dev1 == List.range 32 && [(Instr.flushReq msg1, MsgKind.flush), (.invReq msg1, .inv)].all (fun e =>
    sends e.1 dev1 (fun l => l.map (fun r => (r.kind, r.dst)) == (List.range 32).map (fun c => (e.2, BitVec.ofNat 7 c))))) = true := by decide +kernel
/-- A forward at course 0, which holds the line in M (R261 to R270). -/
def fwd1 : Msg := { kind := .fwdS, src := 48, dst := 0, line := 0x200, req := 5, origin := .hrd }
def devFwd (k : MsgKind) : State := { dev1 with net := [{ fwd1 with kind := k }], cores := [] }
def after (i : Instr) (s : State) (P : List (MsgKind × BitVec 7 × Option LineData) → State → Bool) : Bool :=
  keeps i s (fun t => P (t.net.map (fun r => (r.kind, r.dst, r.data))) t)
def l2at (t : State) : L2St := (tget (fun _ => {}) (getCourse t 0).l2 0x2000).st
theorem test_forwards : ([MsgKind.fwdS, .fwdO, .inv, .binv, .flush, .clean].all (fun k => mayAnswer (devFwd k) 0 { fwd1 with kind := k }) &&
    after (.fwdS fwd1) (devFwd .fwdS) (fun l t => l == [(.fwdAck, 48, some line1)] && l2at t == .s) &&
    after (.fwdS { fwd1 with origin := .rdS }) { devFwd .fwdS with net := [{ fwd1 with origin := .rdS }] } (fun l t => l == [(.dataS, 5, some line1), (.fwdAck, 48, some line1)] && l2at t == .s) &&
    after (.fwdO { fwd1 with origin := .rdO }) { devFwd .fwdO with net := [{ fwd1 with kind := .fwdO, origin := .rdO }] } (fun l t => l.map (·.1) == [.dataO, .fwdAck] && l2at t == .i) &&
    after (.inv fwd1) (devFwd .inv) (fun l t => l == [(.invAck, 48, none)] && l2at t == .i) &&
    after (.binv fwd1) (devFwd .binv) (fun l t => l == [(.binvAck, 48, some line1)] && l2at t == .i) &&
    after (.flush fwd1) (devFwd .flush) (fun l t => l == [(.fwdAck, 48, some line1)] && l2at t == .i) &&
    after (.clean fwd1) (devFwd .clean) (fun l t => l == [(.fwdAck, 48, some line1)] && l2at t == .e) &&
    scrubLines dev1 0 16 0x777 == [] && after (.setScrub { fwd1 with set := 0x777 }) { dev1 with net := [{ fwd1 with kind := .setScrub, set := 0x777 }] } (fun l _ => l.map (·.1) == [.setScrubAck])) = true := by decide +kernel
/-- Data and completions at course 0 (R260 to R266). -/
def data1 : Msg := { kind := .dataS, src := 48, dst := 0, line := 0x300, data := some line1 }
theorem test_data : ((l2Install dev1 0 0x300 line1 .s 0).isSome && [(Instr.dataS data1, L2St.s), (.dataE data1, .e), (.dataO data1, .e), (.dataO { data1 with dirty := true }, .m)].all (fun e =>
      keeps e.1 dev1 (fun t => (l2Find (getCourse t 0) 0x300).map (fun x => (x.2.st, x.2.data)) == some (e.2, line1)))) = true := by decide +kernel
def shared1 : State := { dev1 with courses := [(0, { l2 := [(16 * 0x200, { st := .s, line := 0x200, data := line1 })] })] }
def mine (u : ReqUse) (i : Nat := 1) : Msg := { kind := .hDone, src := 48, dst := 0, line := 0x200, core := some 0, use := u, idx := i, data := some line1 }
theorem test_grant_and_done : (keeps (.grant { data1 with line := 0x200 }) shared1 (fun t => l2at t == .e) &&
    goes (.hDone (mine .maint)) (devWith (fun c => { c with busy := .maint 0x200 })) (fun t => (getCore t 0).busy == .none) &&
    goes (.hDone (mine .store)) (devSb { sb1 with sent := true }) (fun t => (getCore t 0).sb == []) &&
    goes (.hDone (mine .sc)) (devWith (fun c => { c with accs := [{ acc1 with kind := .sc }] })) (fun t => t.mem == dev1.mem) &&
    goes (.dataNf (mine .load)) (devWith (fun c => { c with gen := 9, accs := [{ acc1 with parts := [{ pa := 0x8000, len := 8, mt := .uncached }] }] })) (fun t =>
      (getCore t 0).accs.all (fun a => a.parts.all (fun p => p.data.isSome)))) = true := by decide +kernel
theorem test_wb_ack_and_retry : (keeps (.wbAck { data1 with line := 0x200 }) { dev1 with courses := [(0, { wb := [{ line := 0x200, data := line1, dirty := true }] })] } (fun t => (getCourse t 0).wb == []) &&
    keeps (.retry { data1 with use := .pref }) dev1 (fun t => (getCourse t 0).reqs == []) &&
    keeps (.retry { data1 with use := .load, origin := .rdO }) dev1 (fun t => (getCourse t 0).reqs.map (fun r => (r.msg.kind, r.retries, r.backoff.isSome)) == [(.rdO, 1, true)])) = true := by decide +kernel
/-- Answers at slice 16 (R262 to R270). -/
def trk1 : Tracker := { msg := { msg1 with kind := .rdO }, wait := .fwd, from_ := 3 }
def ack (k : MsgKind) (src : BitVec 7 := 0) : Msg := { kind := k, src := src, dst := 48, line := 0x200, data := some line1 }
def homeTrk (t : Tracker) : State := home1 [(20 * set1, owned1)] [] [t]
theorem test_answers_counted : [Instr.fwdAck (ack .fwdAck), .invAck (ack .invAck), .binvAck (ack .binvAck)].all (fun i =>
    keeps i (homeTrk trk1) (fun t => (getSlice t 16).trk.map (·.from_) == [2])) = true := by decide +kernel
theorem test_last_answers : (keeps (.fwdAck (ack .fwdAck)) (homeTrk { trk1 with from_ := 1, msg := { trk1.msg with req := 4 } }) (fun t => (getSlice t 16).trk == [] &&
      (dirFind (getSlice t 16) 0x200).map (fun e => (e.2.st, e.2.holders)) == some (.owned, 4)) &&
    (holdersOf { owned1 with st := .shared, holders := 0x11 }).contains 4 &&
    sends (.invAck (ack .invAck)) (home1 [(20 * set1, { owned1 with st := .shared, holders := 0x11 })] [] [{ trk1 with wait := .inv, from_ := 1, msg := { trk1.msg with kind := .upg, req := 4 } }]) (fun l =>
      l.map (fun r => (r.kind, r.dst)) == [(.grant, 4)]) &&
    keeps (.binvAck (ack .binvAck)) (homeTrk { trk1 with wait := .binv, from_ := 1 }) (fun t => (getSlice t 16).trk == [] && (dirFind (getSlice t 16) 0x200).isNone) &&
    keeps (.memoryAnswer 16 { id := 5, line := 0x200, data := some line1 }) (homeTrk { trk1 with msg := { msg1 with kind := .hrd }, wait := .mem, memId := 5 }) (fun t =>
      t.net.map (fun r => (r.kind, r.data)) == [(.hDone, some line1)] && (getSlice t 16).trk == [])) = true := by decide +kernel
theorem test_writebacks : (idles (.wbPending (ack .wbPending)) dev1 && keeps (.wbPending (ack .wbPending)) (home1 [(20 * set1, owned1)] [] [trk1] [ack .wb]) (fun t =>
      (getSlice t 16).trk.map (fun y => (y.from_, y.data)) == [(2, some line1)] && (getSlice t 16).landing == []) &&
    [(Instr.wb (ack .wb), true), (.vic (ack .vic), false)].all (fun e => keeps e.1 dev1 (fun t => t.net.map (fun r => (r.kind, r.dst)) == [(.wbAck, 0)] &&
      (l3Find (getSlice t 16) 0x200).map (fun x => (x.2.data, x.2.dirty)) == some (line1, e.2))) &&
    keeps (.evn (ack .evn)) (home1 [(20 * set1, { owned1 with st := .shared, holders := 0x11 })] []) (fun t => (dirFind (getSlice t 16) 0x200).map (·.2.holders) == some 0x10) &&
    keeps (.setScrubAck { ack .setScrubAck with set := 0x77 }) { dev1 with slices := [(16, { scrubs := [{ set := 0x77, wait := 1, sent := true }], dir := [(20 * 0x77 + 3, owned1)] })] } (fun t =>
      (getSlice t 16).scrubs == [] && (getSlice t 16).dir == [])) = true := by decide +kernel
/-- R275 to R282. -/
def req1 (b : Nat) : OpenReq := { msg := msg1, retries := 2, backoff := some b }
def devReq (b : Nat) : State := { dev1 with courses := [(0, { reqs := [req1 b] })] }
def devClaim (t : Nat) : State := { dev1 with slices := [(16, { claims := [(5, some { agent := 3, since := t })] })], plumb := { dev1.plumb with now := 20000 } }
def devDead : State := { dev1 with cohDead := 1 }
theorem test_retries : (sends (.retryBackoffExpiry 0 0x200) (devReq 900) (fun l => l.map (fun q => (q.kind, q.retries)) == [(.rdS, 2)]) &&
    keeps (.claimExpiry 16 5) (devClaim 10000) (fun t => tget (fun _ => none) (getSlice t 16).claims 5 == none) && idles (.claimExpiry 16 5) (devClaim 10001) &&
    agentDown devDead 0 && sends (.messageToDownAgent fwd1) devDead (fun l => l.map (fun r => (r.kind, r.dst, r.origin)) == [(.agentDown, 48, .fwdS)]) &&
    idles (.messageToDownAgent fwd1) dev1 && keeps (.agentDown { fwd1 with kind := .agentDown }) dev1 (fun _ => true) && keeps (.agentDown (ack .agentDown)) dev1 (fun _ => true) &&
    keeps (.deadAgentNotice 16 0) { devDead with slices := [(16, { queue := [trk1] })] } (fun t => (getSlice t 16).queue == []) && idles (.deadAgentNotice 16 0) dev1 &&
    idles (.homeStall 0 0x200) dev1 && keeps (.homeStall 0 0x200) { homeTrk trk1 with plumb := { dev1.plumb with now := 1000000000 } } (fun t =>
      (getCourse t 0).err.getLsbD 0 && t.faultSt.getLsbD 5) && keeps (.reservationHoldExpiry 0) dev1 (fun _ => true)) = true := by decide +kernel


/-! ### Control registers (R27 to R30, R69 to R74) -/

def ctl (off : BitVec 40) (v : Word64) (w : Nat := 8) : CtlStore := { n := 0, off := off, width := w, val := v }
theorem test_windows : (isWindowHalf (ctl 0x200B08 0x12345000) 1 && stWindow (ctl 0x200B08 0x12345000) == some (5, 1) && isWindowHalf (ctl 0x200B00 7) 0 &&
    keeps (.windowUpperWrite (ctl 0x200B08 0x12345FFF)) dev1 (fun t => tget (fun _ => none) (getDom t 5).winHi 0 == some 0x12345000 && tget (fun _ => 0) (getDom t 5).win 0 == 0) &&
    goes (.windowLowerWrite (ctl 0x200B00 7)) { dev1 with doms := [(5, { winHi := [(0, some 0x12345000)] })] } (fun t => tget (fun _ => 0) (getDom t 5).win 0 == 0x123450000000000000000007 &&
      t.winMsgs.map (·.1) == winHolders && t.mem == dev1.mem) &&
    idles (.windowHolderUpdate 3 5 0) dev1 && keeps (.windowHolderUpdate 3 5 0) { dev1 with winMsgs := [(3, 80, 7, 0)] } (fun t =>
      t.winMsgs == [] && tget (fun _ => 0) t.winHeld (3 * 65536 + 80) == 7)) = true := by decide +kernel
/-- R73: a mask of zero keeps the old one and sets CTL_ERR; R74, R71; R29: a store of 3 bytes. -/
theorem test_control_stores : (!ksLastAt dev1 (stReg (ctl 0x108 0)) && !ctlBehind dev1 (ctl 0x108 0) && isPmask (ctl 0x108 0x00FF00FF) && keeps (.pmaskWrite (ctl 0x108 0x00FF00FF)) dev1 (fun t => pmask t 1 == 0x00FF00FF && pmask t 0 == 0xFFFFFFFF) &&
    keeps (.pmaskWrite (ctl 0x108 0x00FF0000)) dev1 (fun t => pmask t 1 == 0x00FFFFFF && t.gstat.getLsbD 0) &&
    isPause (ctl 0x200A00 0x2000000000000000) true && keeps (.domPause (ctl 0x200A00 0x2000000000000000)) dev1 (fun t => domPaused t 5) &&
    isPause (ctl 0x200A00 0) false && keeps (.domUnpause (ctl 0x200A00 0)) { dev1 with doms := [(5, { ctl := 0xA000000000000000 })] } (fun t => !domPaused t 5) &&
    (stBit (ctl 0x200A00 0x4000000000000000) 62).isSome && keeps (.domRtWrite (ctl 0x200A00 0x4000000000000000)) { dev1 with doms := [(5, { ctl := 0x8000000000000000 })] } (fun t => domRt t 5) &&
    keeps (.domRtWrite (ctl 0x200A00 0x4000000000000000)) dev1 (fun t => !domRt t 5 && t.gstat.getLsbD 0) &&
    !ctlWidthOk 0x30 3 && keeps (.ctlWrite (ctl 0x30 0xFF 3)) dev1 (fun t => t.gstat.getLsbD 0 && t.faultCtl == dev1.faultCtl) &&
    keeps (.ctlWrite (ctl 0x30 0x1FF)) dev1 (fun t => t.faultCtl == 0xFF) && keeps (.ctlWrite (ctl 0x2008 0x8000000000007FFF)) dev1 (fun t => tget (fun _ => 0) t.hptb 1 == 0x8000000000007000) &&
    ownRow dev1 (ctl 0x108 0) && idles (.ctlWrite (ctl 0x108 0)) dev1) = true := by decide +kernel

/-! ### The interrupt hub (R342 to R356) -/

def hubDev (l : List (BitVec 13)) : State :=
  { dev1 with hubs := [(0, { getHub dev1 0 with unclH := l })], srcs := [(64, { getSrc dev1 64 with w := 5, inserv := some (0, .h, 5) })] }
theorem test_hub_stores : (isHubReg (ctl 0x100010 64) 0x10 && keeps (.hubSetpend (ctl 0x100010 64)) dev1 (fun t => (getSrc t 64).pend) &&
    isHubReg (ctl 0x100018 64) 0x18 && keeps (.hubClrpend (ctl 0x100018 64)) { dev1 with srcs := [(64, { getSrc dev1 64 with pend := true })] } (fun t => !(getSrc t 64).pend) &&
    isEdgeId 64 && isSrc (ctl 0x120200 5) && keeps (.srcWrite (ctl 0x120200 0xFFFF0000000000FF)) dev1 (fun t => (getSrc t 64).w == 0xFF) &&
    hclaimOp (ctl 0x101000 9) == some 0 && keeps (.hThreshold (ctl 0x101000 9)) dev1 (fun t => (getHub t 0).thH == 9) &&
    hclaimOp (ctl 0x101000 0x4000000000000000) == some 1 && keeps (.hClaim (ctl 0x101000 0x4000000000000000)) dev1 (fun t => (getHub t 0).idH == 0x1FFF) &&
    keeps (.hClaim (ctl 0x101000 0x4000000000000000)) (hubDev [64]) (fun t => (getHub t 0).idH == 64 && (getHub t 0).unclH == []) &&
    hclaimOp (ctl 0x101000 0x8000000000400000) == some 2 && keeps (.hEoi (ctl 0x101000 0x8000000000400000)) (hubDev [64]) (fun t => (getSrc t 64).inserv == none)) = true := by decide +kernel
def offered (t : BitVec 12) : State :=
  { dev1 with hubs := [(0, { getHub dev1 0 with offer := some { offer1 with tdid := t } })], srcs := [(64, { getSrc dev1 64 with w := 9, pend := true })] }
theorem test_hub_answers : ((answered (getHub (offered 0) 0) 64).isSome && keeps (.offerAnswer 0 64 .accept) (offered 0) (fun t => (getSrc t 64).inserv == some (0, .h, 9) && !(getSrc t 64).pend &&
      (getHub t 0).unclH == [64]) &&
    keeps (.offerAnswer 0 64 .accept) (offered 3) (fun t => (getSrc t 64).inserv == some (0, .s, 9) && (getHub t 0).unclS == [64]) &&
    keeps (.offerAnswer 0 64 .refuse) (offered 0) (fun t => (getHub t 0).refused == [64]) && keeps (.offerAnswer 0 64 .stale) (offered 3) (fun t => fld (getDom t 3).status 32 16 == 1) &&
    keeps (.offerAnswer 0 64 .handback) (hubDev [64]) (fun t => (getSrc t 64).inserv == none && (getSrc t 64).pend)) = true := by decide +kernel
theorem test_hub_messages : (goes (.bindingReport 0) (devWith (fun c => { c with dom := 3, vcore := 7, busy := .bind })) (fun t => (getCore t 0).busy == .none && (getHub t 0).dom == 3 && resolve t 3 7 == some 0) &&
    keeps (.coreStateReport 0) (devWith (fun c => { c with ie := true })) (fun t => (getHub t 0).ie && (getHub t 0).level == .h) &&
    resolve { dev1 with hubs := [(0, { getHub dev1 0 with dom := 3, vcore := 7, epoch := 2 })], pairs := [(3 * 256 + 7, 1)] } 3 7 == some 0 &&
    keeps (.sevMessage 3 false 7) { dev1 with hubs := [(0, { getHub dev1 0 with dom := 3, vcore := 7, epoch := 2 })], pairs := [(3 * 256 + 7, 1)], sevs := [(3, false, 7, 0)] } (fun t => t.sevs == [] && t.events.map (fun x => (x.1, x.2.1, x.2.2.1)) == [(0, 2, 3)]) &&
    keeps (.msiMessage 1 0 2) { dev1 with msimap := [(1, 0x8000004000000004)], msis := [(1, 0, 2, 0)] } (fun t => (getSrc t 66).pend && t.msis == []) &&
    keeps (.msiMessage 1 0 9) { dev1 with msimap := [(1, 0x8000004000000004)] } (fun t => t.srcs == [] && fld t.hubSt 0 13 == 1) &&
    isLevelId 3 && keeps (.levelLineChange 3) dev1 (fun t => (getSrc t 3).line == lineState dev1 3) && !isLevelId 64 && idles (.levelLineChange 64) dev1) = true := by decide +kernel

/-! ### Plumb time and the journal (R44 to R53, R317 to R327, R516) -/

def plumbed (p : Plumb → Plumb) : State := { dev1 with plumb := p dev1.plumb }
theorem test_plumb_lock : (keeps .plumbLock (plumbed (fun p => { p with counting := false })) (fun t => t.plumb.counting && t.plumb.now == 0 && pstat t 0) && idles .plumbLock dev1 &&
    keeps .refLost dev1 (fun t => !t.pins.refclk && pstat t 1 && !pstat t 0 && t.ks.pending.getLsbD 6) && !pstat dev1 1 &&
    keeps .refReturn { dev1 with plumb := { dev1.plumb with status := 2 } } (fun t => t.pins.refclk && !pstat t 1 && pstat t 0)) = true := by decide +kernel
theorem test_pps : (dev1.plumb.lastEdge == none && ppsMode (plumbed (fun p => { p with ctl := 1 })) == 1 && idles (.ppsEdge true) (plumbed (fun p => { p with ctl := 8 })) && idles (.ppsEdge false) dev1 &&
    ppsMode (plumbed (fun p => { p with ctl := 2 })) == 2 && keeps .ppsLost (plumbed (fun p => { p with ctl := 2, now := 1500000000 })) (fun t => pstat t 5 && t.plumb.slew == 0) && idles .ppsLost dev1) = true := by decide +kernel
theorem test_sets : (keeps (.plumbSync [(4, 2)]) dev1 (fun t => plumbAt t 4 == 1002 && plumbAt t 5 == 1000 && !pstat t 7) && keeps (.plumbSync [(4, -9)]) dev1 (fun t => plumbAt t 4 == 1000 && pstat t 7) &&
    keeps (.plumbSync [(4, 9)]) dev1 (fun t => plumbAt t 4 == 1009 && pstat t 7) && idles (.plumbSync []) State.reset &&
    keeps (.setStampHoldEnd 3) { plumbed (fun p => { p with now := 1000000 }) with agents := [(3, { noRecv := true })] } (fun t => !(getAgent t 3).noRecv) && idles (.setStampHoldEnd 3) dev1 &&
    keeps (.setMark 3) { dev1 with agents := [(3, { marks := [0] })], jrn := { dev1.jrn with sets := [{ at_ := 0 }] } } (fun t => (getAgent t 3).marks == [] && t.jrn.sets.map (·.marks) == [[3]]) && idles (.setMark 3) dev1) = true := by decide +kernel
def rec1 : JRec := { stamp := 5, agent := 3, cls := 0x10, tdid := 2, seq := 1, payload := [1, 2] }
def jdev (j : Jrn → Jrn) : State := { dev1 with agents := [(3, { queue := [rec1] })], jrn := j { dev1.jrn with ctl := 0x8000000000100005 } }
theorem test_journal : (jrnEn (jdev id) && !ringFull (jdev id) && keeps (.journalRecord 3) (jdev id) (fun t => t.jrn.flight == [(0, rec1)] && (getAgent t 3).queue == []) &&
    ringFull (jdev (fun j => { j with n := ringCap (jdev id) })) && keeps (.journalRecord 3) (jdev (fun j => { j with n := ringCap (jdev id) })) (fun t => t.jrn.ringDrop == 1 && t.jrn.gap == 1) &&
    keeps (.journalRecord 3) (jdev (fun j => { j with n := ringCap (jdev id), ctl := j.ctl ||| 0x4000000000000000 })) (fun t => t.jrn.flight.length == 1 && t.jrn.tail == 1) &&
    keeps (.journalRecord 3) (jdev (fun j => { j with ctl := 0x100005 })) (fun t => t.jrn.held == [rec1]) && idles (.journalRecord 4) dev1 &&
    idles .ringWriteDone dev1 && goes .ringWriteDone (jdev (fun j => { j with n := 1, flight := [(0, rec1)] })) (fun t => t.jrn.head == 1 && t.jrn.flight == [] && t.mem != []) &&
    keeps (.jrnTailWrite (ctl 0x30010 1)) (jdev (fun j => { j with head := 2, n := 2 })) (fun t => t.jrn.tail == 1) && isJrnReg (ctl 0x30010 1) 0x10 &&
    keeps (.jrnTailWrite (ctl 0x30010 3)) (jdev (fun j => { j with head := 2, n := 2 })) (fun t => t.jrn.tail == 0 && t.gstat.getLsbD 0) &&
    isJrnReg (ctl 0x30000 0) 0 && keeps (.jrnCtlWrite (ctl 0x30000 0x0030000000000001)) (jdev id) (fun t => t.jrn.ctl == 0x0030000000100005) &&
    keeps .jrnSetHoldExpiry { jdev (fun j => { j with sets := [{ at_ := 0 }] }) with plumb := { dev1.plumb with now := 2000000 } } (fun t => t.jrn.sets == []) &&
    idles .jrnSetHoldExpiry (jdev (fun j => { j with sets := [{ at_ := 0 }] }))) = true := by decide +kernel


/-! ### The minute ledger and budgets (R285 to R341) -/

def atTime (t : Nat) : State := { dev1 with plumb := { dev1.plumb with now := t } }
def led1 (f : Ledger → Ledger) : State := { atTime 60000000000 with led := f dev1.led }
theorem test_minutes : (keeps (.minuteBoundary 3) (atTime 60000000000) (fun t => minuteOf t 3 == 1 && minuteOf t 4 == 0 && t.led.due == [(3, 0)]) && idles (.minuteBoundary 3) dev1 &&
    keeps (.finalReport 3 0) (led1 (fun l => { l with due := [(3, 0)], agent := [(ledKey 3 0 5, { drd := 7 })] })) (fun t => t.led.due == [] && t.led.final == [3] &&
      (tget (fun _ => {}) t.led.sum 5).drd == 7 && bankCounts t 3 0 == []) &&
    keeps (.finalReport 3 0) (led1 (fun l => { l with minute := 1, due := [(3, 0)], agent := [(ledKey 3 0 5, { drd := 7 })] })) (fun t => t.led.final == [] && t.led.partial_ == [5]) &&
    idles (.finalReport 3 0) dev1 && idles (.l3OccSample 16) State.reset &&
    keeps (.l3OccSample 16) homeL3 (fun t => (tget (fun _ => {}) t.led.agent (ledKey 48 0 0)).occ == 1 && t.slices == homeL3.slices)) = true := by decide +kernel
def ready1 : State := { led1 (fun l => { l with bank := [(87, 1)], flags := [(5, some (1, 0))] }) with plumb := { dev1.plumb with now := 60002000000 } }
def closing1 : Closing := { minute := 0, recs := [], head := [], tflags := 0, key := none, kgen := 0, prev := [], slot := none }
theorem test_close_premises : (closeReady ready1 && !closeReady dev1 && !ledEn ready1 && idles (.minuteClose none) dev1 && idles .minuteSealed dev1 &&
    goes .minuteSealed { ready1 with led := { ready1.led with closing := some closing1 } } (fun t => t.led.closing == none && t.led.status.getLsbD 63 && fld t.led.status 0 32 == 0 && t.mem == dev1.mem)) = true := by
  decide +kernel
/-- A device with domain 5, a balance of `k` tokens, and core 0 at S in it. -/
def dom5 (k : Int) (f : Core → Core := id) : State :=
  { devWith (fun c => f { c with dom := 5, level := .s }) with doms := [(5, { ctl := 0x8000000000000000 })], buds := [(5, { pool := [(0, k), (3, k)] })] }
theorem test_leases : (goes (.leaseLow 0) (dom5 10) (fun t => (getCore t 0).drawing) && idles (.leaseLow 0) dev1 &&
    leaseSize (dom5 0) == 4096 && goes (.leaseDraw 0) (dom5 3000 (fun c => { c with drawing := true })) (fun t => (getCore t 0).granted == some 3000 && balance t 5 0 == 0) &&
    goes (.leaseDraw 0) (dom5 0 (fun c => { c with drawing := true })) (fun t => !(getCore t 0).drawing && (getBud t 5).stat.getLsbD 32) &&
    goes (.leaseDraw 0) { dom5 0 (fun c => { c with drawing := true }) with buds := [(5, { unl := 1 })] } (fun t => (getCore t 0).granted == some 4096) &&
    goes (.leaseGrant 0) (dom5 0 (fun c => { c with granted := some 77, stall := 1, drawing := true })) (fun t => (getCore t 0).lease == 77 && (getCore t 0).stall == 0) && idles (.leaseGrant 0) dev1 &&
    goes (.leaseExhausted 0) (dom5 0) (fun t => (getCore t 0).stall == 1 && !(getCore t 0).ingrace) && mayGrace (dom5 0 (fun c => { c with held := 1 })) (getCore (dom5 0 (fun c => { c with held := 1 })) 0) &&
    goes (.leaseExhausted 0) (dom5 0 (fun c => { c with held := 1 })) (fun t => (getCore t 0).ingrace) && goes (.graceOut 0) (dom5 0 (fun c => { c with ingrace := true })) (fun t => !(getCore t 0).ingrace) &&
    idles (.graceOut 0) dev1 && idles (.leaseReturn 0) dev1 && goes (.leaseReturn 0) { dom5 10 with returns := [(0, 5, 32, 0)] } (fun t => balance t 5 0 == 42)) = true := by decide +kernel
def use1 : UsageRep := { agent := 3, tdid := 5, r := 0, amount := 30, stamp := 900 }
theorem test_usage : (keeps (.usageReportDue 3 5) { dev1 with usage := [(useKey 3 5 0, 30)] } (fun t => t.usage == [] && t.reports.map (fun y => (y.agent, y.tdid, y.r, y.amount)) == [(3, 5, 0, 30)]) &&
    goes (.usageReport use1) { dom5 10 with reports := [use1] } (fun t => balance t 5 0 == -20 && (getBud t 5).stat.getLsbD 32 && t.reports == [] && t.mem == dev1.mem) &&
    noticeApplies dev1 3 5 1 7 && keeps (.dryNotice 3 5 1 7) dev1 (fun t => isDry t 3 5 1) && goes (.dryNotice 256 5 3 7) (dom5 0) (fun t => (getCore t 0).stall.getLsbD 3 || (getCore t 0).ingrace) &&
    !noticeApplies { dev1 with dry := [(dryKey 3 5 1, 2 * 9 + 2)] } 3 5 1 7 && keeps (.dryNotice 3 5 1 7) { dev1 with dry := [(dryKey 3 5 1, 2 * 9 + 2)] } (fun t => t.dry == [(dryKey 3 5 1, 20)]) &&
    goes (.releaseNotice 256 5 3 7) (dom5 0 (fun c => { c with stall := 8 })) (fun t => (getCore t 0).stall == 0) && goes (.releaseNotice 3 5 1 7) dev1 (fun t => !isDry t 3 5 1)) = true := by decide +kernel
theorem test_periods : (nextBoundary dev1 ≤ 1000000000 && goes .periodBoundary { dom5 0 (fun c => { c with ingrace := true }) with plumb := { dev1.plumb with now := 1000000000 } } (fun t =>
      t.budAt == nextBoundary dev1 && !(getCore t 0).ingrace) && idles .periodBoundary dev1 &&
    keeps (.refill 5 0 [100, 0x7FFFFFFFFFFFFFFF]) (dom5 (-30)) (fun t => balance t 5 0 == -30 && t.refills.map (·.1) == [5] &&
      goes .periodBoundary { t with plumb := { t.plumb with now := 1000000000 } } (fun u => balance u 5 0 == 70 && (getBud u 5).unl.getLsbD 1)) &&
    keeps (.refill 5 1 [100]) (dom5 (-30)) (fun t => balance t 5 0 == -30) && keeps (.refill 6 0 [100]) (dom5 (-30)) (fun t => t.buds == (dom5 (-30)).buds) &&
    !dev1.planCtl.getLsbD 63 && idles (.energyPlan []) { dev1 with planCtl := 0x8000000000000000 }) = true := by decide +kernel
def memq (t : BitVec 12) (n : Nat) : BitVec 4 × MemReq := (3, { id := n, line := 0x203, tdid := t, src := BitVec.ofNat 7 (34 + n) })
theorem test_arbiters : (keeps (.arbWindowRefill (.mc 3)) dev1 (fun t => tget arbInit (getArb t 3).cnt 5 == arbWeight dev1 (.mc 3) 5) && keeps (.arbPhase (.mc 3)) dev1 (fun t => (getArb t 3).grant == none) &&
    keeps (.arbPhase (.mc 3)) { dev1 with memNet := [memq 5 1, memq 6 2], arbs := [(3, { cnt := [(5, 2), (6, 9)] })] } (fun t => (getArb t 3).grant == some 6 && tget arbInit (getArb t 3).cnt 6 == 8) &&
    keeps (.arbPhase (.mc 3)) { dev1 with doms := [(5, { ctl := 0xC000000000000000 })], memNet := [memq 5 1, memq 6 2] } (fun t => (getArb t 3).grant == some 5)) = true := by decide +kernel

/-! ### Memory controllers (R357 to R383) -/

def rd1 : MemReq := { id := 9, line := 0x203, src := 35 }
theorem test_memory : (goes (.memoryRequest 3 { rd1 with write := true, data := line1, mask := 0xFF }) dev1 (fun t => (memLine t 0x203) == line1 && t.memAns.map (fun a => (a.1, a.2.id)) == [(3, 9)]) &&
    keeps (.memoryRequest 3 rd1) dev1 (fun t => ((getMc t 3).mainQ ++ (getMc t 3).rtQ).map (fun q => q.req.id) == [9]) &&
    keeps (.dramReadDone 3 9 []) { dev1 with mcs := [(3, { mainQ := [{ req := rd1, at_ := 0 }] })] } (fun t => t.memAns.map (fun a => (a.1, a.2.id, a.2.data)) == [(3, 9, some {})] && (getMc t 3).mainQ == []) &&
    idles (.dramReadDone 3 9 []) dev1) = true := by decide +kernel
def mcdev (f : Mc → Mc) : State := { dev1 with mcs := [(3, f {})] }
theorem test_controllers : (!panicNow dev1 3 && keeps (.panicStart 3) dev1 (fun t => (getMc t 3).panicAt == none) && keeps (.refreshDue 3 1) (mcdev (fun x => { x with panicAt := some 5 })) (fun t =>
      tget (fun _ => 0) (getMc t 3).postponed 1 == 1) && keeps (.refreshDue 3 1) dev1 (fun t => (getMc t 3).postponed == []) && keeps (.dimmTempPoll 3 [40, 50]) dev1 (fun t => (getMc t 3).dimmTemp == [40, 50]) &&
    keeps (.retrainStep 3 0 1 false) dev1 (fun t => (getMc t 3).lastStep == some 1000 && (getMc t 3).status.getLsbD 7) && idles (.retrainStep 3 0 1 true) (mcdev (fun x => { x with lastStep := some 500 })) &&
    (getMc dev1 3).scrub.getLsbD 63 && keeps (.scrubLine 3 []) dev1 (fun t => fld (getMc t 3).scrubSt 0 48 ≤ 1) && idles (.scrubLine 3 []) (mcdev (fun x => { x with panicAt := some 5 })) &&
    keeps (.spareCopyStep 3 []) (mcdev (fun x => { x with spare := x.spare ||| 0x1000000000000000, spareAt := 0, cfg := 0x00000000003E0000 })) (fun _ => true) && idles (.spareCopyStep 3 []) dev1 && idles (.spareStateDone 3) dev1) = true := by
  decide +kernel


/-! ### Root ports, contexts and channels (R384 to R407) -/

/-- Context 7 of domain 5 at port 0 with requester ID 0x100, whose window is the first 2 MiB; link 0 is up. -/
def ctx7 : Ctx := { ctl := 0x8000000500000100 }
def io1 (f : Rp → Rp := id) : State :=
  { dev1 with
    doms := [(5, { ctl := 0x8000000000000000 })]
    ctxs := [(7, ctx7)]
    winHeld := [(80 * 65536 + 80, 0x000000000020000000000000000000 + 0x1FF0008000000000000007), (32 * 65536 + 80, 7)]
    rps := [(0, f { status := 0x80, perst := 1 })] }
def tlp1 : Tlp := { kind := .read, rid := 0x100, addr := 0x8000, len := 4, tag := 3 }
theorem test_inbound : (matchCtx (io1) 0 0x100 == some 7 && !portDry (io1) 0 5 && idles (.inboundTlp 7 tlp1) dev1 &&
    keeps (.inboundTlp 0 { tlp1 with rid := 0x200 }) (io1) (fun u => (getRp u 0).status.getLsbD 33 && (getRp u 0).cpls == [(3, [], false, true)]) &&
    keeps (.inboundTlp 0 tlp1) { io1 with dry := [(dryKey 80 5 1, 3)] } (fun u => (getRp u 0).held == [(7, 0, tlp1)]) &&
    keeps (.inboundTlp 0 { tlp1 with kind := .write, addr := 0xFFFFFFFFFF000, data := [2, 0, 0, 0] }) (io1) (fun u => u.msis.map (fun x => (x.1, x.2.1, x.2.2.1)) == [(7, 0, 2)]) &&
    !windowOk { io1 with winHeld := [] } 80 5 0x8000 .read && keeps (.inboundTlp 0 tlp1) { io1 with winHeld := [] } (fun u => fld (getCtx u 7).status 56 8 == 1 && fld (getCtx u 7).status 48 4 == 3)) = true := by
  decide +kernel
def out1 (k : OutKind) : OutReq := { kind := k, n := 0, idx := 4, pa := 0xFF00000000000, len := 8 }
theorem test_outbound : (linkOfAddr (io1) 0 0xFF00000000000 == some 0 && linkUp (io1) 0 0 && !agentDown (io1) 80 &&
    [OutKind.load, .peerRead].all (fun k => keeps (.outboundRequest 0 (out1 k)) (io1) (fun u => (getRp u 0).outst == [(out1 k, 1000)] && (getRp u 0).sent == [out1 k])) &&
    keeps (.outboundRequest 0 (out1 .lr)) (io1) (fun u => (getRp u 0).grants.map (·.n) == [0]) && [OutKind.store, .peerWrite].all (fun k => keeps (.outboundRequest 0 (out1 k)) (io1) (fun u => (getRp u 0).outst == [])) &&
    keeps (.outboundRequest 0 (out1 .sc)) (io1 (fun x => { x with grants := [{ n := 0, line := lineOfPa 0xFF00000000000, until_ := 9000 }] })) (fun u => (getRp u 0).sent == [out1 .sc]) &&
    keeps (.outboundRequest 0 (out1 .sc)) (io1) (fun u => (getRp u 0).sent == []) &&
    keeps (.outboundRequest 0 (out1 .load)) (io1 (fun x => { x with grants := [{ n := 1, line := lineOfPa 0xFF00000000000, until_ := 9000 }] })) (fun u => (getRp u 0).waiting == [out1 .load]) &&
    keeps (.outboundRequest 6 (out1 .load)) (io1) (fun _ => true)) = true := by decide +kernel
theorem test_outbound_ends : (idles (.outboundCompletion 0 0 { idx := 4 }) dev1 && keeps (.outboundCompletion 0 0 { idx := 4, data := [1] }) (io1 (fun x => { x with outst := [(out1 .load, 0)] })) (fun u => (getRp u 0).outst == []) &&
    keeps (.outboundCompletion 0 0 { idx := 4, data := [1] }) (io1 (fun x => { x with outst := [({ out1 .peerRead with ctx := some 7 }, 0)] })) (fun u => (getRp u 0).cpls.map (fun z => (z.1, z.2.2.2)) == [(4, false)]) &&
    idles (.cplTimeout 0 0) dev1 && keeps (.cplTimeout 0 0) { io1 (fun x => { x with outst := [(out1 .load, 0)] }) with plumb := { dev1.plumb with now := 100000000 } } (fun u => (getRp u 0).outst == [] && (getRp u 0).status.getLsbD 32) &&
    keeps (.grantRevoke 0 5) (io1 (fun x => { x with waiting := [{ out1 .load with pa := 0x140 }], grants := [{ n := 0, line := 5, until_ := 900 }] })) (fun u => (getRp u 0).grants == [] && u.outNet.length == 1) && idles (.grantRevoke 0 5) dev1) = true := by
  decide +kernel
theorem test_port_links : (keeps (.linkDown 0 0 false) (io1) (fun u => !linkUp u 0 0 && (getRp u 0).status.getLsbD 2) && idles (.linkDown 0 0 true) dev1 && linkExists (io1) 0 0 &&
    keeps (.linkUp 0 0 4 16) (io1 (fun x => { x with status := 0 })) (fun u => linkUp u 0 0 && fld (getRp u 0).status 3 3 == 4) && idles (.linkUp 0 0 4 16) (io1) &&
    keeps (.presenceChange 0 0 true) (io1) (fun u => (getRp u 0).status.getLsbD 6) && idles (.presenceChange 0 0 false) (io1) &&
    keeps (.perstRelease 0 0) { io1 (fun x => { x with perst := 0 }) with pins := { dev1.pins with pwrOk := 0xF } } (fun u => (getRp u 0).perst.getLsbD 0) && idles (.perstRelease 0 0) (io1 (fun x => { x with perst := 0 })) &&
    answerOverdue { homeTrk { trk1 with from_ := 1 } with plumb := { dev1.plumb with now := 1000000000 } } 16 0x200 0 && idles (.deadAgentTimeout 16 0x200 0) dev1) = true := by decide +kernel
def bif1 : State := io1 (fun x => { x with cfg := x.cfg ||| 1, status := 0x8080, perst := 3 })
theorem test_link_lost_premise : (linkUp bif1 0 0 && linkUp bif1 0 1) = true := by decide +kernel
/-- R76, R391, R396, R398. -/
def bind7 : CtlStore := ctl 0x40800E0 0x8000000500010100
theorem test_contexts : (stCtx bind7 == some (7, 0) && isCtxBind (io1) bind7 && keeps (.ctxBind bind7) (io1) (fun u => fld (getCtx u 7).ctl 0 19 == 0x10100 && fld (getCtx u 7).ctl 48 8 == 1 && (getCtx u 7).lastBind == some 1000) &&
    keeps (.ctxBind { bind7 with val := 0x8000000600010100 }) (io1) (fun u => u.ctxs == (io1).ctxs && u.gstat.getLsbD 0) &&
    keeps (.ctxBind bind7) { io1 with ctxs := [(7, { ctx7 with lastBind := some 900 })] } (fun u => (getCtx u 7).heldW == [bind7] && (getCtx u 7).ctl == ctx7.ctl) &&
    isCtxResume { bind7 with val := 0x9000000500000100 } && keeps (.ctxResume { bind7 with val := 0x9000000500000100 }) { io1 with ctxs := [(7, { ctx7 with ctl := 0xC000000500000100 })] } (fun u => !(getCtx u 7).ctl.getLsbD 62) &&
    isIoinv (ctl 0x4000100 0x3000000000000005) 3 && keeps (.ioinvDomain (ctl 0x4000100 0x3000000000000005)) { dev1 with ioDone := true } (fun u => !u.ioDone) &&
    isIoinv (ctl 0x4000100 0x1000000000000005) 1 && isIoinv (ctl 0x4000100 0x2000000000000005) 2 && isIoinv (ctl 0x4000100 0x4000000000000000) 4 &&
    keeps (.ioinvAll (ctl 0x4000100 0x4000000000000000)) { dev1 with ioDone := false } (fun u => u.ioWait.length == 1) &&
    keeps .ioinvDone { dev1 with ioDone := false } (fun u => u.ioDone) && idles .ioinvDone { dev1 with ioDone := true }) = true := by decide +kernel
def open5 : Packet := { path := .serial, seq := 1, opcode := 0x301, payload := [5, 0, 0, 0] ++ List.replicate 36 0, crc := 0 }
theorem test_rebind_delay : (goes (.rebindDelayExpiry (.core 0)) (devWith (fun c => { c with busy := .bindWait })) (fun t => (getCore t 0).busy == .none) &&
    bindTooSoon (devWith (fun c => { c with lastBind := some 900 })) 0 && idles (.rebindDelayExpiry (.core 0)) (devWith (fun c => { c with lastBind := some 900, busy := .bindWait })) &&
    idles (.rebindDelayExpiry (.context 7)) { io1 with ctxs := [(7, { ctx7 with lastBind := some 900, heldW := [bind7] })] } &&
    keeps (.rebindDelayExpiry (.context 7)) { io1 with ctxs := [(7, { ctx7 with heldW := [bind7] })] } (fun u => fld (getCtx u 7).ctl 0 19 == 0x10100 && (getCtx u 7).heldW == []) &&
    idles (.rebindDelayExpiry (.account 5)) dev1 && !accountHeld { dev1 with ks := { dev1.ks with heldOpen := some open5 } } 5) = true := by decide +kernel
/-- R402 to R407: channel 0. Its registers begin at the place that `stChan` finds. -/
def ch0 (f : Chan → Chan) : State := { io1 with chans := [(0, f { ctl := 0x8000000500000040, ring := 4 })] }
def chOff : State := ch0 (fun x => { x with ctl := 0x0000000500000040 })
theorem test_channels : ((stChan (ctl 0x2008000 0x8000000500000040)).isSome && stChan (ctl 0x2008000 0x8000000500000040) == some (0, 0) && isChEn (ctl 0x2008000 0x8000000500000040) true &&
    keeps (.chEnable (ctl 0x2008000 0x8000000500000040)) (ch0 (fun x => { x with ctl := 0x0000000500000040 })) (fun u => chEn (getChan u 0)) && isChEn (ctl 0x2008000 0x0000000500000040) false &&
    keeps (.chDisable (ctl 0x2008000 0x0000000500000040)) (ch0 id) (fun u => !chEn (getChan u 0) && chState (getChan u 0) == 0) && isChTdid chOff (ctl 0x2008000 0x8000000000000040) &&
    chRebinds chOff 0 0x8000000000000040 && keeps (.chTdidWrite (ctl 0x2008000 0x8000000000000040)) chOff (fun u => fld (getChan u 0).ctl 32 12 == 0 && fld (getChan u 0).ctl 48 8 == 1) &&
    keeps (.chTdidWrite (ctl 0x2008000 0x8000000000000040)) (ch0 (fun x => { x with ctl := 0x0000000500000040, lastBind := some 900 })) (fun u => (getChan u 0).heldW.length == 1) &&
    stChan (ctl 0x2008018 9) == some (0, 0x18) && keeps (.chTailWrite (ctl 0x2008018 9)) (ch0 id) (fun u => chTail (getChan u 0) == 9) && keeps (.chTailWrite (ctl 0x2008018 16)) (ch0 id) (fun u => chTail (getChan u 0) == 0 && u.gstat.getLsbD 0) &&
    idles (.dmaChunk 0) (ch0 (fun x => { x with status := 0x3000000000000000 })) && keeps (.dmaChunk 0) (ch0 id) (fun u => chState (getChan u 0) == 0) && idles (.dmaCompletion 0) dev1 &&
    keeps (.dmaCompletion 0) (ch0 (fun x => { x with cpls := [{ epoch := 1, desc := 0x8000, status := 1, irq := true }] })) (fun u => (getChan u 0).cpls == [] && u.srcs == [])) = true := by decide +kernel
def desc1 : List Byte := bytesOf 8 0x8000 ++ bytesOf 8 0x9000 ++ bytesOf 4 0x40 ++ List.replicate 12 0
def chRuns : State := { ch0 (fun x => { x with desc := some desc1, status := 0x1000000000000000 }) with
                        winHeld := [(32 * 65536 + 80, 0x1FF0008000000000000007)]
                        courses := [] }
theorem test_dma_chunk : (windowOk chRuns (chAgent 0) 5 0x8000 .read && windowOk chRuns (chAgent 0) 5 0x9000 .write && region chRuns 0x9000 == .dram && !pany (lineRead (lineNow chRuns 0x200) 0 64) &&
    goes (.dmaChunk 0) chRuns (fun u => (getChan u 0).desc == none && (getChan u 0).cpls.map (·.status) == [1] && chHead (getChan u 0) == 1)) = true := by decide +kernel
theorem test_inbound_read : (windowOk { io1 with winHeld := [(80 * 65536 + 80, 0x1FF0008000000000000007)] } 80 5 0x8000 .read && !pany (lineRead (lineNow (io1) 0x200) 0 4) &&
    goes (.inboundTlp 0 tlp1) { io1 with winHeld := [(80 * 65536 + 80, 0x1FF0008000000000000007)] } (fun u => (getRp u 0).cpls == [(3, [0x80, 0x81, 0x02, 0x03], false, false)]) &&
    goes (.inboundTlp 0 { tlp1 with kind := .write, data := [9, 8, 7, 6] }) { io1 with winHeld := [(80 * 65536 + 80, 0x1FF0008000000000000007)] } (fun u => (lineRead (lineNow u 0x200) 0 5).map (·.b) == [9, 8, 7, 6, 0x04])) = true := by
  decide +kernel


/-! ### The Keystone (R409 to R440, R461 to R468) -/

def pk (op : BitVec 16) (l : List Byte) : Packet :=
  let p : Packet := { path := .serial, seq := 1, opcode := op, payload := l, crc := 0 }
  { p with crc := BitVec.ofNat 32 (crc32c (packetBody p)) }
def ksq (p : Packet) (s : State := dev1) : State := { s with ks := { s.ks with queue := [p], serial := { busy := true } } }
/-- The packet in front is answered with a status and a payload of a length. -/
def answers (i : Instr) (p : Packet) (s : State) (st : BitVec 8) (P : State → Bool) : Bool :=
  atFront (ksq p s) p && keeps i (ksq p s) (fun t => t.ks.queue == [] && !t.ks.running && (match t.ks.serial.reply with | some l => l.getD 6 0 == st | none => false) && P t)
theorem test_queries : (answers .getState (pk 0x001 []) dev1 0 (fun t => (t.ks.serial.reply.map (·.length)) == some 38) && answers .identify (pk 0x002 []) dev1 0 (fun _ => true) &&
    answers .getCores (pk 0x003 (bytesOf 2 0 ++ bytesOf 2 1)) dev1 0 (fun t => (t.ks.serial.reply.map (fun l => l.getD 14 0)) == some (BitVec.ofNat 8 (coreState dev1 0))) &&
    answers .getCores (pk 0x003 (bytesOf 2 288 ++ bytesOf 2 1)) dev1 6 (fun _ => true) && answers .alerts (pk 0x004 []) dev1 0 (fun _ => true) &&
    answers .alerts (pk 0x004 (bytesOf 4 0 ++ bytesOf 4 0xF)) dev1 0 (fun t => t.ks.mask == 0xF) && answers .readMinute (pk 0x005 (bytesOf 4 9 ++ bytesOf 4 0)) dev1 6 (fun _ => true) &&
    answers .ackMinute (pk 0x006 (bytesOf 4 0)) dev1 0 (fun _ => true) && answers .ackMinute (pk 0x006 (bytesOf 4 9)) dev1 6 (fun _ => true) &&
    answers .serve (pk 0x201 []) dev1 7 (fun _ => true) && answers .serve (pk 0x201 [1]) dev1 5 (fun _ => true) && idles .serve dev1) = true := by decide +kernel
def fill1 (p : Phase) : State := { dev1 with ks := { dev1.ks with st := .filling, phase := p } }
theorem test_no_core_last (o : Nat) : coreLast dev1 o = false := rfl
theorem test_settings : (answers .setPlumb (pk 0x101 (bytesOf 8 5000)) (fill1 .config) 0 (fun t => t.plumb.now == 5000 && t.jrn.sets.map (·.at_) == [5000]) && answers .setPps (pk 0x102 [2, 1]) dev1 0 (fun t =>
      ppsMode t == 2 && t.plumb.ctl.getLsbD 3) &&
    answers .setMemcfg (pk 0x104 [1, 1]) (fill1 .config) 0 (fun t => t.ks.maxSpeed == 1 && t.ks.wantSpare) && answers .setPcie (pk 0x105 [2, 3, 5, 0]) (fill1 .config) 0 (fun t => fld (getRp t 2).cfg 0 2 == 3) &&
    answers .startFill (pk 0x106 []) (fill1 .config) 1 (fun t => t.ks.phase == .training) && answers .mboxAllow (pk 0x203 [0x0F]) dev1 0 (fun t => t.ks.allow == 0x0F) &&
    answers .setPower (pk 0x401 (bytesOf 2 300 ++ bytesOf 2 100 ++ bytesOf 2 10 ++ [0, 0])) dev1 0 (fun t => fld t.planCtl 0 16 == 300 && fld t.budCtl 0 10 == 10) &&
    answers .serve (pk 0x201 []) { dev1 with ks := { dev1.ks with st := .booting } } 0 (fun t => t.ks.st == .serving) &&
    answers .ledgerCfg (pk 0x603 ([1, 0] ++ bytesOf 2 2 ++ bytesOf 8 0x100000)) dev1 0 (fun t => ledSlots t == 2 && ledBase t == 0x100000 && ledEn t) &&
    answers .sealKey (pk 0x602 (List.replicate 32 7)) dev1 0 (fun t => t.led.key == some (List.replicate 32 7)) && atFront (ksq (pk 0x103 (bytesOf 2 0 ++ [0, 0] ++ bytesOf 4 1))) (pk 0x103 (bytesOf 2 0 ++ [0, 0] ++ bytesOf 4 1))) = true := by
  decide +kernel
theorem test_ktest : goes .ktest (ksq (pk 0x509 [0, 1])) (fun t => (getCore t 0).pctl.getLsbD 6) = true := by decide +kernel
/-- DOM_OPEN of domain 5 with ceilings of 100. -/
def dom5p (op : BitVec 16) : Packet := pk op ([5, 0, 0, 0] ++ (List.range 4).flatMap (fun _ => bytesOf 8 100) ++ [0x10, 0x10, 0x10, 0])
def has5 (f : Dom → Dom := id) : State := { dev1 with doms := [(5, f { ctl := 0x8000000000000000 })] }
theorem test_domains : (domParam (dom5p 0x301).payload == none && unsealedClose dev1 5 == none && answers .domOpen (dom5p 0x301) dev1 0 (fun t => domValid t 5 && domAcct t 5 == 1 && (getBud t 5).c0 == 100) &&
    keeps .domOpen (ksq (dom5p 0x301) { dev1 with doms := [(5, { lastBind := some 900 })] }) (fun t => t.ks.heldOpen.isSome && t.ks.running) &&
    answers .domClose (pk 0x302 [5, 0]) (has5) 0 (fun t => !domValid t 5) && answers .domClose (pk 0x302 [5, 0]) { has5 with cores := [(0, { core1 with dom := 5 })] } 7 (fun t => domValid t 5) &&
    answers .domBudget (dom5p 0x303) (has5) 0 (fun t => (getBud t 5).c3 == 100)) = true := by decide +kernel
theorem test_agents_and_memory : (atFront (ksq (pk 0x504 [80])) (pk 0x504 [80]) && goes .agentDead (ksq (pk 0x504 [80])) (fun t => isDead t 80 && t.ks.pending.getLsbD 7) &&
    answers .agentReturn (pk 0x505 [3]) { dev1 with cohDead := 8 } 1 (fun t => t.ks.agentRet.map (·.1) == [3]) &&
    answers .spareAck (pk 0x507 [3]) dev1 7 (fun _ => true) && answers .spareAck (pk 0x507 [3]) (mcdev (fun x => { x with spare := x.spare ||| 0x0800000000000000 })) 0 (fun t => spareState (getMc t 3) == 0) &&
    answers .devMark (pk 0x508 [3, 1, 0, 4]) dev1 0 (fun t => markOf (getMc t 3) 1 0 == some 4) && answers .devMark (pk 0x508 [3, 1, 0, 0xFF]) dev1 0 (fun t => markOf (getMc t 3) 1 0 == none) &&
    answers .spareStart (pk 0x506 [3, 0, 8, 0]) (mcdev (fun x => { x with cfg := 0x1080000000 ||| 0x11000000 ||| (1 <<< 22) ||| (2 <<< 27), spare := x.spare })) 1 (fun t => spareState (getMc t 3) == 1)) = true := by decide +kernel
/-- R461, R491: physical core 0 holds number 0; 1 is a spare. -/
def spare1 (f : Core → Core := id) : State :=
  { devWith f with phys := [(0, { st := .running, logical := some 0 }), (1, { st := .spare })], votes := [(0, 0x4000000000000001), (1, 0x4000000000000001)] ++ dev1.votes }
def rot1 : Rotation := { n := 0, from_ := 0, to_ := 1, reason := 0, packet := none, started := 0 }
theorem test_core_start : (atFront (ksq (pk 0x503 (bytesOf 8 0 ++ bytesOf 8 0x7000)) (spare1 (fun c => { c with run := .notStarted }))) (pk 0x503 (bytesOf 8 0 ++ bytesOf 8 0x7000)) &&
    physOf spare1 0 == some 0 && spareOf spare1 0 == some 1 && !courseBusy spare1 0 && idles (.rotationSwitch 0) dev1 && idles (.coreTestDone true) dev1 && idles (.agentReturnDone true 0) dev1 &&
    atFront (ksq (pk 0x501 [0, 0]) spare1) (pk 0x501 [0, 0]) && spareOf dev1 0 == none && answers (.coreRotate (true, true)) (pk 0x501 [0, 0]) dev1 12 (fun _ => true)) = true := by decide +kernel
theorem test_rotation : (drained (getCore spare1 0) && goes (.coreRotate (true, true)) (ksq (pk 0x501 [0, 0]) spare1) (fun t => (getCore t 0).rot && t.ks.running && t.ks.rots.map (fun r => (r.n, r.from_, r.to_)) == [(0, 0, 1)]) &&
    goes (.rotationSwitch 0) { spare1 (fun c => { c with rot := true }) with ks := { dev1.ks with rots := [rot1] } } (fun t => (getPhys t 1).logical == some 0 && t.ks.rots == []) &&
    idles (.rotationSwitch 0) { spare1 (fun c => { c with rot := true, accs := [acc1] }) with ks := { dev1.ks with rots := [rot1] } } &&
    goes (.autoRotation 0 (true, true)) (spare1 (fun c => { c with dead := some 0 })) (fun t => t.ks.rots.map (fun r => (r.n, r.to_)) == [(0, 1)] && (getCore t 0).rot) &&
    goes (.autoRotation 0 (true, true)) (devWith (fun c => { c with dead := some 0 })) (fun t => (getCore t 0).run == .unhoused)) = true := by decide +kernel
theorem test_core_return : (keeps .coreReturn (ksq (pk 0x502 [5, 0]) { dev1 with phys := [(5, { st := .dead })] }) (fun t => (t.ks.coreRet.map (·.1)) == some 5 && t.ks.running && pdState t 5 == 2) &&
    keeps (.coreTestDone false) { dev1 with ks := { dev1.ks with coreRet := some (5, pk 0x502 [5, 0]), running := true } } (fun t => t.ks.coreRet == none && (getPhys t 5).st == .dead) &&
    goes (.agentReturnDone true 0) { dev1 with cohDead := 8, ks := { dev1.ks with agentRet := [(3, pk 0x505 [3])] } } (fun t => t.ks.agentRet == [] && !isDead t 3)) = true := by decide +kernel
/-- R411 to R415: a GET_STATE packet on the serial port. -/
def bytes1 : List Byte := packetBody (pk 0x001 []) ++ bytesOf 4 (pk 0x001 []).crc.toNat
theorem test_paths : (malformed bytes1 == none && keeps (.kspWrite bytes1) dev1 (fun t => t.ks.queue == [pk 0x001 []] && t.ks.serial.busy) &&
    keeps (.kspWrite bytes1) (ksq (pk 0x001 [])) (fun t => t.ks.serial.overrun) && (malformed [1]).isSome && keeps (.kspWrite [1]) dev1 (fun t => t.ks.serial.rxerr && t.ks.queue == []) &&
    idles (.kspWrite bytes1) State.reset && idles .kspStatus State.reset && keeps (.kspRead 3) dev1 (fun t => t.ks.miso == [0, 0, 0]) &&
    keeps (.kspRead 1) { dev1 with ks := { dev1.ks with serial := { reply := some [7, 8] } } } (fun t => t.ks.miso == [7] && t.ks.serial.reply == some [7, 8]) &&
    keeps (.kspRead 2) { dev1 with ks := { dev1.ks with serial := { reply := some [7, 8] } } } (fun t => t.ks.miso == [7, 8] && t.ks.serial.reply == none) &&
    goes (.kspRead 2) { dev1 with ks := { dev1.ks with resetAt := some 0, serial := { reply := some [7, 8] } } } (fun t => t.ks.st == .cold) &&
    keeps .kspStatus dev1 (fun t => t.ks.miso == [statusByte dev1]) && keeps (.kspBadTransactionCode 9) dev1 (fun t => t.ks.serial.rxerr) &&
    isMbGo (ctl 0x10000 0x8000000000000000) && keeps (.mbGo (ctl 0x10000 0x800000000000000C)) dev1 (fun t => t.ks.mailbox.rxerr) &&
    keeps (.mbGo (ctl 0x10000 0x800000000000000C)) { dev1 with ks := { dev1.ks with mailbox := { busy := true } } } (fun t => t.ks.mailbox.overrun) &&
    isMbReady (ctl 0x10008 1) && keeps (.mbReadyRelease (ctl 0x10008 1)) { dev1 with ks := { dev1.ks with mailbox := { reply := some [7] } } } (fun t => t.ks.mailbox.reply == none)) = true := by decide +kernel

/-! ### Reset, start-up and power (R419, R441 to R460, R475, R481 to R510) -/

/-- Everything a run builds up is gone (R419, R502). -/
def isCold (s t : State) : Bool :=
  t.ks.st == .cold && t.ks.queue == [] && t.mem == [] && t.dramTop == 0 && !t.plumb.counting && t.cores == [] && t.net == [] && t.pending == s.pending
def pins1 (f : Pins → Pins) (s : State := dev1) : State := { s with pins := f s.pins }
theorem test_cold : (goes .resetNAssert dev1 (fun t => isCold dev1 t && !t.pins.resetN && t.ks.inReset) &&
    keeps .resetRelease (pins1 (fun x => { x with pwrOk := 1 }) State.reset) (fun t => !t.ks.inReset && t.pins.resetN && t.pins.flash) && idles .resetRelease (pins1 (fun x => { x with pwrOk := 0 }) State.reset) &&
    (match exec .resetRelease (pins1 (fun x => { x with testen := true })) with | .fault .testMode => true | _ => false) &&
    keeps (.pwrOkChange 2 true) dev1 (fun t => t.pins.pwrOk.getLsbD 2) && goes (.pwrOkChange 0 false) (pins1 (fun x => { x with pwrOk := 0xF })) (fun t => isCold dev1 t && t.ks.inReset) &&
    goes (.pwrOkChange 3 false) (pins1 (fun x => { x with pwrOk := 0xF, sampled := true })) (fun t => isCold dev1 t && !t.ks.inReset && t.pins.pwrOk == 7) &&
    keeps (.pwrOkChange 3 false) (pins1 (fun x => { x with pwrOk := 0xF, sampled := false })) (fun t => t.pins.pwrOk == 7) && idles .resetWaitExpiry dev1 &&
    goes .resetWaitExpiry { dev1 with ks := { dev1.ks with resetAt := some 5 }, plumb := { dev1.plumb with now := 10000005 } } (fun t => isCold dev1 t) &&
    idles .resetWaitExpiry { dev1 with ks := { dev1.ks with resetAt := some 5 }, plumb := { dev1.plumb with now := 10000004 } }) = true := by decide +kernel

/-! R486 to R494 -/

def boot1 : Boot := { version := 1, patch := [], host := [9, 8, 7], load := 0x8000, entry := 0x8004, ks := [] }
def cold1 (f : Ks → Ks) (counting : Bool := true) : State :=
  { State.reset with ks := f { State.reset.ks with inReset := false }, plumb := { State.reset.plumb with counting := counting } }
def at1 (p : Phase) (f : State → State := id) : State :=
  f { dev1 with ks := { dev1.ks with st := .filling, phase := p, boot := some boot1, filling := some (pk 0x106 []) }, pins := { dev1.pins with pwrOk := 0xF } }
def spd1 : ChanSpd := { ranks := 2 }
theorem test_boot : (keeps (.bootImageChecked (List.replicate 128 0xFF) none) (cold1 id) (fun t => t.ks.bootst == 2 && t.ks.boot == none) &&
    keeps (.bootImageChecked (List.replicate 128 1) (some (List.replicate 128 1))) (cold1 id) (fun t => t.ks.bootst == 3) && idles (.bootImageChecked [] none) dev1 &&
    keeps .plumbLockTimeout (cold1 id false) (fun t => t.ks.bootst == 5) && idles .plumbLockTimeout dev1 && idles .enterFilling dev1 &&
    keeps .enterFilling (cold1 (fun k => { k with boot := some boot1, bootst := 1 })) (fun t => t.ks.st == .filling && t.ks.phase == .config && t.ks.mask == 0xFFFFFFFF && pdState t 374 == 0)) = true := by
  decide +kernel
def failsWith (i : Instr) (code : BitVec 8) (s : State) : Bool := keeps i s (fun t => t.ks.phase == .failed && t.ks.bootst == code && t.ks.st == .filling && t.ks.filling == none)
theorem test_training : (failsWith .pwrOkTimeout 0x10 (at1 .training (fun s => { s with pins := { s.pins with pwrOk := 7 }, ks := { s.ks with fillAt := 0 }, plumb := { s.plumb with now := 20000000 } })) &&
    idles .pwrOkTimeout (at1 .training) && failsWith (.trainingDone (List.replicate 15 spd1)) 0x11 (at1 .training) &&
    failsWith (.trainingDone (List.replicate 15 spd1 ++ [{ spd1 with speed := 1 }])) 0x11 (at1 .training) &&
    failsWith (.trainingDone (List.replicate 15 spd1 ++ [{ spd1 with failed1 := [0], failed2 := [0] }])) 0x12 (at1 .training) && idles (.trainingDone []) dev1 &&
    keeps (.trainingDone (List.replicate 15 spd1 ++ [{ spd1 with failed1 := [0] }])) (at1 .training) (fun t => t.ks.phase == .fill && t.dramTop == 0x10000000000 &&
      (getMc t 15).cfg == 0x4010BE0002)) = true := by decide +kernel
theorem test_fill_and_init : (failsWith (.fillDone false) 0x13 (at1 .fill) && goes (.fillDone true) (at1 .fill) (fun t => t.ks.phase == .init && t.mem == []) && idles (.fillDone true) dev1 &&
    idles (.initDone []) dev1 && idles (.core0Release []) dev1) = true := by decide +kernel
theorem test_init : goes (.initDone []) (at1 .init (fun s => { s with phys := [] })) (fun t => physOf t 0 == some 0 && physOf t 255 == some 286 && (getCourse t 0).l2 == [] && t.ks.phase == .init &&
    (getPhys t 8).st == .spare) = true := by decide +kernel
theorem test_init_refuses : goes (.initDone []) (at1 .init (fun s => { s with phys := [], dramTop := 0x8002 })) (fun t => t.ks.phase == .failed && t.ks.bootst == 0x15) = true := by decide +kernel
theorem test_core0_release : goes (.core0Release [(true, true)]) (at1 .init) (fun t => t.ks.st == .booting && (getCore t 0).pc == 0x8004 && (getCore t 0).run == .run &&
    (lineRead (lineNow t 0x200) 0 4).map (·.b) == [9, 8, 7, 3]) = true := by decide +kernel

/-! R441 to R451 -/

/-- Power domain 369 in a state, with no vote but the given. -/
def pd369 (st : Nat) (step : Nat := 0) (ks : Nat := 0) : State :=
  { dev1 with votes := [(369, BitVec.ofNat 64 (st * 2 ^ 61 + ks * 2))] ++ dev1.votes, offStep := if step = 0 then [] else [(369, step)] }
def stepOf (s : State) : Nat := tget (fun _ => 0) s.offStep 369
theorem test_votes : (!votesHeld (pd369 2) 369 && votesHeld (pd369 0 0 1) 369 && keeps (.voteChange 369) (pd369 2) (fun t => pdState t 369 == 1 && stepOf t == 1) &&
    keeps (.voteChange 369) (pd369 0 0 1) (fun t => pdState t 369 == 3) && keeps (.voteChange 369) (pd369 1 3 1) (fun t => pdState t 369 == 2 && stepOf t == 0) &&
    idles (.voteChange 369) (pd369 2 0 1) && idles (.voteChange 369) (pd369 0) && idles (.voteChange 375) dev1) = true := by decide +kernel
theorem test_off_entry : (idles (.powerOffEntry 369) (pd369 2) && pdDrained (pd369 1 1) 369 && keeps (.powerOffEntry 369) (pd369 1 1) (fun t => stepOf t == 2 && pdState t 369 == 1) &&
    keeps (.powerOffEntry 369) (pd369 1 2) (fun t => stepOf t == 3) && keeps (.powerOffEntry 369) (pd369 1 3) (fun t => stepOf t == 4) && keeps (.powerOffEntry 369) (pd369 1 4) (fun t => stepOf t == 0 && pdState t 369 == 0) &&
    keeps (.powerOffEntry 369) (pd369 1 2 1) (fun t => pdState t 369 == 2) && keeps (.powerUp 369 (true, true)) (pd369 3 0 1) (fun t => pdState t 369 == 2) && idles (.powerUp 369 (true, true)) (pd369 0)) = true := by
  decide +kernel
theorem test_course_off : goes (.powerOffEntry 295) { dev1 with votes := [(295, 0x2000000000000000)], offStep := [(295, 2)] } (fun t => tget (fun _ => 0) t.offStep 295 == 3) = true := by decide +kernel
/-- The core of physical core 0 naps, and nothing votes for its domain. -/
def naps (v : Word64) (s : Nat) : State := { devWith (fun c => { c with run := .nap, corePwr := 1, napAt := 0 }) with
  votes := [(0, v)] ++ dev1.votes, offStep := if s = 0 then [] else [(0, s)] }
theorem test_core_power : (!coreVote (naps 0x4000000000000000 0) 0 && !votesHeld (naps 0x4000000000000000 0) 0 && keeps (.napOffDelayExpiry 0) (naps 0x4000000000000000 0) (fun t => pdState t 0 == 1) &&
    idles (.napOffDelayExpiry 0) dev1 && pdState (naps 2 0) 288 == 2 && pdCore (naps 2 0) 0 == some 0 && votesHeld (naps 2 0) 0 && goes (.powerUp 0 (true, true)) (naps 2 0) (fun t => pdState t 0 == 2)) = true := by decide +kernel

/-! R452 to R458, R475, R481 to R485, R506 -/

theorem test_regulators : (keeps (.pmbusPoll [some { tempC := 40, voutMv := 800, iout10 := 10, status := 0 }, none]) { dev1 with pmbMap := [(0, 0x4000), (1, 0x4100)] } (fun t =>
      (tget (fun _ => none) t.regs 0).isSome && tget (fun _ => 0) t.noAns 0 == 0 && tget (fun _ => 0) t.noAns 1 == 1) && idles (.pmbusPoll []) State.reset) = true := by decide +kernel
theorem test_voltage : (idles (.sensorReading 86 0) dev1 && idles (.thermtrip 86 2000) dev1 && idles (.voltageSettled 3) dev1 &&
    (let s := { dev1 with courses := [(1, { settle := some 0 })], plumb := { dev1.plumb with now := 2000 } }; (getCourse s 1).settle == some 0 && 2000 ≤ plumbOf s 1) &&
    idles (.voltageSettled 0) { dev1 with courses := [(0, { settle := some 0 })], plumb := { dev1.plumb with now := 1999 } }) = true := by decide +kernel
theorem test_trip_premise : 1080 ≤ (1080 - calFuse 3) + calFuse 3 := by omega
/-- Channel 2 has counted 6 reads in its window. -/
def bw2 : State := { dev1 with banks := [], bwNow := [(132, 6)], bwAt := [(66, 0)], plumb := { dev1.plumb with now := 5000000 } }
theorem test_freeze_and_snapshot : (isFreeze dev1 (ctl 0xE000 0x4000000000000000) && isSnap (ctl 0xE000 0x8000000000000000) &&
    keeps (.freezeWrite (ctl 0xE000 0x4000000000000000)) dev1 (fun t => t.pmGlobal.getLsbD 62 && t.frzT == 5000 && t.frzWait == allBanks) &&
    keeps (.snapWrite (ctl 0xE000 0x8000000000000000)) dev1 (fun t => t.pmGlobal.getLsbD 63 && t.snapT == 5000 && t.snapWait == allBanks)) = true := by decide +kernel
theorem test_counter_instants : (idles (.counterInstant (.course 3)) dev1 &&
    keeps (.counterInstant (.course 3)) { dev1 with snapWait := [3, 4], snapT := 900 } (fun t => t.snapWait == [4]) &&
    idles (.counterInstant (.course 3)) { dev1 with snapWait := [3, 4], snapT := 1001 } &&
    goes (.counterInstant (.core 0)) { dev1 with frzWait := [256], frzT := 900, pmGlobal := 0x4000000000000000 } (fun t => t.frzWait == [] && (getCore t 0).frozen) &&
    idles (.bwWindowBoundary (.course 3)) dev1 && keeps (.bwWindowBoundary (.channel 2)) bw2 (fun t => tget (fun _ => 0) t.bwNow 132 == 0 && fld (bkGet t 66 17) 0 48 == 6 && fld (bkGet t 66 16) 48 16 == 1)) = true := by
  decide +kernel
theorem test_tap : (keeps .tapIdcode dev1 (fun t => tapRegister t == (List.range 32).map (fun i => (0x10256A73 : BitVec 32).getLsbD i)) && keeps .tapBypass dev1 (fun t => tapRegister t == [false]) &&
    keeps (.tapSamplePreload [true, false]) dev1 (fun t => tapRegister t == [true, false] && t.pins.driven == none) &&
    [Instr.tapExtest, .tapExtestPulse, .tapExtestTrain].all (fun i => keeps i (pins1 (fun x => { x with bound := [true], resetN := false })) (fun t => t.pins.driven == some [true]) &&
      keeps i (pins1 (fun x => { x with bound := [true], resetN := true })) (fun t => t.pins.driven == none))) = true := by decide +kernel

/-! ### The queue and the state after reset -/

theorem test_step_runs : step { dev1 with pending := [.tapBypass, .sev y0] } = exec .tapBypass { dev1 with pending := [.sev y0] } := rfl
theorem test_step_idles : (match step { dev1 with plumb := { dev1.plumb with now := 5 } } with | .next t => t.pending == [] && same dev1 t | _ => false) = true := by decide +kernel
theorem test_reset : (State.reset.pending == [] && State.reset.ks.st == .cold && State.reset.mem == [] && (getCore State.reset 9).level == .h && !(getCore State.reset 9).ie &&
    domValid State.reset 0 && !domValid State.reset 7) = true := by decide +kernel
theorem test_line_written : (memRead (memSetLine dev1 0x203 line1) (0x203 * 64) == 0x80 && memRead (memSetLine dev1 0x203 line1) (0x204 * 64) == 0 &&
    (memSetLine (memSetLine dev1 0x203 line1) 0x203 {}).mem == dev1.mem) = true := by decide +kernel
theorem test_queue_kept : goes (.hubSetpend (ctl 0x100010 64)) { dev1 with pending := [.tapBypass] } (fun t => t.pending == [.tapBypass]) = true := by decide +kernel
theorem test_front_word : (decodeTableWord 8 0 == none && State.reset.withFetchWord 8 0 == State.reset) = true := by decide +kernel

/-! ### Syllables of a core's code, S U OP D A B Q written out by R88 -/

theorem test_word_integer : (decodeSyl 3 0b1_000_000011_000010_000010_000011_0000 none == .sub { n := 3, d := 2, a := 2, b := 3 } &&
    decodeSyl 3 0b1_001_100011_000100_000101_000110_0000 none == .div { n := 3, a1 := true, d := 4, a := 5, b := 6 }) = true := by decide +kernel
theorem test_word_units : (decodeSyl 3 0b0_010_000110_000111_001000_001001_0000 none == .ld64 { n := 3, d := 7, a := 8, b := 9, s := false } &&
    decodeSyl 3 0b1_011_010101_000001_000010_000011_0000 none == .fma { n := 3, d := 1, a := 2, b := 3 } &&
    decodeSyl 3 0b1_100_010001_000101_000010_010000_0000 none == .mtsTdid { n := 3, d := 5, a := 2, b := 16 }) = true := by decide +kernel
theorem test_word_extension : decodeSyls 3 [0b0_000_011000_000011_000000_000000_1000, 0b1_111_1010101111001101111011110001, 0b1_111_0000000000000000000000000000] =
    [.ldi { n := 3, d := 3, q := 8, x := some 0xABCDEF1 }, .nop { n := 3, odd := some .x }] := by decide +kernel
theorem test_word_reserved : (decodeSyl 3 0b1_101_000000_000000_000000_000000_0000 none == .nop { n := 3, odd := some (.unit 5) } &&
    decodeSyl 3 0b1_000_000001_000000_000000_000000_0000 none == .nop { n := 3, odd := some (.op 0 1) }) = true := by decide +kernel

/-! ### Commands that no sender can form: each check of WellFormed refuses one, and takes its neighbour -/

theorem test_wf_words : ((Instr.ld64 { y0 with a1 := true }).wf == false && (Instr.ld64 y0).wf && (Instr.add { y0 with a1 := true }).wf) = true := by decide +kernel
theorem test_wf_stores : ((Instr.ctlWrite (ctl 0x108 0 17)).wf == false && (Instr.ctlWrite (ctl 0x108 0 0)).wf == false && (Instr.ctlWrite (ctl 0xFFFFFFFFFC 0)).wf == false &&
    (Instr.ctlWrite { ctl 0x108 0 with stamp := 2 ^ 64 }).wf == false && (Instr.ctlWrite (ctl 0x108 0)).wf) = true := by decide +kernel
theorem test_wf_agents : ((Instr.setMark 90).wf == false && (Instr.setMark 89).wf && (Instr.rdS { msg1 with src := 90 }).wf == false && (Instr.rdS { msg1 with dst := 90 }).wf == false &&
    (Instr.rdS { msg1 with req := 90 }).wf == false && (Instr.rdS msg1).wf && (Instr.dataS msg1).wf == false && (Instr.dataS { msg1 with data := some line1 }).wf &&
    (Instr.windowHolderUpdate 33 5 0).wf == false && (Instr.windowHolderUpdate 36 5 0).wf && (Instr.dryNotice 200 5 0 0).wf == false && (Instr.dryNotice 256 5 0 0).wf &&
    (Instr.plumbSync [(90, 1)]).wf == false && (Instr.plumbSync [(89, 1)]).wf && (Instr.memoryRequest 3 { rd1 with src := 90 }).wf == false && (Instr.memoryRequest 3 rd1).wf &&
    (Instr.usageReport { agent := 90, tdid := 5, r := 0, amount := 1, stamp := 0 }).wf == false && (Instr.usageReport { agent := 3, tdid := 5, r := 0, amount := 1, stamp := 0 }).wf) = true := by
  decide +kernel
theorem test_wf_units : ((Instr.cplTimeout 6 4).wf == false && (Instr.cplTimeout 5 4).wf && (Instr.voteChange 375).wf == false && (Instr.voteChange 374).wf && (Instr.sensorReading 86 0).wf == false &&
    (Instr.sensorReading 85 0).wf && (Instr.initDone [288]).wf == false && (Instr.initDone [287]).wf && (Instr.seqSample 0 (List.replicate 10 (0, 0))).wf == false && (Instr.seqSample 0 [(0, 0)]).wf &&
    (Instr.counterInstant (.port 6)).wf == false && (Instr.counterInstant (.port 5)).wf && (Instr.arbPhase (.rp 6)).wf == false && (Instr.arbPhase (.rp 5)).wf) = true := by decide +kernel
theorem test_wf_lengths : ((Instr.refill 5 0 [1, 2, 3]).wf == false && (Instr.refill 5 0 [1, 2, 3, 4]).wf && (Instr.trainingDone []).wf == false && (Instr.pmbusPoll []).wf == false &&
    (Instr.finalReport 3 (2 ^ 32)).wf == false && (Instr.finalReport 3 7).wf && (Instr.linkUp 0 0 4 3).wf == false && (Instr.linkUp 0 0 4 4).wf &&
    (Instr.outboundRequest 0 { out1 .load with len := 0 }).wf == false && (Instr.outboundRequest 0 { out1 .load with len := 65 }).wf == false && (Instr.outboundRequest 0 { out1 .store with data := [1] }).wf == false &&
    (Instr.outboundRequest 0 (out1 .load)).wf && (Instr.inboundTlp 0 { tlp1 with len := 4097 }).wf == false && (Instr.inboundTlp 0 { tlp1 with kind := .write }).wf == false && (Instr.inboundTlp 0 tlp1).wf &&
    (Instr.outboundCompletion 0 0 { idx := 4, data := List.replicate 65 0 }).wf == false && (Instr.outboundCompletion 0 0 { idx := 4, data := [1] }).wf) = true := by decide +kernel

theorem test_wf_atomics : ([({ op := .add, wid := 2, off := 0, opnd := 1 } : AtomicReq), { op := .add, wid := 8, off := 4, opnd := 1 }].all (fun a => (Instr.hat { msg1 with atomic := some a }).wf == false) &&
    (Instr.hat { msg1 with atomic := some { op := .add, wid := 8, off := 8, opnd := 1 } }).wf) = true := by decide +kernel

/-! ### Premises that rest on where a line, a queue or a turn stands -/

/-- R259: channel 0's lines, the ring's slot and the boot image's first line are to be had; a line with an open transaction is not. -/
theorem test_engine_lines : (readable chRuns 0x200 (chAgent 0) && linesFree chRuns 0x9000 64 (chAgent 0) && linesFree (jdev id) (jrnBase (jdev id)) 32 agJrn &&
    linesFree (at1 .init) 0x8000 3 agKs && readable (io1) 0x200 80 && linesFree (io1) 0x8000 4 80 && !readable (homeTrk trk1) 0x200 agKs && !linesFree (homeTrk trk1) 0x8000 4 80) = true := by decide +kernel
/-- R309: with nothing pending an arbiter lets a requester through; one whose count is lower waits. -/
def mcTwo : State := { dev1 with memNet := [memq 5 1, memq 6 2], arbs := [(3, { cnt := [(5, 2), (6, 9)], grant := some 6 })] }
def rpTwo : State := { io1 with arbs := [(arbKey (.rp 0), { grant := some 6 })] }
theorem test_turns : (!memBehind dev1 3 rd1 && arbAllows dev1 (.mc 3) (memRequester rd1) && idles (.memoryRequest 3 (memq 5 1).2) mcTwo &&
    goes (.memoryRequest 3 (memq 6 2).2) mcTwo (fun t => t.memNet == [memq 5 1]) && arbAllows (io1) (.rp 0) 5 && (getRp (io1) 0).inq.isEmpty && arbAllows (io1) (.rp 0) (outRequester (out1 .load)) &&
    !outBehind (io1) 0 (out1 .load) && arbAllows chRuns (.dma 0) 5) = true := by decide +kernel
/-- R73, R365: the scrubber's turn comes with the arbiter's grant. -/
theorem test_scrub_turn : (arbAllows (modMc dev1 3 (fun x => { x with scrubWait := true })) (.mc 3) (4096 + (64 + 3)) &&
    keeps (.scrubLine 3 []) mcTwo (fun t => (getMc t 3).scrubWait)) = true := by decide +kernel
/-- R516: with two sets in progress the mark of an agent belongs to the first that lacks it. -/
theorem test_set_marks : (keeps (.setMark 3) { dev1 with agents := [(3, { marks := [0] })], jrn := { dev1.jrn with sets := [{ at_ := 0, marks := [3] }, { at_ := 9 }] } } (fun t =>
      t.jrn.sets.map (·.marks) == [[3], [3]]) &&
    keeps (.journalRecord 3) (jdev (fun j => { j with sets := [{ at_ := 0, marks := [3] }] })) (fun t => t.jrn.sets.map (fun h => h.post) == [[rec1]] && t.jrn.flight == [])) = true := by decide +kernel
/-- R232 to R236: page 8 of tables is line 0x201; entry 8 is a leaf with the rights, a pointer at level 2, or not present. -/
def devWalk (lvl : Nat) (pte : Nat) : State :=
  { devWith (fun c => { c with level := .s, walk := some { walk1 with guest := false, lvl := lvl, lin := if lvl = 1 then 0x8000 else 0x1000000 } }) with
    courses := [(0, { l2 := [(16 * 0x201, { st := .m, line := 0x201, data := { bits := BitVec.ofNat 512 pte } })] })], winHeld := [(80, 0x1FF0000000000000000007)] }
theorem test_walk_entries : (windowOk (devWalk 1 0x801F) (courseOf (devWalk 1 0x801F) 0) 0 0x8040 .read &&
    goes (.walkEntryRead 0) (devWalk 1 0x801F) (fun t => (getCore t 0).walk == none && (getCore t 0).l2tlb.map (fun e => (e.pte, e.lvl, e.vpn)) == [(0x801F, 1, 8)]) &&
    goes (.walkEntryRead 0) (devWalk 2 0x9001) (fun t => (getCore t 0).walk.map (fun w => (w.lvl, w.table)) == some (1, 9)) &&
    goes (.walkEntryRead 0) (devWalk 1 0) (fun t => (getCore t 0).walk == none && (getCore t 0).trap == some { code := 0x10, addr := 0x8000, pc := 0x4000 })) = true := by decide +kernel
/-- R201: mode 0, the handler's line in the course's L2. -/
def devFill : State := devWith (fun c => { c with level := .s, ffill := true, tentry1 := 0x8000, sg := [(0, 0x0000FFFFFFFFFFFF8005000000000000)],
                                                  itlb := [{ guest := true, tag := 0, asn := 0, lvl := 1, vpn := 8, pte := 0x800F }] })
theorem test_class_f_fill : ((match segCheck (readSg (getCore devFill 0) 0) 0x8000 4 .fetch .s with | .ok l => l == 0x8000 | _ => false) &&
    (match checkPart devFill 0 .fetch .s false 0x8000 64 with | (.ok _ [p], _) => p.mt == .cached && lineOfPa p.pa == 0x200 | _ => false) &&
    goes (.classFFillDone 0) devFill (fun t => (getCore t 0).fready && !(getCore t 0).ffill && (getCore t 0).fbuf.map (fun f => (f.handler, f.line)) == some (0x8000, 0x200))) = true := by decide +kernel
/-- R130 to R134: MOVB of 16 bytes within the data line, at H with segment 1 of no translation. -/
def blk16 : Blk := { op := .movb, esz := 1, seg5 := 1, seg6 := 1 }
def devMov : State := devWith (fun c => writeG (writeG (writeG { c with blk := some blk16 } 4 { v := 16 }) 5 { v := 0x8000 }) 6 { v := 0x8020 })
def chunkOk (s : State) (n : Nat) (b : Blk) (cnt : Nat) : Bool :=
  match routineFetch s n (blkRoutine b) with
  | none => false
  | some u =>
    match blkParts (modCore s n (fun c => { c with uaddr := some u })) n b with
    | (.ok (k, p5, p6), s2) => k == cnt && !blkFull s2 n b p6 &&
        (match microRead n .load (tagOf (getCore s n)) (epochTag (getCore s n)) ((getCore s n).level == .h)
            (p5 ++ (if b.op == .cmpb then p6 else [])) (blkUse s2 n b (p5 ++ p6)) with
          | (some d, _) => !pany d
          | _ => false)
    | _ => false
theorem test_chunk_commits : (chunkOk devMov 0 blk16 16 && goes (.blockChunk 0 false) devMov (fun t => let c := getCore t 0
      (readG c 4).v == 0 && (readG c 5).v == 0x8010 && (readG c 6).v == 0x8030 && c.blk == none && c.pc == 0x4004 &&
      c.sb.flatMap (fun e => e.bytes.map (fun b => b.b)) == [0x80, 0x81, 2, 3, 4, 5, 6, 7] ++ List.replicate 8 0)) = true := by decide +kernel
/-- R275, R21: an engine's request that waits is sent again; an answer for a down course is counted, or makes its line LOST. -/
def eng1 (e : Nat) : OpenReq := { req1 e with msg := { (req1 e).msg with src := 86, dst := 48 } }
def down1 : Msg := { ack .agentDown with origin := .fwdO }
theorem test_engine_retries : (sends (.retryBackoffExpiry 86 0x200) { dev1 with engReqs := [eng1 900] } (fun l => l.map (fun q => (q.kind, q.dst)) == [(.rdS, 48)]) &&
    keeps (.hDone { mine .load with dst := 86, core := none }) { dev1 with engReqs := [{ eng1 900 with msg := { (eng1 900).msg with idx := 1 } }] } (fun t => t.engReqs == []) &&
    keeps (.retry { data1 with dst := 86, line := 0x200, origin := .rdS }) { dev1 with engReqs := [{ eng1 900 with backoff := none }] } (fun t => t.engReqs.map (fun r => r.backoff.isSome) == [true]) &&
    keeps (.agentDown down1) (home1 [] [] [{ trk1 with from_ := 3 }]) (fun t => (getSlice t 16).trk.map (·.from_) == [2]) &&
    keeps (.agentDown down1) (home1 [(20 * set1, { owned1 with holders := 0 })] [] [{ trk1 with from_ := 1 }]) (fun t =>
      (dirFind (getSlice t 16) 0x200).map (fun e => e.2.st) == some .lost && t.memNet.map (fun r => (r.2.line, r.2.write)) == [(0x200, true)])) = true := by decide +kernel
/-- R409: RESET is answered, and the wait of 10 ms begins. -/
theorem test_reset_command : answers .reset (pk 0x202 []) dev1 0 (fun t => t.ks.resetAt == some 1000 && !t.pins.sampled) = true := by decide +kernel
/-- R219: with no image staged a load is good. -/
theorem test_loads : (loadGood dev1 (true, true) && loadGood spare1 (true, true)) = true := by decide +kernel
/-- R40: the generator has a nanosecond to make good up to its replica, and no further. -/
theorem test_pace_due : (paceDue (devWith (fun c => { c with plNow := true })) 0 && !paceDue (devWith (fun c => { c with plNow := true, paceAt := 1001 })) 0 && idles (.paceGeneratorTick 0) (devWith (fun c => { c with plNow := true, paceAt := 1001 }))) = true := by decide +kernel
/-- R292: a report stamped beyond the next boundary waits for it. -/
theorem test_report_waits : idles (.usageReport { use1 with stamp := 2000000000 }) { dom5 10 with reports := [{ use1 with stamp := 2000000000 }] } = true := by decide +kernel
/-- R30, R69: a half of WINDOW that the Keystone set last, and one that it did not; an update that another holder's comes before. -/
theorem test_window_premises : (!ksLastAt dev1 (winRegOff 5 0) && !ctlBehind dev1 (ctl 0x200B00 7) && idles (.windowHolderUpdate 3 6 0) { dev1 with winMsgs := [(3, 80, 7, 0), (3, 96, 8, 0)] } &&
    ksLastAt { dev1 with ctlLast := [(0x108, some (5, 0, true, 0))] } 0x108) = true := by decide +kernel
/-- R335: a minute with a slot: the close waits for the slot's lines. -/
def closing2 : Closing := { closing1 with head := List.replicate 40 0, slot := some 0 }
def sealing : State := { ready1 with led := { ready1.led with closing := some closing2 } }
theorem test_seal_premise : (closing2.head.length == 40 && linesFree sealing (slotAddr sealing 0 + 0x40000) 128 agJrn &&
    goes .minuteSealed sealing (fun t => t.led.closing == none && t.led.chain.isSome)) = true := by decide +kernel
theorem test_boundary_refills : ((validDomains (dom5 (-30))).Nodup ∧ 1000 < nextBoundary (dom5 0)) := by decide +kernel

/-- R21: registers of a dead course and of a dead port; the function contexts answer. -/
theorem test_control_of_down_agent : (ctlDown devDead 0x1000800 && !ctlDown devDead 0x1010800 && !ctlDown devDead 0x30 && !ctlDown dev1 0x1000800 &&
    ctlDown { dev1 with cohDead := 0x100000000 } 0x4000000 && !ctlDown { dev1 with cohDead := 0x100000000 } 0x4000100 && !ctlDown { dev1 with cohDead := 0x100000000 } 0x4080000 &&
    !ownRow devDead (ctl 0x1000910 7) && idles (.ctlWrite (ctl 0x1000910 7)) devDead && !idles (.ctlWrite (ctl 0x1000910 7)) dev1 &&
    (ctlLoad devDead 0 0x1000800 8).2.free == devDead.free + 1 && (ctlLoad dev1 0 0x1000800 8).1 == 0) = true := by decide +kernel

end Sys2Proof.Machine
end

section
/-! SUPPORT. Fields of a word, what a journal record changes, and what leaves every register and every byte of DRAM. -/
namespace Sys2Proof.Timing
open Sys2Proof Sys2Proof.Machine

/-! ### Fields of a word -/

/-- Bit `i` of a word whose field of `n` bits from `lo` was replaced. -/
theorem getLsbD_fldSet (x : Word64) (lo n v i : Nat) (hi : i < 64) :
    (fldSet x lo n v).getLsbD i = if lo ≤ i ∧ i < lo + n then v.testBit (i - lo) else x.getLsbD i := by
  unfold fldSet
  simp only [BitVec.getLsbD_or, BitVec.getLsbD_and, BitVec.getLsbD_not, BitVec.getLsbD_ofNat, Nat.testBit_shiftLeft, Nat.testBit_two_pow_sub_one,
    Nat.testBit_mod_two_pow, hi, decide_true, Bool.true_and]
  by_cases h1 : lo ≤ i
  · by_cases h2 : i < lo + n
    · have : i - lo < n := by omega
      simp [h1, h2, this]
    · have : ¬i - lo < n := by omega
      simp [h2, this]
  · simp [h1]

theorem testBit_fld {w : Nat} (x : BitVec w) (lo n i : Nat) : (fld x lo n).testBit i = (decide (i < n) && x.getLsbD (lo + i)) := by
  unfold fld
  rw [BitVec.testBit_toNat, BitVec.getLsbD_extractLsb']

/-- A field reads as the low bits of what was put there. -/
theorem fld_fldSet_same (x : Word64) {lo n : Nat} (v : Nat) (h : lo + n ≤ 64) : fld (fldSet x lo n v) lo n = v % 2 ^ n := by
  refine Nat.eq_of_testBit_eq fun i => ?_
  rw [testBit_fld, Nat.testBit_mod_two_pow]
  by_cases hi : i < n
  · rw [getLsbD_fldSet _ _ _ _ _ (by omega), if_pos ⟨by omega, by omega⟩, Nat.add_sub_cancel_left]
  · simp [hi]

/-- A field outside the one replaced reads as before. -/
theorem fld_fldSet_ne (x : Word64) {lo n lo' n' : Nat} (v : Nat) (h : lo' + n' ≤ lo ∨ lo + n ≤ lo') : fld (fldSet x lo n v) lo' n' = fld x lo' n' := by
  refine Nat.eq_of_testBit_eq fun i => ?_
  rw [testBit_fld, testBit_fld]
  by_cases hi : i < n'
  · by_cases h64 : lo' + i < 64
    · rw [getLsbD_fldSet _ _ _ _ _ h64, if_neg (by omega)]
    · rw [BitVec.getLsbD_of_ge _ _ (by omega), BitVec.getLsbD_of_ge _ _ (by omega)]
  · simp [hi]

theorem testBit_b2n (v : Bool) : (b2n v).testBit 0 = v := by cases v <;> rfl

/-! ### What a journal record changes (R318 to R322) -/

/-- A queued record changes its agent and the count of dropped records, and nothing else. -/
theorem putRec_eq (s : State) (a stamp cls : Nat) (t : Tdid) (p : List Byte) :
    ∃ ag q, putRec s a stamp cls t p = { s with agents := ag, jrn := { s.jrn with qDrop := q } } := by
  unfold putRec
  dsimp only
  split
  · exact ⟨_, s.jrn.qDrop, rfl⟩
  · exact ⟨_, _, rfl⟩

theorem putRecs_eq (l : List (List Byte)) (s : State) (a stamp cls : Nat) (t : Tdid) :
    ∃ ag q, l.foldl (fun s p => putRec s a stamp cls t p) s = { s with agents := ag, jrn := { s.jrn with qDrop := q } } := by
  induction l generalizing s with
  | nil => exact ⟨s.agents, s.jrn.qDrop, rfl⟩
  | cons p r ih =>
    obtain ⟨_, _, e⟩ := putRec_eq s a stamp cls t p
    rw [List.foldl_cons, e]
    exact ih _

/-- A journal record changes its agent and the count of dropped records, and nothing else. -/
theorem jrn_eq (s : State) (a cls : Nat) (t : Tdid) (p : List Byte) :
    ∃ ag q, jrn s a cls t p = { s with agents := ag, jrn := { s.jrn with qDrop := q } } := by
  unfold jrn
  dsimp only
  split
  · exact ⟨s.agents, s.jrn.qDrop, rfl⟩
  · obtain ⟨_, _, e⟩ := putRec_eq (stamped s a) a (stampOf s a) cls t ‹_›
    rw [e]
    exact putRecs_eq _ _ _ _ _ _

/-! ### What leaves the registers and DRAM -/

theorem regsKept_refl (s : State) : RegsKept s s := ⟨fun _ => rfl, fun _ => rfl⟩

theorem regsKept_trans {s t u : State} (h : RegsKept s t) (k : RegsKept t u) : RegsKept s u :=
  ⟨fun n => (k.cores n).trans (h.cores n), fun a => (k.bytes a).trans (h.bytes a)⟩

/-- What leaves the tables of cores and of DRAM leaves every register and every byte. -/
theorem regsKept_of_tables {s t : State} (hc : t.cores = s.cores) (hm : t.mem = s.mem) : RegsKept s t :=
  ⟨fun k => by unfold getCore; rw [hc], fun a => by unfold memRead; rw [hm]⟩

theorem regsKept_setPlumb (s : State) (p : Plumb) : RegsKept s { s with plumb := p } := regsKept_of_tables rfl rfl

theorem regsKept_setPins (s : State) (p : Pins) : RegsKept s { s with pins := p } := regsKept_of_tables rfl rfl

theorem regsKept_setKs (s : State) (k : Ks) : RegsKept s { s with ks := k } := regsKept_of_tables rfl rfl

theorem regsKept_of_seen {s t : State} (h : Seen (getCore s) s.mem t) : RegsKept s t :=
  ⟨fun k => (h.1 k).1, fun a => memRead_congr h.2 a⟩

theorem jrn_regsKept (s : State) (a cls : Nat) (t : Tdid) (p : List Byte) : RegsKept s (jrn s a cls t p) :=
  regsKept_of_seen (jrn_seen seen_refl)

end Sys2Proof.Timing
end

section
/-! SUPPORT. PLUMB_STATUS and PLUMB_CTL, a set of plumb time (R516), and what an edge of PPS_IN does (R49 to R52). -/
namespace Sys2Proof.Timing
open Sys2Proof Sys2Proof.Machine

/-! ### PLUMB_STATUS and PLUMB_CTL -/

theorem pstat_setPstat (s : State) {b c : Nat} (v : Bool) (hc : c < 64) : pstat (setPstat s b v) c = if c = b then v else pstat s c := by
  unfold pstat setPstat
  rw [getLsbD_fldSet _ _ _ _ _ hc]
  by_cases h : c = b
  · subst h
    rw [if_pos ⟨Nat.le_refl c, Nat.lt_succ_self c⟩, if_pos rfl, Nat.sub_self, testBit_b2n]
  · rw [if_neg (by omega), if_neg h]

theorem pstat_setPstat_same (s : State) {b : Nat} (v : Bool) (hb : b < 64) : pstat (setPstat s b v) b = v := by
  rw [pstat_setPstat s v hb, if_pos rfl]

theorem pstat_setPstat_ne (s : State) {b c : Nat} (v : Bool) (hc : c < 64) (h : c ≠ b) : pstat (setPstat s b v) c = pstat s c := by
  rw [pstat_setPstat s v hc, if_neg h]

theorem setPstat_regsKept (s : State) (b : Nat) (v : Bool) : RegsKept s (setPstat s b v) := regsKept_setPlumb s _

theorem ppsMode_setPpsMode (s : State) {m : Nat} (h : m < 4) : ppsMode (setPpsMode s m) = m :=
  (fld_fldSet_same _ _ (by decide)).trans (Nat.mod_eq_of_lt h)

/-- PLUMB_STATUS.ERR as an edge leaves it, whatever its low half holds then. -/
theorem statusErr_setPstat (s : State) {b : Nat} (v : Bool) (hb : b < 32) :
    (setPstat s b v).plumb.status.extractLsb' 32 32 = s.plumb.status.extractLsb' 32 32 :=
  BitVec.eq_of_toNat_eq (fld_fldSet_ne _ _ (.inr (by omega)))

theorem pstat_congr {s t : State} (h : t.plumb = s.plumb) (b : Nat) : pstat t b = pstat s b := by
  unfold pstat
  rw [h]

theorem pstat_withSlew (s : State) (x : Int) (b : Nat) : pstat { s with plumb := { s.plumb with slew := x } } b = pstat s b := rfl

@[simp] theorem setPstat_ks (s : State) (b : Nat) (v : Bool) : (setPstat s b v).ks = s.ks := by dsimp only [setPstat]
@[simp] theorem setPstat_pins (s : State) (b : Nat) (v : Bool) : (setPstat s b v).pins = s.pins := by dsimp only [setPstat]
@[simp] theorem setPstat_now (s : State) (b : Nat) (v : Bool) : (setPstat s b v).plumb.now = s.plumb.now := by dsimp only [setPstat]
@[simp] theorem setPstat_slew (s : State) (b : Nat) (v : Bool) : (setPstat s b v).plumb.slew = s.plumb.slew := by dsimp only [setPstat]
@[simp] theorem setPstat_off (s : State) (b : Nat) (v : Bool) : (setPstat s b v).plumb.off = s.plumb.off := by dsimp only [setPstat]
@[simp] theorem alert_plumb (s : State) (b : Nat) : (alert s b).plumb = s.plumb := by dsimp only [alert]
@[simp] theorem alert_pins (s : State) (b : Nat) : (alert s b).pins = s.pins := by dsimp only [alert]

theorem alert_regsKept (s : State) (b : Nat) : RegsKept s (alert s b) :=
  regsKept_of_tables (by dsimp only [alert]) (by dsimp only [alert])

theorem alert_pending (s : State) {b : Nat} (hb : b < 32) : (alert s b).ks.pending.getLsbD b = true := by
  show (s.ks.pending ||| BitVec.ofNat 32 (2 ^ b)).getLsbD b = true
  rw [BitVec.getLsbD_or, BitVec.getLsbD_ofNat, Nat.testBit_two_pow_self, decide_eq_true hb, Bool.and_self, Bool.or_true]

/-! ### A set of plumb time (R516) -/

theorem setAgentsAt_eq (l : List Nat) (s : State) : ∃ ag, l.foldl setAgentAt s = { s with agents := ag } := by
  induction l generalizing s with
  | nil => exact ⟨s.agents, rfl⟩
  | cons a r ih => exact ih (setAgentAt s a)

/-- The times that a core keeps, on a new count. -/
def coreOnNewCount (old v : Nat) (c : Core) : Core := { c with paceAt := c.paceAt + v - old, limAt := c.limAt + v * 1000 - old * 1000 }

/-- The times that the device keeps, on the new count (R516). -/
def onNewCount (s : State) (v : Nat) : State :=
  let move := fun (t : Nat) => t + v - s.plumb.now
  { s with plumb := { s.plumb with now := v, off := [], held := [], setAt := v, lastEdge := s.plumb.lastEdge.map (fun t => t + (v : Int) - (s.plumb.now : Int))
                                   edgeAt := move s.plumb.edgeAt }
           ks := { s.ks with fillAt := move s.ks.fillAt }
           hot := tmapv (fun _ => 0) s.hot (fun _ t => if t = 0 then 0 else move (t - 1) + 1)
           cores := tmapv coreInit s.cores (fun _ => coreOnNewCount s.plumb.now v)
           jrn := { s.jrn with sets := s.jrn.sets.map (fun h => { h with at_ := move h.at_ }) ++ [{ at_ := v }] } }

/-- A set of plumb time puts the device's times on the new count, and makes records. -/
theorem setPlumbTime_eq (s : State) (v : Nat) :
    ∃ ag q, setPlumbTime s v = { onNewCount s v with agents := ag, jrn := { (onNewCount s v).jrn with qDrop := q } } := by
  obtain ⟨ag, e⟩ := setAgentsAt_eq (List.range 90) s
  unfold setPlumbTime
  rw [e]
  exact jrn_eq _ _ _ _ _

theorem onNewCount_regsKept (s : State) (v : Nat) : RegsKept s (onNewCount s v) :=
  ⟨fun k => (tmapv_alike (f := fun _ => coreOnNewCount s.plumb.now v) (fun _ _ => ⟨rfl, fun h => h⟩) s.cores s.cores k).1, fun _ => rfl⟩

theorem setPlumbTime_regsKept (s : State) (v : Nat) : RegsKept s (setPlumbTime s v) := by
  obtain ⟨_, _, e⟩ := setPlumbTime_eq s v
  rw [e]
  exact regsKept_trans (onNewCount_regsKept s v) (regsKept_of_tables rfl rfl)

theorem setPlumbTime_plumb (s : State) (v : Nat) : (setPlumbTime s v).plumb = (onNewCount s v).plumb := by
  obtain ⟨_, _, e⟩ := setPlumbTime_eq s v
  rw [e]

/-! ### An edge of PPS_IN (R49 to R52) -/

/-- How far an edge is from the nearest second, and that second (R49). -/
def edgeErr (s : State) : Int × Int := nearestSec ((s.plumb.now : Int) - ppsOffset s)

/-- The state once an edge with error `e` has been captured (R49, R52). -/
def captured (s : State) (e : Int) : State :=
  setPstat (setPstat { s with plumb := { s.plumb with pps := s.plumb.now, seen := true, edgeAt := s.plumb.now, lastEdge := some (s.plumb.now : Int),
                                                      status := fldSet s.plumb.status 32 32 (ofInt 32 e) } } 4 true) 5 false

/-- A captured edge in mode SLEW sets the slewing (R49, R51). -/
def slewed (s : State) (e : Int) : State :=
  let u := setPstat (setPstat (captured s e) 2 (decide (-10 ≤ e) && decide (e ≤ 10))) 3 (e != 0)
  { u with plumb := { u.plumb with slew := e } }

/-- A captured edge in mode STEP, in FILLING, sets plumb time to `v` and ends the mode (R50). -/
def stepped (s : State) (e : Int) (v : Nat) : State :=
  let u := setPlumbTime (setPpsMode (captured s e) 2) v
  { u with plumb := { u.plumb with edgeAt := v } }

theorem ppsOffset_trims {s t : State} (h : t.trims = s.trims) : ppsOffset t = ppsOffset s := by
  unfold ppsOffset calEff calTrim
  rw [h]

theorem captured_trims (s : State) (e : Int) : (setPpsMode (captured s e) 2).trims = s.trims := by
  simp only [setPpsMode, captured, setPstat]

theorem ppsEdge_slew {s : State} (h : ppsMode s = 2) : ppsEdge s = slewed s (edgeErr s).1 := by
  have hm : ppsMode (captured s (edgeErr s).1) = 2 := h
  unfold ppsEdge
  show (match ppsMode (captured s (edgeErr s).1) with | 1 => _ | 2 => _ | _ => _) = _
  rw [hm]
  rfl

theorem ppsEdge_step {s : State} (h : ppsMode s = 1) (hf : s.ks.st = .filling) :
    ppsEdge s = stepped s (edgeErr s).1 ((edgeErr s).2 + ppsOffset s).toNat := by
  have hm : ppsMode (captured s (edgeErr s).1) = 1 := h
  rw [← ppsOffset_trims (captured_trims s (edgeErr s).1)]
  unfold ppsEdge stepped
  generalize setPlumbTime = set
  show (match ppsMode (captured s (edgeErr s).1) with | 1 => _ | 2 => _ | _ => _) = _
  rw [hm]
  exact if_pos hf

/-- In every other case an edge is captured and no more. -/
theorem ppsEdge_capture {s : State} (h2 : ppsMode s ≠ 2) (h1 : ¬(ppsMode s = 1 ∧ s.ks.st = .filling)) : ppsEdge s = captured s (edgeErr s).1 := by
  have hm : ppsMode (captured s (edgeErr s).1) = ppsMode s := rfl
  unfold ppsEdge
  show (match ppsMode (captured s (edgeErr s).1) with | 1 => _ | 2 => _ | _ => _) = _
  rw [hm]
  split
  · exact if_neg fun hf => h1 ⟨‹_›, hf⟩
  · exact absurd ‹_› h2
  · rfl

end Sys2Proof.Timing
end

section
/-! SUPPORT. What an accepted edge of PPS_IN leaves, by the modes of PPS_MODE (R49 to R52, R515). -/
namespace Sys2Proof.Timing
open Sys2Proof Sys2Proof.Machine

/-! ### What an accepted edge leaves -/

theorem ofInt_lt (n : Nat) (v : Int) : ofInt n v < 2 ^ n := by
  unfold ofInt
  have h1 : (0 : Int) < 2 ^ n := by positivity
  have h2 := Int.emod_lt_of_pos v h1
  have h3 := Int.emod_nonneg v (ne_of_gt h1)
  have h4 : ((2 ^ n : Nat) : Int) = 2 ^ n := by push_cast; rfl
  omega

theorem toNat_ofInt (n : Nat) (v : Int) : (BitVec.ofInt n v).toNat = ofInt n v := by
  rw [BitVec.toNat_ofInt, ofInt]
  push_cast
  rfl

/-- An edge is in PLUMB_PPS and PLUMB_STATUS (R49, R52). -/
structure EdgeShows (s : State) (e : Int) (t : State) : Prop where
  pps  : t.plumb.pps = s.plumb.now
  seen : pstat t 4 = true
  lost : pstat t 5 = false
  err  : t.plumb.status.extractLsb' 32 32 = BitVec.ofInt 32 e

theorem captured_shows (s : State) (e : Int) : EdgeShows s e (captured s e) where
  pps := rfl
  seen := by
    unfold captured
    rw [pstat_setPstat_ne _ _ (by decide) (by decide), pstat_setPstat_same _ _ (by decide)]
  lost := pstat_setPstat_same _ _ (by decide)
  err := by
    unfold captured
    rw [statusErr_setPstat _ _ (by decide), statusErr_setPstat _ _ (by decide)]
    exact BitVec.eq_of_toNat_eq ((fld_fldSet_same _ _ (by decide)).trans ((Nat.mod_eq_of_lt (ofInt_lt 32 e)).trans (toNat_ofInt 32 e).symm))

theorem captured_now (s : State) (e : Int) : (captured s e).plumb.now = s.plumb.now := rfl

theorem slewed_shows (s : State) (e : Int) : EdgeShows s e (slewed s e) := by
  obtain ⟨hp, hs, hl, he⟩ := captured_shows s e
  refine ⟨hp, ?_, ?_, ?_⟩
  · exact (pstat_setPstat_ne _ _ (by decide) (by decide)).trans ((pstat_setPstat_ne _ _ (by decide) (by decide)).trans hs)
  · exact (pstat_setPstat_ne _ _ (by decide) (by decide)).trans ((pstat_setPstat_ne _ _ (by decide) (by decide)).trans hl)
  · exact (statusErr_setPstat _ _ (by decide)).trans ((statusErr_setPstat _ _ (by decide)).trans he)

theorem slewed_now (s : State) (e : Int) : (slewed s e).plumb.now = s.plumb.now := rfl

/-- In mode SLEW, LOCKED tells that the error is at most 10 ns (R51). -/
theorem slewed_aligned (s : State) (e : Int) : pstat (slewed s e) 2 = true ↔ -10 ≤ e ∧ e ≤ 10 := by
  have h : pstat (slewed s e) 2 = (decide (-10 ≤ e) && decide (e ≤ 10)) :=
    (pstat_setPstat_ne _ _ (by decide) (by decide)).trans (pstat_setPstat_same _ _ (by decide))
  rw [h, Bool.and_eq_true, decide_eq_true_iff, decide_eq_true_iff]

/-- A step of plumb time, as the plumb shows it: its count and no replica apart; status, PPS and the rest as captured. -/
theorem stepped_plumb (s : State) (e : Int) (v : Nat) :
    (stepped s e v).plumb = { (onNewCount (setPpsMode (captured s e) 2) v).plumb with edgeAt := v } := by
  rw [← setPlumbTime_plumb, stepped]

theorem stepped_status (s : State) (e : Int) (v : Nat) : (stepped s e v).plumb.status = (captured s e).plumb.status := by
  rw [stepped_plumb]
  simp only [onNewCount, setPpsMode]

theorem stepped_pps (s : State) (e : Int) (v : Nat) : (stepped s e v).plumb.pps = s.plumb.now := by
  rw [stepped_plumb]
  rfl

theorem stepped_ppsMode (s : State) (e : Int) (v : Nat) : ppsMode (stepped s e v) = 2 := by
  unfold ppsMode
  rw [stepped_plumb]
  exact ppsMode_setPpsMode (captured s e) (m := 2) (by decide)

theorem stepped_shows (s : State) (e : Int) (v : Nat) : EdgeShows s e (stepped s e v) := by
  obtain ⟨_, hs, hl, he⟩ := captured_shows s e
  have h := stepped_status s e v
  refine ⟨stepped_pps s e v, ?_, ?_, by rw [h]; exact he⟩
  · unfold pstat; rw [h]; exact hs
  · unfold pstat; rw [h]; exact hl

theorem captured_regsKept (s : State) (e : Int) : RegsKept s (captured s e) :=
  regsKept_trans (regsKept_trans (regsKept_setPlumb s _) (setPstat_regsKept _ _ _)) (setPstat_regsKept _ _ _)

theorem slewed_regsKept (s : State) (e : Int) : RegsKept s (slewed s e) :=
  regsKept_trans (regsKept_trans (regsKept_trans (captured_regsKept s e) (setPstat_regsKept _ _ _)) (setPstat_regsKept _ _ _)) (regsKept_setPlumb _ _)

theorem stepped_regsKept (s : State) (e : Int) (v : Nat) : RegsKept s (stepped s e v) := by
  have h1 : RegsKept s (setPpsMode (captured s e) 2) := regsKept_trans (captured_regsKept s e) (regsKept_setPlumb _ _)
  have h2 := setPlumbTime_regsKept (setPpsMode (captured s e) 2) v
  unfold stepped
  generalize setPlumbTime (setPpsMode (captured s e) 2) v = u at h2 ⊢
  exact regsKept_trans (regsKept_trans h1 h2) (regsKept_setPlumb u _)

/-- The modes of PPS_MODE at an edge: it slews, or steps in FILLING, or is captured alone. -/
theorem ppsEdge_cases (s : State) :
    (ppsMode s = 2 ∧ ppsEdge s = slewed s (edgeErr s).1) ∨
    (ppsMode s = 1 ∧ s.ks.st = .filling ∧ ppsEdge s = stepped s (edgeErr s).1 ((edgeErr s).2 + ppsOffset s).toNat) ∨
    (ppsMode s ≠ 2 ∧ ¬(ppsMode s = 1 ∧ s.ks.st = .filling) ∧ ppsEdge s = captured s (edgeErr s).1) := by
  by_cases h2 : ppsMode s = 2
  · exact .inl ⟨h2, ppsEdge_slew h2⟩
  · by_cases h1 : ppsMode s = 1 ∧ s.ks.st = .filling
    · exact .inr (.inl ⟨h1.1, h1.2, ppsEdge_step h1.1 h1.2⟩)
    · exact .inr (.inr ⟨h2, h1, ppsEdge_capture h2 h1⟩)

/-- An edge that is accepted (R49, R515): of the direction chosen, and 0.9 s after the last accepted one. -/
def edgeAccepted (rising : Bool) (s : State) : Prop :=
  s.plumb.counting = true ∧ rising ≠ s.plumb.ctl.getLsbD 3 ∧ ¬∃ t, s.plumb.lastEdge = some t ∧ (s.plumb.now : Int) < t + 900000000

theorem edge_early_iff (s : State) : (match s.plumb.lastEdge with | some t => decide ((s.plumb.now : Int) < t + 900000000) | none => false) = true ↔
    ∃ t, s.plumb.lastEdge = some t ∧ (s.plumb.now : Int) < t + 900000000 := by
  cases s.plumb.lastEdge <;> simp

theorem exec_ppsEdge_accepted {rising : Bool} {s : State} (h : edgeAccepted rising s) : exec (.ppsEdge rising) s = .next (ppsEdge s) := by
  obtain ⟨hc, hr, he⟩ := h
  rw [← edge_early_iff, Bool.not_eq_true] at he
  show execPpsEdge rising s = _
  unfold execPpsEdge
  extract_lets early
  have hf : early = false := he
  rw [hf, hc, bne_iff_ne.2 hr]
  rfl

theorem exec_ppsEdge_ignored {rising : Bool} {s : State} (h : ¬edgeAccepted rising s) : exec (.ppsEdge rising) s = .next s := by
  show execPpsEdge rising s = _
  unfold execPpsEdge
  extract_lets early
  refine if_neg fun hc => h ?_
  simp only [Bool.and_eq_true, bne_iff_ne, Bool.not_eq_true'] at hc
  obtain ⟨⟨hc, hr⟩, he⟩ := hc
  exact ⟨hc, hr, fun hx => Bool.false_ne_true (he.symm.trans ((edge_early_iff s).2 hx))⟩

end Sys2Proof.Timing
end

section
/-! SUPPORT. The reference clock and a lost edge (R44, R52, R53). -/
namespace Sys2Proof.Timing
open Sys2Proof Sys2Proof.Machine

/-! ### The reference clock and a lost edge (R44, R52, R53) -/

theorem exec_plumbLock_locks {s : State} (hr : s.pins.refclk = true) (hc : s.plumb.counting = false) : exec .plumbLock s =
    .next { s with plumb := { s.plumb with counting := true, now := 0, off := [], held := [], status := s.plumb.status ||| 1 } } :=
  if_pos (by rw [hr, hc]; rfl)

/-- With the master and every replica at 0, each agent reads 0 (R44). -/
theorem plumbOf_zero {s : State} (hn : s.plumb.now = 0) (ho : s.plumb.off = []) (a : Nat) : plumbOf s a = 0 := by
  unfold plumbOf plumbAt
  rw [hn, ho]
  split <;> rfl

/-- PPS_IN is lost: the state before its record (R52). -/
def ppsLostMarked (s : State) : State :=
  let u := setPstat (setPstat s 5 true) 3 false
  alert { u with plumb := { u.plumb with slew := 0 } } 5

theorem exec_ppsLost_lost {s : State} (hc : s.plumb.counting = true) (hm : ppsMode s = 2) (hl : pstat s 5 = false)
    (ht : s.plumb.edgeAt + 1500000000 ≤ s.plumb.now) : exec .ppsLost s = .next (jrn (ppsLostMarked s) agPlumb 0x0A 0 (bytesOf 8 s.plumb.pps)) :=
  if_pos (by rw [hc, hm, hl, decide_eq_true ht]; rfl)

/-- The reference is lost: the state before its record (R53). -/
def refLostMarked (s : State) : State :=
  alert (setPstat (setPstat (setPstat { s with pins := { s.pins with refclk := false } } 1 true) 6 true) 0 false) 6

theorem exec_refLost_lost {s : State} (hc : s.plumb.counting = true) (hl : pstat s 1 = false) :
    exec .refLost s = .next (jrn (refLostMarked s) agPlumb 0x0B 0 (bytesOf 8 s.plumb.now)) :=
  if_pos (by rw [hc]; show (true && !pstat s 1) = true; rw [hl]; rfl)

/-- A record leaves the plumb, the Keystone and the pins. -/
theorem jrn_frame (s : State) (a cls : Nat) (t : Tdid) (p : List Byte) :
    (jrn s a cls t p).plumb = s.plumb ∧ (jrn s a cls t p).ks = s.ks ∧ (jrn s a cls t p).pins = s.pins := by
  obtain ⟨_, _, e⟩ := jrn_eq s a cls t p
  rw [e]
  exact ⟨rfl, rfl, rfl⟩

theorem refReturn_effect (s : State) : Completes .refReturn s (fun t =>
    t.pins.refclk = true ∧ (pstat s 1 = true → pstat t 1 = false ∧ pstat t 0 = true) ∧ t.plumb.now = s.plumb.now) := by
  have hk : RegsKept s { s with pins := { s.pins with refclk := true } } := regsKept_of_tables rfl rfl
  by_cases h : pstat s 1 = true
  · refine ⟨_, if_pos h, regsKept_trans hk (regsKept_trans (setPstat_regsKept _ _ _) (setPstat_regsKept _ _ _)), rfl, fun _ => ⟨?_, ?_⟩, rfl⟩
    · rw [pstat_setPstat_ne _ _ (by decide) (by decide), pstat_setPstat_same _ _ (by decide)]
    · exact pstat_setPstat_same _ _ (by decide)
  · exact ⟨_, if_neg h, hk, rfl, fun h' => absurd h' h, rfl⟩

theorem refLost_effect {s : State} (hc : s.plumb.counting = true) (hl : pstat s 1 = false) : Completes .refLost s (fun t =>
    t.pins.refclk = false ∧ pstat t 1 = true ∧ pstat t 6 = true ∧ pstat t 0 = false ∧ t.ks.pending.getLsbD 6 = true ∧ t.plumb.now = s.plumb.now) := by
  have hm : RegsKept s (refLostMarked s) := regsKept_trans (regsKept_trans (regsKept_trans (regsKept_trans (regsKept_setPins s _) (setPstat_regsKept _ _ _))
    (setPstat_regsKept _ _ _)) (setPstat_regsKept _ _ _)) (alert_regsKept _ _)
  obtain ⟨hp, hk, hi⟩ := jrn_frame (refLostMarked s) agPlumb 0x0B 0 (bytesOf 8 s.plumb.now)
  refine ⟨_, exec_refLost_lost hc hl, regsKept_trans hm (jrn_regsKept _ _ _ _ _), ?_⟩
  simp only [pstat_congr hp, hp, hk, hi]
  unfold refLostMarked
  refine ⟨by simp, ?_, ?_, ?_, alert_pending _ (by decide), by simp⟩ <;> rw [pstat_congr (alert_plumb _ _)] <;>
    simp only [pstat_setPstat, Nat.reduceLT, Nat.reduceEqDiff, if_true, if_false]

theorem ppsLost_effect {s : State} (hc : s.plumb.counting = true) (hm : ppsMode s = 2) (hl : pstat s 5 = false)
    (ht : s.plumb.edgeAt + 1500000000 ≤ s.plumb.now) : Completes .ppsLost s (fun t =>
      pstat t 5 = true ∧ pstat t 3 = false ∧ t.plumb.slew = 0 ∧ t.ks.pending.getLsbD 5 = true) := by
  have hr : RegsKept s (ppsLostMarked s) := regsKept_trans (regsKept_trans (regsKept_trans (setPstat_regsKept _ _ _) (setPstat_regsKept _ _ _))
    (regsKept_setPlumb _ _)) (alert_regsKept _ _)
  obtain ⟨hp, hk, _⟩ := jrn_frame (ppsLostMarked s) agPlumb 0x0A 0 (bytesOf 8 s.plumb.pps)
  refine ⟨_, exec_ppsLost_lost hc hm hl ht, regsKept_trans hr (jrn_regsKept _ _ _ _ _), ?_⟩
  simp only [pstat_congr hp, hp, hk]
  unfold ppsLostMarked
  refine ⟨?_, ?_, by rw [alert_plumb], alert_pending _ (by decide)⟩ <;> rw [pstat_congr (alert_plumb _ _), pstat_withSlew] <;>
    simp only [pstat_setPstat, Nat.reduceLT, Nat.reduceEqDiff, if_true, if_false]

end Sys2Proof.Timing
end

section
/-! PROOF. Replicas (R45, R46), the journal engine at a set (R516), and plumb time as a whole. -/
namespace Sys2Proof.Timing
open Sys2Proof Sys2Proof.Machine

/-! ### Replicas at a synchronisation (R45, R46) -/

/-- The deviation that a replica is taken to have: one that was ahead is so at least as far as it is held (R46). -/
def syncDev (s : State) (e : BitVec 7 × Int) : Int :=
  if 0 < tget (fun _ => 0) s.plumb.off e.1.toNat && e.2 < tget (fun _ => 0) s.plumb.off e.1.toNat then tget (fun _ => 0) s.plumb.off e.1.toNat else e.2

/-- What a synchronisation does to a replica: one behind goes to the master's count, one ahead is left to be held, and beyond 3 ns
SKEW_ERR is set (R46). -/
theorem syncStop_eq (s : State) (e : BitVec 7 × Int) : ∃ st ag q,
    syncStop s e = { s with plumb := { s.plumb with status := st, off := tset (fun _ => 0) s.plumb.off e.1.toNat (if syncDev s e ≤ 0 then 0 else syncDev s e) }
                            agents := ag, jrn := { s.jrn with qDrop := q } } ∧
    (syncDev s e < -3 ∨ 3 < syncDev s e → st.getLsbD 7 = true) := by
  unfold syncStop
  extract_lets k cur d u
  have hd : d = syncDev s e := rfl
  have hu : ∃ st ag q, u = { s with plumb := { s.plumb with status := st }, agents := ag, jrn := { s.jrn with qDrop := q } } ∧
      (d < -3 ∨ 3 < d → st.getLsbD 7 = true) := by
    have hb : (decide (d < -3) || decide (3 < d)) = true ↔ d < -3 ∨ 3 < d := by rw [Bool.or_eq_true, decide_eq_true_iff, decide_eq_true_iff]
    by_cases h : d < -3 ∨ 3 < d
    · obtain ⟨ag, q, he⟩ := jrn_eq (setPstat s 7 true) agPlumb 0x09 0 (bytesOf 2 k ++ bytesOf 4 (ofInt 32 d))
      exact ⟨_, ag, q, (if_pos (hb.2 h)).trans he, fun _ => pstat_setPstat_same s true (by decide)⟩
    · exact ⟨_, s.agents, s.jrn.qDrop, if_neg (mt hb.1 h), fun h' => absurd h' h⟩
  rw [← hd]
  clear_value u d
  obtain ⟨st, ag, q, hu, hs⟩ := hu
  subst hu
  exact ⟨st, ag, q, rfl, hs⟩

theorem syncStop_now (s : State) (e : BitVec 7 × Int) : (syncStop s e).plumb.now = s.plumb.now := by
  obtain ⟨_, _, _, he, _⟩ := syncStop_eq s e
  rw [he]

theorem syncStop_regsKept (s : State) (e : BitVec 7 × Int) : RegsKept s (syncStop s e) := by
  obtain ⟨_, _, _, he, _⟩ := syncStop_eq s e
  rw [he]
  exact regsKept_of_tables rfl rfl

/-- The replica of every stop after one of them is synchronised. -/
theorem plumbAt_syncStop (s : State) (e : BitVec 7 × Int) (k : Nat) : plumbAt (syncStop s e) k =
    if k = e.1.toNat then ((s.plumb.now : Int) + if syncDev s e ≤ 0 then 0 else syncDev s e).toNat else plumbAt s k := by
  obtain ⟨_, _, _, he, _⟩ := syncStop_eq s e
  unfold plumbAt
  rw [he]
  simp only [tget_tset]
  split <;> rfl

theorem syncStops_keep (l : List (BitVec 7 × Int)) (s : State) : RegsKept s (l.foldl syncStop s) ∧ (l.foldl syncStop s).plumb.now = s.plumb.now ∧
    ∀ k, l.all (fun e => e.1.toNat != k) = true → plumbAt (l.foldl syncStop s) k = plumbAt s k := by
  induction l generalizing s with
  | nil => exact ⟨regsKept_refl s, rfl, fun _ _ => rfl⟩
  | cons e r ih =>
    obtain ⟨hk, hn, hp⟩ := ih (syncStop s e)
    refine ⟨regsKept_trans (syncStop_regsKept s e) hk, hn.trans (syncStop_now s e), fun k h => ?_⟩
    rw [List.all_cons, Bool.and_eq_true, bne_iff_ne] at h
    exact (hp k h.2).trans ((plumbAt_syncStop s e k).trans (if_neg (Ne.symm h.1)))

theorem exec_plumbSync {s : State} (hc : s.plumb.counting = true) (devs : List (BitVec 7 × Int)) :
    exec (.plumbSync devs) s = .next (devs.foldl syncStop s) := if_pos hc

/-- A replica that was with the master, found `d` away from it (R46). -/
theorem plumbSync_one {s : State} (hc : s.plumb.counting = true) {stop : BitVec 7} (d : Int) (h0 : tget (fun _ => 0) s.plumb.off stop.toNat = 0) :
    Completes (.plumbSync [(stop, d)]) s (fun t => (d ≤ 0 → plumbAt t stop.toNat = s.plumb.now) ∧
      (0 < d → plumbAt t stop.toNat = s.plumb.now + d.toNat) ∧ (d < -3 ∨ 3 < d → pstat t 7 = true)) := by
  have hd : syncDev s (stop, d) = d := by
    unfold syncDev
    rw [h0]
    rfl
  have hp := plumbAt_syncStop s (stop, d) stop.toNat
  rw [if_pos rfl, hd] at hp
  refine ⟨_, exec_plumbSync hc _, syncStop_regsKept s _, fun h => ?_, fun h => ?_, fun h => ?_⟩
  · refine hp.trans ?_
    rw [if_pos h]
    omega
  · refine hp.trans ?_
    rw [if_neg (by omega)]
    omega
  · obtain ⟨st, _, _, he, hs⟩ := syncStop_eq s (stop, d)
    show pstat (syncStop s (stop, d)) 7 = true
    unfold pstat
    rw [he]
    exact hs (by rw [hd]; exact h)

/-! ### The journal engine's sets (R516) -/

/-- What the journal engine's own work leaves: registers, DRAM and the agents' set marks. -/
structure EngineKeeps (s t : State) : Prop where
  regs  : RegsKept s t
  marks : ∀ a, (getAgent t a).marks = (getAgent s a).marks

theorem engineKeeps_refl (s : State) : EngineKeeps s s := ⟨regsKept_refl s, fun _ => rfl⟩

theorem engineKeeps_trans {s t u : State} (h : EngineKeeps s t) (k : EngineKeeps t u) : EngineKeeps s u :=
  ⟨regsKept_trans h.regs k.regs, fun a => (k.marks a).trans (h.marks a)⟩

theorem engineKeeps_setJrn (s : State) (j : Jrn) : EngineKeeps s { s with jrn := j } := ⟨regsKept_of_tables rfl rfl, fun _ => rfl⟩

theorem engineKeeps_foldl {α : Type} {f : State → α → State} (hf : ∀ s x, EngineKeeps s (f s x)) (l : List α) (s : State) :
    EngineKeeps s (l.foldl f s) := by
  induction l generalizing s with
  | nil => exact engineKeeps_refl s
  | cons x r ih => exact engineKeeps_trans (hf s x) (ih _)

theorem engineKeeps_setAgent (s : State) (a : Nat) (x : Agent) (h : x.marks = (getAgent s a).marks) : EngineKeeps s (setAgent s a x) := by
  refine ⟨regsKept_of_seen (setAgent_seen seen_refl), fun b => ?_⟩
  rw [getAgent_setAgent]
  split
  · rename_i hb; rw [hb, h]
  · rfl

theorem ringPut_keeps (s : State) (r : JRec) : EngineKeeps s (ringPut s r) := by
  unfold ringPut
  extract_lets _ u
  have hu : EngineKeeps s u := engineKeeps_setJrn s _
  clear_value u
  split
  · exact engineKeeps_trans hu ⟨alert_regsKept u 3, fun _ => rfl⟩
  · exact hu

theorem gapPlace_keeps (s : State) : EngineKeeps s (gapPlace s) := by
  unfold gapPlace
  split
  · exact engineKeeps_refl s
  · have h1 : EngineKeeps s (stamped s agJrn) := engineKeeps_setAgent s agJrn _ rfl
    refine engineKeeps_trans (engineKeeps_trans (engineKeeps_trans h1 (engineKeeps_setAgent _ agJrn _ ?_)) (engineKeeps_setJrn _ _)) (ringPut_keeps _ _)
    exact (h1.marks agJrn).symm

theorem ringArrive_keeps (s : State) (r : JRec) : EngineKeeps s (ringArrive s r) := by
  have hdrop : ∀ u : State, EngineKeeps u (ringDropRec u r) := fun u => engineKeeps_setJrn u _
  unfold ringArrive
  split
  · split
    · exact engineKeeps_setJrn s _
    · exact hdrop s
  · extract_lets u
    have hu : EngineKeeps s u := gapPlace_keeps s
    clear_value u
    refine engineKeeps_trans hu ?_
    split
    · exact ringPut_keeps u r
    · split
      · exact engineKeeps_trans (engineKeeps_setJrn u _) (ringPut_keeps _ _)
      · exact hdrop u

theorem endSet_keeps (s : State) : EngineKeeps s (endSet s) := by
  unfold endSet
  split
  · exact engineKeeps_refl s
  · exact engineKeeps_trans (engineKeeps_setJrn s _) (engineKeeps_foldl ringArrive_keeps _ _)

theorem endReady_keeps (k : Nat) (s : State) : EngineKeeps s (endReady k s) := by
  induction k generalizing s with
  | zero => exact engineKeeps_refl s
  | succ k ih =>
    unfold endReady
    split
    · split
      · exact engineKeeps_trans (endSet_keeps s) (ih _)
      · exact engineKeeps_refl s
    · exact engineKeeps_refl s

/-- A set without its PLUMB_SET record goes on (R516). -/
theorem endReady_waits {s : State} {h : SetHold} {rest : List SetHold} (hs : s.jrn.sets = h :: rest) (hr : ∀ r ∈ h.post, r.cls ≠ 0x0C) (k : Nat) :
    endReady k s = s := by
  have hn : setReady s h = false := by
    unfold setReady
    rw [Bool.and_eq_false_iff]
    refine .inr (List.any_eq_false.2 fun r hr' => ?_)
    rw [Bool.and_eq_true, beq_iff_eq, beq_iff_eq, not_and]
    exact fun _ => hr r hr'
  cases k with
  | zero => rfl
  | succ k =>
    unfold endReady
    rw [hs]
    simp only [hn, Bool.false_eq_true, if_false]

theorem addMark_one (a : BitVec 7) {h : SetHold} (hc : h.marks.contains a = false) : addMark a [h] = [{ h with marks := h.marks ++ [a] }] := by
  unfold addMark
  rw [hc]
  rfl

/-- An agent's mark that waits behind no record arrives (R516). -/
theorem setMark_effect {s : State} {a : Nat} (hm : markReady (getAgent s a) = true) : Completes (.setMark a) s (fun t =>
    (getAgent t a).marks = (getAgent s a).marks.tail ∧
    ∀ h, a < 90 → s.jrn.sets = [h] → h.marks.contains (BitVec.ofNat 7 a) = false → (∀ r ∈ h.post, r.cls ≠ 0x0C) →
      t.jrn.sets = [{ h with marks := h.marks ++ [BitVec.ofNat 7 a] }]) := by
  have hr : RegsKept s (setAgent s a { getAgent s a with marks := (getAgent s a).marks.tail }) := regsKept_of_seen (setAgent_seen seen_refl)
  have ha : getAgent (setAgent s a { getAgent s a with marks := (getAgent s a).marks.tail }) a = { getAgent s a with marks := (getAgent s a).marks.tail } := by
    rw [getAgent_setAgent, if_pos rfl]
  have hj : (setAgent s a { getAgent s a with marks := (getAgent s a).marks.tail }).jrn = s.jrn := rfl
  have e : exec (.setMark a) s = _ := if_neg (by rw [hm]; decide)
  rw [Completes, e]
  generalize setAgent s a { getAgent s a with marks := (getAgent s a).marks.tail } = u at hr ha hj
  by_cases h90 : 90 ≤ a
  · exact ⟨u, if_pos h90, hr, by rw [ha], fun _ h => absurd h (by omega)⟩
  · have hk := engineKeeps_trans (engineKeeps_setJrn u { u.jrn with sets := addMark (BitVec.ofNat 7 a) u.jrn.sets }) (endReady_keeps (addMark (BitVec.ofNat 7 a) u.jrn.sets).length _)
    refine ⟨_, if_neg h90, regsKept_trans hr hk.regs, (hk.marks a).trans (by rw [ha]), fun h _ hs hc hp => ?_⟩
    have hs' : u.jrn.sets = [h] := by rw [hj, hs]
    rw [hs', addMark_one _ hc]
    exact congrArg (fun v : State => v.jrn.sets) (endReady_waits (h := { h with marks := h.marks ++ [BitVec.ofNat 7 a] }) rfl hp _)
/-! ### The obligation -/

/-- Of an accepted edge (R49 to R52): what it shows, and what each mode makes of it. -/
theorem ppsEdge_effect {rising : Bool} {s : State} (h : edgeAccepted rising s) : Completes (.ppsEdge rising) s (fun t =>
    EdgeShows s (edgeErr s).1 t ∧
    (ppsMode s = 2 → t.plumb.slew = (edgeErr s).1 ∧ (pstat t 2 = true ↔ -10 ≤ (edgeErr s).1 ∧ (edgeErr s).1 ≤ 10) ∧ t.plumb.now = s.plumb.now) ∧
    (ppsMode s = 1 → s.ks.st = .filling → ppsMode t = 2 ∧ t.plumb.now = ((edgeErr s).2 + ppsOffset s).toNat ∧ t.plumb.off = []) ∧
    (ppsMode s ≠ 1 ∨ s.ks.st ≠ .filling → t.plumb.now = s.plumb.now)) := by
  refine ⟨_, exec_ppsEdge_accepted h, ?_⟩
  rcases ppsEdge_cases s with ⟨hm, e⟩ | ⟨hm, hf, e⟩ | ⟨h2, h1, e⟩
  all_goals rw [e]
  · exact ⟨slewed_regsKept s _, slewed_shows s _, fun _ => ⟨rfl, slewed_aligned s _, slewed_now s _⟩,
      fun h1 => absurd (hm.symm.trans h1) (by decide), fun _ => slewed_now s _⟩
  · refine ⟨stepped_regsKept s _ _, stepped_shows s _ _, fun h2 => absurd (hm.symm.trans h2) (by decide),
      fun _ _ => ⟨stepped_ppsMode s _ _, ?_, ?_⟩, fun h => absurd h (not_or_intro (not_not_intro hm) (not_not_intro hf))⟩ <;> rw [stepped_plumb] <;> rfl
  · exact ⟨captured_regsKept s _, captured_shows s _, fun h => absurd h h2, fun hm hf => absurd ⟨hm, hf⟩ h1, fun _ => captured_now s _⟩

/-- Settles O37: the master's edges by the modes of PPS_MODE, the replicas by the deviation that each is taken to have, and the marks by
the engine's work at a set. -/
theorem plumbTimeAndItsReplicas : Obligations.PlumbTimeAndItsReplicas := by
  unfold Obligations.PlumbTimeAndItsReplicas
  refine ⟨fun rising s => ?_, fun stop d devs a s => ?_⟩
  · dsimp only
    refine ⟨fun hr hc => ?_, fun h => ?_, fun hc hr he => ?_, fun h => ?_, ppsLost_effect, fun h => ?_, refLost_effect, refReturn_effect s⟩
    · refine ⟨_, exec_plumbLock_locks hr hc, regsKept_setPlumb s _, rfl, rfl, ?_, plumbOf_zero rfl rfl⟩
      show (s.plumb.status ||| 1).getLsbD 0 = true
      rw [BitVec.getLsbD_or]
      exact Bool.or_true _
    · refine if_neg fun hc => ?_
      rw [Bool.and_eq_true, Bool.not_eq_true'] at hc
      rcases h with h | h
      · exact Bool.false_ne_true (h.symm.trans hc.1)
      · exact Bool.false_ne_true (hc.2.symm.trans h)
    · obtain ⟨t, e, hk, ⟨h1, h2, h3, h4⟩, h5, h6, h7⟩ := ppsEdge_effect ⟨hc, hr, he⟩
      exact ⟨t, e, hk, h1, h2, h3, h4, h5, h6, h7⟩
    · refine exec_ppsEdge_ignored fun ⟨hc, hr, he⟩ => ?_
      rcases h with h | h | h
      · exact Bool.false_ne_true (h.symm.trans hc)
      · exact hr h
      · exact he h
    · exact if_neg fun hc => absurd (decide_eq_true_iff.1 (Bool.and_eq_true_iff.1 hc).2) (Nat.not_le.2 h)
  · refine ⟨fun hc => ?_, fun hc h0 => plumbSync_one hc d h0, fun hc => if_neg (by rw [hc]; decide), fun hn ht => ?_, fun ht => ?_, setMark_effect,
      fun hm => if_pos (by rw [hm]; rfl)⟩
    · obtain ⟨hk, hn, hp⟩ := syncStops_keep devs s
      exact ⟨_, exec_plumbSync hc devs, hk, hn, hp⟩
    · refine ⟨_, if_pos (by rw [hn, decide_eq_true ht]; rfl), regsKept_of_seen (setAgent_seen seen_refl), ?_⟩
      show (getAgent (setAgent s a _) a).noRecv = false
      rw [getAgent_setAgent, if_pos rfl]
    · exact if_neg fun hc => absurd (decide_eq_true_iff.1 (Bool.and_eq_true_iff.1 hc).2) (Nat.not_le.2 ht)

end Sys2Proof.Timing
end

section
/-! PROOF. The state after reset, and entry to COLD (R44, R418, R502, R503, R508). -/
namespace Sys2Proof.Timing
open Sys2Proof Sys2Proof.Machine

/-! ### The tables of the state after reset -/

@[simp] theorem getCore_reset (n : Nat) : getCore State.reset n = coreInit n := rfl
@[simp] theorem getDom_reset (t : Nat) : getDom State.reset t = domInit t := rfl
@[simp] theorem getBud_reset (t : Nat) : getBud State.reset t = {} := rfl
@[simp] theorem getSrc_reset (k : Nat) : getSrc State.reset k = {} := rfl
@[simp] theorem getCtx_reset (k : Nat) : getCtx State.reset k = {} := rfl
@[simp] theorem getChan_reset (k : Nat) : getChan State.reset k = {} := rfl

/-- Domain 0, and no other, is VALID after reset (R59). -/
theorem domValid_reset (t : Nat) : domValid State.reset t = decide (t = 0) := by
  unfold domValid
  rw [getDom_reset, domInit]
  split
  · rename_i h; subst h; decide
  · rename_i h; simp [h]

/-- Settles O4: each table of the state after reset lists nothing, so that each entry is its table's default. -/
theorem resetLeavesTheStatedValues : Obligations.ResetLeavesTheStatedValues := by
  unfold Obligations.ResetLeavesTheStatedValues
  refine ⟨rfl, rfl, rfl, rfl, rfl, rfl, rfl, rfl, rfl, rfl, fun n => ?_, ?_, fun t ht => ?_, fun t => ?_, fun k => ?_, fun _ => rfl,
    fun k => ?_, fun k => ?_⟩
  · rw [getCore_reset]; exact ⟨rfl, rfl, rfl, rfl, rfl⟩
  · rw [domValid_reset]; rfl
  · rw [domValid_reset]; exact decide_eq_false ht
  · rw [balance, getBud_reset]; exact ⟨rfl, rfl⟩
  · rw [getSrc_reset]; exact ⟨by decide, rfl⟩
  · rw [getCtx_reset]; decide
  · rw [getChan_reset]; decide

/-! ### Entry to COLD (R502, R503, R508) -/

/-- Entry to COLD leaves every block as after reset, and of the rest the queue (R503; log entry 78). -/
theorem enterCold_cold (s : State) (held : Bool) : (enterCold s held).ks.st = .cold ∧ (enterCold s held).ks.queue = [] ∧
    (enterCold s held).mem = [] ∧ (enterCold s held).dramTop = 0 ∧ (enterCold s held).plumb.counting = false ∧ (enterCold s held).cores = [] ∧
    (enterCold s held).net = [] ∧ (enterCold s held).pending = s.pending :=
  ⟨rfl, rfl, rfl, rfl, rfl, rfl, rfl, rfl⟩

theorem getLsbD_or_bit (x : BitVec 4) (g : BitVec 2) : (x ||| BitVec.ofNat 4 (2 ^ g.toNat)).getLsbD g.toNat = true := by
  revert x g; decide
theorem getLsbD_and_not_bit (x : BitVec 4) (g : BitVec 2) : (x &&& ~~~BitVec.ofNat 4 (2 ^ g.toNat)).getLsbD g.toNat = false := by
  revert x g; decide

/-- The state once a PWR_OK input has taken a level (R508). -/
def pwrOkPut (s : State) (g : BitVec 2) (high : Bool) : State :=
  { s with pins := { s.pins with pwrOk := if high then s.pins.pwrOk ||| BitVec.ofNat 4 (2 ^ g.toNat) else s.pins.pwrOk &&& ~~~BitVec.ofNat 4 (2 ^ g.toNat) } }

theorem pwrOkPut_high (s : State) (g : BitVec 2) : (pwrOkPut s g true).pins.pwrOk.getLsbD g.toNat = true := getLsbD_or_bit _ _
theorem pwrOkPut_low (s : State) (g : BitVec 2) : (pwrOkPut s g false).pins.pwrOk.getLsbD g.toNat = false := getLsbD_and_not_bit _ _

/-- An input that was high and counts: the always-on group's at all times, the others' while they are sampled (R508). -/
def pwrOkFalls (s : State) (g : BitVec 2) : Prop := s.pins.pwrOk.getLsbD g.toNat = true ∧ (g = 0 ∨ s.pins.sampled = true)

theorem exec_pwrOkChange_high (s : State) (g : BitVec 2) : exec (.pwrOkChange g true) s = .next (pwrOkPut s g true) := rfl

theorem toNat_beq_zero (g : BitVec 2) : (g.toNat == 0) = decide (g = 0) := by revert g; decide

theorem exec_pwrOkChange_idle {s : State} {g : BitVec 2} (h : ¬pwrOkFalls s g) :
    exec (.pwrOkChange g false) s = .next (pwrOkPut s g false) := by
  refine if_pos ?_
  simp only [pwrOkFalls, not_and_or, not_or, Bool.not_eq_true] at h
  rw [toNat_beq_zero]
  rcases h with h | ⟨h, k⟩
  · rw [h]; rfl
  · rw [k, decide_eq_false h]; exact Bool.or_true _

theorem exec_pwrOkChange_fall {s : State} {g : BitVec 2} (h : pwrOkFalls s g) : exec (.pwrOkChange g false) s =
    if g.toNat = 0 then .next (enterCold { pwrOkPut s g false with ks := { s.ks with tripped := false } } true)
    else .next (enterCold (pwrOkPut s g false) false) := by
  obtain ⟨h, k⟩ := h
  refine if_neg ?_
  rw [toNat_beq_zero, h]
  rcases k with k | k
  · rw [decide_eq_true k]; exact Bool.false_ne_true
  · rw [k, Bool.or_true]; decide

/-- Settles O56, by what each command does to a supply, to RESET_N or to the wait of a RESET: whatever enters COLD leaves the state after
reset. -/
theorem coldIsEnteredAndLeft : Obligations.ColdIsEnteredAndLeft := by
  unfold Obligations.ColdIsEnteredAndLeft
  intro g s
  dsimp only
  refine ⟨⟨_, rfl, enterCold_cold _ _, rfl, rfl, rfl⟩, fun h => if_pos h, fun ht hr hp => ?_, fun ht h => ?_,
    ⟨_, exec_pwrOkChange_high s g, regsKept_of_tables rfl rfl, pwrOkPut_high s g, rfl⟩, fun hw hg => ?_, fun h => ?_,
    fun a ha => ⟨fun h => ?_, fun h => ?_⟩, fun h => ?_⟩
  · refine ⟨_, (if_neg (by simp [ht])).trans (if_neg (by rw [hr, hp]; decide)), regsKept_of_tables rfl rfl, rfl, rfl, rfl, rfl⟩
  · refine (if_neg (by simp [ht])).trans (if_pos ?_)
    rcases h with h | h <;> rw [h]
    · rfl
    · exact Bool.or_true _
  · by_cases h0 : g = 0
    · exact ⟨_, (exec_pwrOkChange_fall ⟨hw, hg⟩).trans (if_pos (congrArg BitVec.toNat h0)), enterCold_cold _ _, pwrOkPut_low s g, iff_of_true rfl h0⟩
    · exact ⟨_, (exec_pwrOkChange_fall ⟨hw, hg⟩).trans (if_neg fun h => h0 (BitVec.eq_of_toNat_eq h)), enterCold_cold _ _, pwrOkPut_low s g,
        iff_of_false Bool.false_ne_true h0⟩
  · refine ⟨_, exec_pwrOkChange_idle ?_, regsKept_of_tables rfl rfl, pwrOkPut_low s g, rfl⟩
    rintro ⟨hw, hg⟩
    rcases h with h | ⟨h0, hs⟩
    · exact absurd (hw.symm.trans h) (by decide)
    · exact hg.elim h0 fun h => absurd (h.symm.trans hs) (by decide)
  · refine ⟨_, ?_, enterCold_cold s _, rfl⟩
    show execResetWaitExpiry s = _
    rw [execResetWaitExpiry, ha]
    exact if_pos h
  · show execResetWaitExpiry s = _
    rw [execResetWaitExpiry, ha]
    exact if_neg (by unfold agKs; omega)
  · show execResetWaitExpiry s = _
    rw [execResetWaitExpiry, h]
end Sys2Proof.Timing
end

section
/-! SUPPORT. What a change of a course's voltage and margin leaves (R39, R478). -/
namespace Sys2Proof.Timing
open Sys2Proof Sys2Proof.Machine

/-! ### What the voltage sequencer leaves (R452, R453, R478) -/

/-- A core but for EFF. -/
def noEff (c : Core) : Core := { c with eff := 0 }

/-- The sequencer's work is on courses, EFF, VSEQ_LIM and its records: the rest of each core, DRAM, the Keystone and the trims stay. -/
structure VoltKeeps (s t : State) : Prop where
  cores : ∀ k, noEff (getCore t k) = noEff (getCore s k)
  mem   : t.mem = s.mem
  ks    : t.ks = s.ks
  trims : t.trims = s.trims

theorem voltKeeps_refl (s : State) : VoltKeeps s s := ⟨fun _ => rfl, rfl, rfl, rfl⟩

theorem voltKeeps_trans {s t u : State} (h : VoltKeeps s t) (k : VoltKeeps t u) : VoltKeeps s u :=
  ⟨fun n => (k.cores n).trans (h.cores n), k.mem.trans h.mem, k.ks.trans h.ks, k.trims.trans h.trims⟩

theorem voltKeeps_foldl {α : Type} {f : State → α → State} (hf : ∀ s x, VoltKeeps s (f s x)) (l : List α) (s : State) : VoltKeeps s (l.foldl f s) := by
  induction l generalizing s with
  | nil => exact voltKeeps_refl s
  | cons x r ih => exact voltKeeps_trans (hf s x) (ih _)

theorem voltKeeps_ite {c : Prop} [Decidable c] {s a b : State} (ha : VoltKeeps s a) (hb : VoltKeeps s b) : VoltKeeps s (if c then a else b) := by
  split
  · exact ha
  · exact hb

theorem setEff_keeps (s : State) (n k : Nat) : VoltKeeps s (setEff s n k) := by
  refine ⟨fun j => ?_, rfl, rfl, rfl⟩
  rw [setEff, modCore, getCore_setCore]
  split
  · rename_i h; rw [h]; rfl
  · rfl

theorem modCourse_keeps (s : State) (c : Nat) (f : Course → Course) : VoltKeeps s (modCourse s c f) := ⟨fun _ => rfl, rfl, rfl, rfl⟩

theorem vseqLimit_keeps (s : State) (c n k : Nat) : VoltKeeps s (vseqLimit s c n k) := by
  unfold vseqLimit
  obtain ⟨_, _, e⟩ := jrn_eq { s with gstat := s.gstat ||| 2 } c 0x7B 0
    (bytesOf 1 c ++ bytesOf 1 n ++ bytesOf 2 (getCore { s with gstat := s.gstat ||| 2 } n).pace.toNat ++ bytesOf 2 k)
  exact e ▸ ⟨fun _ => rfl, rfl, rfl, rfl⟩

theorem effLower_keeps (s : State) (c v : Nat) : VoltKeeps s (effLower s c v) :=
  voltKeeps_foldl (fun u n => voltKeeps_ite (setEff_keeps u n _) (voltKeeps_refl u)) _ s

theorem effRaise_keeps (s : State) (c : Nat) : VoltKeeps s (effRaise s c) :=
  voltKeeps_foldl (fun u n => voltKeeps_ite (setEff_keeps u n 0)
    (voltKeeps_trans (voltKeeps_ite (vseqLimit_keeps u c n _) (voltKeeps_refl u)) (setEff_keeps _ n _))) _ s

theorem seqEval_keeps (s : State) (c : Nat) : VoltKeeps s (seqEval s c) := by
  unfold seqEval
  extract_lets t u
  have hu : VoltKeeps s u := modCourse_keeps s c _
  exact voltKeeps_trans hu (voltKeeps_ite (effLower_keeps u c t) (voltKeeps_ite (effRaise_keeps u c) (voltKeeps_refl u)))

theorem marginEval_keeps (s : State) (c : Nat) : VoltKeeps s (marginEval s c) := by
  have hm : ∀ u m, VoltKeeps u (setMargin u c m) := fun u m => modCourse_keeps u c _
  unfold marginEval
  extract_lets new old
  refine voltKeeps_ite (voltKeeps_refl s) (voltKeeps_ite (voltKeeps_trans ?_ (hm _ _)) (voltKeeps_trans (hm s new) (effRaise_keeps _ c)))
  exact voltKeeps_foldl (fun u n => voltKeeps_ite (setEff_keeps u n _) (voltKeeps_refl u)) _ s

end Sys2Proof.Timing
end

section
/-! SUPPORT. A Keystone packet executed at the front of the queue, its reply, and a register that the Keystone sets (R30, R409 to R417). -/
namespace Sys2Proof.Timing
open Sys2Proof Sys2Proof.Machine

/-! ### A packet in execution (R409, R410, R416, R417, R424) -/

/-- The state in which the front packet is executed: it has left the queue. -/
def taken (s : State) : State := { s with ks := { s.ks with queue := s.ks.queue.tail, running := true } }

/-- What `atFront` asks, one by one. -/
theorem atFront_cases {s : State} {p : Packet} (h : atFront s p = true) :
    s.ks.queue = p :: s.ks.queue.tail ∧ s.ks.inReset = false ∧ s.ks.running = false ∧ s.ks.resetAt = none ∧
    crc32c (packetBody p) = p.crc.toNat ∧ denied s p = false ∧ isOpcode p.opcode.toNat = true ∧
    ∀ sq c rep, (pathOf s p.path).last = some (sq, c, rep) → sq ≠ p.seq := by
  unfold atFront at h
  simp only [Bool.and_eq_true, Bool.not_eq_true', beq_iff_eq, Option.isNone_iff_eq_none] at h
  obtain ⟨⟨⟨⟨⟨⟨⟨h1, h2⟩, h3⟩, h4⟩, h5⟩, h6⟩, h7⟩, h8⟩ := h
  refine ⟨(List.cons_head?_tail h1).symm, h2, h3, h4, h5, h6, h7, fun sq c rep e => ?_⟩
  rw [e] at h8
  exact bne_iff_ne.1 h8

/-- A packet at the front that a command executes is not answered without it. -/
theorem ksGoOn_atFront {s : State} {p : Packet} (h : atFront s p = true) : ksGoOn s = s := by
  obtain ⟨hq, -, hr, ha, hc, hd, ho, hl⟩ := atFront_cases h
  unfold ksGoOn autoAnswer
  rw [hq]
  dsimp only
  rw [hr, ha, if_neg (by decide), if_neg (not_not_intro hc)]
  split
  · rename_i sq c rep e
    rw [if_neg (hl sq c rep e), hd, ho]
    rfl
  · rw [hd, ho]
    rfl

/-- A packet of a command's opcode and length, where its opcode is legal, is executed (R410, R424). -/
theorem ksRun_legal {s : State} {p : Packet} {op : Nat} {len : Nat → Bool} {g : Legal} {f : State → Packet → State}
    (h : atFront s p = true) (ho : p.opcode.toNat = op) (hn : len p.payload.length = true) (hg : illegal s g = none) :
    ksRun s op len g f = f (taken s) p := by
  obtain ⟨hq, hi, hr, ha, -⟩ := atFront_cases h
  have hg' : illegal (taken s) g = none := hg
  unfold ksRun
  rw [ksGoOn_atFront h]
  show (match s.ks.queue with | [] => _ | p :: r => _) = _
  rw [hq]
  refine (if_neg (by rw [hi, hr, ha, ho]; simp)).trans ((if_neg (by rw [hn]; decide)).trans ?_)
  show (match illegal (taken s) g with | some _ => _ | none => _) = _
  rw [hg']
  rfl

/-! ### A reply (R412 to R414, R417, R440) -/

/-- The state in which a packet has been answered: agents, dropped records, the two paths, the mailbox and the alerts may be others. -/
def replied (s : State) (ag : Tbl Agent) (q : Nat) (sr mb : PathSt) (mr : Tbl Byte) (pe : BitVec 32) : State :=
  { s with agents := ag, jrn := { s.jrn with qDrop := q }
           ks := { s.ks with serial := sr, mailbox := mb, mbReply := mr, pending := pe, running := false } }

theorem replied_regsKept {s t : State} (h : RegsKept s t) (ag : Tbl Agent) (q : Nat) (sr mb : PathSt) (mr : Tbl Byte) (pe : BitVec 32) :
    RegsKept s (replied t ag q sr mb mr pe) := regsKept_trans h (regsKept_of_tables rfl rfl)

theorem setPath_eq (s : State) (p : KPath) (x : PathSt) :
    ∃ sr mb, setPath s p x = { s with ks := { s.ks with serial := sr, mailbox := mb } } ∧ pathOf (setPath s p x) p = x := by
  cases p
  · exact ⟨x, s.ks.mailbox, rfl, rfl⟩
  · exact ⟨s.ks.serial, x, rfl, rfl⟩

/-- A reply is ready on its path, and at the mailbox also in its buffer (R412, R413). -/
theorem replyReady_eq (s : State) (p : KPath) (r : List Byte) : ∃ sr mb mr pe,
    replyReady s p r = { s with ks := { s.ks with serial := sr, mailbox := mb, mbReply := mr, pending := pe } } ∧
    (pathOf (replyReady s p r) p).reply = some r := by
  cases p
  · exact ⟨_, s.ks.mailbox, s.ks.mbReply, _, rfl, rfl⟩
  · exact ⟨s.ks.serial, _, _, s.ks.pending, rfl, rfl⟩

/-- The end of a packet's execution: its reply is ready on its path, and the front of the queue goes on. -/
theorem finish_eq (s : State) (p : Packet) (st : Nat) (b : List Byte) : ∃ ag q sr mb mr pe,
    finish s p st b = ksGoOn (replied s ag q sr mb mr pe) ∧ (pathOf (replied s ag q sr mb mr pe) p.path).reply = some (replyBytes s p st b) := by
  unfold finish
  extract_lets rep s1 _ s2 s3
  have h1 : ∃ ag q, s1 = { s with agents := ag, jrn := { s.jrn with qDrop := q } } := by
    by_cases hq : isQuery p.opcode.toNat = true
    · exact ⟨s.agents, s.jrn.qDrop, if_pos hq⟩
    · obtain ⟨ag, q, e⟩ := jrn_eq s agKs 0x70 0
        (bytesOf 1 (match p.path with | .serial => 0 | .mailbox => 1) ++ bytesOf 2 p.seq.toNat ++ bytesOf 2 p.opcode.toNat ++ bytesOf 2 st)
      exact ⟨ag, q, (if_neg hq).trans e⟩
  obtain ⟨_, _, h2, -⟩ := setPath_eq s1 p.path { pathOf s1 p.path with last := some (p.seq, p.crc, rep) }
  obtain ⟨sr, mb, mr, pe, h3, hr⟩ := replyReady_eq s2 p.path rep
  change s2 = _ at h2
  change s3 = _ at h3
  change (pathOf s3 p.path).reply = _ at hr
  clear_value s3 s2 s1
  obtain ⟨ag, q, h1⟩ := h1
  subst h1 h2 h3
  exact ⟨ag, q, sr, mb, mr, pe, rfl, hr⟩

/-- A command that ends a packet's execution answers it, when what it claims does not rest on the reply's own state. -/
theorem ksAnswers_of_finish {i : Instr} {s t : State} {p : Packet} {q : List Packet} {st : Nat} {b : List Byte} {P : State → List Byte → Prop}
    (he : exec i s = .next (finish t p st b)) (hq : t.ks.queue = q)
    (hP : ∀ ag q sr mb mr pe, P (replied t ag q sr mb mr pe) b) : KsAnswers i s p q st P := by
  obtain ⟨ag, dr, sr, mb, mr, pe, e, hr⟩ := finish_eq t p st b
  exact ⟨_, b, he.trans (congrArg _ e), rfl, hq, hr, hP ag dr sr mb mr pe⟩

/-! ### A register that the Keystone sets (R30) -/

/-- Where no core was the last to set a register, the Keystone's setting takes effect, and no core's store meets it (R30). -/
theorem ksSet_alone {s : State} {off : Nat} (h : coreLast s off = false) (f : State → State) :
    ∃ x : Nat × Nat × Bool × Logical, ksSet s off f = { f s with ctlLast := tset (fun _ => none) (f s).ctlLast off (some x) } ∧ x.2.2.1 = true := by
  have hp : ctlPair s off true = none := by
    unfold ctlPair
    unfold coreLast at h
    split
    · rename_i t st k m e
      rw [e] at h
      rw [Bool.not_eq_eq_eq_not.1 h]
      rfl
    · rfl
  refine ⟨((f s).plumb.now, stampOf s agKs, true, 0), ?_, rfl⟩
  unfold ksSet ctlMeet ctlTakes
  rw [hp]
  rfl

theorem coreLast_set {s : State} (h : ∀ o, coreLast s o = false) (off : Nat) {x : Nat × Nat × Bool × Logical} (hx : x.2.2.1 = true) (o : Nat) :
    coreLast { s with ctlLast := tset (fun _ => none) s.ctlLast off (some x) } o = false := by
  unfold coreLast
  simp only [tget_tset]
  split_ifs with ho
  · obtain ⟨_, _, k, _⟩ := x
    exact congrArg not hx
  · exact h o

end Sys2Proof.Timing
end

section
/-! PROOF. The setting commands that write a field, or make no record (R48, R431, R432, R436). -/
namespace Sys2Proof.Timing
open Sys2Proof Sys2Proof.Machine

/-! ### Where the setting commands are legal (R424) -/

theorem illegal_settable {s : State} (h : settable s) {g : Legal} (hf : g.f = true) (hb : g.b = true) (hs : g.s = true) : illegal s g = none := by
  unfold illegal
  rcases h with (h | h | h) | ⟨h, hp⟩ <;> rw [h] <;> dsimp only
  · rw [hb]; rfl
  · rw [hs]; rfl
  · rw [hs]; rfl
  · rw [hf, decide_eq_false hp]; rfl

theorem illegal_started {s : State} (h : started s) {g : Legal} (hb : g.b = true) (hs : g.s = true) : illegal s g = none := by
  unfold illegal
  rcases h with h | h | h <;> rw [h] <;> dsimp only
  · rw [hb]; rfl
  · rw [hs]; rfl
  · rw [hs]; rfl

theorem illegal_booting {s : State} (h : s.ks.st = .booting) {g : Legal} (hb : g.b = true) : illegal s g = none := by
  unfold illegal
  rw [h]
  dsimp only
  rw [hb]
  rfl

theorem illegal_config {s : State} (hf : s.ks.st = .filling) (hp : s.ks.phase = .config) {g : Legal} (hc : g.cfg = true) : illegal s g = none := by
  unfold illegal
  rw [hf]
  dsimp only
  rw [hp, hc, Bool.or_true]
  cases g.f <;> rfl

/-! ### The fields of a payload -/

theorem le_two (l : List Byte) (o : Nat) : le l o 2 = (l.getD o 0).toNat + 256 * (l.getD (o + 1) 0).toNat := rfl

theorem getD_of_le_one {l : List Byte} {o : Nat} (h : le l o 1 = 0) : l.getD o 0 = 0 := BitVec.eq_of_toNat_eq h

theorem getD_of_le_two {l : List Byte} {o : Nat} (h : le l o 2 = 0) : l.getD o 0 = 0 ∧ l.getD (o + 1) 0 = 0 := by
  rw [le_two] at h
  exact ⟨BitVec.eq_of_toNat_eq (show _ = 0 by omega), BitVec.eq_of_toNat_eq (show _ = 0 by omega)⟩

/-! ### A setting command -/

theorem taken_regsKept (s : State) : RegsKept s (taken s) := regsKept_setKs s _

theorem getRp_replied (t : State) (ag : Tbl Agent) (q : Nat) (sr mb : PathSt) (mr : Tbl Byte) (pe : BitVec 32) (k : Nat) :
    getRp (replied t ag q sr mb mr pe) k = getRp t k := rfl

/-- A command that executes the front packet and ends with a reply answers it. -/
theorem ksAnswers_of_run {i : Instr} {s t : State} {p : Packet} {op : Nat} {len : Nat → Bool} {g : Legal} {f : State → Packet → State} {st : Nat}
    {b : List Byte} {P : State → List Byte → Prop} (h : atFront s p = true) (he : exec i s = .next (ksRun s op len g f)) (ho : p.opcode.toNat = op)
    (hn : len p.payload.length = true) (hg : illegal s g = none) (hf : f (taken s) p = finish t p st b) (hq : t.ks.queue = s.ks.queue.tail)
    (hP : ∀ ag q sr mb mr pe, P (replied t ag q sr mb mr pe) b) : KsAnswers i s p s.ks.queue.tail st P :=
  ksAnswers_of_finish (he.trans (congrArg _ ((ksRun_legal h ho hn hg).trans hf))) hq hP

section
variable {s : State} {p : Packet} (h : atFront s p = true)
include h

/-- SET_PLUMB (R48, R431). -/
theorem setPlumb_effect (ho : p.opcode.toNat = 0x101) (hn : p.payload.length = 8) (hf : s.ks.st = .filling) (hp : s.ks.phase ≠ .failed) :
    KsAnswers .setPlumb s p s.ks.queue.tail 0 (fun u c => RegsKept s u ∧ c = bytesOf 8 s.plumb.now ∧ u.plumb.now = le p.payload 0 8 ∧ u.plumb.off = [] ∧
      u.jrn.sets.length = s.jrn.sets.length + 1 ∧ u.jrn.sets.getLast? = some { at_ := le p.payload 0 8 }) := by
  have hg : illegal s { f := true } = none := by
    unfold illegal
    rw [hf]
    dsimp only
    rw [decide_eq_false hp]
    rfl
  have hr := regsKept_trans (taken_regsKept s) (setPlumbTime_regsKept (taken s) (le p.payload 0 8))
  obtain ⟨_, _, e⟩ := setPlumbTime_eq (taken s) (le p.payload 0 8)
  refine ksAnswers_of_run h rfl ho (by rw [hn]; rfl) hg rfl (by rw [e]; rfl) fun _ _ _ _ _ _ => ⟨replied_regsKept hr _ _ _ _ _ _, rfl, ?_⟩
  rw [e]
  refine ⟨rfl, rfl, ?_, ?_⟩
  · exact (List.length_append ..).trans (congrArg (· + 1) (List.length_map ..))
  · exact List.getLast?_concat ..

/-- SET_MEMCFG (R431). -/
theorem setMemcfg_effect (ho : p.opcode.toNat = 0x104) (hn : p.payload.length = 2) (hf : s.ks.st = .filling) (hp : s.ks.phase = .config)
    (ha : le p.payload 0 1 ≤ 2) (hb : le p.payload 1 1 ≤ 1) :
    KsAnswers .setMemcfg s p s.ks.queue.tail 0 (fun u c => RegsKept s u ∧ c = [] ∧ u.ks.maxSpeed.toNat = le p.payload 0 1 ∧
      (u.ks.wantSpare = true ↔ le p.payload 1 1 = 1)) := by
  refine ksAnswers_of_run h rfl ho (by rw [hn]; rfl) (illegal_config hf hp rfl) ((if_neg (Nat.not_lt.2 ha)).trans (if_neg (Nat.not_lt.2 hb))) rfl
    fun _ _ _ _ _ _ => ⟨replied_regsKept (regsKept_trans (taken_regsKept s) (regsKept_setKs _ _)) _ _ _ _ _ _, rfl, rfl, ?_⟩
  exact beq_iff_eq.trans ⟨congrArg BitVec.toNat, fun h => BitVec.eq_of_toNat_eq h⟩

/-- SET_PCIE (R431). -/
theorem setPcie_effect (ho : p.opcode.toNat = 0x105) (hn : p.payload.length = 4) (hf : s.ks.st = .filling) (hp : s.ks.phase = .config)
    (ha : le p.payload 0 1 ≤ 5) (hb : le p.payload 1 1 ≤ 3) (hc : 1 ≤ le p.payload 2 1) (hd : le p.payload 2 1 ≤ 5) (h3 : le p.payload 3 1 = 0) :
    KsAnswers .setPcie s p s.ks.queue.tail 0 (fun u c => RegsKept s u ∧ c = [] ∧ fld (getRp u (le p.payload 0 1)).cfg 0 2 = le p.payload 1 1 ∧
      fld (getRp u (le p.payload 0 1)).cfg 8 3 = le p.payload 2 1) := by
  let f : Rp → Rp := fun x => { x with cfg := fldSet (fldSet x.cfg 0 2 (le p.payload 1 1)) 8 3 (le p.payload 2 1) }
  have hr : RegsKept s (modRp (taken s) (le p.payload 0 1) f) := regsKept_trans (taken_regsKept s) (regsKept_of_seen (setRp_seen seen_refl))
  refine ksAnswers_of_run h rfl ho (by rw [hn]; rfl) (illegal_config hf hp rfl) ((if_neg (Nat.not_lt.2 ha)).trans ((if_neg (Nat.not_lt.2 hb)).trans
    ((if_neg ?_).trans (if_neg (not_not_intro (getD_of_le_one h3)))))) rfl fun _ _ _ _ _ _ => ⟨replied_regsKept hr _ _ _ _ _ _, rfl, ?_⟩
  · rw [Bool.or_eq_true, decide_eq_true_iff, decide_eq_true_iff]
    omega
  · rw [getRp_replied]
    have hg : getRp (modRp (taken s) (le p.payload 0 1) f) (le p.payload 0 1) = f (getRp s (le p.payload 0 1)) := (getRp_setRp _ _ _ _).trans (if_pos rfl)
    rw [hg]
    exact ⟨(fld_fldSet_ne _ _ (by omega)).trans ((fld_fldSet_same _ _ (by omega)).trans (Nat.mod_eq_of_lt (by omega))),
      (fld_fldSet_same _ _ (by omega)).trans (Nat.mod_eq_of_lt (by omega))⟩

/-- START_FILL (R431, R508). -/
theorem startFill_effect (ho : p.opcode.toNat = 0x106) (hn : p.payload.length = 0) (hf : s.ks.st = .filling) (hp : s.ks.phase = .config) :
    KsAnswers .startFill s p s.ks.queue.tail 1 (fun u c => RegsKept s u ∧ c = [] ∧ u.ks.phase = .training ∧ u.pins.sampled = true ∧
      u.ks.fillAt = s.plumb.now) :=
  ksAnswers_of_run h rfl ho (by rw [hn]; rfl) (illegal_config hf hp rfl) rfl rfl fun _ _ _ _ _ _ =>
    ⟨replied_regsKept (by exact regsKept_of_tables rfl rfl) _ _ _ _ _ _, rfl, rfl, rfl, rfl⟩

/-- RESET (R432). -/
theorem reset_effect (ho : p.opcode.toNat = 0x202) (hn : p.payload.length = 0) (hc : s.ks.st ≠ .cold) :
    KsAnswers .reset s p s.ks.queue.tail 0 (fun u c => RegsKept s u ∧ c = [] ∧ u.ks.resetAt = some (plumbOf s agKs) ∧ u.pins.sampled = false) := by
  have hg : illegal s { f := true, b := true, s := true, failed := true } = none := by
    unfold illegal
    cases hs : s.ks.st
    case cold => exact absurd hs hc
    all_goals simp
  exact ksAnswers_of_run h rfl ho (by rw [hn]; rfl) hg rfl rfl fun _ _ _ _ _ _ =>
    ⟨replied_regsKept (by exact regsKept_of_tables rfl rfl) _ _ _ _ _ _, rfl, rfl, rfl⟩

/-- KTEST (R168, R436). -/
theorem ktest_effect (ho : p.opcode.toNat = 0x509) (hn : p.payload.length = 2) (hs : started s) (hv : le p.payload 1 1 ≤ 1) :
    KsAnswers .ktest s p s.ks.queue.tail 0 (fun u b => RegsSame (le p.payload 0 1) s u ∧ b = [] ∧
      regsOf (getCore u (le p.payload 0 1)) = regsOf { getCore s (le p.payload 0 1) with
        pctl := if le p.payload 1 1 = 1 then (getCore s (le p.payload 0 1)).pctl ||| 0x40 else (getCore s (le p.payload 0 1)).pctl &&& 0xBF }) := by
  refine ksAnswers_of_run h rfl ho (by rw [hn]; rfl) (illegal_started hs rfl rfl) (if_neg (Nat.not_lt.2 hv)) rfl fun _ _ _ _ _ _ => ⟨⟨fun k hk => ?_, fun _ => rfl⟩, rfl, ?_⟩
  · exact congrArg regsOf ((getCore_setCore ..).trans (if_neg hk))
  · exact congrArg regsOf ((getCore_setCore ..).trans (if_pos rfl))

end

end Sys2Proof.Timing
end

section
/-! SUPPORT. What the settings change: PLUMB_CTL, the device's state, the seal key, LEDGER_CTL (R49, R336 to R339, R419). -/
namespace Sys2Proof.Timing
open Sys2Proof Sys2Proof.Machine

/-! ### What the settings leave -/

/-- A register that the Keystone sets alone leaves what its setting leaves. -/
theorem ksSet_regsKept {s : State} {off : Nat} (hc : coreLast s off = false) {f : State → State} (hf : RegsKept s (f s)) : RegsKept s (ksSet s off f) := by
  obtain ⟨_, e, -⟩ := ksSet_alone hc f
  rw [e]
  exact regsKept_trans hf (regsKept_of_tables rfl rfl)

/-- SET_PPS changes plumb time's registers only; PLUMB_CTL takes the mode and the edge (R49). -/
theorem setPps_eq (s : State) (m e : Nat) : ∃ x, setPps s m e = { s with plumb := x } ∧ x.ctl = fldSet (fldSet s.plumb.ctl 0 2 m) 3 1 e := by
  unfold setPps
  dsimp only
  by_cases hm : m = 2
  · rw [if_pos hm]
    split
    · exact ⟨_, rfl, rfl⟩
    · exact ⟨_, rfl, rfl⟩
  · rw [if_neg hm, if_neg (by simp [hm])]
    exact ⟨_, rfl, rfl⟩

/-- A change of the device's state (R419) makes a record and an alert. -/
theorem setDev_eq (s : State) (d : DevState) (c : Nat) : ∃ ag q pe,
    setDev s d c = { s with agents := ag, jrn := { s.jrn with qDrop := q }, ks := { s.ks with st := d, pending := pe } } := by
  unfold setDev
  by_cases hd : s.ks.st = d
  · subst hd
    exact ⟨s.agents, s.jrn.qDrop, s.ks.pending, if_pos rfl⟩
  · rw [if_neg hd]
    obtain ⟨ag, q, e⟩ := jrn_eq s agKs 0x71 0 (bytesOf 1 (devCode s.ks.st) ++ bytesOf 1 (devCode d) ++ bytesOf 1 c)
    dsimp only
    rw [e]
    exact ⟨ag, q, _, rfl⟩

/-- The new key is installed, or waits for the end of a close (R338, R339). -/
theorem installKey_eq (s : State) (k : List Byte) (d : Option (List Byte)) : ∃ x, installKey s k d = { s with led := x } ∧
    fld x.status 40 8 = (fld s.led.status 40 8 + 1) % 256 ∧ ((serving s && closeInProgress s) = false → x.key = some k) ∧
    ((serving s && closeInProgress s) = true → x.key = s.led.key ∧ ∃ y, x.nextKey = some y ∧ y.1 = k) := by
  have hg : fld (fldSet (fldSet s.led.status 40 8 ((fld s.led.status 40 8 + 1) % 256)) 61 1 0) 40 8 = (fld s.led.status 40 8 + 1) % 256 :=
    (fld_fldSet_ne _ _ (by omega)).trans ((fld_fldSet_same _ _ (by omega)).trans (Nat.mod_mod _ _))
  unfold installKey
  cases hb : serving s && closeInProgress s
  · exact ⟨_, if_neg Bool.false_ne_true, hg, fun _ => rfl, fun h => absurd h Bool.false_ne_true⟩
  · exact ⟨_, if_pos rfl, hg, fun h => absurd h.symm Bool.false_ne_true, fun _ => ⟨rfl, _, rfl, rfl⟩⟩

/-! ### LEDGER_CTL (R336) -/

/-- LEDGER_CTL as LEDGER_CFG writes it. -/
def ledgerCtl (base n e : Nat) : Word64 := fldSet (BitVec.ofNat 64 base ||| BitVec.ofNat 64 n) 63 1 e

theorem fld_ofNat (v : Nat) {lo n : Nat} (h : lo + n ≤ 64) : fld (BitVec.ofNat 64 v) lo n = v / 2 ^ lo % 2 ^ n := by
  refine Nat.eq_of_testBit_eq fun i => ?_
  rw [testBit_fld, Nat.testBit_mod_two_pow, Nat.testBit_div_two_pow, BitVec.getLsbD_ofNat, Nat.add_comm]
  by_cases hi : i < n
  · rw [decide_eq_true (show i + lo < 64 by omega), Bool.true_and]
  · rw [decide_eq_false hi, Bool.false_and, Bool.false_and]

/-- The slots and the base do not overlap in LEDGER_CTL. -/
theorem ledgerCtl_eq {base n e : Nat} (hb : base % 4096 = 0) (hn : n < 4096) : ledgerCtl base n e = fldSet (BitVec.ofNat 64 (base + n)) 63 1 e := by
  have : base + n = base ||| n := by
    obtain ⟨k, rfl⟩ := Nat.dvd_of_mod_eq_zero hb
    exact Nat.two_pow_add_eq_or_of_lt (i := 12) hn k
  unfold ledgerCtl
  rw [this, BitVec.ofNat_or]

theorem fld_ledgerCtl {base n e : Nat} (hb : base % 4096 = 0) (hn : n < 4096) (h : base < 2 ^ 52) (he : e ≤ 1) :
    fld (ledgerCtl base n e) 0 12 = n ∧ fld (ledgerCtl base n e) 12 40 * 4096 = base ∧ ((ledgerCtl base n e).getLsbD 63 = true ↔ e = 1) := by
  rw [ledgerCtl_eq hb hn, fld_fldSet_ne _ _ (by omega), fld_fldSet_ne _ _ (by omega), fld_ofNat _ (by omega), fld_ofNat _ (by omega),
    getLsbD_fldSet _ _ _ _ _ (by omega), if_pos (by omega)]
  refine ⟨by omega, by omega, ?_⟩
  obtain rfl | rfl : e = 0 ∨ e = 1 := by omega
  · decide
  · decide

end Sys2Proof.Timing
end

section
/-! PROOF. The setting commands at shared registers or with a record, and the settings as a whole (R49, R218, R336, R409, R435, R438, R474). -/
namespace Sys2Proof.Timing
open Sys2Proof Sys2Proof.Machine

/-! ### Settings of registers that a core's store could meet, and of what changes with a record -/

/-- A patch image that fails a check makes a record (R218). -/
theorem stagePatch_refused (s : State) {img b : List Byte} (hb : b = (List.range 4352).map (Config.patchPlain img)) (h : patchStatus img b ≠ 0) :
    stagePatch s img = (patchStatus img b, jrn s agKs 0x1A 0 (bytesOf 2 (patchStatus img b))) := by
  unfold stagePatch
  dsimp only
  rw [← hb]
  exact if_pos h

/-- What an image that passes every check stages (R218). -/
def stagedOf (img b : List Byte) : Staging := { level := BitVec.ofNat 32 (le img 8 4), crc := BitVec.ofNat 32 (crc32c b), body := b }

theorem stagePatch_staged (s : State) {img b : List Byte} (hb : b = (List.range 4352).map (Config.patchPlain img)) (h : patchStatus img b = 0) :
    stagePatch s img = (0, jrn { s with ks := { s.ks with staged := some (stagedOf img b) } } agKs 0x19 0 (bytesOf 4 (le img 8 4) ++ bytesOf 4 (crc32c b))) := by
  unfold stagePatch
  dsimp only
  rw [← hb]
  exact if_neg (not_not_intro h)

/-- What a trim does to the margin that it sets (R478) leaves the rest. -/
theorem trimActs_keeps (s : State) (i : Nat) : VoltKeeps s (trimActs s i) := voltKeeps_ite (marginEval_keeps s _) (voltKeeps_refl s)

theorem calEff_trims {s t : State} (h : t.trims = s.trims) (i : Nat) : calEff t i = calEff s i := by
  unfold calEff calTrim
  rw [h]

/-- The state with the trim of a calibrated quantity set. -/
def trimmed (s : State) (i : Nat) (v : Int) : State := { s with trims := tset (fun _ => 0) s.trims i v }

theorem trimmed_keeps {s : State} {off : Nat} (hc : coreLast s off = false) (i : Nat) (v : Int) (l : List Byte) :
    VoltKeeps (trimmed s i v) (trimActs (jrn (ksSet s off (fun t => trimmed t i v)) agKs 0x82 0 l) i) := by
  obtain ⟨_, e, -⟩ := ksSet_alone hc (fun t => trimmed t i v)
  rw [e]
  obtain ⟨_, _, e'⟩ := jrn_eq { trimmed s i v with ctlLast := _ } agKs 0x82 0 l
  exact voltKeeps_trans (by rw [e']; exact ⟨fun _ => rfl, rfl, rfl, rfl⟩) (trimActs_keeps _ i)

theorem trimmed_replied {s t : State} {i : Nat} {v : Int} (hk : VoltKeeps (trimmed s i v) t) (ag : Tbl Agent) (q : Nat) (sr mb : PathSt) (mr : Tbl Byte)
    (pe : BitVec 32) : (∀ a, memRead (replied t ag q sr mb mr pe) a = memRead s a) ∧ tget (fun _ => 0) (replied t ag q sr mb mr pe).trims i = v ∧
      calEff (replied t ag q sr mb mr pe) i = calEff t i := by
  refine ⟨memRead_congr hk.mem, ?_, rfl⟩
  show tget (fun _ => 0) t.trims i = v
  rw [hk.trims]
  exact (tget_tset ..).trans (if_pos rfl)

theorem replied_led (t : State) (ag : Tbl Agent) (q : Nat) (sr mb : PathSt) (mr : Tbl Byte) (pe : BitVec 32) :
    (replied t ag q sr mb mr pe).led = t.led := rfl

theorem sub_one_byte (g : Nat) (l m : List Byte) : sub (bytesOf 1 g ++ l ++ m) 0 1 = bytesOf 1 g := rfl

/-- A key installed and recorded (R338, R339). -/
theorem keySealed (s : State) (k : List Byte) (d : Option (List Byte)) (l : List Byte) : let u := jrn (installKey s k d) agKs 0x32 0 l
    RegsKept s u ∧ u.ks = s.ks ∧ u.led = (installKey s k d).led ∧ fld u.led.status 40 8 = (fld s.led.status 40 8 + 1) % 256 ∧
    ((serving s && closeInProgress s) = false → u.led.key = some k) ∧
    ((serving s && closeInProgress s) = true → u.led.key = s.led.key ∧ ∃ y, u.led.nextKey = some y ∧ y.1 = k) := by
  obtain ⟨_, e, hg, hk, hb⟩ := installKey_eq s k d
  obtain ⟨_, _, e'⟩ := jrn_eq (installKey s k d) agKs 0x32 0 l
  dsimp only
  rw [e', e]
  exact ⟨regsKept_of_tables rfl rfl, rfl, rfl, hg, hk, hb⟩

section
variable {s : State} {p : Packet} (h : atFront s p = true)
include h

/-- SERVE (R419, R432). -/
theorem serve_effect (ho : p.opcode.toNat = 0x201) (hn : p.payload.length = 0) (hb : s.ks.st = .booting) :
    KsAnswers .serve s p s.ks.queue.tail 0 (fun u c => RegsKept s u ∧ c = [] ∧ u.ks.st = if degr s = 0 then .serving else .degraded) := by
  obtain ⟨_, _, _, e⟩ := setDev_eq (taken s) (if degr (taken s) = 0 then .serving else .degraded) 1
  have hr : RegsKept s (setDev (taken s) (if degr (taken s) = 0 then .serving else .degraded) 1) := by
    rw [e]
    exact regsKept_of_tables rfl rfl
  refine ksAnswers_of_run h rfl ho (by rw [hn]; rfl) (illegal_booting hb rfl) rfl (by rw [e]; rfl) fun _ _ _ _ _ _ => ⟨replied_regsKept hr _ _ _ _ _ _, rfl, ?_⟩
  rw [e]
  rfl

/-- PATCH_STAGE (R218, R438). -/
theorem patchStage_effect (ho : p.opcode.toNat = 0x601) (hn : p.payload.length = 4496) (hs : settable s) {b : List Byte}
    (hb : b = (List.range 4352).map (Config.patchPlain p.payload)) :
    KsAnswers .patchStage s p s.ks.queue.tail (patchStatus p.payload b) (fun u c => RegsKept s u ∧
      (patchStatus p.payload b ≠ 0 → u.ks.staged = s.ks.staged ∧ c = []) ∧
      (patchStatus p.payload b = 0 → u.ks.staged = some { level := BitVec.ofNat 32 (le p.payload 8 4), crc := BitVec.ofNat 32 (crc32c b), body := b })) := by
  by_cases h0 : patchStatus p.payload b = 0
  · obtain ⟨_, _, e⟩ := jrn_eq { taken s with ks := { (taken s).ks with staged := some (stagedOf p.payload b) } } agKs 0x19 0
      (bytesOf 4 (le p.payload 8 4) ++ bytesOf 4 (crc32c b))
    have hf := stagePatch_staged (taken s) hb h0
    rw [h0]
    rw [e] at hf
    refine ksAnswers_of_run h rfl ho (by rw [hn]; rfl) (illegal_settable hs rfl rfl rfl) (by rw [hf]; rfl) rfl
      fun _ _ _ _ _ _ => ⟨replied_regsKept (by exact regsKept_of_tables rfl rfl) _ _ _ _ _ _, fun hne => absurd rfl hne, fun _ => rfl⟩
  · obtain ⟨_, _, e⟩ := jrn_eq (taken s) agKs 0x1A 0 (bytesOf 2 (patchStatus p.payload b))
    have hf := stagePatch_refused (taken s) hb h0
    generalize jrn (taken s) agKs 0x1A 0 (bytesOf 2 (patchStatus p.payload b)) = u at e hf
    obtain ⟨k, hk⟩ := Nat.exists_eq_succ_of_ne_zero h0
    rw [hk] at hf ⊢
    refine ksAnswers_of_run h rfl ho (by rw [hn]; rfl) (illegal_settable hs rfl rfl rfl) (by rw [hf]; rfl) (by rw [e]; rfl)
      fun _ _ _ _ _ _ => ⟨replied_regsKept (by rw [e]; exact regsKept_of_tables rfl rfl) _ _ _ _ _ _, fun _ => ⟨by rw [e]; rfl, rfl⟩, fun hz => absurd hz (Nat.succ_ne_zero k)⟩

variable (hc : ∀ o, coreLast (taken s) o = false)
include hc

/-- SET_PPS (R49, R431). -/
theorem setPps_effect (ho : p.opcode.toNat = 0x102) (hn : p.payload.length = 2) (hs : settable s) (ha : le p.payload 0 1 ≤ 3) (hb : le p.payload 1 1 ≤ 1)
    (hf : le p.payload 0 1 = 1 → s.ks.st = .filling) :
    KsAnswers .setPps s p s.ks.queue.tail 0 (fun u c => RegsKept s u ∧ c = [] ∧ ppsMode u = le p.payload 0 1 ∧ fld u.plumb.ctl 3 1 = le p.payload 1 1) := by
  obtain ⟨x, hx, hctl⟩ := setPps_eq (taken s) (le p.payload 0 1) (le p.payload 1 1)
  have hr : RegsKept s (ksSet (taken s) 0x20008 (fun t => setPps t (le p.payload 0 1) (le p.payload 1 1))) :=
    regsKept_trans (taken_regsKept s) (ksSet_regsKept (hc _) (by rw [hx]; exact regsKept_setPlumb _ _))
  obtain ⟨_, e, -⟩ := ksSet_alone (hc 0x20008) (fun t => setPps t (le p.payload 0 1) (le p.payload 1 1))
  refine ksAnswers_of_run h rfl ho (by rw [hn]; rfl) (illegal_settable hs rfl rfl rfl) ((if_neg (Nat.not_lt.2 ha)).trans ((if_neg (Nat.not_lt.2 hb)).trans
    (if_neg ?_))) (by rw [e, hx]; rfl) fun _ _ _ _ _ _ => ⟨replied_regsKept hr _ _ _ _ _ _, rfl, ?_⟩
  · rw [Bool.and_eq_true, decide_eq_true_iff, decide_eq_true_iff]
    exact fun ⟨h1, h2⟩ => h2 (hf h1)
  · rw [e, hx]
    show fld x.ctl 0 2 = _ ∧ fld x.ctl 3 1 = _
    rw [hctl]
    exact ⟨(fld_fldSet_ne _ _ (by omega)).trans ((fld_fldSet_same _ _ (by omega)).trans (Nat.mod_eq_of_lt (by omega))),
      (fld_fldSet_same _ _ (by omega)).trans (Nat.mod_eq_of_lt (by omega))⟩

/-- MBOX_ALLOW (R409, R432). -/
theorem mboxAllow_effect (ho : p.opcode.toNat = 0x203) (hn : p.payload.length = 1) (hs : settable s) (hv : (p.payload.getD 0 0).getLsbD 7 = false) :
    KsAnswers .mboxAllow s p s.ks.queue.tail 0 (fun u c => RegsKept s u ∧ c = [p.payload.getD 0 0] ∧ u.ks.allow = p.payload.getD 0 0) := by
  have hr : RegsKept s (ksSet (taken s) 0x10010 (fun t => { t with ks := { t.ks with allow := p.payload.getD 0 0 } })) :=
    regsKept_trans (taken_regsKept s) (ksSet_regsKept (hc _) (regsKept_setKs _ _))
  obtain ⟨_, e, -⟩ := ksSet_alone (hc 0x10010) (fun t => { t with ks := { t.ks with allow := p.payload.getD 0 0 } })
  refine ksAnswers_of_run h rfl ho (by rw [hn]; rfl) (illegal_settable hs rfl rfl rfl) (if_neg (by rw [hv]; decide)) (by rw [e]; rfl)
    fun _ _ _ _ _ _ => ⟨replied_regsKept hr _ _ _ _ _ _, ?_⟩
  rw [e]
  exact ⟨rfl, rfl⟩

/-- SET_TRIM (R474 to R476). -/
theorem setTrim_effect (ho : p.opcode.toNat = 0x103) (hn : p.payload.length = 8) (hs : settable s) (hr : (calRange (le p.payload 0 2)).isSome = true)
    (hz : le p.payload 2 2 = 0) (hl : -1048575 ≤ toSigned 32 (le p.payload 4 4)) (hu : toSigned 32 (le p.payload 4 4) ≤ 1048575) :
    KsAnswers .setTrim s p s.ks.queue.tail 0 (fun u b => (∀ a, memRead u a = memRead s a) ∧
      tget (fun _ => 0) u.trims (le p.payload 0 2) = toSigned 32 (le p.payload 4 4) ∧ b = bytesOf 4 (ofInt 32 (calEff u (le p.payload 0 2)))) := by
  obtain ⟨⟨lo, hi⟩, hcal⟩ := Option.isSome_iff_exists.1 hr
  obtain ⟨h2, h3⟩ := getD_of_le_two hz
  have hk := fun l => trimmed_keeps (hc (0xD000 + 8 * le p.payload 0 2)) (le p.payload 0 2) (toSigned 32 (le p.payload 4 4)) l
  refine ksAnswers_of_run h rfl ho (by rw [hn]; rfl) (illegal_settable hs rfl rfl rfl)
    (by dsimp only; rw [hcal]; exact (if_neg (not_not_intro h2)).trans ((if_neg (not_not_intro h3)).trans (if_neg (by
      rw [Bool.or_eq_true, decide_eq_true_iff, decide_eq_true_iff]; omega)))) ?_ fun _ _ _ _ _ _ => ?_
  · exact (congrArg Ks.queue (hk _).ks).trans rfl
  · obtain ⟨hm, ht, he⟩ := trimmed_replied (hk _) _ _ _ _ _ _
    exact ⟨hm, ht, congrArg (fun n => bytesOf 4 (ofInt 32 n)) (he.trans (calEff_trims (trimActs_keeps _ _).trims _)).symm⟩

/-- SET_POWER (R288, R304, R435). -/
theorem setPower_effect (ho : p.opcode.toNat = 0x401) (hn : p.payload.length = 8) (hs : settable s) (h180 : 180 ≤ le p.payload 0 2)
    (h480 : le p.payload 0 2 ≤ 480) (hlt : le p.payload 2 2 < le p.payload 0 2) (h1 : 1 ≤ le p.payload 4 2) (h1000 : le p.payload 4 2 ≤ 1000)
    (hd : 600000 % le p.payload 4 2 = 0) (hz : le p.payload 6 2 = 0) :
    KsAnswers .setPower s p s.ks.queue.tail 0 (fun u c => RegsKept s u ∧ c = [] ∧ fld u.planCtl 0 16 = le p.payload 0 2 ∧
      fld u.planCtl 16 16 = le p.payload 2 2 ∧ fld u.budCtl 0 10 = le p.payload 4 2) := by
  obtain ⟨h6, h7⟩ := getD_of_le_two hz
  obtain ⟨x, e, hx⟩ := ksSet_alone (hc 0x400008) (fun t => { t with planCtl := fldSet (fldSet t.planCtl 0 16 (le p.payload 0 2)) 16 16 (le p.payload 2 2) })
  obtain ⟨y, e', -⟩ := ksSet_alone (coreLast_set (s := { taken s with planCtl := fldSet (fldSet (taken s).planCtl 0 16 (le p.payload 0 2)) 16 16 (le p.payload 2 2) })
    hc 0x400008 hx 0x400000) (fun t => { t with budCtl := fldSet t.budCtl 0 10 (le p.payload 4 2) })
  refine ksAnswers_of_run h rfl ho (by rw [hn]; rfl) (illegal_settable hs rfl rfl rfl) ((if_neg ?_).trans ((if_neg (by omega)).trans ((if_neg ?_).trans
    ((if_neg (not_not_intro h6)).trans (if_neg (not_not_intro h7)))))) (by rw [e, e']; rfl) fun _ _ _ _ _ _ => ⟨replied_regsKept (by rw [e, e']; exact regsKept_of_tables rfl rfl) _ _ _ _ _ _, rfl, ?_⟩
  · simp only [Bool.or_eq_true, decide_eq_true_iff]
    omega
  · simp only [Bool.or_eq_true, decide_eq_true_iff]
    omega
  · rw [e, e']
    exact ⟨(fld_fldSet_ne _ _ (by omega)).trans ((fld_fldSet_same _ _ (by omega)).trans (Nat.mod_eq_of_lt (by omega))),
      (fld_fldSet_same _ _ (by omega)).trans (Nat.mod_eq_of_lt (by omega)), (fld_fldSet_same _ _ (by omega)).trans (Nat.mod_eq_of_lt (by omega))⟩

/-- LEDGER_CFG (R336, R438). -/
theorem ledgerCfg_effect (ho : p.opcode.toNat = 0x603) (hn : p.payload.length = 12) (hs : started s) (he : le p.payload 0 1 ≤ 1)
    (hz : le p.payload 1 1 = 0) (h2 : 2 ≤ le p.payload 2 2) (h4 : le p.payload 2 2 ≤ 4095) (hb : le p.payload 4 8 % 4096 = 0)
    (ht : le p.payload 4 8 + le p.payload 2 2 * 0x41000 ≤ s.dramTop.toNat) (hd : s.dramTop.toNat ≤ 2 ^ 52) :
    KsAnswers .ledgerCfg s p s.ks.queue.tail 0 (fun u c => RegsKept s u ∧ c = [] ∧ ledSlots u = le p.payload 2 2 ∧ ledBase u = le p.payload 4 8 ∧
      (ledEn u = true ↔ le p.payload 0 1 = 1)) := by
  obtain ⟨_, e, -⟩ := ksSet_alone (hc 0x30100) (fun t => { t with led := { t.led with ctl := ledgerCtl (le p.payload 4 8) (le p.payload 2 2) (le p.payload 0 1) } })
  refine ksAnswers_of_run h rfl ho (by rw [hn]; rfl) (illegal_started hs rfl rfl) ((if_neg (Nat.not_lt.2 he)).trans ((if_neg (not_not_intro (getD_of_le_one hz))).trans
    ((if_neg ?_).trans ((if_neg (not_not_intro hb)).trans (if_neg (Nat.not_lt.2 ht)))))) (by rw [← ledgerCtl, e]; rfl)
    fun _ _ _ _ _ _ => ⟨replied_regsKept (by rw [← ledgerCtl, e]; exact regsKept_of_tables rfl rfl) _ _ _ _ _ _, rfl, ?_⟩
  · simp only [Bool.or_eq_true, decide_eq_true_iff]
    omega
  · rw [← ledgerCtl, e]
    exact fld_ledgerCtl hb (by omega) (by omega) he

omit hc in
/-- SEAL_KEY (R339, R438). -/
theorem sealKey_effect (ho : p.opcode.toNat = 0x602) (hn : p.payload.length = 32 ∨ p.payload.length = 80) (hs : settable s) :
    KsAnswers .sealKey s p s.ks.queue.tail 0 (fun u b => RegsKept s u ∧
      fld u.led.status 40 8 = (fld s.led.status 40 8 + 1) % 256 ∧ sub b 0 1 = bytesOf 1 (fld u.led.status 40 8) ∧
      ((serving s && closeInProgress s) = false → u.led.key = some (p.payload.take 32)) ∧
      ((serving s && closeInProgress s) = true → u.led.key = s.led.key ∧ ∃ y, u.led.nextKey = some y ∧ y.1 = p.payload.take 32)) := by
  have hl : (p.payload.length == 32 || p.payload.length == 80) = true := by rwa [Bool.or_eq_true, beq_iff_eq, beq_iff_eq]
  have hj := keySealed (taken s) (p.payload.take 32) (if p.payload.length = 80 then some (p.payload.drop 32) else none)
  refine ksAnswers_of_run h rfl ho hl (illegal_settable hs rfl rfl rfl) rfl (congrArg Ks.queue (hj _).2.1) fun _ _ _ _ _ _ => ?_
  obtain ⟨hr, -, hled, hg, hk, hb⟩ := hj _
  refine ⟨replied_regsKept (regsKept_trans (taken_regsKept s) hr) _ _ _ _ _ _, ?_⟩
  rw [replied_led]
  refine ⟨hg, ?_, hk, hb⟩
  rw [hled]
  exact sub_one_byte _ _ _

end

/-- Settles O53, one theorem for each command: a packet at the front of the queue is executed, and its reply is ready on its path. -/
theorem settingsTakeEffect : Obligations.SettingsTakeEffect := by
  intro p s h hc
  refine ⟨setPlumb_effect h, setPps_effect h hc, setTrim_effect h hc, fun ho hn hf => setMemcfg_effect h ho hn hf.1 hf.2,
    fun ho hn hf => setPcie_effect h ho hn hf.1 hf.2, fun ho hn hf => startFill_effect h ho hn hf.1 hf.2, serve_effect h, reset_effect h,
    mboxAllow_effect h hc, setPower_effect h hc, ledgerCfg_effect h hc, sealKey_effect h, ktest_effect h, fun ho hn hs => patchStage_effect h ho hn hs rfl⟩

end Sys2Proof.Timing
end

section
/-! SUPPORT. An event taken off the mortar (R55), and the tokens of one nanosecond of the pace generator (R40 to R43, R295). -/
namespace Sys2Proof.Timing
open Sys2Proof Sys2Proof.Machine

/-! ### An event taken off the mortar (R55, R77) -/

/-- What is received changes its agent only. -/
theorem received_eq (s : State) (a : Nat) (x : BitVec 24) : ∃ ag, received s a x = { s with agents := ag } := by
  unfold received
  dsimp only
  split_ifs
  · exact ⟨s.agents, rfl⟩
  · exact ⟨_, rfl⟩
  · exact ⟨s.agents, rfl⟩

theorem eventTake_eq (s : State) (n : Nat) (ep : BitVec 8) (d : Tdid) : ∃ ev ag, eventTake s n ep d = { s with events := ev, agents := ag } := by
  unfold eventTake
  split
  · obtain ⟨ag, e⟩ := received_eq { s with events := s.events.erase ‹_› } (courseOf s n) _
    exact ⟨_, ag, e⟩
  · exact ⟨s.events, s.agents, rfl⟩

/-! ### The tokens of one nanosecond (R41) -/

/-- The tokens that enter the bank, of `k` passes at most. -/
def whole (k : Nat) (c : Core) : Nat := Nat.min k (c.acc / 1000)

/-- Tokens of a core that waits or stalls on a budget are not banked (R295). -/
theorem paceTokens_idle (k : Nat) (c : Core) : ∃ x, paceTokens k true c = (false, { c with acc := x }) ∧ x = c.acc - 1000 * whole k c := by
  unfold whole
  induction k generalizing c with
  | zero => exact ⟨c.acc, rfl, by simp⟩
  | succ k ih =>
    unfold paceTokens
    by_cases h : c.acc < 1000
    · rw [if_pos h]
      refine ⟨c.acc, rfl, ?_⟩
      rw [Nat.div_eq_of_lt h]
      simp
    · rw [if_neg h]
      obtain ⟨x, e, hx⟩ := ih { c with acc := c.acc - 1000 }
      refine ⟨x, e, hx.trans ?_⟩
      simp only [Nat.min_def]
      split_ifs <;> omega

/-- Tokens of a core that goes on enter the bank up to 8, and one that finds it full sets SLIP (R41, R43). -/
theorem paceTokens_banked (k : Nat) (c : Core) : ∃ l x b p, paceTokens k false c = (l, { c with acc := x, bank := b, slip := p }) ∧
    x = c.acc - 1000 * whole k c ∧ b = Nat.max c.bank (Nat.min 8 (c.bank + whole k c)) ∧ p = (c.slip || decide (8 - c.bank < whole k c)) := by
  unfold whole
  induction k generalizing c with
  | zero => exact ⟨false, c.acc, c.bank, c.slip, rfl, by simp, by simp, by simp⟩
  | succ k ih =>
    unfold paceTokens
    by_cases h : c.acc < 1000
    · rw [if_pos h]
      refine ⟨false, c.acc, c.bank, c.slip, rfl, ?_⟩
      rw [Nat.div_eq_of_lt h]
      simp
    · rw [if_neg h]
      dsimp only
      have hw : Nat.min (k + 1) (c.acc / 1000) = Nat.min k ((c.acc - 1000) / 1000) + 1 := by
        simp only [Nat.min_def]
        split_ifs <;> omega
      rw [hw, if_neg Bool.false_ne_true]
      generalize hm : Nat.min k ((c.acc - 1000) / 1000) = m at ih
      by_cases hb : c.bank < 8
      · rw [if_pos hb]
        obtain ⟨l, x, b, p, e, hx, hbk, hp⟩ := ih { c with acc := c.acc - 1000, bank := c.bank + 1 }
        dsimp only at hx hbk hp
        rw [hm] at hx hbk hp
        refine ⟨l, x, b, p, e, by omega, hbk.trans ?_, hp.trans ?_⟩
        · simp only [Nat.max_def, Nat.min_def]
          split_ifs <;> omega
        · exact congrArg (c.slip || ·) (decide_eq_decide.2 (by omega))
      · rw [if_neg hb]
        obtain ⟨l, x, b, p, e, hx, hbk, hp⟩ := ih { c with acc := c.acc - 1000, slip := true }
        dsimp only at hx hbk hp
        rw [hm] at hx hbk hp
        refine ⟨true, x, b, p, congrArg (fun r => (true, r.2)) e, by omega, hbk.trans ?_, hp.trans ?_⟩
        · simp only [Nat.max_def, Nat.min_def]
          split_ifs <;> omega
        · rw [decide_eq_true (show 8 - c.bank < m + 1 by omega), Bool.true_or, Bool.or_true]

/-! ### One nanosecond of the pace generator (R40 to R43, R295) -/

/-- The core waits, is off, or stalls on a budget: it banks no token (R41, R295). -/
def banksNone (c : Core) : Prop := c.run ≠ .run ∨ (c.level ≠ .h ∧ c.stall ≠ 0 ∧ c.ingrace = false)

theorem banksNone_iff (c : Core) : (c.run != .run || (c.level != .h && c.stall != 0 && !c.ingrace)) = true ↔ banksNone c := by
  unfold banksNone
  simp only [Bool.or_eq_true, Bool.and_eq_true, bne_iff_ne, Bool.not_eq_true', and_assoc]

/-- EFF as the generator counts it (R40). -/
def effNow (c : Core) : BitVec 10 := if c.effGen = 0 then c.eff else c.effGen

/-- The core at the start of a nanosecond of its generator. -/
def paceBegun (c : Core) : Core :=
  let c : Core := { c with paceAt := c.paceAt + 1, effGen := effNow c }
  if c.bank = 0 then { c with slipEp := false } else c

/-- The thousandths of a token at hand in that nanosecond (R41). -/
def paceSum (c : Core) : Nat := (paceBegun c).acc + 4 * (paceBegun c).effGen.toNat

/-- The tokens of that nanosecond, and whether one found the bank full. -/
def paceRun (c : Core) : Bool × Core :=
  paceTokens 6 (c.run != .run || (c.level != .h && c.stall != 0 && !c.ingrace)) { paceBegun c with acc := paceSum c }

/-- The core after one nanosecond of its generator. -/
def paced (c : Core) : Core :=
  { (paceRun c).2 with slipEp := (paceBegun c).slipEp || (paceRun c).1, effGen := if 1000 ≤ paceSum c then (paceBegun c).eff else (paceBegun c).effGen }

theorem paceBegun_eq (c : Core) : ∃ p, paceBegun c = { c with paceAt := c.paceAt + 1, effGen := effNow c, slipEp := p } := by
  unfold paceBegun
  dsimp only
  split_ifs
  · exact ⟨_, rfl⟩
  · exact ⟨c.slipEp, rfl⟩

theorem paceSum_eq (c : Core) : paceSum c = c.acc + 4 * (effNow c).toNat := by
  obtain ⟨p, e⟩ := paceBegun_eq c
  unfold paceSum
  rw [e]

/-- The nanosecond changes its core, and may make a record. -/
theorem paceTick_eq (s : State) (n : Nat) : ∃ ag q, paceTick s n = { setCore s n (paced (getCore s n)) with agents := ag, jrn := { s.jrn with qDrop := q } } := by
  have ht : paceTick s n = if (paceRun (getCore s n)).1 && !(paceBegun (getCore s n)).slipEp then
      jrn (setCore s n (paced (getCore s n))) (courseOf s n) 0x08 (paceBegun (getCore s n)).dom
        (bytesOf 1 n ++ bytesOf 2 (paceBegun (getCore s n)).eff.toNat ++ bytesOf 2 (paceBegun (getCore s n)).nat.toNat)
      else setCore s n (paced (getCore s n)) := by
    rfl
  rw [ht]
  split_ifs
  · exact jrn_eq (setCore s n (paced (getCore s n))) _ _ _ _
  · exact ⟨s.agents, s.jrn.qDrop, rfl⟩

/-- What the nanosecond leaves in its core (R40 to R43, R295). -/
theorem paced_effect (c : Core) : let m := Nat.min 6 (paceSum c / 1000)
    (paced c).acc = paceSum c - 1000 * m ∧ (paced c).paceAt = c.paceAt + 1 ∧ (paced c).effGen = (if 1000 ≤ paceSum c then c.eff else effNow c) ∧
    (banksNone c → (paced c).bank = c.bank ∧ (paced c).slip = c.slip) ∧
    (¬banksNone c → (paced c).bank = Nat.max c.bank (Nat.min 8 (c.bank + m)) ∧ (paced c).slip = (c.slip || decide (8 - c.bank < m))) := by
  obtain ⟨p, e⟩ := paceBegun_eq c
  unfold paced paceRun
  rw [e]
  by_cases h : banksNone c
  · rw [(banksNone_iff c).2 h]
    obtain ⟨x, ex, hx⟩ := paceTokens_idle 6 { c with paceAt := c.paceAt + 1, effGen := effNow c, slipEp := p, acc := paceSum c }
    rw [ex]
    exact ⟨hx, rfl, rfl, fun _ => ⟨rfl, rfl⟩, fun hn => absurd h hn⟩
  · rw [Bool.eq_false_of_not_eq_true (mt (banksNone_iff c).1 h)]
    obtain ⟨l, x, b, q, ex, hx, hb, hq⟩ := paceTokens_banked 6 { c with paceAt := c.paceAt + 1, effGen := effNow c, slipEp := p, acc := paceSum c }
    rw [ex]
    exact ⟨hx, rfl, rfl, fun hi => absurd hi h, fun _ => ⟨hb, hq⟩⟩

end Sys2Proof.Timing
end

section
/-! PROOF. Events, the deadline of a WAITT, and the pace generator (R40 to R43, R77, R144, R146, R147). -/
namespace Sys2Proof.Timing
open Sys2Proof Sys2Proof.Machine

/-! ### A change of one core (R143) -/

theorem getCore_of_cores {s t : State} {n : Nat} {c : Core} (hc : t.cores = (setCore s n c).cores) (k : Nat) :
    getCore t k = if k = n then c else getCore s k := by
  rw [← getCore_setCore]
  unfold getCore
  rw [hc]

/-- A change of core `n` and of what no register names: the others and DRAM stay. -/
theorem regsSame_setCore {s t : State} {n : Nat} {c : Core} (hc : t.cores = (setCore s n c).cores) (hm : t.mem = s.mem) :
    RegsSame n s t ∧ getCore t n = c := by
  exact ⟨⟨fun k hk => by rw [getCore_of_cores hc, if_neg hk], memRead_congr hm⟩, (getCore_of_cores hc n).trans (if_pos rfl)⟩

theorem regsSame_of_kept {s t : State} (n : Nat) (h : RegsKept s t) : RegsSame n s t := ⟨fun k _ => h.cores k, h.bytes⟩

/-! ### The pace generator -/

theorem exec_paceTick {n : BitVec 8} {s : State} (h : paceDue s n.toNat = true) :
    exec (.paceGeneratorTick n) s = .next (advance (paceTick s n.toNat) n.toNat) := if_pos h

theorem exec_paceTick_notDue {n : BitVec 8} {s : State} (h : paceDue s n.toNat = false) : exec (.paceGeneratorTick n) s = .next s :=
  if_neg (by rw [h]; exact Bool.false_ne_true)

theorem paceTick_core (s : State) (n : Nat) : RegsSame n s (paceTick s n) ∧ getCore (paceTick s n) n = paced (getCore s n) := by
  obtain ⟨_, _, e⟩ := paceTick_eq s n
  exact regsSame_setCore (by rw [e]) (by rw [e]; rfl)

/-! ### Events (R77, R144, R146, R147) -/

theorem sevDrop_regsKept (s : State) (t : Nat) : RegsKept s (sevDrop s t) := regsKept_of_tables rfl rfl

theorem staleRecord_regsKept (s : State) (n k : Nat) (a : BitVec 8) (i : Option SrcId) : RegsKept s (staleRecord s n k a i) :=
  regsKept_of_seen (coreEv_seen (jrn_seen seen_refl))

/-- An event of the core's own epoch, for a core that is housed and whose domain goes on, reaches its run state. -/
theorem event_own {s : State} {n : Nat} {ep : BitVec 8} {d : Tdid} (hh : (getCore s n).run ≠ .unhoused)
    (hp : (getCore s n).level = .h ∨ domPaused s (getCore s n).dom.toNat = false) (he : (getCore s n).epoch = ep) :
    ∃ ev ag, event s n ep d = match (getCore s n).run with
      | .wfe | .waitt _ _ => wakeCore { s with events := ev, agents := ag } n 1
      | .run => setCore { s with events := ev, agents := ag } n (eventHeld (getCore s n) (coreTime s n))
      | _ => setCore { s with events := ev, agents := ag } n { getCore s n with evflag := true } := by
  obtain ⟨ev, ag, e⟩ := eventTake_eq s n ep d
  refine ⟨ev, ag, ?_⟩
  unfold event
  rw [e]
  refine (if_neg ?_).trans ((if_neg (not_not_intro he)).trans ((if_neg ?_).trans rfl))
  · exact fun h => hh (of_decide_eq_true (Bool.and_eq_true_iff.1 h).1)
  · rw [Bool.and_eq_true, decide_eq_true_iff]
    exact fun h => h.1 (hp.resolve_right fun h' => Bool.false_ne_true (h'.symm.trans h.2))

theorem event_other {s : State} {n : Nat} {ep : BitVec 8} {d : Tdid} (hh : (getCore s n).run ≠ .unhoused) (he : (getCore s n).epoch ≠ ep) :
    RegsKept s (event s n ep d) := by
  obtain ⟨ev, ag, e⟩ := eventTake_eq s n ep d
  have hk : RegsKept s { s with events := ev, agents := ag } := regsKept_of_tables rfl rfl
  unfold event
  rw [e]
  refine (congrArg (RegsKept s) ((if_neg ?_).trans (if_pos he))).mpr (regsKept_trans (regsKept_trans hk (staleRecord_regsKept _ n 1 ep none)) (sevDrop_regsKept _ _))
  exact fun h => hh (of_decide_eq_true (Bool.and_eq_true_iff.1 h).1)

theorem event_run {s : State} {n : Nat} {ep : BitVec 8} {d : Tdid} (hr : (getCore s n).run = .run)
    (hp : (getCore s n).level = .h ∨ domPaused s (getCore s n).dom.toNat = false) (he : (getCore s n).epoch = ep) :
    RegsSame n s (event s n ep d) ∧ getCore (event s n ep d) n = eventHeld (getCore s n) (coreTime s n) := by
  obtain ⟨ev, ag, e⟩ := event_own (d := d) (by rw [hr]; exact Run.noConfusion) hp he
  rw [hr] at e
  rw [e]
  exact regsSame_setCore rfl rfl

/-- A write of a general register is the same whatever the core remembers of a WAITT that has ended. -/
theorem writeG_tie (c : Core) (t : Option (BitVec 6 × Nat)) (r : BitVec 6) (x : Reg) :
    writeG { c with tie := t } r x = { writeG c r x with tie := t } := by
  have hb : activeBank { c with tie := t } = activeBank c := rfl
  unfold writeG writeGb
  rw [hb]
  dsimp only
  split_ifs
  · rfl
  · rfl
  · split <;> rfl

/-- A core wakes at `now` for a reason: WAITT writes it (R146, R147). -/
def woken (c : Core) (now reason : Nat) : Core :=
  let c := match c.run with
    | .waitt r d =>
      let why := if reason = 2 && decide (d.toNat ≤ now) then 0 else reason
      writeG { c with tie := if why = 1 then none else some (r, now) } r { v := BitVec.ofNat 64 why }
    | _ => c
  { c with run := .run, bank := 0 }

theorem wakeCore_core {s t : State} {n r : Nat} (hc : t.cores = s.cores) (hm : t.mem = s.mem) (hp : coreTime t n = coreTime s n) :
    RegsSame n s (wakeCore t n r) ∧ getCore (wakeCore t n r) n = woken (getCore s n) (coreTime s n) r := by
  have hg : getCore t n = getCore s n := by unfold getCore; rw [hc]
  refine regsSame_setCore ?_ hm
  show tset coreInit t.cores n (woken (getCore t n) (coreTime t n) r) = _
  rw [hc, hp, hg]
  rfl

theorem event_wait {s : State} {n : Nat} {ep : BitVec 8} {d : Tdid} (hr : (getCore s n).run = .wfe ∨ ∃ r d, (getCore s n).run = .waitt r d)
    (hp : (getCore s n).level = .h ∨ domPaused s (getCore s n).dom.toNat = false) (he : (getCore s n).epoch = ep) :
    RegsSame n s (event s n ep d) ∧ getCore (event s n ep d) n = woken (getCore s n) (coreTime s n) 1 := by
  obtain ⟨ev, ag, e⟩ := event_own (d := d) (by rcases hr with hr | ⟨_, _, hr⟩ <;> rw [hr] <;> exact Run.noConfusion) hp he
  have hw : event s n ep d = wakeCore { s with events := ev, agents := ag } n 1 := by
    rw [e]
    rcases hr with hr | ⟨_, _, hr⟩ <;> rw [hr]
  rw [hw]
  exact wakeCore_core rfl rfl rfl

theorem regsOf_woken_wfe {c : Core} {now : Nat} (h : c.run = .wfe) (r : Nat) : regsOf (woken c now r) = regsOf { c with run := .run } := by
  unfold woken
  rw [h]
  rfl

theorem regsOf_woken_waitt {c : Core} {now r : Nat} {g : BitVec 6} {d : Word64} (h : c.run = .waitt g d) (hr : r ≠ 2) :
    regsOf (woken c now r) = regsOf { writeG c g { v := BitVec.ofNat 64 r } with run := .run } := by
  unfold woken
  split
  · rename_i g' d' h'
    obtain ⟨rfl, rfl⟩ := Run.waitt.inj (h'.symm.trans h)
    dsimp only
    rw [decide_eq_false hr, Bool.false_and, if_neg Bool.false_ne_true, writeG_tie]
    rfl
  · rename_i hn
    exact absurd h (hn g d)

theorem regsOf_eventHeld_flag {c : Core} {now : Nat} (h : ∀ r t, c.tie = some (r, t) → t ≠ now) :
    regsOf (eventHeld c now) = regsOf { c with evflag := true } := by
  unfold eventHeld
  split
  · rw [if_neg (h _ _ ‹_›)]
  · rfl

/-- An event of the ns in which a WAITT ended makes that WAITT's result 1 (R147). -/
theorem regsOf_eventHeld_tie {c : Core} {now : Nat} {r : BitVec 6} (h : c.tie = some (r, now)) :
    regsOf (eventHeld c now) = regsOf (writeG c r { v := 1 }) := by
  unfold eventHeld
  rw [h]
  dsimp only
  rw [if_pos rfl, writeG_tie]
  rfl

theorem exec_waittDeadline {n : BitVec 8} {s : State} {r : BitVec 6} {d : Word64} (h : (getCore s n.toNat).run = .waitt r d) :
    exec (.waittDeadline n) s = if d.toNat ≤ coreTime s n.toNat then .next (advance (wakeCore s n.toNat 0) n.toNat) else .next s := by
  show (match (getCore s n.toNat).run with | .waitt _ d => _ | _ => _) = _
  rw [h]

/-- Settles O26: an event changes the run state of its core or its flag, a deadline ends its WAITT, and the generator's tokens
are those of `paced_effect`. -/
theorem eventsDeadlinesAndPace : Obligations.EventsDeadlinesAndPace := by
  constructor
  · intro n ep d s k c gives hh hp
    refine ⟨fun he => ?_, fun he hr ht => ?_, fun r he hr ht => ?_, fun he hr => ?_, fun r x he hr => ?_,
      fun r x hr hx => ?_, fun r x hr hx => ?_⟩
    · have hk := event_other (d := d) hh he
      exact ⟨_, rfl, regsSame_of_kept k hk, hk.cores k⟩
    · obtain ⟨hs, hc⟩ := event_run (d := d) hr hp he
      exact ⟨_, rfl, hs, (congrArg regsOf hc).trans (regsOf_eventHeld_flag ht)⟩
    · obtain ⟨hs, hc⟩ := event_run (d := d) hr hp he
      exact ⟨_, rfl, hs, (congrArg regsOf hc).trans (regsOf_eventHeld_tie ht)⟩
    · obtain ⟨hs, hc⟩ := event_wait (d := d) (.inl hr) hp he
      exact ⟨_, rfl, hs, (congrArg regsOf hc).trans (regsOf_woken_wfe hr 1)⟩
    · obtain ⟨hs, hc⟩ := event_wait (d := d) (.inr ⟨r, x, hr⟩) hp he
      exact ⟨_, rfl, hs, (congrArg regsOf hc).trans (regsOf_woken_waitt hr (by decide))⟩
    · exact (exec_waittDeadline hr).trans (if_neg (Nat.not_le.2 hx))
    · obtain ⟨hs, hc⟩ := wakeCore_core (s := s) (r := 0) rfl rfl rfl
      exact ⟨_, (exec_waittDeadline hr).trans (if_pos hx), hs, (congrArg regsOf hc).trans (regsOf_woken_waitt hr (by decide))⟩
  · intro n s k c idle e sum m
    refine ⟨exec_paceTick_notDue, fun h => ?_⟩
    obtain ⟨hs, hc⟩ := paceTick_core s k
    refine ⟨_, exec_paceTick h, hs, ?_⟩
    rw [hc]
    have hp := paced_effect c
    rw [paceSum_eq] at hp
    exact hp

end Sys2Proof.Timing
end

section
/-! SUPPORT. A dropped reservation (R127, R129), and the binding of a core to a domain (R62 to R64). -/
namespace Sys2Proof.Timing
open Sys2Proof Sys2Proof.Machine

/-! ### A dropped reservation (R127, R129) -/

theorem releaseGrant_eq (s : State) (p n : Nat) (l : LineNo) : ∃ rp o, releaseGrant s p n l = { s with rps := rp, outNet := o } := by
  unfold releaseGrant
  dsimp only
  split_ifs
  · exact ⟨_, _, rfl⟩
  · exact ⟨s.rps, s.outNet, rfl⟩

/-- A core's reservation goes from the core, and with it what its home or its port keeps of it. -/
theorem dropResv_eq {s : State} {n : Nat} {r : Resv} (h : (getCore s n).resv = some r) : ∃ sl rp o,
    dropResv s n = { setCore s n { getCore s n with resv := none } with slices := sl, rps := rp, outNet := o } := by
  unfold dropResv
  rw [h]
  dsimp only
  split
  · exact ⟨s.slices, s.rps, s.outNet, rfl⟩
  · exact ⟨_, s.rps, s.outNet, rfl⟩
  · split
    · obtain ⟨rp, o, e⟩ := releaseGrant_eq (modCore s n (fun c => { c with resv := none })) ‹_› n (lineOfPa r.pa)
      exact ⟨s.slices, rp, o, e⟩
    · exact ⟨s.slices, s.rps, s.outNet, rfl⟩

/-- The state but for one core, and the tables of what requests and reservations need. -/
structure CoreBecomes (n : Nat) (c : Core) (s t : State) : Prop where
  core  : getCore t n = c
  cores : ∀ k, k ≠ n → getCore t k = getCore s k
  mem   : t.mem = s.mem
  doms  : t.doms = s.doms

theorem coreBecomes_setCore {s t : State} {n : Nat} {c : Core} (hc : t.cores = (setCore s n c).cores) (hm : t.mem = s.mem) (hd : t.doms = s.doms) :
    CoreBecomes n c s t :=
  ⟨(getCore_of_cores hc n).trans (if_pos rfl), fun k hk => (getCore_of_cores hc k).trans (if_neg hk), hm, hd⟩

theorem CoreBecomes.trans {n : Nat} {c d : Core} {s t u : State} (h : CoreBecomes n c s t) (k : CoreBecomes n d t u) : CoreBecomes n d s u :=
  ⟨k.core, fun j hj => (k.cores j hj).trans (h.cores j hj), k.mem.trans h.mem, k.doms.trans h.doms⟩

theorem CoreBecomes.modCore {n : Nat} {c : Core} {s t : State} (h : CoreBecomes n c s t) (f : Core → Core) : CoreBecomes n (f c) s (modCore t n f) :=
  h.trans (h.core ▸ coreBecomes_setCore rfl rfl rfl)

theorem dropResv_core (s : State) (n : Nat) : CoreBecomes n { getCore s n with resv := none } s (dropResv s n) := by
  cases h : (getCore s n).resv with
  | none =>
    have hd : dropResv s n = s := by
      unfold dropResv
      rw [h]
    rw [hd]
    refine ⟨?_, fun _ _ => rfl, rfl, rfl⟩
    rw [← h]
  | some r =>
    obtain ⟨_, _, _, e⟩ := dropResv_eq h
    exact coreBecomes_setCore (by rw [e]) (by rw [e]; rfl) (by rw [e]; rfl)

/-! ### MTS to TDID (R62 to R64) -/

/-- The core as every MTS to TDID leaves it (R63, R127, R144, R169, R201). -/
def bindCleared (c : Core) : Core := { c with resv := none, pred := {}, evflag := false, fready := false, ffill := false, fbuf := none }

theorem rebindClear_core (s : State) (n : Nat) : CoreBecomes n (bindCleared (getCore s n)) s (rebindClear s n) :=
  (dropResv_core s n).modCore (fun c => { c with pred := {}, evflag := false, fready := false, ffill := false, fbuf := none })

theorem CoreBecomes.setCore {n : Nat} {c : Core} {s t : State} (h : CoreBecomes n c s t) (d : Core) : CoreBecomes n d s (setCore t n d) :=
  h.trans (coreBecomes_setCore rfl rfl rfl)

theorem CoreBecomes.ite {n : Nat} {c : Core} {s t u : State} {p : Prop} [Decidable p] (h : CoreBecomes n c s t) (k : CoreBecomes n c s u) :
    CoreBecomes n c s (if p then t else u) := by
  split
  · exact h
  · exact k

theorem domValid_congr {s t : State} (h : t.doms = s.doms) (d : Nat) : domValid t d = domValid s d := by
  unfold domValid getDom
  rw [h]

/-- The domain is not valid: no new binding (R63). -/
theorem rebind_invalid {s : State} {n : Nat} {v : Word64} (h : domValid s (v.extractLsb' 0 12).toNat = false) :
    CoreBecomes n (bindCleared (getCore s n)) s (rebind s n v) := by
  have hb := rebindClear_core s n
  have hv := (domValid_congr hb.doms _).trans h
  unfold rebind
  dsimp only
  rw [hv]
  generalize rebindClear s n = u at hb
  obtain ⟨ag, q, e⟩ := jrn_eq (ctlErr u) (courseOf u n) 0x12 (v.extractLsb' 0 12) (bytesOf 1 n ++ bytesOf 2 (v.extractLsb' 0 12).toNat)
  rw [if_pos (show (!false) = true from rfl), e]
  exact ⟨hb.core, hb.cores, hb.mem, hb.doms⟩

/-- The domain is valid: the new binding (R62, R64, R75). -/
theorem rebind_valid {s : State} {n : Nat} {v : Word64} (h : domValid s (v.extractLsb' 0 12).toNat = true) : ∃ ac lb bs dr sh st,
    CoreBecomes n (endGrace { bindCleared (getCore s n) with
      dom := v.extractLsb' 0 12, vcore := if v.extractLsb' 0 12 = 0 then BitVec.ofNat 8 n else v.extractLsb' 16 8, epoch := (getCore s n).epoch + 1,
      acct := ac, lastBind := lb, bindStamp := bs, lease := 0, granted := none, drawing := dr, drawShort := sh, drawOff := false, stall := st,
      busy := .bind }) s (rebind s n v) := by
  have hb := rebindClear_core s n
  have hv := (domValid_congr hb.doms _).trans h
  unfold rebind
  dsimp only
  rw [hv]
  generalize rebindClear s n = u at hb
  rw [if_neg (show (!true) ≠ true from Bool.false_ne_true)]
  have hu : CoreBecomes n (bindCleared (getCore s n)) s (stamped u (courseOf u n)) := ⟨hb.core, hb.cores, hb.mem, hb.doms⟩
  generalize stamped u (courseOf u n) = w at hu
  generalize hr : (if _ = 0 then w else _) = x
  have hx : CoreBecomes n (bindCleared (getCore s n)) s x := hr ▸ hu.ite ⟨hu.core, hu.cores, hu.mem, hu.doms⟩
  rw [hu.core]
  exact ⟨_, _, _, _, _, _, hx.setCore _⟩

end Sys2Proof.Timing
end

section
/-! PROOF. MTS to TDID and MTS to REIN (R39, R62 to R64). -/
namespace Sys2Proof.Timing
open Sys2Proof Sys2Proof.Machine

/-! ### MTS as a word of one syllable -/

theorem readGb_archOf {c d : Core} (h : archOf c = archOf d) (r : BitVec 6) (b : Nat) : readGb c r b = readGb d r b := by
  show readGb (archOf c) r b = readGb (archOf d) r b
  rw [h]

theorem epoch_archOf {c d : Core} (h : archOf c = archOf d) : c.epoch = d.epoch := by
  show (archOf c).epoch = (archOf d).epoch
  rw [h]

theorem slip_archOf {c d : Core} (h : archOf c = archOf d) : c.slip = d.slip := by
  show (archOf c).slip = (archOf d).slip
  rw [h]

/-- MTS to TDID, alone in its word: the binding begins in a state that differs by fetch and the token. -/
theorem exec_mtsTdid {y : Syl} {s : State} (h : issuesAlone (.mtsTdid y) y s = true) : ∃ u,
    archOf (getCore u y.n.toNat) = archOf (pastWord y (getCore s y.n.toNat)) ∧ ElseSame y.n.toNat s u ∧
    exec (.mtsTdid y) s = .next (dropQueue (rebind u y.n.toNat (readG (getCore s y.n.toNat) y.d).v) y.n.toNat) := by
  obtain ⟨c0, u, -, hq, e⟩ := issued_word (f := sylMtsTdid) rfl (fun _ => rfl) (fun _ _ => rfl) h (fun _ _ _ hq _ => hq)
  refine ⟨u, hq.1, hq.2, ?_⟩
  show Host.Outcome.next (stage (.mtsTdid y) y s) = _
  rw [stage_issues (issuesAlone_cases h).2.2.2, e]
  rfl

/-- MTS to REIN, alone in its word. -/
theorem exec_mtsRein {y : Syl} {s : State} (h : issuesAlone (.mtsRein y) y s = true) : ∃ u,
    archOf (getCore u y.n.toNat) = archOf (pastWord y (getCore s y.n.toNat)) ∧ ElseSame y.n.toNat s u ∧
    exec (.mtsRein y) s = .next (reinWrite u y.n.toNat (readG (getCore s y.n.toNat) y.d).v) := by
  obtain ⟨c0, u, -, hq, e⟩ := issued_word (f := sylMtsRein) rfl (fun _ => rfl) (fun _ _ => rfl) h (fun _ _ _ hq _ => hq)
  refine ⟨u, hq.1, hq.2, ?_⟩
  show Host.Outcome.next (stage (.mtsRein y) y s) = _
  rw [stage_issues (issuesAlone_cases h).2.2.2, e]
  rfl

/-! ### MTS to REIN (R39) -/

/-- The core with PACE, PL and SLIP as REIN takes them. -/
def reined (c : Core) (v : Word64) : Core := { c with pace := v.extractLsb' 0 10, pl := v.getLsbD 16, slip := c.slip && !v.getLsbD 63 }

theorem reinWrite_keeps (s : State) (n : Nat) (v : Word64) : VoltKeeps (setCore s n (reined (getCore s n) v)) (reinWrite s n v) := by
  unfold reinWrite reined
  extract_lets c x pace a b d
  have hb : VoltKeeps a b := voltKeeps_ite (setEff_keeps _ _ _) (voltKeeps_refl _)
  have hd : VoltKeeps b d := voltKeeps_ite (setEff_keeps _ _ _) (voltKeeps_refl _)
  exact voltKeeps_trans hb (voltKeeps_trans hd (seqEval_keeps d c))

theorem readGb_noEff {c d : Core} (h : noEff c = noEff d) (r : BitVec 6) (b : Nat) : readGb c r b = readGb d r b := by
  show readGb (noEff c) r b = readGb (noEff d) r b
  rw [h]

/-! ### The two together -/

theorem dropQueue_core {n : Nat} {c : Core} {s t : State} (h : CoreBecomes n c s t) : CoreBecomes n { c with word := [] } s (dropQueue t n) :=
  h.modCore (fun c => { c with word := [] })

theorem regsSame_of_coreBecomes {n : Nat} {d : Core} {s u t : State} (he : ElseSame n s u) (h : CoreBecomes n d u t) : RegsSame n s t :=
  ⟨fun k hk => congrArg regsOf ((h.cores k hk).trans (he.cores k hk)), fun a => (memRead_congr h.mem a).trans (he.bytes a)⟩

theorem regsOf_bindCleared {c d : Core} (h : archOf c = archOf d) : regsOf (bindCleared c) = regsOf { d with evflag := false, fready := false, ffill := false, fbuf := none } := by
  show regsOf (bindCleared (archOf c)) = regsOf (bindCleared (archOf d))
  rw [h]

/-- Settles O20: a rebinding changes its own core as `rebind_valid` and `rebind_invalid` say, and REIN's write leaves every core
but for EFF as `reined` says. -/
theorem rebindingAndReining : Obligations.RebindingAndReining := by
  constructor
  · intro y s n c w h
    obtain ⟨u, ha, hs, e⟩ := exec_mtsTdid h
    refine ⟨_, e, ?_⟩
    have hd : domValid u (w.extractLsb' 0 12).toNat = domValid s (w.extractLsb' 0 12).toNat := domValid_congr hs.doms _
    have hg : ∀ r b, readGb (getCore u n) r b = readGb c r b := fun r b => (readGb_archOf ha r b).trans rfl
    by_cases hv : domValid s (w.extractLsb' 0 12).toNat = true
    · obtain ⟨_, _, _, _, _, _, hb⟩ := rebind_valid (n := n) (hd.trans hv)
      have hq := dropQueue_core hb
      refine ⟨regsSame_of_coreBecomes hs hq, fun _ => ?_, fun hn => Bool.noConfusion (hv.symm.trans hn), fun r b => ?_⟩
      · rw [hq.core]
        exact ⟨rfl, fun h0 => if_neg h0, congrArg (· + 1) ((epoch_archOf ha).trans rfl), rfl, rfl, rfl, rfl, rfl⟩
      · rw [hq.core]
        exact hg r b
    · rw [Bool.not_eq_true] at hv
      have hq := dropQueue_core (rebind_invalid (n := n) (hd.trans hv))
      refine ⟨regsSame_of_coreBecomes hs hq, fun hn => Bool.noConfusion (hn.symm.trans hv), fun _ => ?_, fun r b => ?_⟩
      · rw [hq.core]
        exact (regsOf_bindCleared ha :)
      · rw [hq.core]
        exact hg r b
  · intro y s n c w h
    obtain ⟨u, ha, hs, e⟩ := exec_mtsRein h
    have hk := reinWrite_keeps u n w
    have hn := hk.cores n
    rw [getCore_setCore, if_pos rfl] at hn
    refine ⟨_, e, congrArg Core.pace hn, congrArg Core.pl hn, ?_, fun a => (memRead_congr hk.mem a).trans (hs.bytes a), fun k r b => ?_⟩
    · exact (congrArg Core.slip hn).trans (congrArg (· && !w.getLsbD 63) ((slip_archOf ha).trans rfl))
    · by_cases hkn : k = n
      · subst hkn
        exact (readGb_noEff hn r b).trans ((readGb_archOf ha r b).trans rfl)
      · rw [readGb_noEff (hk.cores k), getCore_setCore, if_neg hkn, hs.cores k hkn]

end Sys2Proof.Timing
end

section
/-! SUPPORT. What the interrupt hub's evaluation of a core leaves: every table but its offers and the agents' stamps (R346, R348). -/
namespace Sys2Proof.Tenant
open Sys2Proof Sys2Proof.Machine Sys2Proof.Timing

/-! ### What an evaluation of the hub leaves (R346, R348) -/

/-- What the hub holds for a core, but for its offers and refusals. -/
def noOffer (h : HubCore) : HubCore := { h with offer := none, offerShort := 0, replaced := [], refused := [] }

/-- Nothing changes but stamps, answers on their way, and what the hub offers. -/
structure OffersOnly (s t : State) : Prop where
  tables : ∃ ag hb an, t = { s with agents := ag, hubs := hb, answers := an }
  hubs : ∀ m, noOffer (getHub t m) = noOffer (getHub s m)

theorem OffersOnly.refl (s : State) : OffersOnly s s := ⟨⟨s.agents, s.hubs, s.answers, rfl⟩, fun _ => rfl⟩

theorem OffersOnly.trans {s t u : State} (h : OffersOnly s t) (k : OffersOnly t u) : OffersOnly s u := by
  obtain ⟨⟨_, _, _, rfl⟩, h⟩ := h
  obtain ⟨⟨_, _, _, rfl⟩, k⟩ := k
  exact ⟨⟨_, _, _, rfl⟩, fun m => (k m).trans (h m)⟩

theorem OffersOnly.regsKept {s t : State} (h : OffersOnly s t) : RegsKept s t := by
  obtain ⟨⟨_, _, _, rfl⟩, -⟩ := h
  exact regsKept_of_tables rfl rfl

/-- A field of the hub's entry that no offer touches. -/
theorem OffersOnly.hub {s t : State} (h : OffersOnly s t) {α : Type} (f : HubCore → α) (hf : ∀ x, f (noOffer x) = f x) (m : Nat) :
    f (getHub t m) = f (getHub s m) := by
  rw [← hf, h.hubs, hf]

theorem getHub_modHub (s : State) (n m : Nat) (f : HubCore → HubCore) : getHub (modHub s n f) m = if m = n then f (getHub s n) else getHub s m :=
  getHub_setHub ..

theorem offersOnly_modHub {s : State} {n : Nat} {f : HubCore → HubCore} (hf : ∀ h, noOffer (f h) = noOffer h) : OffersOnly s (modHub s n f) := by
  refine ⟨⟨s.agents, _, s.answers, rfl⟩, fun m => ?_⟩
  rw [getHub_modHub]
  split_ifs with h
  · rw [hf, h]
  · rfl

/-- An offer, if the hub makes one, is stamped, and replaces what was on offer; it refuses nothing. -/
theorem hubChoose_cases (s : State) (n : Nat) : hubChoose s n = s ∨
    ∃ f, (∀ h, noOffer (f h) = noOffer h ∧ (f h).refused = h.refused) ∧ hubChoose s n = modHub (stamped s agKs) n f := by
  unfold hubChoose
  split
  · exact .inl rfl
  · split
    · split_ifs
      · exact .inl rfl
      · refine .inr ⟨_, ?_, rfl⟩
        exact fun _ => ⟨rfl, rfl⟩
    · refine .inr ⟨_, ?_, rfl⟩
      exact fun _ => ⟨rfl, rfl⟩

theorem stamped_offersOnly (s : State) (a : Nat) : OffersOnly s (stamped s a) := ⟨⟨_, s.hubs, s.answers, rfl⟩, fun _ => rfl⟩

theorem hubChoose_offersOnly (s : State) (n : Nat) : OffersOnly s (hubChoose s n) := by
  rcases hubChoose_cases s n with e | ⟨_, hf, e⟩ <;> rw [e]
  · exact .refl s
  · exact (stamped_offersOnly s agKs).trans (offersOnly_modHub fun h => (hf h).1)

/-- A choice refuses nothing anew and forgets no refusal. -/
theorem hubChoose_refused (s : State) (n m : Nat) : (getHub (hubChoose s n) m).refused = (getHub s m).refused := by
  rcases hubChoose_cases s n with e | ⟨_, hf, e⟩ <;> rw [e]
  rw [getHub_modHub]
  split_ifs with h
  · rw [h]
    exact (hf _).2
  · rfl

theorem hubEval_offersOnly (s : State) (n : Nat) : OffersOnly s (hubEval s n) :=
  (offersOnly_modHub (f := fun h => { h with refused := [] }) fun _ => rfl).trans (hubChoose_offersOnly _ n)

theorem hubEvalSrc_offersOnly (s : State) (id : Nat) : OffersOnly s (hubEvalSrc s id) := by
  unfold hubEvalSrc
  split
  · exact hubEval_offersOnly s _
  · exact .refl s

theorem getSrc_modSrc (s : State) (k j : Nat) (f : Src → Src) : getSrc (modSrc s k f) j = if j = k then f (getSrc s k) else getSrc s j :=
  getSrc_setSrc ..

/-- What an evaluation leaves, table by table. -/
theorem OffersOnly.src {s t : State} (h : OffersOnly s t) (k : Nat) : getSrc t k = getSrc s k := by
  obtain ⟨⟨_, _, _, rfl⟩, -⟩ := h
  rfl

theorem OffersOnly.dom {s t : State} (h : OffersOnly s t) (k : Nat) : getDom t k = getDom s k := by
  obtain ⟨⟨_, _, _, rfl⟩, -⟩ := h
  rfl

theorem OffersOnly.core {s t : State} (h : OffersOnly s t) (k : Nat) : getCore t k = getCore s k := by
  obtain ⟨⟨_, _, _, rfl⟩, -⟩ := h
  rfl

theorem OffersOnly.pairs {s t : State} (h : OffersOnly s t) : t.pairs = s.pairs := by
  obtain ⟨⟨_, _, _, rfl⟩, -⟩ := h
  rfl

/-- PEND of an edge source set (R343). -/
theorem setPend_edge {s : State} {k : Nat} (h : isEdgeId k = true) : (getSrc (setPend s k) k).pend = true := by
  unfold setPend
  rw [if_pos h, (hubEvalSrc_offersOnly _ k).src, getSrc_modSrc, if_pos rfl]

end Sys2Proof.Tenant
end

section
/-! PROOF. What the hub takes: answers, bindings, core states, events, interrupt messages and level lines (R65, R77, R145, R197, R342,
R348, R349, R353). -/
namespace Sys2Proof.Tenant
open Sys2Proof Sys2Proof.Machine Sys2Proof.Timing

/-! ### Answers to offers (R77, R348, R349) -/

/-- An answer taken off the mortar changes the list of answers and a stamp. -/
theorem answerTake_offersOnly (s : State) (n : Nat) (id : SrcId) (a : Answer) : OffersOnly s (answerTake s n id a) := by
  unfold answerTake
  split
  · obtain ⟨ag, e⟩ := received_eq { s with answers := s.answers.erase ‹_› } agHub _
    exact ⟨⟨ag, s.hubs, _, e⟩, fun m => by rw [e]; rfl⟩
  · exact .refl s

theorem answerTake_hubs (s : State) (n : Nat) (id : SrcId) (a : Answer) (m : Nat) : getHub (answerTake s n id a) m = getHub s m := by
  unfold answerTake
  split
  · obtain ⟨ag, e⟩ := received_eq { s with answers := s.answers.erase ‹_› } agHub _
    rw [e]
    rfl
  · rfl

theorem answered_id {h : HubCore} {id : SrcId} {o : Offer} (e : answered h id = some o) : o.id = id := by
  have hf : ∀ l : List Offer, l.find? (fun x => x.id == id) = some o → o.id = id := fun l e => beq_iff_eq.1 (List.find?_some e :)
  unfold answered at e
  split at e
  · split_ifs at e with hid
    · rw [← Option.some.inj e]
      exact hid
    · exact hf _ e
  · exact hf _ e

theorem noOffer_dropOffer (h : HubCore) (o : Offer) : noOffer (dropOffer h o) = noOffer h := by
  unfold dropOffer
  split_ifs <;> rfl

/-- The hub takes an answer to an offer: the answer has arrived, and the offer is outstanding no longer. -/
def offerAnswered (s : State) (n : Nat) (id : SrcId) (a : Answer) (o : Offer) : State := modHub (answerTake s n id a) n (fun h => dropOffer h o)

theorem offerAnswered_offersOnly (s : State) (n : Nat) (id : SrcId) (a : Answer) (o : Offer) : OffersOnly s (offerAnswered s n id a o) :=
  (answerTake_offersOnly s n id a).trans (offersOnly_modHub fun h => noOffer_dropOffer h o)

/-- What the hub does then, by the answer. -/
theorem hubAnswer_answered {s : State} {n : Nat} {id : SrcId} {o : Offer} (e : answered (getHub s n) id = some o) {a : Answer} (ha : a ≠ .handback) :
    hubAnswer s n id a = let u := offerAnswered s n id a o; match a with
      | .accept => hubAccept u n o
      | .stale => hubEvalSrc (hubChoose (irqStale u o.tdid.toNat) n) id.toNat
      | _ => hubChoose (modHub u n (fun h => { h with refused := id :: h.refused })) n := by
  rw [← answerTake_hubs s n id a] at e
  unfold hubAnswer offerAnswered
  dsimp only
  rw [e]
  cases a with
  | handback => exact absurd rfl ha
  | _ => rfl

theorem regsKept_modSrc (s : State) (k : Nat) (f : Src → Src) : RegsKept s (modSrc s k f) := regsKept_of_tables rfl rfl
theorem regsKept_modHub (s : State) (k : Nat) (f : HubCore → HubCore) : RegsKept s (modHub s k f) := regsKept_of_tables rfl rfl
theorem regsKept_modDom (s : State) (k : Nat) (f : Dom → Dom) : RegsKept s (modDom s k f) := regsKept_of_tables rfl rfl

/-- An acceptance (R348). -/
theorem hubAccept_effect (s : State) (n : Nat) (o : Offer) :
    RegsKept s (hubAccept s n o) ∧
    (getSrc (hubAccept s n o) o.id.toNat).inserv = some (BitVec.ofNat 8 n, offerLvl o, o.prio) ∧ (getSrc (hubAccept s n o) o.id.toNat).pend = false ∧
    (offerLvl o = .h → (getHub (hubAccept s n o) n).unclH = o.id :: (getHub s n).unclH) ∧
    (offerLvl o ≠ .h → (getHub (hubAccept s n o) n).unclS = o.id :: (getHub s n).unclS) := by
  unfold hubAccept
  extract_lets id u w
  have hk : OffersOnly w (hubEval w n) := hubEval_offersOnly w n
  have hs : getSrc (hubEval w n) id = _ := (hk.src id).trans (show getSrc u id = _ from (getSrc_modSrc s id id _).trans (if_pos rfl))
  have hw : getHub w n = _ := (getHub_modHub u n n _).trans (if_pos rfl)
  have hr : RegsKept s (hubEval w n) := regsKept_trans (regsKept_trans (regsKept_modSrc s id _) (regsKept_modHub u n _)) hk.regsKept
  refine ⟨hr, congrArg Src.inserv hs, congrArg Src.pend hs, fun h => ?_, fun h => ?_⟩
  · rw [hk.hub HubCore.unclH (fun _ => rfl), hw, h]
    rfl
  · rw [hk.hub HubCore.unclS (fun _ => rfl), hw]
    split
    · exact absurd ‹_› h
    · rfl

/-- The entry of a source whose interrupt has been handed back: an edge source is pending again, unless it was withdrawn (R349). -/
def handedBack (k : Nat) (x : Src) : Src := { x with inserv := none, claimed := false, clr := false, pend := x.pend || (isEdgeId k && !x.clr) }

theorem hubHandback_inserv {s : State} {n : BitVec 8} {id : SrcId} {l : Level} {p : BitVec 8} (h : (getSrc s id.toNat).inserv = some (n, l, p)) :
    hubHandback s n.toNat id = hubEvalSrc (hubEval (modHub (setSrc s id.toNat (handedBack id.toNat (getSrc s id.toNat))) n.toNat
      (fun h => { h with unclS := h.unclS.erase id, unclH := h.unclH.erase id })) n.toNat) id.toNat := by
  unfold hubHandback
  dsimp only
  rw [h]
  exact if_pos rfl

/-- A handback of an interrupt in service on the core (R190, R200, R349). -/
theorem hubHandback_effect {s : State} {n : BitVec 8} {id : SrcId} {l : Level} {p : BitVec 8} (h : (getSrc s id.toNat).inserv = some (n, l, p)) :
    RegsKept s (hubHandback s n.toNat id) ∧ getSrc (hubHandback s n.toNat id) id.toNat = handedBack id.toNat (getSrc s id.toNat) := by
  rw [hubHandback_inserv h]
  generalize hw : modHub (setSrc s _ _) _ _ = w
  have hr : RegsKept s w := hw ▸ regsKept_of_tables rfl rfl
  have hk := (hubEval_offersOnly w n.toNat).trans (hubEvalSrc_offersOnly _ id.toNat)
  refine ⟨regsKept_trans hr hk.regsKept, ?_⟩
  rw [hk.src, ← hw]
  exact (getSrc_setSrc s _ _ _).trans (if_pos rfl)

section
variable {s : State} {n : BitVec 8} {id : SrcId} {o : Offer} (e : answered (getHub s n.toNat) id = some o)
include e

theorem offerAnswer_accept : Completes (.offerAnswer n id .accept) s (fun u =>
    (getSrc u id.toNat).inserv = some (n, offerLvl o, o.prio) ∧ (getSrc u id.toNat).pend = false ∧
    (offerLvl o = .h → (getHub u n.toNat).unclH = id :: (getHub s n.toNat).unclH) ∧
    (offerLvl o ≠ .h → (getHub u n.toNat).unclS = id :: (getHub s n.toNat).unclS)) := by
  have hu := offerAnswered_offersOnly s n.toNat id .accept o
  obtain ⟨hr, hi, hp, hh, hs⟩ := hubAccept_effect (offerAnswered s n.toNat id .accept o) n.toNat o
  rw [hu.hub HubCore.unclH (fun _ => rfl)] at hh
  rw [hu.hub HubCore.unclS (fun _ => rfl)] at hs
  rw [answered_id e] at hi hp hh hs
  rw [BitVec.ofNat_toNat, BitVec.setWidth_eq] at hi
  exact ⟨_, congrArg Host.Outcome.next (hubAnswer_answered e (by decide)), regsKept_trans hu.regsKept hr, hi, hp, hh, hs⟩

theorem offerAnswer_refuse : Completes (.offerAnswer n id .refuse) s (fun u => (getHub u n.toNat).refused.contains id = true) := by
  refine ⟨_, congrArg Host.Outcome.next (hubAnswer_answered e (by decide)), regsKept_trans (offerAnswered_offersOnly s n.toNat id .refuse o).regsKept
    (regsKept_trans (regsKept_modHub _ _ _) (hubChoose_offersOnly _ _).regsKept), ?_⟩
  dsimp only
  rw [hubChoose_refused, getHub_modHub, if_pos rfl]
  exact List.contains_cons.trans (by rw [beq_self_eq_true, Bool.true_or])

theorem offerAnswer_stale : Completes (.offerAnswer n id .stale) s (fun u =>
    (getDom u o.tdid.toNat).status = fldSat (getDom s o.tdid.toNat).status 32 16 1) := by
  have hu := offerAnswered_offersOnly s n.toNat id .stale o
  generalize hx : offerAnswered s n.toNat id .stale o = x at hu
  have hk := (hubChoose_offersOnly (irqStale x o.tdid.toNat) n.toNat).trans (hubEvalSrc_offersOnly _ id.toNat)
  refine ⟨_, congrArg Host.Outcome.next (hubAnswer_answered e (by decide)), ?_⟩
  dsimp only
  rw [hx]
  refine ⟨regsKept_trans hu.regsKept (regsKept_trans (regsKept_modDom x _ _) hk.regsKept), ?_⟩
  rw [hk.dom, ← hu.dom]
  exact congrArg Dom.status ((getDom_setDom x _ _ _).trans (if_pos rfl))

end

theorem offerAnswer_handback {s : State} {n : BitVec 8} {id : SrcId} {l : Level} {p : BitVec 8} (h : (getSrc s id.toNat).inserv = some (n, l, p)) :
    Completes (.offerAnswer n id .handback) s (fun u => (getSrc u id.toNat).inserv = none ∧
      (isEdgeId id.toNat = true → (getSrc s id.toNat).clr = false → (getSrc u id.toNat).pend = true)) := by
  have ht := answerTake_offersOnly s n.toNat id .handback
  rw [← ht.src] at h ⊢
  obtain ⟨hr, he⟩ := hubHandback_effect h
  refine ⟨_, rfl, regsKept_trans ht.regsKept hr, congrArg Src.inserv he, fun hi hc => (congrArg Src.pend he).trans ?_⟩
  unfold handedBack
  rw [hi, hc]
  exact Bool.or_true _

/-! ### Bindings (R62, R65) -/

/-- A table rewritten entry by entry, by an idempotent function. -/
theorem tget_foldl_tset {α : Type} [DecidableEq α] {d : Nat → α} {f : Nat → α → α} (hf : ∀ k v, f k (f k v) = f k v) (l a : Tbl α) (k : Nat) :
    tget d (l.foldl (fun a e => tset d a e.1 (f e.1 (tget d a e.1))) a) k = if k ∈ l.map Prod.fst then f k (tget d a k) else tget d a k := by
  induction l generalizing a with
  | nil => simp
  | cons e r ih =>
    rw [List.foldl_cons, ih, tget_tset]
    simp only [List.map_cons, List.mem_cons]
    by_cases h : k = e.1
    · subst h
      simp [hf]
    · rw [if_neg h]
      exact if_congr (or_iff_right h).symm rfl rfl

theorem tget_of_absent {α : Type} (d : Nat → α) (t : Tbl α) (k : Nat) (h : k ∉ t.map Prod.fst) : tget d t k = d k := by
  induction t with
  | nil => rfl
  | cons e r ih =>
    rw [List.map_cons, List.mem_cons, not_or] at h
    rw [tget, if_neg (Ne.symm h.1), ih h.2]

/-- A table rewritten by an idempotent function that leaves the default. -/
theorem tget_tmapv {α : Type} [DecidableEq α] {d : Nat → α} {f : Nat → α → α} (hd : ∀ k, f k (d k) = d k) (hf : ∀ k v, f k (f k v) = f k v)
    (t : Tbl α) (k : Nat) : tget d (tmapv d t f) k = f k (tget d t k) := by
  refine (tget_foldl_tset hf t t k).trans ?_
  split_ifs with h
  · rfl
  · rw [tget_of_absent d t k h, hd]

/-- The pair table once a core's old pair is forgotten (R65). -/
theorem tget_pairs_forgotten (t : Tbl Nat) (n k : Nat) :
    tget (fun _ => 0) (tmapv (fun _ => 0) t (fun _ v => if v = n + 1 then 0 else v)) k = if tget (fun _ => 0) t k = n + 1 then 0 else tget (fun _ => 0) t k := by
  refine tget_tmapv (f := fun _ v => if v = n + 1 then 0 else v) (fun _ => if_neg (Nat.succ_ne_zero n).symm) (fun k v => ?_) t k
  by_cases h : v = n + 1
  · rw [if_pos h, if_neg (Nat.succ_ne_zero n).symm]
  · rw [if_neg h, if_neg h]

theorem resolve_nonzero {s : State} {t v : Nat} (h : t ≠ 0) : resolve s t v = match tget (fun _ => 0) s.pairs (t * 256 + v) with
    | 0 => none
    | k + 1 => some k := if_neg h

theorem resolve_none {s : State} {t v : Nat} (h : t ≠ 0) : resolve s t v = none ↔ tget (fun _ => 0) s.pairs (t * 256 + v) = 0 := by
  rw [resolve_nonzero h]
  split <;> simp [*]

theorem resolve_some {s : State} {t v n : Nat} (h : t ≠ 0) : resolve s t v = some n ↔ tget (fun _ => 0) s.pairs (t * 256 + v) = n + 1 := by
  rw [resolve_nonzero h]
  split <;> simp [*]

/-- The core that a binding's pair maps to once the hub has taken the binding of core `n`: of two, the one with the later stamp (R65). -/
def pairTaken (s : State) (n : Nat) : Option Nat → Nat
  | none => n
  | some m => if (getHub s m).stamp ≤ (getHub s n).stamp then n else m

/-- The state with another pair table and another count of dropped records. -/
def withPairs (s : State) (pr : Tbl Nat) (q : Nat) : State := { s with pairs := pr, jrn := { s.jrn with qDrop := q } }

theorem withPairs_regsKept (s : State) (pr : Tbl Nat) (q : Nat) : RegsKept s (withPairs s pr q) := regsKept_of_tables rfl rfl

/-- A binding's pair is mapped by `pairTaken`; besides, the hub offers anew, and a pair held twice makes a record (R65). -/
theorem mapPair_eq (s : State) (n t v : Nat) : ∃ pr q, OffersOnly (withPairs s pr q) (mapPair s n t v) ∧
    (t ≠ 0 → tget (fun _ => 0) pr (t * 256 + v) = pairTaken s n (resolve s t v) + 1) := by
  unfold mapPair
  by_cases ht : t = 0
  · exact ⟨s.pairs, s.jrn.qDrop, by rw [if_pos ht]; exact .refl s, fun h => absurd ht h⟩
  rw [if_neg ht]
  dsimp only
  cases hm : tget (fun _ => 0) s.pairs (t * 256 + v) with
  | zero =>
    rw [(resolve_none ht).2 hm]
    exact ⟨_, s.jrn.qDrop, .refl _, fun _ => (tget_tset ..).trans (if_pos rfl)⟩
  | succ m =>
    rw [(resolve_some ht).2 hm]
    dsimp only [pairTaken]
    by_cases hn : m = n
    · exact ⟨s.pairs, s.jrn.qDrop, by rw [if_pos hn]; exact .refl s, fun _ => by rw [hm, hn, if_pos (Nat.le_refl _)]⟩
    rw [if_neg hn]
    have hj : ∀ (pr : Tbl Nat) (a b : Nat), ∃ q, OffersOnly (withPairs s pr q)
        (hubEval (jrn { s with pairs := pr } agHub 0x11 (BitVec.ofNat 12 t) (bytesOf 2 t ++ bytesOf 1 v ++ bytesOf 1 a ++ bytesOf 1 b)) m) := fun pr a b => by
      obtain ⟨ag, q, e⟩ := jrn_eq { s with pairs := pr } agHub 0x11 (BitVec.ofNat 12 t) (bytesOf 2 t ++ bytesOf 1 v ++ bytesOf 1 a ++ bytesOf 1 b)
      rw [e]
      exact ⟨q, .trans ⟨⟨ag, s.hubs, s.answers, rfl⟩, fun _ => rfl⟩ (hubEval_offersOnly _ m)⟩
    by_cases hl : (getHub s m).stamp ≤ (getHub s n).stamp
    · obtain ⟨q, hq⟩ := hj (tset (fun _ => 0) s.pairs (t * 256 + v) (n + 1)) m n
      refine ⟨tset (fun _ => 0) s.pairs (t * 256 + v) (n + 1), q, ?_, fun _ => by rw [if_pos hl]; exact (tget_tset ..).trans (if_pos rfl)⟩
      rw [decide_eq_true hl]
      exact hq
    · obtain ⟨q, hq⟩ := hj s.pairs n m
      refine ⟨s.pairs, q, ?_, fun _ => by rw [if_neg hl]; exact hm⟩
      rw [decide_eq_false hl]
      exact hq

/-- What the hub holds for a core once it has taken the core's binding (R62). -/
def boundHub (c : Core) (h : HubCore) : HubCore := { h with dom := c.dom, vcore := c.vcore, epoch := c.epoch, stamp := c.bindStamp }

theorem bindingReport_eq {s : State} {n : Nat} (h : (getCore s n).busy = .bind) : ∃ ag, bindingReport s n = modCore (hubEval (mapPair
    (modHub { s with agents := ag, pairs := tmapv (fun _ => 0) s.pairs (fun _ v => if v = n + 1 then 0 else v) } n (boundHub (getCore s n)))
    n (getCore s n).dom.toNat (getCore s n).vcore.toNat) n) n (fun c => { c with busy := .none }) := by
  obtain ⟨ag, e⟩ := received_eq { s with pairs := tmapv (fun _ => 0) s.pairs (fun _ v => if v = n + 1 then 0 else v) } agHub
    (BitVec.ofNat 24 (getCore s n).bindStamp)
  refine ⟨ag, ?_⟩
  unfold bindingReport
  dsimp only
  rw [if_neg (not_not_intro h), e]
  rfl

/-- The pair's core before a binding, once the core's own old pair is forgotten. -/
theorem resolve_forgotten {s u : State} {n t v : Nat} (ht : t ≠ 0)
    (hp : u.pairs = tmapv (fun _ => 0) s.pairs (fun _ v => if v = n + 1 then 0 else v)) :
    resolve u t v = if resolve s t v = some n then none else resolve s t v := by
  rw [resolve_nonzero ht, resolve_nonzero ht, hp, tget_pairs_forgotten]
  cases hm : tget (fun _ => 0) s.pairs (t * 256 + v) with
  | zero => rw [if_neg (Nat.succ_ne_zero n).symm, if_neg nofun]
  | succ m =>
    by_cases hn : m = n
    · rw [if_pos (congrArg (· + 1) hn), if_pos (congrArg some hn)]
    · rw [if_neg fun h => hn (Nat.succ.inj h), if_neg fun h => hn (Option.some.inj h)]

theorem bindingReport_effect {s : State} {n : BitVec 8} (h : (getCore s n.toNat).busy = .bind) : 
    let c := getCore s n.toNat
    ∃ u, exec (.bindingReport n) s = .next (advance u n.toNat) ∧ RegsKept s u ∧ (getCore u n.toNat).busy = .none ∧
    (getHub u n.toNat).dom = c.dom ∧ (getHub u n.toNat).vcore = c.vcore ∧ (getHub u n.toNat).epoch = c.epoch ∧
    (c.dom ≠ 0 → resolve s c.dom.toNat c.vcore.toNat = none ∨ resolve s c.dom.toNat c.vcore.toNat = some n.toNat →
      resolve u c.dom.toNat c.vcore.toNat = some n.toNat) ∧
    (∀ m, c.dom ≠ 0 → m ≠ n.toNat → resolve s c.dom.toNat c.vcore.toNat = some m →
      resolve u c.dom.toNat c.vcore.toNat = some (if (getHub s m).stamp ≤ c.bindStamp then n.toNat else m)) := by
  intro c
  obtain ⟨ag, e⟩ := bindingReport_eq h
  generalize hw : modHub _ n.toNat (boundHub _) = w at e
  obtain ⟨pr, q, hm, hp⟩ := mapPair_eq w n.toNat c.dom.toNat c.vcore.toNat
  have ho := hm.trans (hubEval_offersOnly _ n.toNat)
  generalize hx : hubEval (mapPair w _ _ _) _ = x at e ho
  have hb : noOffer (getHub x n.toNat) = noOffer (boundHub c (getHub s n.toNat)) := by
    rw [ho.hubs, ← hw]
    exact congrArg noOffer ((getHub_modHub ..).trans (if_pos rfl))
  have hr : RegsKept s x := by
    refine regsKept_trans (t := w) ?_ (regsKept_trans (withPairs_regsKept w pr q) ho.regsKept)
    rw [← hw]
    exact regsKept_of_tables rfl rfl
  have hres : c.dom ≠ 0 → resolve x c.dom.toNat c.vcore.toNat =
      some (pairTaken w n.toNat (if resolve s c.dom.toNat c.vcore.toNat = some n.toNat then none else resolve s c.dom.toNat c.vcore.toNat)) := fun h0 => by
    have ht : c.dom.toNat ≠ 0 := fun h => h0 (BitVec.eq_of_toNat_eq h)
    rw [resolve_some ht, ho.pairs, ← resolve_forgotten (u := w) ht (by rw [← hw]; rfl)]
    exact hp ht
  refine ⟨_, congrArg (fun u => Host.Outcome.next (advance u n.toNat)) e, ?_, ?_, congrArg HubCore.dom hb, congrArg HubCore.vcore hb, congrArg HubCore.epoch hb, ?_, ?_⟩
  · exact regsKept_trans hr (regsKept_of_seen (modCore_seen (fun _ => ⟨rfl, fun h => h⟩) seen_refl))
  · exact congrArg Core.busy ((getCore_setCore ..).trans (if_pos rfl))
  · intro h0 h1
    refine (hres h0).trans ?_
    rcases h1 with h1 | h1
    · rw [h1, if_neg nofun]
      rfl
    · rw [h1, if_pos rfl]
      rfl
  · intro m h0 hmn h1
    refine (hres h0).trans ?_
    have hn : (getHub w n.toNat).stamp = c.bindStamp := by
      rw [← hw]
      exact congrArg HubCore.stamp ((getHub_modHub ..).trans (if_pos rfl))
    have hm' : getHub w m = getHub s m := by
      rw [← hw]
      exact (getHub_modHub ..).trans (if_neg hmn)
    rw [h1, if_neg fun h => hmn (Option.some.inj h), pairTaken, hn, hm']

/-! ### Core states, events and interrupt messages (R145, R197, R353) -/

/-- What the hub holds for a core once it has taken the core's state (R197). -/
def stateHub (c : Core) (h : HubCore) : HubCore := { h with level := c.level, ie := c.ie, sbusy := c.sbusy, hbusy := c.hbusy }

theorem coreStateReport_effect (n : BitVec 8) (s : State) : Completes (.coreStateReport n) s (fun u =>
    (getHub u n.toNat).level = (getCore s n.toNat).level ∧ (getHub u n.toNat).ie = (getCore s n.toNat).ie ∧
    (getHub u n.toNat).sbusy = (getCore s n.toNat).sbusy ∧ (getHub u n.toNat).hbusy = (getCore s n.toNat).hbusy) := by
  obtain ⟨ag, e⟩ := received_eq (stamped s (courseOf s n.toNat)) agHub (shortStamp s (courseOf s n.toNat)).1
  have he : exec (.coreStateReport n) s = .next (hubEval (modHub { s with agents := ag } n.toNat (stateHub (getCore s n.toNat))) n.toNat) :=
    congrArg (fun u => Host.Outcome.next (hubEval (modHub u n.toNat (stateHub (getCore u n.toNat))) n.toNat)) e
  generalize hw : modHub _ n.toNat (stateHub _) = w at he
  have ho := hubEval_offersOnly w n.toNat
  have hr : RegsKept s w := by
    rw [← hw]
    exact regsKept_of_tables rfl rfl
  have hb : noOffer (getHub (hubEval w n.toNat) n.toNat) = noOffer (stateHub (getCore s n.toNat) (getHub s n.toNat)) := by
    rw [ho.hubs, ← hw]
    exact congrArg noOffer ((getHub_modHub ..).trans (if_pos rfl))
  exact ⟨_, he, regsKept_trans hr ho.regsKept, congrArg HubCore.level hb, congrArg HubCore.ie hb, congrArg HubCore.sbusy hb, congrArg HubCore.hbusy hb⟩

/-- A SEV message taken off the mortar leaves the list of them, and changes a stamp. -/
theorem sevTake_eq (s : State) (t : Tdid) (g : Bool) (x : BitVec 8) : ∃ se ag, sevTake s t g x = { s with sevs := se, agents := ag } ∧
    ∀ e, s.sevs.find? (fun e => e.1 == t && e.2.1 == g && e.2.2.1 == x) = some e → se = s.sevs.erase e := by
  unfold sevTake
  split
  · rename_i e he
    obtain ⟨ag, hr⟩ := received_eq { s with sevs := s.sevs.erase e } agHub e.2.2.2
    exact ⟨_, ag, hr, fun e' h => by rw [← Option.some.inj (he.symm.trans h)]⟩
  · rename_i hn
    exact ⟨s.sevs, s.agents, rfl, fun e h => absurd (hn.symm.trans h) nofun⟩

/-- The cores to which the hub sends an event (R145, R355). -/
def sevCores (s : State) (t : Tdid) (g : Bool) (x : BitVec 8) : List Nat :=
  if g then groupMembers s t (x.toNat % 64) else (resolve s t.toNat x.toNat).toList

/-- The events that the hub sends to the cores, under one stamp (R145). -/
def sevSent (s : State) (t : Tdid) (ns : List Nat) : State :=
  { stamped s agKs with
    events := s.events ++ ns.map (fun n => (BitVec.ofNat 8 n, (getHub s n).epoch, t, (shortStamp s agKs).1)) }

theorem sevMessage_effect (t : Tdid) (g : Bool) (x : BitVec 8) (s : State) : Completes (.sevMessage t g x) s (fun u =>
    (∀ e, s.sevs.find? (fun e => e.1 == t && e.2.1 == g && e.2.2.1 == x) = some e → u.sevs = s.sevs.erase e) ∧
    (sevCores s t g x ≠ [] → ∃ sh, u.events = s.events ++ (sevCores s t g x).map (fun n => (BitVec.ofNat 8 n, (getHub s n).epoch, t, sh))) ∧
    (sevCores s t g x = [] → u.events = s.events ∧ (getDom u t.toNat).status = fldSat (getDom s t.toNat).status 48 16 1)) := by
  obtain ⟨se, ag, he, hse⟩ := sevTake_eq s t g x
  have hx : exec (.sevMessage t g x) s = if (sevCores (sevTake s t g x) t g x).isEmpty then .next (sevDrop (sevTake s t g x) t.toNat)
    else .next (sevSent (sevTake s t g x) t (sevCores (sevTake s t g x) t g x)) := rfl
  rw [he, show sevCores { s with sevs := se, agents := ag } t g x = sevCores s t g x from rfl] at hx
  by_cases hn : sevCores s t g x = []
  · refine ⟨_, hx.trans (if_pos (List.isEmpty_iff.2 hn)), regsKept_of_tables rfl rfl, hse, fun h => absurd hn h, fun _ => ⟨rfl, ?_⟩⟩
    exact congrArg Dom.status ((getDom_setDom ..).trans (if_pos rfl))
  · exact ⟨_, hx.trans (if_neg fun h => hn (List.isEmpty_iff.1 h)), regsKept_of_tables rfl rfl, hse, fun _ => ⟨_, rfl⟩, fun h => absurd h hn⟩

/-- An interrupt message taken off the mortar leaves the list of them, and changes a stamp. -/
theorem msiTake_eq (s : State) (k : BitVec 12) (ep : BitVec 8) (d : BitVec 32) : ∃ ms ag, msiTake s k ep d = { s with msis := ms, agents := ag } ∧
    ∀ e, s.msis.find? (fun e => e.1 == k && e.2.1 == ep && e.2.2.1 == d) = some e → ms = s.msis.erase e := by
  unfold msiTake
  split
  · rename_i e he
    obtain ⟨ag, hr⟩ := received_eq { s with msis := s.msis.erase e } agHub e.2.2.2
    exact ⟨_, ag, hr, fun e' h => by rw [← Option.some.inj (he.symm.trans h)]⟩
  · rename_i hn
    exact ⟨s.msis, s.agents, rfl, fun e h => absurd (hn.symm.trans h) nofun⟩

/-- The source that the hub maps a context's message to (R353). -/
def msiSrc (s : State) (k : Nat) (d : BitVec 32) : Nat := fld (tget (fun _ => 0) s.msimap k) 32 13 + fld d 0 16

/-- The hub's conditions on an interrupt message (R353). -/
def msiMaps (s : State) (k : Nat) (d : BitVec 32) : Prop :=
  (tget (fun _ => 0) s.msimap k).getLsbD 63 = true ∧ fld d 0 16 < fld (tget (fun _ => 0) s.msimap k) 0 13 ∧ 64 ≤ msiSrc s k d ∧ msiSrc s k d ≤ 8190 ∧
  srcTdid (getSrc s (msiSrc s k d)) = fld (getCtx s k).ctl 32 12

theorem msiMap_maps {s : State} {k : Nat} {d : BitVec 32} (h : msiMaps s k d) : msiMap s k d = setPend s (msiSrc s k d) := by
  obtain ⟨h1, h2, h3, h4, h5⟩ := h
  unfold msiMap
  dsimp only
  rw [h1, if_neg (by decide), if_neg (Nat.not_le.2 h2), if_neg]
  · exact if_neg (not_not_intro h5)
  · rw [Bool.or_eq_true, decide_eq_true_iff, decide_eq_true_iff]
    exact fun h => h.elim (Nat.not_lt.2 h3) (Nat.not_lt.2 h4)

theorem msiMap_drops {s : State} {k : Nat} {d : BitVec 32} (h : ¬msiMaps s k d) : ∃ r, msiMap s k d = msiDrop s k d r := by
  unfold msiMap
  dsimp only
  split_ifs with h1 h2 h3 h4
  · exact ⟨_, rfl⟩
  · exact ⟨_, rfl⟩
  · exact ⟨_, rfl⟩
  · exact ⟨_, rfl⟩
  · rw [Bool.or_eq_true, decide_eq_true_iff, decide_eq_true_iff, not_or, Nat.not_lt, Nat.not_lt] at h3
    exact absurd ⟨by simpa using h1, Nat.not_le.1 h2, h3.1, h3.2, not_not.1 h4⟩ h

theorem msiDrop_effect (s : State) (k : BitVec 12) (d : BitVec 32) (r : Nat) : RegsKept s (msiDrop s k.toNat d r) ∧
    (msiDrop s k.toNat d r).srcs = s.srcs ∧ (msiDrop s k.toNat d r).msis = s.msis ∧ fld (msiDrop s k.toNat d r).hubSt 0 13 = k.toNat := by
  unfold msiDrop
  extract_lets u
  obtain ⟨ag, q, e⟩ := jrn_eq u agHub 0x40 ((getCtx u k.toNat).ctl.extractLsb' 32 12) (bytesOf 2 k.toNat ++ bytesOf 4 d.toNat ++ bytesOf 1 r)
  rw [e]
  exact ⟨regsKept_of_tables rfl rfl, rfl, rfl, (fld_fldSet_same _ _ (by decide)).trans (Nat.mod_eq_of_lt (by omega))⟩

theorem setPend_regsKept (s : State) (k : Nat) : RegsKept s (setPend s k) := regsKept_of_seen (setPend_seen seen_refl)

theorem setPend_msis (s : State) (k : Nat) : (setPend s k).msis = s.msis := by
  unfold setPend
  split_ifs
  · obtain ⟨⟨_, _, _, e⟩, -⟩ := hubEvalSrc_offersOnly (modSrc s k (fun x => { x with pend := true })) k
    rw [e]
    rfl
  · rfl

theorem msiMessage_effect (k : BitVec 12) (ep : BitVec 8) (d : BitVec 32) (s : State) : Completes (.msiMessage k ep d) s (fun u =>
    (∀ e, s.msis.find? (fun e => e.1 == k && e.2.1 == ep && e.2.2.1 == d) = some e → u.msis = s.msis.erase e) ∧
    (msiMaps s k.toNat d → (getSrc u (msiSrc s k.toNat d)).pend = true) ∧
    (¬msiMaps s k.toNat d → u.srcs = s.srcs ∧ fld u.hubSt 0 13 = k.toNat)) := by
  obtain ⟨ms, ag, he, hms⟩ := msiTake_eq s k ep d
  have hx : exec (.msiMessage k ep d) s = .next (msiMap { s with msis := ms, agents := ag } k.toNat d) :=
    congrArg (fun u => Host.Outcome.next (msiMap u k.toNat d)) he
  have hm : msiMaps { s with msis := ms, agents := ag } k.toNat d ↔ msiMaps s k.toNat d := Iff.rfl
  have hr : RegsKept s { s with msis := ms, agents := ag } := regsKept_of_tables rfl rfl
  by_cases h : msiMaps s k.toNat d
  · rw [msiMap_maps (hm.2 h)] at hx
    have hi : isEdgeId (msiSrc s k.toNat d) = true := by
      obtain ⟨-, -, h3, h4, -⟩ := h
      exact Bool.and_eq_true_iff.2 ⟨decide_eq_true h3, decide_eq_true (Nat.lt_succ_of_le h4)⟩
    exact ⟨_, hx, regsKept_trans hr (setPend_regsKept _ _), fun e hf => (setPend_msis _ _).trans (hms e hf), fun _ => setPend_edge hi, fun hn => absurd h hn⟩
  · obtain ⟨r, hd⟩ := msiMap_drops (mt hm.1 h)
    rw [hd] at hx
    obtain ⟨hk, hs, hmd, hf⟩ := msiDrop_effect { s with msis := ms, agents := ag } k d r
    exact ⟨_, hx, regsKept_trans hr hk, fun e hfind => hmd.trans (hms e hfind), fun hy => absurd hy h, fun _ => ⟨hs, hf⟩⟩

/-! ### Level lines (R342) -/

theorem levelLineChange_effect {id : SrcId} (h : isLevelId id.toNat = true) (s : State) :
    Completes (.levelLineChange id) s (fun u => (getSrc u id.toNat).line = lineState s id.toNat) := by
  have ho := hubEvalSrc_offersOnly (modSrc s id.toNat (fun x => { x with line := lineState s id.toNat })) id.toNat
  have hl : (getSrc (hubEvalSrc (modSrc s id.toNat (fun x => { x with line := lineState s id.toNat })) id.toNat) id.toNat).line = lineState s id.toNat :=
    congrArg Src.line ((ho.src _).trans ((getSrc_modSrc ..).trans (if_pos rfl)))
  have hr := regsKept_trans (regsKept_modSrc s id.toNat (fun x => { x with line := lineState s id.toNat })) ho.regsKept
  refine ⟨_, if_pos h, ?_⟩
  generalize hubEvalSrc _ id.toNat = u at hl hr
  dsimp only
  split_ifs
  · exact ⟨hr, hl⟩
  · exact ⟨regsKept_trans hr (alert_regsKept u 9), hl⟩
  · exact ⟨regsKept_trans hr (alert_regsKept u 10), hl⟩
  · exact ⟨hr, hl⟩

theorem levelLineChange_edge {id : SrcId} (h : isLevelId id.toNat = false) (s : State) : exec (.levelLineChange id) s = .next s :=
  if_neg (by rw [h]; exact Bool.false_ne_true)

/-- Settles O36, one theorem for each message that reaches the hub. -/
theorem hubTakesItsMessages : Obligations.HubTakesItsMessages := by
  intro n id t k g x ep data s
  exact ⟨fun o e => ⟨offerAnswer_accept e, offerAnswer_refuse e, offerAnswer_stale e⟩, fun l p h => offerAnswer_handback h, fun h => bindingReport_effect h,
    coreStateReport_effect n s, sevMessage_effect t g x s, msiMessage_effect k ep data s, fun h => levelLineChange_effect h s, fun h => levelLineChange_edge h s⟩

end Sys2Proof.Tenant
end

section
/-! SUPPORT. What the course of a core's words leaves: everything but the tables of `aside`. One lemma for each operation that `advance` or the
completion of a store or a read can reach. -/
namespace Sys2Proof.Tenant
open Sys2Proof Sys2Proof.Machine Sys2Proof.Timing

/-- The state without what a core's progress can change: the cores, the courses, slices, root ports and the hub, the messages and stamps on
their way, and the counts of use. What is left no word that issues, and no access that completes, changes. -/
def aside (s : State) : State :=
  { s with
    free := 0, cores := [], courses := [], slices := [], rps := [], ovhE := 0, usage := [], energy := [], returns := [], srcs := [], hubs := []
    hubSt := 0, sevs := [], answers := [], net := [], outNet := [], invNet := [], icNet := [], agents := [], gstat := 0, banks := []
    jrn := { s.jrn with qDrop := 0 }, led := { s.led with agent := [] } }

theorem engHold_of_aside {s t : State} (h : aside t = aside s) : t.engHold = s.engHold := (congrArg State.engHold h :)

theorem aside_foldl {α : Type} {f : State → α → State} (hf : ∀ s a, aside (f s a) = aside s) (l : List α) (s : State) : aside (l.foldl f s) = aside s := by
  induction l generalizing s with
  | nil => rfl
  | cons a r ih => exact (ih _).trans (hf s a)

section
variable (s : State)

@[simp] theorem aside_setCore (n : Nat) (c : Core) : aside (setCore s n c) = aside s := rfl

@[simp] theorem aside_modCore (n : Nat) (f : Core → Core) : aside (modCore s n f) = aside s := rfl

@[simp] theorem aside_modCourse (n : Nat) (f : Course → Course) : aside (modCourse s n f) = aside s := rfl

@[simp] theorem aside_modSlice (n : Nat) (f : Slice → Slice) : aside (modSlice s n f) = aside s := rfl

@[simp] theorem aside_modRp (n : Nat) (f : Rp → Rp) : aside (modRp s n f) = aside s := rfl

@[simp] theorem aside_setAgent (n : Nat) (x : Agent) : aside (setAgent s n x) = aside s := rfl

@[simp] theorem aside_modHub (n : Nat) (f : HubCore → HubCore) : aside (modHub s n f) = aside s := rfl

@[simp] theorem aside_setSrc (n : Nat) (x : Src) : aside (setSrc s n x) = aside s := rfl

@[simp] theorem aside_modSrc (n : Nat) (f : Src → Src) : aside (modSrc s n f) = aside s := rfl

@[simp] theorem aside_free : aside (free s).2 = aside s := rfl

@[simp] theorem aside_ctlErr : aside (ctlErr s) = aside s := rfl

@[simp] theorem aside_qdrop : aside (qdrop s) = aside s := rfl

@[simp] theorem aside_stamped (a : Nat) : aside (stamped s a) = aside s := rfl

@[simp] theorem aside_shortStamp (a : Nat) : aside (shortStamp s a).2 = aside s := rfl

@[simp] theorem aside_send (m : Msg) : aside (send s m) = aside s := rfl

@[simp] theorem aside_charge (a t e : Nat) : aside (charge s a t e) = aside s := by
  unfold charge
  dsimp only
  split_ifs <;> rfl

@[simp] theorem aside_putRec (a st c : Nat) (t : Tdid) (p : List Byte) : aside (putRec s a st c t p) = aside s := by
  unfold putRec
  grind [aside_setAgent, aside_qdrop]

@[simp] theorem aside_jrn (a c : Nat) (t : Tdid) (p : List Byte) : aside (jrn s a c t p) = aside s := by
  unfold jrn
  grind [aside_foldl, aside_putRec, aside_stamped]

@[simp] theorem aside_clearResv (l : LineNo) (p : Nat → Bool) : aside (clearResv s l p) = aside s := rfl

@[simp] theorem aside_releaseGrant (p n : Nat) (l : LineNo) :
    aside (releaseGrant s p n l) = aside s := by
  unfold releaseGrant
  dsimp only
  split_ifs <;> rfl

@[simp] theorem aside_dropResv (n : Nat) : aside (dropResv s n) = aside s := by
  unfold dropResv
  grind [aside_modCore, aside_modSlice, aside_releaseGrant]

@[simp] theorem aside_dropL1d (c : Nat) (l : LineNo) (k : Nat → Bool) : aside (dropL1d s c l k) = aside s := by
  unfold dropL1d
  grind [aside_foldl, aside_modCore]

@[simp] theorem aside_setL2 (c k : Nat) (v : L2Line) : aside (setL2 s c k v) = aside s := rfl

@[simp] theorem aside_l2Drop (c : Nat) (l : LineNo) : aside (l2Drop s c l) = aside s := by
  unfold l2Drop
  grind [aside_setL2, aside_clearResv, aside_dropL1d]

@[simp] theorem aside_hubChoose (n : Nat) : aside (hubChoose s n) = aside s := by
  unfold hubChoose
  grind [aside_modHub, aside_stamped]

@[simp] theorem aside_hubEval (n : Nat) : aside (hubEval s n) = aside s := (aside_hubChoose ..).trans (aside_modHub ..)

@[simp] theorem aside_hubEvalSrc (n : Nat) : aside (hubEvalSrc s n) = aside s := by
  unfold hubEvalSrc
  grind [aside_hubEval]

@[simp] theorem aside_setPend (n : Nat) : aside (setPend s n) = aside s := by
  unfold setPend
  grind [aside_hubEvalSrc, aside_modSrc]

@[simp] theorem aside_pmBump (n i k : Nat) : aside (pmBump s n i k) = aside s := by
  unfold pmBump
  grind [aside_setPend, aside_setCore]

@[simp] theorem aside_coreEv (n ev k : Nat) (l : Option LineNo) : aside (coreEv s n ev k l) = aside s := by
  unfold coreEv
  grind [aside_pmBump, aside_foldl]

@[simp] theorem aside_bkSet (b r : Nat) (v : Word64) : aside (bkSet s b r v) = aside s := rfl

@[simp] theorem aside_bankEv (b ev k : Nat) (a : EvAttr) : aside (bankEv s b ev k a) = aside s := by
  unfold bankEv
  grind [aside_bkSet, aside_foldl]

@[simp] theorem aside_openReq (c : Nat) (m : Msg) : aside (openReq s c m) = aside s := rfl

@[simp] theorem aside_evictFor (c : Nat) (e : L2Line) (t : Tdid) (k : Nat) : aside (evictFor s c e t k) = aside s := by
  unfold evictFor
  grind [aside_bankEv, aside_charge, aside_send, aside_modCourse, aside_l2Drop]

@[simp] theorem aside_l2Sound (c : Nat) (e : L2Line) : aside (l2Sound s c e).2 = aside s := by
  unfold l2Sound
  grind [aside_jrn, aside_modCourse]

@[simp] theorem aside_l2Check (c : Nat) (l : LineNo) : aside (l2Check s c l) = aside s := by
  unfold l2Check
  grind [aside_l2Sound, aside_setL2, aside_evictFor]

@[simp] theorem aside_l1dFill (n : Nat) (l : LineNo) : aside (l1dFill s n l) = aside s := by
  unfold l1dFill
  grind [aside_free, aside_setCore]

@[simp] theorem aside_l1Par (n : Nat) : aside (l1Par s n) = aside s := rfl

@[simp] theorem aside_l1dCheck (n : Nat) (l : LineNo) : aside (l1dCheck s n l) = aside s := by
  unfold l1dCheck
  grind [aside_l1Par, aside_setCore]

@[simp] theorem aside_l1iCheck (n : Nat) (l : LineNo) : aside (l1iCheck s n l) = aside s := by
  unfold l1iCheck
  grind [aside_l1Par, aside_setCore]

@[simp] theorem aside_l2Store (c n k : Nat) (e : L2Line) (o : Nat) (b : List PByte) : aside (l2Store s c n k e o b) = aside s := by
  unfold l2Store
  grind [aside_setL2, aside_clearResv, aside_dropL1d]

@[simp] theorem aside_l2Read (n : Nat) (l : LineNo) (i : Nat) (u : ReqUse) (t : Tdid) (ep : BitVec 8) (h : Bool) :
    aside (l2Read s n l i u t ep h).2 = aside s := by
  unfold l2Read
  grind [aside_l2Check, aside_charge, aside_bankEv, aside_openReq]

@[simp] theorem aside_sendOut (p : Nat) (r : OutReq) : aside (sendOut s p r) = aside s := rfl

@[simp] theorem aside_setResv (n : Nat) (pa : PAddr) (lin : BitVec 48) (w : ResvAt) : aside (setResv s n pa lin w) = aside s := by
  unfold setResv
  grind [aside_modCore, aside_dropResv]

@[simp] theorem aside_fillCached (n : Nat) (a : OutAcc) (p : Part) : aside (fillCached s n a p).2.2 = aside s := by
  unfold fillCached
  grind [aside_l2Check, aside_l1dCheck, aside_coreEv, aside_l1dFill, aside_l2Read, aside_setResv, aside_openReq, aside_dropResv, aside_l2Store]

@[simp] theorem aside_fillHome (n : Nat) (a : OutAcc) (p : Part) : aside (fillHome s n a p).2.2 = aside s := by
  unfold fillHome
  grind [aside_send, aside_dropResv]

@[simp] theorem aside_fillPort (n port : Nat) (a : OutAcc) (p : Part) : aside (fillPort s n port a p).2.2 = aside s := by
  unfold fillPort
  grind [aside_sendOut, aside_dropResv]

@[simp] theorem aside_fillPart (n : Nat) (a : OutAcc) (p : Part) : aside (fillPart s n a p).2.2 = aside s := by
  unfold fillPart
  grind [aside_fillPort, aside_fillCached, aside_fillHome]

@[simp] theorem aside_fillParts (n : Nat) (a : OutAcc) (l : List Part) : aside (fillParts n a l s).2.2 = aside s := by
  induction l generalizing s with
  | nil => rfl
  | cons p r ih =>
    unfold fillParts
    grind [aside_fillPart]

@[simp] theorem aside_putAcc (n : Nat) (a : OutAcc) : aside (putAcc s n a) = aside s := rfl

@[simp] theorem aside_kickList (n : Nat) (l : List Nat) (dev : Bool) : aside (kickList n l dev s) = aside s := by
  induction l generalizing s dev with
  | nil => rfl
  | cons i r ih =>
    unfold kickList
    grind [aside_fillParts, aside_putAcc]

@[simp] theorem aside_kick (n : Nat) : aside (kick s n) = aside s := aside_kickList ..

@[simp] theorem aside_popStore (n : Nat) : aside (popStore s n) = aside s := (aside_kick ..).trans (aside_modCore ..)

@[simp] theorem aside_setThreshold (n : Nat) (l : Level) (th : BitVec 8) : aside (setThreshold s n l th) = aside s := by
  unfold setThreshold
  grind [aside_hubEval, aside_modHub, aside_modCore]

@[simp] theorem aside_setClaimId (n : Nat) (l : Level) (id : SrcId) : aside (setClaimId s n l id) = aside s := rfl

@[simp] theorem aside_spurious : aside (spurious s) = aside s := rfl

@[simp] theorem aside_hubClaim (n : Nat) (l : Level) : aside (hubClaim s n l) = aside s := by
  unfold hubClaim
  grind [aside_setClaimId, aside_spurious, aside_hubEvalSrc, aside_hubEval, aside_setSrc, aside_modHub]

@[simp] theorem aside_hubEoi (n : Nat) (l : Level) (k : Nat) : aside (hubEoi s n l k) = aside s := by
  unfold hubEoi
  grind [aside_hubEvalSrc, aside_hubEval, aside_setSrc]

@[simp] theorem aside_threshWrite (n : Nat) (l : Level) (v : Word64) : aside (threshWrite s n l v) = aside s := by
  unfold threshWrite
  grind [aside_setThreshold, aside_hubClaim, aside_hubEoi]

@[simp] theorem aside_setEff (n k : Nat) : aside (setEff s n k) = aside s := rfl

@[simp] theorem aside_vseqLimit (c n k : Nat) : aside (vseqLimit s c n k) = aside s := by
  unfold vseqLimit
  exact (aside_jrn ..).trans rfl

@[simp] theorem aside_effRaise (c : Nat) : aside (effRaise s c) = aside s := by
  unfold effRaise
  grind [aside_foldl, aside_setEff, aside_vseqLimit]

@[simp] theorem aside_effLower (c v : Nat) : aside (effLower s c v) = aside s := by
  unfold effLower
  grind [aside_foldl, aside_setEff]

@[simp] theorem aside_seqEval (c : Nat) : aside (seqEval s c) = aside s := by
  unfold seqEval
  grind [aside_effRaise, aside_effLower, aside_modCourse]

@[simp] theorem aside_reinWrite (n : Nat) (v : Word64) : aside (reinWrite s n v) = aside s := by
  unfold reinWrite
  grind [aside_seqEval, aside_setEff, aside_setCore]

@[simp] theorem aside_cfgLoad (o : Nat) : aside (cfgLoad s o).2 = aside s := by
  unfold cfgLoad
  grind [aside_free]

@[simp] theorem aside_ctlRead (n off w : Nat) : aside (ctlRead s n off w).2 = aside s := by
  unfold ctlRead
  grind [aside_cfgLoad]

@[simp] theorem aside_l1tlbInstall (n : Nat) (fetch : Bool) (e : TlbEnt) : aside (l1tlbInstall s n fetch e) = aside s := by
  unfold l1tlbInstall
  grind [aside_free, aside_modCore]

@[simp] theorem aside_xlate (n : Nat) (k : Kind) (l : Level) (lin : Nat) : aside (xlate s n k l lin).2 = aside s := by
  unfold xlate
  grind [aside_setCore, aside_coreEv, aside_l1tlbInstall]

@[simp] theorem aside_startWalk (n : Nat) (why : WalkFor) (k : Kind) (l : Level) (lin : Nat) :
    aside (startWalk s n why k l lin) = aside s := by
  unfold startWalk
  grind [aside_coreEv, aside_modCore]

@[simp] theorem aside_checkPart (n : Nat) (k : Kind) (l : Level) (at_ : Bool) (lin len : Nat) :
    aside (checkPart s n k l at_ lin len).2 = aside s := by
  unfold checkPart
  grind [aside_xlate]

@[simp] theorem aside_checkLin (n : Nat) (k : Kind) (l : Level) (at_ : Bool) (lin w : Nat) :
    aside (checkLin s n k l at_ lin w).2 = aside s := by
  unfold checkLin
  grind [aside_checkPart]

@[simp] theorem aside_checkAcc (n : Nat) (seg : BitVec 3) (off : Word64) (w : Nat) (k : Kind) (al at_ : Bool) :
    aside (checkAcc s n seg off w k al at_).2 = aside s := by
  unfold checkAcc
  grind [aside_checkLin]

@[simp] theorem aside_ctlAccess (n w off : Nat) : aside (ctlAccess s n w off) = aside s := (aside_jrn ..).trans (aside_ctlErr ..)

@[simp] theorem aside_ctlLoad (n off w : Nat) : aside (ctlLoad s n off w).2 = aside s := by
  unfold ctlLoad
  grind [aside_free, aside_ctlRead, aside_ctlAccess]

@[simp] theorem aside_microPart (n : Nat) (u : ReqUse) (t : Tdid) (ep : BitVec 8) (h : Bool) (p : Part) :
    aside (microPart s n u t ep h p).2 = aside s := by
  unfold microPart
  grind [aside_ctlLoad, aside_sendOut, aside_l2Read, aside_openReq]

@[simp] theorem aside_microParts (n : Nat) (u : ReqUse) (t : Tdid) (ep : BitVec 8) (h : Bool) (l : List Part) :
    aside (microParts n u t ep h l s).2 = aside s := by
  induction l generalizing s with
  | nil => rfl
  | cons p r ih =>
    unfold microParts
    grind [aside_microPart]

@[simp] theorem aside_microRead (n : Nat) (u : ReqUse) (t : Tdid) (ep : BitVec 8) (h : Bool) (l : List Part) :
    aside (microRead n u t ep h l s).2 = aside s := by
  unfold microRead
  grind [aside_microParts, aside_modCore]

@[simp] theorem aside_addUse (a t r k : Nat) : aside (addUse s a t r k) = aside s := rfl

@[simp] theorem aside_countLed (a t : Nat) (f : Counts → Counts) : aside (countLed s a t f) = aside s := rfl

@[simp] theorem aside_useToken (n : Nat) (k : Option Nat) : aside (useToken s n k) = aside s := by
  unfold useToken
  grind [aside_coreEv, aside_addUse, aside_charge, aside_countLed, aside_setCore]

@[simp] theorem aside_payOwed (k n : Nat) : aside (payOwed k s n) = aside s := by
  induction k generalizing s with
  | zero => rfl
  | succ k ih =>
    unfold payOwed
    grind [aside_useToken, aside_modCore]

@[simp] theorem aside_payHold (k n : Nat) : aside (payHold k s n) = aside s := by
  induction k generalizing s with
  | zero => rfl
  | succ k ih =>
    unfold payHold
    grind [aside_useToken]

@[simp] theorem aside_sysWrite (n num : Nat) (x : Reg) : aside (sysWrite s n num x) = aside s := by
  unfold sysWrite
  grind (splits := 25) [aside_modCore, aside_modHub, aside_threshWrite, aside_reinWrite]

@[simp] theorem aside_rebindClear (n : Nat) : aside (rebindClear s n) = aside s := (aside_modCore ..).trans (aside_dropResv ..)

@[simp] theorem aside_returns (l : List (Logical × Tdid × Nat × BitVec 24)) : aside { s with returns := l } = aside s := rfl

@[simp] theorem aside_rebind (n : Nat) (v : Word64) : aside (rebind s n v) = aside s := by
  unfold rebind
  grind [aside_jrn, aside_ctlErr, aside_rebindClear, aside_returns, aside_setCore, aside_stamped]

@[simp] theorem aside_answer (n : Nat) (id : SrcId) (a : Answer) : aside (answer s n id a) = aside s := rfl

@[simp] theorem aside_refuseOffer (n : Nat) : aside (refuseOffer s n) = aside s := by
  unfold refuseOffer
  grind [aside_coreEv, aside_answer, aside_modCore]

@[simp] theorem aside_stopCore (n : Nat) (t : Trap) : aside (stopCore s n t) = aside s := (aside_refuseOffer ..).trans (aside_modCore ..)

@[simp] theorem aside_wakeCore (n r : Nat) : aside (wakeCore s n r) = aside s := rfl

@[simp] theorem aside_prefetch (n lin : Nat) : aside (prefetch s n lin) = aside s := by
  unfold prefetch
  grind [aside_checkLin, aside_openReq, aside_startWalk]

@[simp] theorem aside_lockPage (n lin : Nat) : aside (lockPage s n lin) = aside s := by
  unfold lockPage
  grind [aside_coreEv, aside_setCore]

@[simp] theorem aside_unlockPage (n lin : Nat) : aside (unlockPage s n lin) = aside s := rfl

@[simp] theorem aside_askLine (n : Nat) (p : Part) : aside (askLine s n p) = aside s := by
  unfold askLine
  grind [aside_coreEv, aside_setCore, aside_microPart]

@[simp] theorem aside_fetchSyl (n pos : Nat) : aside (fetchSyl s n pos).2 = aside s := by
  unfold fetchSyl
  grind [aside_checkLin, aside_startWalk, aside_foldl, aside_l1iCheck, aside_askLine]

@[simp] theorem aside_fetchWord (n k pos : Nat) : aside (fetchWord n k pos s).2 = aside s := by
  induction k generalizing s pos with
  | zero => rfl
  | succ k ih =>
    unfold fetchWord
    split
    · rename_i e
      rw [ih, ← aside_fetchSyl s n pos, e]
    · exact aside_fetchSyl ..

@[simp] theorem aside_maintCheck (n : Nat) (op : MaintOp) (seg : BitVec 3) (off : Word64) :
    aside (maintCheck s n op seg off).2 = aside s := by
  unfold maintCheck
  grind [aside_checkAcc, aside_checkLin, aside_startWalk]

@[simp] theorem aside_mCheck (n : Nat) (a : Act) : aside (mCheck s n a).2 = aside s := by
  unfold mCheck
  grind [aside_checkAcc, aside_startWalk, aside_microRead, aside_maintCheck]

@[simp] theorem aside_wordM (n : Nat) (h : HeadWord) : aside (wordM s n h).2 = aside s := by
  unfold wordM
  grind [aside_mCheck]

@[simp] theorem aside_doLoad (n : Nat) (dst : Dst) (w : Nat) (sg : Bool) (m : MRes) : aside (doLoad s n dst w sg m) = aside s := by
  unfold doLoad
  dsimp only
  split
  · rw [aside_modCore, aside_foldl fun s p => by grind [aside_l1dFill]]
    grind [aside_coreEv]
  · simp only [apply_ite aside, aside_kick, aside_modCore, aside_coreEv, ite_self]

@[simp] theorem aside_doSerial (n : Nat) (k : AccKind) (d : Dst) (w : Nat) (sg : Bool) (o : Word64) (m : MRes) :
    aside (doSerial s n k d w sg o m) = aside s := (aside_kick ..).trans (aside_modCore ..)

@[simp] theorem aside_doInvAll (n : Nat) (sc : InvScope) : aside (doInvAll s n sc) = aside s := rfl

@[simp] theorem aside_icNet (l : List (Logical × BitVec 5 × LineNo × BitVec 24)) : aside { s with icNet := l } = aside s := rfl

@[simp] theorem aside_doMaint (n : Nat) (op : MaintOp) (m : MRes) : aside (doMaint s n op m) = aside s := by
  unfold doMaint
  grind [aside_send, aside_modCore, aside_prefetch, aside_shortStamp, aside_icNet, aside_doInvAll, aside_lockPage, aside_unlockPage]

@[simp] theorem aside_beginWait (n : Nat) (r : Run) : aside (beginWait s n r) = aside s := by
  unfold beginWait
  grind [aside_modCore, aside_dropResv, aside_wakeCore]

@[simp] theorem aside_ghostLoad (n : Nat) (a : Act) : aside (ghostLoad s n a) = aside s := by
  unfold ghostLoad
  grind [aside_checkAcc, aside_l1dFill, aside_charge, aside_openReq]

@[simp] theorem aside_ghostWord (n : Nat) : aside (ghostWord s n) = aside s := by
  unfold ghostWord
  grind [aside_free, aside_modCore, aside_foldl, aside_ghostLoad]

@[simp] theorem aside_wrongPath (n k : Nat) : aside (wrongPath s n k) = aside s :=
  (aside_modCore ..).trans (aside_foldl (fun s _ => aside_ghostWord s n) _ _)

@[simp] theorem aside_dropQueue (n : Nat) : aside (dropQueue s n) = aside s := rfl

@[simp] theorem aside_doXfer (n : Nat) (c : Core) (len : Nat) (k : XferKind) (taken hint : Bool) (target : Word64)
    (link : Option (BitVec 6)) : aside (doXfer s n c len k taken hint target link) = aside s := by
  unfold doXfer
  grind [aside_modCore, aside_wrongPath, aside_coreEv]

@[simp] theorem aside_doRfe (n : Nat) (fr : Option (Word128 × Word128)) : aside (doRfe s n fr) = aside s :=
  (aside_modCore ..).trans ((aside_dropQueue ..).trans (aside_dropResv ..))

@[simp] theorem aside_sevs (l : List (Tdid × Bool × BitVec 8 × BitVec 24)) : aside { s with sevs := l } = aside s := rfl

@[simp] theorem aside_doAct (n : Nat) (c : Core) (len : Nat) (m : MRes) (fr : Option (Word128 × Word128)) (a : Act) :
    aside (doAct n c len m fr s a) = aside s := by
  unfold doAct
  grind [aside_modCore, aside_doLoad, aside_coreEv, aside_doSerial, aside_doMaint, aside_doInvAll, aside_doXfer, aside_doRfe, aside_dropQueue, aside_rebind, aside_sysWrite, aside_beginWait, aside_sevs, aside_shortStamp]

@[simp] theorem aside_commitWord (n : Nat) (h : HeadWord) (m : MRes) (fr : Option (Word128 × Word128)) :
    aside (commitWord s n h m fr) = aside s := by
  unfold commitWord
  grind [aside_useToken, aside_modCore, aside_foldl, aside_doAct]

@[simp] theorem aside_recordTrap (n : Nat) (t : Trap) (len : Nat) : aside (recordTrap s n t len) = aside s := by
  unfold recordTrap
  grind [aside_useToken, aside_modCore, aside_wrongPath]

@[simp] theorem aside_waitX2 (n len : Nat) : aside (waitX2 s n len) = aside s := by
  unfold waitX2
  grind [aside_useToken, aside_modCore]

@[simp] theorem aside_patchParity (n : Nat) : aside (patchParity s n) = aside s := by
  unfold patchParity
  grind [aside_stopCore, aside_jrn, aside_setCore]

@[simp] theorem aside_tryIssue (n : Nat) : aside (tryIssue s n).2 = aside s := by
  unfold tryIssue
  grind (splits := 20) [aside_payOwed, aside_payHold, aside_fetchWord, aside_useToken, aside_recordTrap, aside_coreEv, aside_modCore, aside_wordM,
    aside_waitX2, aside_patchParity, aside_commitWord]

@[simp] theorem aside_advanceN (k n : Nat) : aside (advanceN k s n) = aside s := by
  induction k generalizing s with
  | zero => rfl
  | succ k ih =>
    unfold advanceN
    grind [aside_tryIssue]

@[simp] theorem aside_advance (n : Nat) : aside (advance s n) = aside s := aside_advanceN ..

@[simp] theorem aside_ctlDone (n off : Nat) : aside (ctlDone s n off) = aside s := by
  unfold ctlDone
  grind [aside_advance, aside_popStore]

@[simp] theorem aside_storeDone (r : OutReq) : aside (storeDone s r) = aside s := by
  unfold storeDone
  grind [aside_advance, aside_popStore]

@[simp] theorem aside_pushNf (n : Nat) (l : LineNo) (d : LineData) : aside (pushNf s n l d) = aside s := rfl

@[simp] theorem aside_readDone (r : OutReq) (d : List PByte) : aside (readDone s r d) = aside s := by
  unfold readDone
  grind [aside_advance, aside_pushNf, aside_putAcc, aside_modCore, aside_setResv, aside_kick]

@[simp] theorem aside_scDone (r : OutReq) (ok : Bool) : aside (scDone s r ok) = aside s :=
  (aside_advance ..).trans ((aside_kick ..).trans ((aside_modCore ..).trans (aside_dropResv ..)))

@[simp] theorem aside_cplTo (p tag : Nat) (d : List Byte) (ep ur : Bool) : aside (cplTo s p tag d ep ur) = aside s := rfl

@[simp] theorem aside_unreached (r : OutReq) (ur : Bool) : aside (unreached s r ur) = aside s := by
  unfold unreached
  grind [aside_readDone, aside_storeDone, aside_scDone, aside_cplTo]

@[simp] theorem aside_endOutst (p : Nat) (f : OutReq → Bool) : aside (endOutst s p f) = aside s := by
  unfold endOutst
  grind [aside_foldl, aside_unreached, aside_modRp]

end

end Sys2Proof.Tenant
end

section
/-! SUPPORT. Stores that reach their block, and what one to a context or to IOINV does there (R29, R76, R390, R391, R396, R398). -/
namespace Sys2Proof.Tenant
open Sys2Proof Sys2Proof.Machine Sys2Proof.Timing

/-! ### Stores that reach their block (R29, R121) -/

theorem ctlDone_engHold (s : State) (n off : Nat) : (ctlDone s n off).engHold = s.engHold := engHold_of_aside (aside_ctlDone s n off)

/-- The state in which a store that has reached its block is performed. -/
def arrived (s : State) (st : CtlStore) (ag : Tbl Agent) : State := { s with engHold := none, ctlNet := s.ctlNet.erase st, agents := ag }

theorem arrived_regsKept (s : State) (st : CtlStore) (ag : Tbl Agent) : RegsKept s (arrived s st ag) := regsKept_of_tables rfl rfl

/-- An engine's step that nothing holds back is made. -/
theorem engine_made {f : State → State} {s : State} (h : (f { s with engHold := none }).engHold = none) : engine f s = f { s with engHold := none } := by
  unfold engine engineOr
  dsimp only
  rw [h]

/-- A step that may have to wait leaves no hold behind it, if its waiting does not. -/
theorem engineOr_engHold {f wait : State → State} (hw : ∀ t, (wait t).engHold = t.engHold) {s : State} (h : s.engHold = none) :
    (engineOr f wait s).engHold = none := by
  unfold engineOr
  dsimp only
  split
  · assumption
  · exact (hw s).trans h
  · exact (hw _).trans ((engHold_of_aside (aside_bankEv ..)).trans h)

section
variable {p : Bool} {st : CtlStore} {s : State} {a : Nat}

theorem ctlArrive_up (hw : ctlWidthOk st.off.toNat st.width = true) (hd : ctlDown s st.off.toNat = false) (ha : ctlAgent st.off.toNat = some a) :
    ∃ ag, ctlArrive { s with engHold := none } st = ctlPerform (arrived s st ag) st := by
  obtain ⟨ag, e⟩ := received_eq { s with engHold := none, ctlNet := s.ctlNet.erase st } a (BitVec.ofNat 24 st.stamp)
  refine ⟨ag, ?_⟩
  have hd' : ctlDown { s with engHold := none, ctlNet := s.ctlNet.erase st } st.off.toNat = false := hd
  unfold ctlArrive
  dsimp only
  rw [hw, hd', ha]
  exact congrArg (ctlPerform · st) e

/-- A row's store, with none of its course on the way before it to the same place, is performed by a block that is in service. -/
theorem whenStore_performs (hp : p = true) (hb : ctlBehind s st = false) (hw : ctlWidthOk st.off.toNat st.width = true)
    (hd : ctlDown s st.off.toNat = false) (ha : ctlAgent st.off.toNat = some a)
    (hh : ∀ ag, (ctlPerform (arrived s st ag) st).engHold = none) :
    ∃ ag, whenStore p st s = .next (ctlPerform (arrived s st ag) st) := by
  obtain ⟨ag, e⟩ := ctlArrive_up hw hd ha
  refine ⟨ag, ?_⟩
  unfold whenStore
  rw [hp, hb]
  refine (if_pos rfl).trans (congrArg Host.Outcome.next ((engine_made ?_).trans e))
  rw [e]
  exact hh ag

end

/-! ### Stores to a context (R76, R391, R398) -/

theorem stCtx_range {st : CtlStore} {k o : Nat} (h : stCtx st = some (k, o)) : 0x4080000 ≤ st.off.toNat ∧ st.off.toNat < 0x40A0000 := by
  unfold stCtx stReg at h
  dsimp only at h
  split_ifs at h with hr
  simp only [Bool.and_eq_true, decide_eq_true_eq] at hr
  omega

theorem ctlPerform_ctx {st : CtlStore} {k : Nat} (h : stCtx st = some (k, 0)) (s : State) : ctlPerform s st = ctxStore s k st := by
  obtain ⟨h1, h2⟩ := stCtx_range h
  have hw : stWindow st = none := by
    unfold stWindow stReg
    exact if_neg (by simp only [Bool.and_eq_true, decide_eq_true_eq]; omega)
  unfold ctlPerform cfgBase
  dsimp only
  rw [if_neg (by omega), hw, h]
  rfl

theorem ctx_up {st : CtlStore} {k o : Nat} (h : stCtx st = some (k, o)) (s : State) : ctlDown s st.off.toNat = false ∧ ctlAgent st.off.toNat = some 80 := by
  obtain ⟨h1, h2⟩ := stCtx_range h
  constructor
  · unfold ctlDown
    rw [if_neg (by simp only [Bool.and_eq_true, decide_eq_true_eq]; omega), if_neg]
    simp only [Bool.and_eq_true, Bool.not_eq_true', Bool.and_eq_false_iff, decide_eq_true_eq, decide_eq_false_iff_not]
    omega
  · unfold ctlAgent
    simp only [Bool.and_eq_true, decide_eq_true_eq]
    rw [if_neg (by omega), if_neg (by omega), if_neg (by omega), if_neg (by omega), if_neg (by omega), if_neg (by omega), if_neg (by omega),
      if_neg (by omega), if_pos (by omega)]
    exact congrArg some (by omega)

theorem inboundGo_engHold {s : State} (h : s.engHold = none) (p k : Nat) (ep : BitVec 8) (t : Tlp) : (inboundGo s p k ep t).engHold = none := by
  unfold inboundGo
  dsimp only
  split_ifs
  · refine engineOr_engHold ?_ h
    exact fun _ => rfl
  · exact h

theorem portGoOn_engHold {s : State} (h : s.engHold = none) (p : Nat) : (portGoOn s p).engHold = none := by
  have hs : ∀ f (s : State), s.engHold = none → (servePort f s p).engHold = none := by
    intro f
    induction f with
    | zero => exact fun _ h => h
    | succ f ih =>
      intro s h
      unfold servePort
      split
      · exact h
      · refine ih _ (inboundGo_engHold ?_ ..)
        exact h
  exact hs _ s h

/-- A context that takes a new CTX_CTL; a rebinding takes the next epoch and its time (R76, R391). -/
def ctxTakes (x : Ctx) (w : Word64) (rebinds : Bool) (now : Nat) : Ctx :=
  { x with ctl := if rebinds then fldSet w 48 8 ((fld w 48 8 + 1) % 256) else w, lastBind := if rebinds then some now else x.lastBind }

/-- A halted context that goes on (R398). -/
def ctxResumed (y : Ctx) : Ctx := { y with ctl := fldSet y.ctl 62 1 0, status := fldSet y.status 52 4 0, hrep := false }

/-- The link of the function that CTX_CTL names is up. -/
def ctxLinkUp (s : State) (w : Word64) : Bool := linkUp s (fld w 16 3) (linkOfRid s (fld w 16 3) (fld w 0 16))

/-- A context's entry is `y`; a halt of it ends, if the store says so and its link is up (R398). -/
def ctxPut (s : State) (k : Nat) (y : Ctx) (resume : Bool) : State :=
  if resume && y.ctl.getLsbD 62 && ctxLinkUp s y.ctl then setCtx (setCtx s k y) k (ctxResumed (getCtx (setCtx s k y) k)) else setCtx s k y

theorem ctxPut_tables (s : State) (k : Nat) (y : Ctx) (r : Bool) : ∃ cs, ctxPut s k y r = { s with ctxs := cs } := by
  unfold ctxPut
  split_ifs
  · exact ⟨_, rfl⟩
  · exact ⟨_, rfl⟩

theorem getCtx_ctxPut (s : State) (k : Nat) (y : Ctx) (r : Bool) :
    getCtx (ctxPut s k y r) k = if r && y.ctl.getLsbD 62 && ctxLinkUp s y.ctl then ctxResumed y else y := by
  unfold ctxPut
  split_ifs <;> simp only [getCtx_setCtx, if_true]

/-- A store to CTX_CTL is refused for another context with its function, or for a port or a domain that there is not (R390, R391). -/
def ctxRefuses (s : State) (k : Nat) (w : Word64) : Bool :=
  (w.getLsbD 63 && s.ctxs.any (fun e => e.1 != k && ctxEn e.2 && fld e.2.ctl 0 19 == fld w 0 19)) || 5 < fld w 16 3 || !domValid s (fld w 32 12)

theorem ctxApply_refused {s : State} {k : Nat} {v : Word64} {r : Bool} (h : ctxRefuses s k (maskIn (getCtx s k).ctl v ctxMask) = true) :
    ctxApply s k v r = ctlErr s := if_pos h

theorem ctxApply_taken {s : State} {k : Nat} {v : Word64} {r : Bool} (h : ctxRefuses s k (maskIn (getCtx s k).ctl v ctxMask) = false) :
    ctxApply s k v r = portGoOn (ctxPut s k (ctxTakes (getCtx s k) (maskIn (getCtx s k).ctl v ctxMask) (ctxRebinds s k v) (plumbOf s 80)) r)
      (fld (getCtx s k).ctl 16 3) := if_neg (Bool.eq_false_iff.1 h)

/-! What such a store leaves of CTX_CTL and takes from the value written. -/

theorem fld_maskIn_old {x v m : Word64} {lo n : Nat} (h : ∀ i < n, m.getLsbD (lo + i) = false) : fld (maskIn x v m) lo n = fld x lo n := by
  refine Nat.eq_of_testBit_eq fun i => ?_
  rw [testBit_fld, testBit_fld]
  by_cases hi : i < n
  · unfold maskIn
    by_cases h64 : lo + i < 64
    · simp only [BitVec.getLsbD_or, BitVec.getLsbD_and, BitVec.getLsbD_not, h i hi, h64, hi, decide_true, Bool.not_false, Bool.and_true, Bool.and_false,
        Bool.or_false]
    · rw [BitVec.getLsbD_of_ge _ _ (by omega), BitVec.getLsbD_of_ge _ _ (by omega)]
  · simp [hi]

theorem ctxTakes_fld (x : Ctx) (w : Word64) (b : Bool) (now : Nat) {lo n : Nat} (h : lo + n ≤ 48 ∨ 56 ≤ lo) : fld (ctxTakes x w b now).ctl lo n = fld w lo n := by
  unfold ctxTakes
  cases b
  · rfl
  · exact fld_fldSet_ne _ _ h

theorem ctxTakes_bit (x : Ctx) (w : Word64) (b : Bool) (now : Nat) {i : Nat} (h : 56 ≤ i) (h64 : i < 64) : (ctxTakes x w b now).ctl.getLsbD i = w.getLsbD i := by
  unfold ctxTakes
  cases b
  · rfl
  · exact (getLsbD_fldSet _ _ _ _ _ h64).trans (if_neg (by omega))

theorem ctxResumed_fld (y : Ctx) {lo n : Nat} (h : lo + n ≤ 62) : fld (ctxResumed y).ctl lo n = fld y.ctl lo n := fld_fldSet_ne _ _ (.inl h)

theorem ctxResumed_en (y : Ctx) : (ctxResumed y).ctl.getLsbD 63 = y.ctl.getLsbD 63 := (getLsbD_fldSet _ _ _ _ _ (by decide)).trans (if_neg (by decide))

/-- A store to CTX_CTL need not wait. -/
def ctxFree (s : State) (k : Nat) (st : CtlStore) : Prop := (getCtx s k).heldW = [] ∧ ctxWaits s k st = false

/-- The entry of a context that takes a store. -/
def ctxNew (s : State) (k : Nat) (st : CtlStore) : Ctx :=
  ctxTakes (getCtx s k) (maskIn (getCtx s k).ctl (ctxVal s k st) ctxMask) (ctxRebinds s k (ctxVal s k st)) (plumbOf s 80)

theorem ctxStore_held {s : State} {k : Nat} {st : CtlStore} (h : ¬ctxFree s k st) :
    ctxStore s k st = setCtx s k { getCtx s k with heldW := (getCtx s k).heldW ++ [st] } := by
  refine if_pos ?_
  by_contra hn
  simp only [Bool.or_eq_true, not_or, Bool.not_eq_true, Bool.not_eq_false', List.isEmpty_iff] at hn
  exact h hn

theorem ctxStore_free {s : State} {k : Nat} {st : CtlStore} (h : ctxFree s k st) : ctxStore s k st = ctxPerform s k st := by
  refine if_neg ?_
  rw [h.1, h.2]
  exact Bool.false_ne_true

theorem ctxPerform_refused {s : State} {k : Nat} {st : CtlStore} (h : ctxRefuses s k (maskIn (getCtx s k).ctl (ctxVal s k st) ctxMask) = true) :
    ctxPerform s k st = ctlDone (ctlErr s) st.n.toNat st.off.toNat := congrArg (ctlDone · _ _) (ctxApply_refused h)

theorem ctxPerform_taken {s : State} {k : Nat} {st : CtlStore} (h : ctxRefuses s k (maskIn (getCtx s k).ctl (ctxVal s k st) ctxMask) = false) :
    ctxPerform s k st = ctlDone (portGoOn (ctxPut s k (ctxNew s k st) (stBit st 60 == some true)) (fld (getCtx s k).ctl 16 3)) st.n.toNat st.off.toNat :=
  congrArg (ctlDone · _ _) (ctxApply_taken h)

section
variable {p : Bool} {st : CtlStore} {s : State} {k : Nat} (hp : p = true) (hw : ctlWidthOk st.off.toNat st.width = true)
  (hk : stCtx st = some (k, 0)) (hb : ctlBehind s st = false)
include hp hw hk hb

/-- A store to CTX_CTL reaches its context. -/
theorem ctx_arrives {f : State → State} (hf : ∀ ag, ctxStore (arrived s st ag) k st = f (arrived s st ag))
    (hh : ∀ ag, (f (arrived s st ag)).engHold = none) : ∃ ag, whenStore p st s = .next (f (arrived s st ag)) := by
  obtain ⟨hd, ha⟩ := ctx_up hk s
  obtain ⟨ag, e⟩ := whenStore_performs hp hb hw hd ha fun ag => by
    rw [ctlPerform_ctx hk, hf]
    exact hh ag
  exact ⟨ag, e.trans (congrArg Host.Outcome.next ((ctlPerform_ctx hk _).trans (hf ag)))⟩

/-- A store that must wait is held (R76). -/
theorem ctx_held (hg : ¬ctxFree s k st) : ∃ ag, whenStore p st s =
    .next (setCtx (arrived s st ag) k { getCtx s k with heldW := (getCtx s k).heldW ++ [st] }) :=
  ctx_arrives (f := fun u => setCtx u k { getCtx s k with heldW := (getCtx s k).heldW ++ [st] }) hp hw hk hb (fun _ => ctxStore_held hg) fun _ => rfl

/-- A store that is refused sets CTL_ERR (R390). -/
theorem ctx_refused (hg : ctxFree s k st) (hr : ctxRefuses s k (maskIn (getCtx s k).ctl (ctxVal s k st) ctxMask) = true) :
    ∃ ag, whenStore p st s = .next (ctlDone (ctlErr (arrived s st ag)) st.n.toNat st.off.toNat) :=
  ctx_arrives (f := fun u => ctlDone (ctlErr u) st.n.toNat st.off.toNat) hp hw hk hb
    (fun ag => (ctxStore_free (s := arrived s st ag) hg).trans (ctxPerform_refused (s := arrived s st ag) hr)) fun _ => ctlDone_engHold ..

/-- A store that is taken: the context takes its fields, and its port goes on with what it holds (R391, R398). -/
theorem ctx_taken (hg : ctxFree s k st) (hr : ctxRefuses s k (maskIn (getCtx s k).ctl (ctxVal s k st) ctxMask) = false) :
    ∃ ag, whenStore p st s = .next (ctlDone (portGoOn (ctxPut (arrived s st ag) k (ctxNew s k st) (stBit st 60 == some true))
      (fld (getCtx s k).ctl 16 3)) st.n.toNat st.off.toNat) := by
  refine ctx_arrives (f := fun u => ctlDone (portGoOn (ctxPut u k (ctxNew s k st) (stBit st 60 == some true)) (fld (getCtx s k).ctl 16 3))
    st.n.toNat st.off.toNat) hp hw hk hb (fun ag => (ctxStore_free (s := arrived s st ag) hg).trans (ctxPerform_taken (s := arrived s st ag) hr)) fun ag => ?_
  obtain ⟨cs, e⟩ := ctxPut_tables (arrived s st ag) k (ctxNew s k st) (stBit st 60 == some true)
  exact (ctlDone_engHold ..).trans (portGoOn_engHold (congrArg State.engHold e :) _)

end

/-! What the taken store leaves (R76, R390, R391, R398). -/

theorem ctxRefuses_eq_false {s : State} {k : Nat} {w : Word64}
    (h : ¬(w.getLsbD 63 = true ∧ s.ctxs.any (fun e => e.1 != k && ctxEn e.2 && fld e.2.ctl 0 19 == fld w 0 19) = true) ∧ fld w 16 3 ≤ 5 ∧
      domValid s (fld w 32 12) = true) : ctxRefuses s k w = false := by
  obtain ⟨hd, hp, hv⟩ := h
  unfold ctxRefuses
  rw [Bool.eq_false_iff.2 (fun h => hd (Bool.and_eq_true_iff.1 h)), decide_eq_false (Nat.not_lt.2 hp), hv]
  rfl

theorem ctxRefuses_eq_true {s : State} {k : Nat} {w : Word64}
    (h : ¬(¬(w.getLsbD 63 = true ∧ s.ctxs.any (fun e => e.1 != k && ctxEn e.2 && fld e.2.ctl 0 19 == fld w 0 19) = true) ∧ fld w 16 3 ≤ 5 ∧
      domValid s (fld w 32 12) = true)) : ctxRefuses s k w = true := by
  by_contra hn
  unfold ctxRefuses at hn
  simp only [Bool.or_eq_true, Bool.and_eq_true, decide_eq_true_eq, Bool.not_eq_true', not_or, Bool.not_eq_false] at hn
  obtain ⟨⟨hd, hp⟩, hv⟩ := hn
  exact h ⟨hd, Nat.not_lt.1 hp, hv⟩

theorem getCtx_ctxPut_cases (s : State) (k : Nat) (y : Ctx) (r : Bool) : getCtx (ctxPut s k y r) k = y ∨ getCtx (ctxPut s k y r) k = ctxResumed y := by
  rw [getCtx_ctxPut]
  split_ifs
  · exact .inr rfl
  · exact .inl rfl

theorem ctxPut_fld (s : State) (k : Nat) (y : Ctx) (r : Bool) {lo n : Nat} (h : lo + n ≤ 62) : fld (getCtx (ctxPut s k y r) k).ctl lo n = fld y.ctl lo n := by
  rcases getCtx_ctxPut_cases s k y r with e | e <;> rw [e]
  exact ctxResumed_fld y h

theorem ctxPut_en (s : State) (k : Nat) (y : Ctx) (r : Bool) : (getCtx (ctxPut s k y r) k).ctl.getLsbD 63 = y.ctl.getLsbD 63 := by
  rcases getCtx_ctxPut_cases s k y r with e | e <;> rw [e]
  exact ctxResumed_en y

theorem ctxPut_lastBind (s : State) (k : Nat) (y : Ctx) (r : Bool) : (getCtx (ctxPut s k y r) k).lastBind = y.lastBind := by
  rcases getCtx_ctxPut_cases s k y r with e | e <;> rw [e]
  rfl

theorem ctxPut_regsKept (s : State) (k : Nat) (y : Ctx) (r : Bool) : RegsKept s (ctxPut s k y r) := by
  obtain ⟨_, e⟩ := ctxPut_tables s k y r
  rw [e]
  exact regsKept_of_tables rfl rfl

/-- A binding takes the written fields and the next epoch (R391). -/
theorem ctxNew_binds {s : State} {k : Nat} {st : CtlStore} (h : ctxRebinds s k (ctxVal s k st) = true) :
    fld (ctxNew s k st).ctl 48 8 = (fld (getCtx s k).ctl 48 8 + 1) % 256 ∧ (ctxNew s k st).ctl.getLsbD 63 = true ∧
    (ctxNew s k st).lastBind = some (plumbOf s 80) := by
  have h63 : (maskIn (getCtx s k).ctl (ctxVal s k st) ctxMask).getLsbD 63 = true := (Bool.and_eq_true_iff.1 h).1
  have h48 : fld (maskIn (getCtx s k).ctl (ctxVal s k st) ctxMask) 48 8 = fld (getCtx s k).ctl 48 8 := fld_maskIn_old (by decide)
  refine ⟨?_, (ctxTakes_bit _ _ _ _ (by decide) (by decide)).trans h63, ?_⟩
  · unfold ctxNew ctxTakes
    rw [h, ← h48]
    exact (fld_fldSet_same _ _ (by decide)).trans (Nat.mod_mod _ _)
  · unfold ctxNew ctxTakes
    rw [h]
    rfl

section
variable {st : CtlStore} {s : State} {k : Nat}

theorem isCtxBind_cases (h : isCtxBind s st = true) (hk : stCtx st = some (k, 0)) :
    ctlWidthOk st.off.toNat st.width = true ∧ ctxRebinds s k (ctxVal s k st) = true := by
  unfold isCtxBind at h
  rw [hk] at h
  exact Bool.and_eq_true_iff.1 h

theorem isCtxResume_cases (h : isCtxResume st = true) (hk : stCtx st = some (k, 0)) :
    ctlWidthOk st.off.toNat st.width = true ∧ (stBit st 60 == some true) = true := by
  unfold isCtxResume at h
  rw [hk] at h
  exact Bool.and_eq_true_iff.1 h

/-- CTX_CTL as a store would leave it, its epoch apart. -/
def ctxWord (s : State) (k : Nat) (st : CtlStore) : Word64 := maskIn (getCtx s k).ctl (ctxVal s k st) ctxMask

theorem ctxBind_taken (h : isCtxBind s st = true) (hk : stCtx st = some (k, 0)) (hb : ctlBehind s st = false) (hg : ctxFree s k st)
    (hr : ctxRefuses s k (ctxWord s k st) = false) :
    ∃ u, exec (.ctxBind st) s = .next (ctlDone (portGoOn u (fld (getCtx s k).ctl 16 3)) st.n.toNat st.off.toNat) ∧ RegsKept s u ∧
      fld (getCtx u k).ctl 48 8 = (fld (getCtx s k).ctl 48 8 + 1) % 256 ∧ (getCtx u k).ctl.getLsbD 63 = true ∧
      fld (getCtx u k).ctl 0 19 = fld (ctxWord s k st) 0 19 ∧ fld (getCtx u k).ctl 32 12 = fld (ctxWord s k st) 32 12 ∧
      (getCtx u k).lastBind = some (plumbOf s 80) := by
  obtain ⟨hw, hreb⟩ := isCtxBind_cases h hk
  obtain ⟨ag, e⟩ := ctx_taken h hw hk hb hg hr
  obtain ⟨hep, hen, hl⟩ := ctxNew_binds hreb
  refine ⟨_, e, regsKept_trans (arrived_regsKept s st ag) (ctxPut_regsKept ..), ?_, ?_, ?_, ?_, ?_⟩
  · rw [ctxPut_fld _ _ _ _ (by decide), hep]
  · rw [ctxPut_en, hen]
  · rw [ctxPut_fld _ _ _ _ (by decide)]
    exact ctxTakes_fld _ _ _ _ (by decide)
  · rw [ctxPut_fld _ _ _ _ (by decide)]
    exact ctxTakes_fld _ _ _ _ (by decide)
  · rw [ctxPut_lastBind, hl]

theorem ctxBind_refused (h : isCtxBind s st = true) (hk : stCtx st = some (k, 0)) (hb : ctlBehind s st = false) (hg : ctxFree s k st)
    (hr : ctxRefuses s k (ctxWord s k st) = true) : CtlDone (.ctxBind st) st s (fun u => u.ctxs = s.ctxs ∧ u.gstat.getLsbD 0 = true) := by
  obtain ⟨ag, e⟩ := ctx_refused h (isCtxBind_cases h hk).1 hk hb hg hr
  refine ⟨_, e, regsKept_of_tables rfl rfl, rfl, ?_⟩
  change (s.gstat ||| 1).getLsbD 0 = true
  rw [BitVec.getLsbD_or]
  exact Bool.or_true _

theorem ctxBind_held (h : isCtxBind s st = true) (hk : stCtx st = some (k, 0)) (hb : ctlBehind s st = false) (hg : ¬ctxFree s k st) :
    Completes (.ctxBind st) s (fun u => (getCtx u k).ctl = (getCtx s k).ctl ∧ (getCtx u k).heldW = (getCtx s k).heldW ++ [st]) := by
  obtain ⟨ag, e⟩ := ctx_held h (isCtxBind_cases h hk).1 hk hb hg
  have hc : getCtx (setCtx (arrived s st ag) k { getCtx s k with heldW := (getCtx s k).heldW ++ [st] }) k = _ := (getCtx_setCtx ..).trans (if_pos rfl)
  exact ⟨_, e, regsKept_of_tables rfl rfl, (congrArg Ctx.ctl hc :), (congrArg Ctx.heldW hc :)⟩

theorem ctxResume_taken (h : isCtxResume st = true) (hk : stCtx st = some (k, 0)) (hb : ctlBehind s st = false) (hg : ctxFree s k st)
    (hr : ctxRefuses s k (ctxWord s k st) = false) :
    ∃ u, exec (.ctxResume st) s = .next (ctlDone (portGoOn u (fld (getCtx s k).ctl 16 3)) st.n.toNat st.off.toNat) ∧ RegsKept s u ∧
      ((getCtx s k).ctl.getLsbD 62 = true → (ctxLinkUp s (ctxWord s k st) = true → (getCtx u k).ctl.getLsbD 62 = false ∧ fld (getCtx u k).status 52 4 = 0) ∧
        (ctxLinkUp s (ctxWord s k st) = false → (getCtx u k).ctl.getLsbD 62 = true)) := by
  obtain ⟨hw, h60⟩ := isCtxResume_cases h hk
  obtain ⟨ag, e⟩ := ctx_taken h hw hk hb hg hr
  refine ⟨_, e, regsKept_trans (arrived_regsKept s st ag) (ctxPut_regsKept ..), fun h62 => ?_⟩
  have hy : (ctxNew s k st).ctl.getLsbD 62 = true := by
    refine (ctxTakes_bit _ _ _ _ (by decide) (by decide)).trans ?_
    unfold maskIn
    rw [BitVec.getLsbD_or, BitVec.getLsbD_and, h62]
    rfl
  have hl : ctxLinkUp (arrived s st ag) (ctxNew s k st).ctl = ctxLinkUp s (ctxWord s k st) := by
    have h1 : fld (ctxNew s k st).ctl 16 3 = fld (ctxWord s k st) 16 3 := ctxTakes_fld _ _ _ _ (by decide)
    have h2 : fld (ctxNew s k st).ctl 0 16 = fld (ctxWord s k st) 0 16 := ctxTakes_fld _ _ _ _ (by decide)
    unfold ctxLinkUp
    rw [h1, h2]
    rfl
  rw [getCtx_ctxPut, h60, hy, hl]
  refine ⟨fun hu => ?_, fun hd => ?_⟩
  · rw [hu]
    exact ⟨(getLsbD_fldSet _ _ _ _ _ (by decide)).trans (if_pos (by decide)), fld_fldSet_same _ _ (by decide)⟩
  · rw [hd]
    exact hy

end

/-! ### I/O invalidations (R396) -/

theorem ioinv_store {st : CtlStore} (h : stIoinv st = true) (s : State) :
    ctlDown s st.off.toNat = false ∧ ctlAgent st.off.toNat = some 80 ∧ ctlPerform s st = ioinvStore s st := by
  have hr : st.off.toNat / 8 * 8 = 0x4000100 := beq_iff_eq.1 h
  have hw : stWindow st = none := by
    unfold stWindow stReg
    exact if_neg (by simp only [Bool.and_eq_true, decide_eq_true_eq]; omega)
  have hc : stCtx st = none := by
    unfold stCtx stReg
    exact if_neg (by simp only [Bool.and_eq_true, decide_eq_true_eq]; omega)
  have hn : stChan st = none := by
    unfold stChan stReg
    exact if_neg (by simp only [Bool.and_eq_true, decide_eq_true_eq]; omega)
  refine ⟨?_, ?_, ?_⟩
  · unfold ctlDown
    rw [if_neg (by simp only [Bool.and_eq_true, decide_eq_true_eq]; omega), hr]
    exact if_neg (by simp)
  · unfold ctlAgent
    simp only [Bool.and_eq_true, decide_eq_true_eq]
    rw [if_neg (by omega), if_neg (by omega), if_neg (by omega), if_neg (by omega), if_neg (by omega), if_neg (by omega), if_neg (by omega),
      if_neg (by omega), if_pos (by omega)]
    exact congrArg some (by omega)
  · unfold ctlPerform cfgBase
    dsimp only
    rw [if_neg (by omega), hw, hc, hn]
    exact if_pos h

/-- A root port's I/O TLB loses the entries named. -/
def ioinvPort (w : Word64) (s : State) (p : Nat) : State :=
  if (getRp s p).iotlb.isEmpty then s else modRp s p (fun x => { x with iotlb := x.iotlb.filter (fun e => !ioinvHits w e) })

theorem ioinvPort_iotlb (w : Word64) (s : State) (p q : Nat) :
    (getRp (ioinvPort w s p) q).iotlb = if q = p then (getRp s q).iotlb.filter (fun e => !ioinvHits w e) else (getRp s q).iotlb := by
  unfold ioinvPort
  by_cases he : (getRp s p).iotlb.isEmpty = true
  · rw [if_pos he]
    split_ifs with hq
    · rw [hq, List.isEmpty_iff.1 he]
      rfl
    · rfl
  · rw [if_neg he, modRp, getRp_setRp]
    split_ifs with hq
    · rw [hq]
    · rfl

theorem ioinvPorts_iotlb (w : Word64) (l : List Nat) (s : State) {p : Nat} (hp : p ∈ l) :
    ∀ e ∈ (getRp (l.foldl (ioinvPort w) s) p).iotlb, ioinvHits w e = false := by
  have hk : ∀ (l : List Nat) (s : State), (∀ e ∈ (getRp s p).iotlb, ioinvHits w e = false) →
      ∀ e ∈ (getRp (l.foldl (ioinvPort w) s) p).iotlb, ioinvHits w e = false := by
    intro l
    induction l with
    | nil => exact fun _ h => h
    | cons q r ih =>
      refine fun s h => ih _ fun e he => ?_
      rw [ioinvPort_iotlb] at he
      split_ifs at he
      · exact h e (List.mem_of_mem_filter he)
      · exact h e he
  induction l generalizing s with
  | nil => exact absurd hp List.not_mem_nil
  | cons q r ih =>
    by_cases hr : p ∈ r
    · exact ih _ hr
    · have hq : p = q := (List.mem_cons.1 hp).resolve_right hr
      refine hk r _ fun e he => ?_
      rw [ioinvPort_iotlb, if_pos hq] at he
      exact (Bool.not_eq_true' _).mp (List.mem_filter.1 he).2

theorem ioinvPorts_tables (w : Word64) (l : List Nat) (s : State) : ∃ r, l.foldl (ioinvPort w) s = { s with rps := r } := by
  induction l generalizing s with
  | nil => exact ⟨s.rps, rfl⟩
  | cons p r ih =>
    obtain ⟨t, e⟩ : ∃ t, ioinvPort w s p = { s with rps := t } := by
      unfold ioinvPort
      split_ifs
      · exact ⟨s.rps, rfl⟩
      · exact ⟨_, rfl⟩
    obtain ⟨u, e'⟩ := ih (ioinvPort w s p)
    exact ⟨u, by rw [List.foldl_cons, e', e]⟩

/-- The I/O TLBs of the DMA engines without the entries named. -/
def ioinvDma (w : Word64) (t : Tbl (List IoTlb)) : Tbl (List IoTlb) := tmapv (fun _ => []) t (fun _ l => l.filter (fun e => !ioinvHits w e))

theorem ioinvDma_filtered (w : Word64) (t : Tbl (List IoTlb)) (d : Nat) : ∀ e ∈ tget (fun _ => []) (ioinvDma w t) d, ioinvHits w e = false := by
  have h : tget (fun _ => []) (ioinvDma w t) d = (tget (fun _ => []) t d).filter (fun e => !ioinvHits w e) :=
    tget_tmapv (f := fun _ l => l.filter (fun e => !ioinvHits w e)) (fun _ => rfl) (fun _ l => by rw [List.filter_filter]; simp only [Bool.and_self]) t d
  intro e he
  rw [h] at he
  exact (Bool.not_eq_true' _).mp (List.mem_filter.1 he).2

/-- What a write of IOINV changes: DONE, the I/O TLBs and what it waits for. -/
theorem ioinvStart_eq (s : State) (w : Word64) : ∃ r io, ioinvStart s w = { s with rps := r, ioDone := false, dmaTlb := ioinvDma w s.dmaTlb, ioPend := io } ∧
    ∀ p < 6, ∀ e ∈ (tget (fun _ => {}) r p).iotlb, ioinvHits w e = false := by
  obtain ⟨r, e⟩ := ioinvPorts_tables w (List.range 6) s
  refine ⟨r, (peersOut ((List.range 6).foldl (ioinvPort w) s)).filter (ioinvWaits w), ?_, fun p hp => ?_⟩
  · change { (List.range 6).foldl (ioinvPort w) s with
      ioDone := false, dmaTlb := ioinvDma w ((List.range 6).foldl (ioinvPort w) s).dmaTlb
      ioPend := (peersOut ((List.range 6).foldl (ioinvPort w) s)).filter (ioinvWaits w) } = _
    rw [e]
  · have h := ioinvPorts_iotlb w (List.range 6) s (List.mem_range.2 hp)
    rw [e] at h
    exact h

section
variable {i : Instr} {st : CtlStore} {s : State} {c : Nat} (he : exec i s = whenStore (isIoinv st c) st s) (h : isIoinv st c = true)
  (hb : ctlBehind s st = false)
include he h hb

theorem ioinv_arrives {f : State → State} (hf : ∀ ag, ioinvStore (arrived s st ag) st = f (arrived s st ag))
    (hh : ∀ ag, (f (arrived s st ag)).engHold = none) : ∃ ag, exec i s = .next (f (arrived s st ag)) := by
  have hp := h
  unfold isIoinv at hp
  simp only [Bool.and_eq_true] at hp
  obtain ⟨⟨hw, hi⟩, -⟩ := hp
  obtain ⟨hd, ha, -⟩ := ioinv_store hi s
  obtain ⟨ag, e⟩ := whenStore_performs h hb hw hd ha fun ag => by
    rw [(ioinv_store hi _).2.2, hf]
    exact hh ag
  exact ⟨ag, he.trans (e.trans (congrArg Host.Outcome.next ((ioinv_store hi _).2.2.trans (hf ag))))⟩

theorem ioinv_starts (hd : s.ioDone = true) : CtlDone i st s (fun u => u.ioDone = false ∧
    (∀ p, p < 6 → ∀ e ∈ (getRp u p).iotlb, ioinvHits (stVal st &&& stMask st) e = false) ∧
    ∀ d, ∀ e ∈ tget (fun _ => []) u.dmaTlb d, ioinvHits (stVal st &&& stMask st) e = false) := by
  obtain ⟨ag, e⟩ := ioinv_arrives (f := fun u => ctlDone (ioinvStart u (stVal st &&& stMask st)) st.n.toNat st.off.toNat) he h hb (fun ag => if_pos hd) fun ag => by
    obtain ⟨r, io, e, -⟩ := ioinvStart_eq (arrived s st ag) (stVal st &&& stMask st)
    exact (ctlDone_engHold ..).trans (congrArg State.engHold e :)
  obtain ⟨r, io, e', hr⟩ := ioinvStart_eq (arrived s st ag) (stVal st &&& stMask st)
  rw [e'] at e
  exact ⟨_, e, regsKept_of_tables rfl rfl, rfl, hr, ioinvDma_filtered _ _⟩

theorem ioinv_waits (hd : s.ioDone = false) : Completes i s (fun u => u.ioWait = s.ioWait ++ [st] ∧ u.dmaTlb = s.dmaTlb) := by
  obtain ⟨ag, e⟩ := ioinv_arrives (f := fun u => { u with ioWait := u.ioWait ++ [st] }) he h hb
    (fun ag => if_neg (by rw [show (arrived s st ag).ioDone = false from hd]; decide)) fun _ => rfl
  exact ⟨_, e, regsKept_of_tables rfl rfl, rfl, rfl⟩

end

theorem ioinvDone_ends {s : State} (hd : s.ioDone = false) (hp : s.ioPend.any (fun r => (peersOut s).contains r) = false) (hw : s.ioWait = []) :
    Completes .ioinvDone s (fun u => u.ioDone = true ∧ u.ioPend = []) := by
  refine ⟨{ s with ioDone := true, ioPend := [] }, ?_, regsKept_of_tables rfl rfl, rfl, rfl⟩
  change execIoinvDone s = _
  unfold execIoinvDone
  rw [hd, hp, if_neg (by decide)]
  dsimp only
  rw [hw]

theorem ioinvDone_waits {s : State} (h : s.ioDone = true ∨ s.ioPend.any (fun r => (peersOut s).contains r) = true) : exec .ioinvDone s = .next s :=
  if_pos (Bool.or_eq_true_iff.2 h)

/-! ### The end of the rebinding delay (R76) -/

theorem core_goesOn {s : State} {n : BitVec 8} (h : (getCore s n.toNat).busy = .bindWait) (ht : bindTooSoon s n.toNat = false) :
    ∃ u, exec (.rebindDelayExpiry (.core n)) s = .next (advance u n.toNat) ∧ RegsKept s u ∧ (getCore u n.toNat).busy = .none := by
  refine ⟨_, if_pos (by rw [h, ht]; rfl), regsKept_of_seen (modCore_seen (fun _ => ⟨rfl, fun h => h⟩) seen_refl), ?_⟩
  exact congrArg Core.busy ((getCore_setCore ..).trans (if_pos rfl))

theorem core_tooSoon {s : State} {n : BitVec 8} (h : bindTooSoon s n.toNat = true) : exec (.rebindDelayExpiry (.core n)) s = .next s :=
  if_neg (by rw [h]; simp)

section
variable {s : State} {st : CtlStore} {r : List CtlStore}

theorem ctxGo_waits {k : Nat} (h : (getCtx s k).heldW = st :: r) (hw : ctxWaits s k st = true) (f : Nat) : ctxGo (f + 1) s k = s := by
  unfold ctxGo
  rw [h]
  exact if_pos hw

theorem ctxGo_goesOn {k : Nat} (h : (getCtx s k).heldW = st :: r) (hw : ctxWaits s k st = false) (f : Nat) :
    ctxGo (f + 1) s k = ctxGo f (ctxPerform (setCtx s k { getCtx s k with heldW := r }) k st) k := by
  rw [ctxGo, h]
  exact if_neg (Bool.eq_false_iff.1 hw)

theorem context_waits {k : BitVec 12} (h : (getCtx s k.toNat).heldW = st :: r) (hw : ctxWaits s k.toNat st = true) :
    exec (.rebindDelayExpiry (.context k)) s = .next s := by
  refine congrArg Host.Outcome.next (?_ : ctxGo (getCtx s k.toNat).heldW.length s k.toNat = s)
  rw [h]
  exact ctxGo_waits h hw _

theorem context_goesOn {k : BitVec 12} (h : (getCtx s k.toNat).heldW = [st]) (hw : ctxWaits s k.toNat st = false) : exec (.rebindDelayExpiry (.context k)) s =
    .next (ctxPerform (setCtx s k.toNat { getCtx s k.toNat with heldW := [] }) k.toNat st) := by
  refine congrArg Host.Outcome.next (?_ : ctxGo (getCtx s k.toNat).heldW.length s k.toNat = _)
  rw [congrArg List.length h]
  exact ctxGo_goesOn h hw 0

end

section
variable {s : State} {st : CtlStore} {r : List CtlStore}

theorem chGo_waits {k : Nat} (h : (getChan s k).heldW = st :: r) (hw : chWaits s k st = true) (f : Nat) : chGo (f + 1) s k = s := by
  unfold chGo
  rw [h]
  exact if_pos hw

theorem chGo_goesOn {k : Nat} (h : (getChan s k).heldW = st :: r) (hw : chWaits s k st = false) (f : Nat) :
    chGo (f + 1) s k = chGo f (chPerform (setChan s k { getChan s k with heldW := r }) k st) k := by
  rw [chGo, h]
  exact if_neg (Bool.eq_false_iff.1 hw)

theorem channel_waits {k : BitVec 10} (h : (getChan s k.toNat).heldW = st :: r) (hw : chWaits s k.toNat st = true) :
    exec (.rebindDelayExpiry (.channel k)) s = .next s := by
  refine congrArg Host.Outcome.next (?_ : chGo (getChan s k.toNat).heldW.length s k.toNat = s)
  rw [h]
  exact chGo_waits h hw _

theorem channel_goesOn {k : BitVec 10} (h : (getChan s k.toNat).heldW = [st]) (hw : chWaits s k.toNat st = false) : exec (.rebindDelayExpiry (.channel k)) s =
    .next (chPerform (setChan s k.toNat { getChan s k.toNat with heldW := [] }) k.toNat st) := by
  refine congrArg Host.Outcome.next (?_ : chGo (getChan s k.toNat).heldW.length s k.toNat = _)
  rw [congrArg List.length h]
  exact chGo_goesOn h hw 0

end

theorem account_waits {s : State} {t : BitVec 12} (h : s.ks.heldOpen = none ∨ accountHeld s t.toNat = true) :
    exec (.rebindDelayExpiry (.account t)) s = .next s := by
  change execRebindDelayExpiry (.account t) s = _
  unfold execRebindDelayExpiry
  dsimp only
  split
  · rename_i p e
    refine if_neg ?_
    rw [h.resolve_left (by rw [e]; nofun)]
    simp
  · rfl

end Sys2Proof.Tenant
end

section
/-! SUPPORT. What the Keystone sets of a domain, what a boundary and an opening leave, and what the Keystone's answers leave (R60, R76, R288 to
R292, R417, R433). -/
namespace Sys2Proof.Tenant
open Sys2Proof Sys2Proof.Machine Sys2Proof.Timing

/-! ### Registers that the Keystone sets (R30, R433) -/

/-- Only the tenants' tables change and the times of registers' last writes, and no core's store was the last to set a register (R30). -/
structure TenantSets (s u : State) : Prop where
  tables : ∃ ds bd wh cl, u = { s with doms := ds, buds := bd, winHeld := wh, ctlLast := cl }
  last : ∀ o, coreLast u o = false

theorem TenantSets.trans {s t u : State} (h : TenantSets s t) (k : TenantSets t u) : TenantSets s u := by
  obtain ⟨⟨_, _, _, _, rfl⟩, -⟩ := h
  obtain ⟨⟨_, _, _, _, rfl⟩, hl⟩ := k
  exact ⟨⟨_, _, _, _, rfl⟩, hl⟩

/-- The Keystone sets a register of a tenant (R30). -/
theorem ksSet_tenant {s : State} (hc : ∀ o, coreLast s o = false) (off : Nat) {f : State → State}
    (hf : ∃ ds bd wh, f s = { s with doms := ds, buds := bd, winHeld := wh }) : TenantSets s (ksSet s off f) ∧
    (ksSet s off f).doms = (f s).doms ∧ (ksSet s off f).buds = (f s).buds := by
  obtain ⟨x, e, hx⟩ := ksSet_alone (hc off) f
  obtain ⟨ds, bd, wh, hf⟩ := hf
  rw [e, hf]
  exact ⟨⟨⟨_, _, _, _, rfl⟩, coreLast_set (s := { s with doms := ds, buds := bd, winHeld := wh }) hc off hx⟩, rfl, rfl⟩

/-- DOM_CTL as R433 writes it. -/
def domCtl (l : List Byte) (rt opens : Bool) (w : Word64) : Word64 :=
  if opens then openedCtl (fldSet (fldSet w 56 4 (le l 2 1)) 62 1 (b2n rt)) else fldSet (fldSet w 56 4 (le l 2 1)) 62 1 (b2n rt)

/-- The ceilings of an account. -/
def ceilings (b : Bud) : Word64 × Word64 × Word64 × Word64 := (b.c0, b.c1, b.c2, b.c3)

/-- The ceilings of R433. -/
def ceilingsOf (l : List Byte) : Word64 × Word64 × Word64 × Word64 :=
  (BitVec.ofNat 64 (le l 4 8), BitVec.ofNat 64 (le l 12 8), BitVec.ofNat 64 (le l 20 8), BitVec.ofNat 64 (le l 28 8))

theorem getBud_modBud (s : State) (t k : Nat) (f : Bud → Bud) : getBud (modBud s t f) k = if k = t then f (getBud s t) else getBud s k := getBud_setBud ..

theorem getDom_modDom (s : State) (t k : Nat) (f : Dom → Dom) : getDom (modDom s t f) k = if k = t then f (getDom s t) else getDom s k := getDom_setDom ..

theorem getDom_of_doms {s u : State} (h : u.doms = s.doms) (k : Nat) : getDom u k = getDom s k := by
  unfold getDom
  rw [h]

theorem getBud_of_buds {s u : State} (h : u.buds = s.buds) (k : Nat) : getBud u k = getBud s k := by
  unfold getBud
  rw [h]

theorem ksSet_bud {s : State} (hc : ∀ o, coreLast s o = false) (off t : Nat) (f : Bud → Bud) : TenantSets s (ksSet s off (fun s => modBud s t f)) ∧
    (ksSet s off (fun s => modBud s t f)).doms = s.doms ∧ getBud (ksSet s off (fun s => modBud s t f)) t = f (getBud s t) := by
  obtain ⟨ht, hd, hb⟩ := ksSet_tenant hc off (f := fun s => modBud s t f) ⟨s.doms, _, s.winHeld, rfl⟩
  exact ⟨ht, hd, (getBud_of_buds hb t).trans ((getBud_modBud ..).trans (if_pos rfl))⟩

theorem ksSet_dom {s : State} (hc : ∀ o, coreLast s o = false) (off t : Nat) (f : Dom → Dom) : TenantSets s (ksSet s off (fun s => modDom s t f)) ∧
    getDom (ksSet s off (fun s => modDom s t f)) t = f (getDom s t) := by
  obtain ⟨ht, hd, -⟩ := ksSet_tenant hc off (f := fun s => modDom s t f) ⟨_, s.buds, s.winHeld, rfl⟩
  exact ⟨ht, (getDom_of_doms hd t).trans ((getDom_modDom ..).trans (if_pos rfl))⟩

/-- What R433 writes of a domain. -/
theorem domWrite_effect {s : State} (hc : ∀ o, coreLast s o = false) (t : Nat) (l : List Byte) (rt opens : Bool) :
    TenantSets s (domWrite s t l rt opens) ∧ (getDom (domWrite s t l rt opens) t).ctl = domCtl l rt opens (getDom s t).ctl ∧
    ceilings (getBud (domWrite s t l rt opens) t) = ceilingsOf l := by
  unfold domWrite
  extract_lets s1 ceil s2 s3 s4 s5 wt
  obtain ⟨h1, d1⟩ : TenantSets s s1 ∧ getDom s1 t = _ := ksSet_dom hc _ t _
  obtain ⟨h2, d2, b2⟩ : TenantSets s1 s2 ∧ s2.doms = s1.doms ∧ getBud s2 t = _ := ksSet_bud h1.last _ t _
  obtain ⟨h3, d3, b3⟩ : TenantSets s2 s3 ∧ s3.doms = s2.doms ∧ getBud s3 t = _ := ksSet_bud h2.last _ t _
  obtain ⟨h4, d4, b4⟩ : TenantSets s3 s4 ∧ s4.doms = s3.doms ∧ getBud s4 t = _ := ksSet_bud h3.last _ t _
  obtain ⟨h5, d5, b5⟩ : TenantSets s4 s5 ∧ s5.doms = s4.doms ∧ getBud s5 t = _ := ksSet_bud h4.last _ t _
  obtain ⟨h6, d6, b6⟩ := ksSet_bud h5.last (budOff t + 32) t (fun b => { b with wt := wt b.wt })
  refine ⟨h1.trans (h2.trans (h3.trans (h4.trans (h5.trans h6)))), ?_, ?_⟩
  · rw [getDom_of_doms (d6.trans (d5.trans (d4.trans (d3.trans d2)))), d1]
    rfl
  · rw [b6, b5, b4, b3, b2]
    rfl

/-- A domain whose WINDOW[w] has EN = 0. -/
def winClosed (w : Nat) (d : Dom) : Dom :=
  { d with win := tset (fun _ => 0) d.win w (winOff (tget (fun _ => 0) d.win w)), winHi := tset (fun _ => none) d.winHi w none }

/-- Windows with EN = 0 (R433): the tenants' tables change, but no DOM_CTL and no account. -/
theorem clearWindow_effect {s : State} (hc : ∀ o, coreLast s o = false) (off t w : Nat) :
    TenantSets s (ksSet s off (fun s => clearWindow s t w)) ∧
    (∀ k, (getDom (ksSet s off (fun s => clearWindow s t w)) k).ctl = (getDom s k).ctl) ∧ (ksSet s off (fun s => clearWindow s t w)).buds = s.buds := by
  obtain ⟨ht, hd, hb⟩ := ksSet_tenant hc off (f := fun s => clearWindow s t w) ⟨_, s.buds, _, rfl⟩
  refine ⟨ht, fun k => ?_, hb⟩
  have hk : (getDom (clearWindow s t w) k).ctl = (getDom s k).ctl := by
    have hw := getDom_of_doms (s := modDom s t (winClosed w)) (u := clearWindow s t w) rfl k
    rw [hw, getDom_modDom]
    split_ifs with h
    · rw [h]
      rfl
    · rfl
  exact (congrArg Dom.ctl (getDom_of_doms hd k)).trans hk

theorem clearWindows_effect {s : State} (hc : ∀ o, coreLast s o = false) (t : Nat) : TenantSets s (clearWindows s t) ∧
    (∀ k, (getDom (clearWindows s t) k).ctl = (getDom s k).ctl) ∧ (clearWindows s t).buds = s.buds := by
  unfold clearWindows
  generalize List.range 16 = l
  induction l generalizing s with
  | nil => exact ⟨⟨⟨s.doms, s.buds, s.winHeld, s.ctlLast, rfl⟩, hc⟩, fun _ => rfl, rfl⟩
  | cons w r ih =>
    obtain ⟨h, hd, hb⟩ := clearWindow_effect hc (winRegOff t w) t w
    obtain ⟨h', hd', hb'⟩ := ih h.last
    exact ⟨h.trans h', fun k => (hd' k).trans (hd k), hb'.trans hb⟩

/-! ### What the budget block leaves (R289, R290, R296) -/

/-- Only accounts, notices and stamps change, and no ceiling. -/
structure BooksOnly (s u : State) : Prop where
  tables : ∃ ag bd nt, u = { s with agents := ag, buds := bd, notices := nt }
  ceil : ∀ k, ceilings (getBud u k) = ceilings (getBud s k)

theorem BooksOnly.refl (s : State) : BooksOnly s s := ⟨⟨s.agents, s.buds, s.notices, rfl⟩, fun _ => rfl⟩

theorem BooksOnly.trans {s t u : State} (h : BooksOnly s t) (k : BooksOnly t u) : BooksOnly s u := by
  obtain ⟨⟨_, _, _, rfl⟩, h⟩ := h
  obtain ⟨⟨_, _, _, rfl⟩, k⟩ := k
  exact ⟨⟨_, _, _, rfl⟩, fun m => (k m).trans (h m)⟩

theorem booksOnly_modBud (s : State) (t : Nat) {f : Bud → Bud} (hf : ∀ b, ceilings (f b) = ceilings b) : BooksOnly s (modBud s t f) := by
  refine ⟨⟨s.agents, _, s.notices, rfl⟩, fun k => ?_⟩
  rw [getBud_modBud]
  split_ifs with h
  · rw [hf, h]
  · rfl

theorem notify_booksOnly (s : State) (t r : Nat) (d : Bool) : BooksOnly s (notify s t r d) := ⟨⟨_, s.buds, _, rfl⟩, fun _ => rfl⟩

theorem release_booksOnly (s : State) (t r : Nat) : BooksOnly s (release s t r) := by
  refine (booksOnly_modBud s t ?_).trans (notify_booksOnly _ t r false)
  exact fun _ => rfl

theorem setBud_booksOnly (s : State) (t : Nat) {b : Bud} (h : ceilings b = ceilings (getBud s t)) : BooksOnly s (setBud s t b) := by
  refine ⟨⟨s.agents, _, s.notices, rfl⟩, fun k => ?_⟩
  rw [getBud_setBud]
  split_ifs with hk
  · rw [h, hk]
  · rfl

theorem setBalance_booksOnly (s : State) (t r : Nat) (v : Int) : BooksOnly s (setBalance s t r v) := setBud_booksOnly s t rfl

theorem refillOne_booksOnly (s : State) (t r : Nat) (c : Word64) : BooksOnly s (refillOne s t r c) := by
  unfold refillOne
  extract_lets b bit
  split
  · refine (setBud_booksOnly s t ?_).trans (release_booksOnly _ t r)
    rfl
  · rename_i debt v u _
    have hu : BooksOnly s u := by
      refine (setBud_booksOnly s t ?_).trans (setBalance_booksOnly _ t r v)
      rfl
    split
    · exact hu.trans (release_booksOnly u t r)
    · exact hu

theorem booksOnly_foldl {α : Type} {f : State → α → State} (hf : ∀ s a, BooksOnly s (f s a)) (l : List α) (s : State) : BooksOnly s (l.foldl f s) := by
  induction l generalizing s with
  | nil => exact .refl s
  | cons a r ih => exact (hf s a).trans (ih _)

theorem refillAll_booksOnly (s : State) (t : Nat) (cs : List Word64) : BooksOnly s (refillAll s t cs) := by
  refine booksOnly_foldl (fun s r => ?_) _ s
  split
  · exact refillOne_booksOnly ..
  · exact .refl s

/-! ### What boundaries leave (R288 to R292) -/

/-- What no boundary changes: memory, the domains, the Keystone but for its alerts, and the ceilings. -/
def beyondBooks (s : State) : List Host.Cell × Tbl Dom × Ks × (Nat → Word64 × Word64 × Word64 × Word64) :=
  (s.mem, s.doms, { s.ks with pending := 0 }, fun k => ceilings (getBud s k))

theorem BooksOnly.beyond {s u : State} (h : BooksOnly s u) : beyondBooks u = beyondBooks s := by
  obtain ⟨⟨_, _, _, rfl⟩, h⟩ := h
  exact congrArg (fun c => (s.mem, s.doms, { s.ks with pending := 0 }, c)) (funext h)

theorem beyond_of_aside {s u : State} (h : aside u = aside s) : beyondBooks u = beyondBooks s := (congrArg beyondBooks h :)

theorem applyRefill_beyond (s : State) (t : Nat) (ep : BitVec 8) (cs : List Word64) : beyondBooks (applyRefill s t ep cs) = beyondBooks s := by
  unfold applyRefill
  split_ifs
  · exact (refillAll_booksOnly s t cs).beyond
  · exact beyond_of_aside (aside_jrn ..)

theorem beyond_foldl {α : Type} {f : State → α → State} (hf : ∀ s a, beyondBooks (f s a) = beyondBooks s) (l : List α) (s : State) :
    beyondBooks (l.foldl f s) = beyondBooks s := by
  induction l generalizing s with
  | nil => rfl
  | cons a r ih => exact (ih _).trans (hf s a)

theorem boundaryRefills_beyond (s : State) (use : Bool) : beyondBooks (boundaryRefills s use) = beyondBooks s := by
  refine (beyond_foldl (fun s t => ?_) _ _).trans rfl
  split
  · exact applyRefill_beyond ..
  · exact (refillAll_booksOnly ..).beyond

theorem applyTargets_beyond (s : State) : beyondBooks (applyTargets s) = beyondBooks s := by
  refine (beyond_foldl (fun s c => beyond_of_aside (aside_seqEval s c)) _ _).trans (beyond_foldl (fun s c => ?_) _ _)
  split
  · rfl
  · rfl

/-- An account that has not run dry in the period. -/
def undried (_ : Nat) (b : Bud) : Bud := { b with dried := false }

theorem undried_ceilings (t : Tbl Bud) (k : Nat) :
    ceilings (tget (fun _ => {}) (tmapv (fun _ => {}) t undried) k) = ceilings (tget (fun _ => {}) t k) := by
  rw [tget_tmapv (f := undried) (fun _ => rfl) (fun _ _ => rfl)]
  rfl

theorem boundary_beyond (s : State) (b : Nat) : beyondBooks (boundary s b) = beyondBooks s := by
  unfold boundary
  extract_lets s1 s2 s3 s4 s5
  have h2 : beyondBooks s2 = beyondBooks s := by
    unfold s2
    split
    · rfl
    · rfl
  have h4 : beyondBooks s4 = beyondBooks s3 := congrArg (fun c => (s3.mem, s3.doms, { s3.ks with pending := 0 }, c)) (funext (undried_ceilings s3.buds))
  have h5 : beyondBooks s5 = beyondBooks s := h4.trans h2
  clear_value s5
  split
  · exact (boundaryRefills_beyond s5 false).trans h5
  · split
    · exact (applyTargets_beyond _).trans ((boundaryRefills_beyond s5 true).trans h5)
    · have h7 : beyondBooks (boundaryRefills s5 false) = beyondBooks s := (boundaryRefills_beyond s5 false).trans h5
      split
      · exact (beyond_of_aside (aside_jrn ..)).trans h7
      · exact h7

theorem syncSteps_beyond (k : Nat) (s : State) (t : Nat) : beyondBooks (syncSteps k s t) = beyondBooks s := by
  induction k generalizing s with
  | zero => rfl
  | succ k ih =>
    unfold syncSteps
    split
    · exact (ih _).trans (boundary_beyond ..)
    · rfl

/-- Before the next boundary none is applied. -/
theorem syncSteps_early {s : State} {t : Nat} (h : t < nextBoundary s) (k : Nat) : syncSteps k s t = s := by
  cases k with
  | zero => rfl
  | succ k => exact if_neg (by rw [decide_eq_false (Nat.not_le.2 h)]; simp)

/-- An account that opens (R291). -/
theorem openAccount_beyond (s : State) (t : Nat) : beyondBooks (openAccount s t) = beyondBooks s := by
  unfold openAccount
  extract_lets u b P left part e v
  have hu : beyondBooks u = beyondBooks s := syncSteps_beyond ..
  have hv : BooksOnly u v := setBud_booksOnly u t rfl
  exact (hv.trans (refillAll_booksOnly v t _)).beyond.trans hu

theorem openAccount_early {s : State} (h : s.plumb.now < nextBoundary s) (t : Nat) : BooksOnly s (openAccount s t) := by
  unfold openAccount
  extract_lets u b P left part e v
  have hu : u = s := syncSteps_early h _
  have hv : BooksOnly u v := setBud_booksOnly u t rfl
  rw [← hu]
  exact hv.trans (refillAll_booksOnly v t _)

/-! ### An opening (R60, R433) -/

/-- A domain's registers once it is open, its account not yet. -/
def domRegsOpen (s : State) (t : Nat) (l : List Byte) : State := clearWindows (domWrite s t l ((l.getD 3 0).getLsbD 0) true) t

/-- A domain that opens in the minute. -/
def domMarked (now : Nat) (d : Dom) : Dom := { d with mOpened := true, mPaused := false, lastBind := some now }

/-- A domain open, its account not yet. -/
def domNew (s : State) (t : Nat) (l : List Byte) : State := modDom (domRegsOpen s t l) t (domMarked (domRegsOpen s t l).plumb.now)

theorem domOpened_eq (s : State) (p : Packet) :
    ∃ b, domOpened s p = finish (openAccount (domNew s (le p.payload 0 2) p.payload) (le p.payload 0 2)) p 0 b := by
  unfold domOpened
  extract_lets t u v w x
  have hv : v = domRegsOpen s t p.payload := rfl
  have hw : w = modDom v t (domMarked v.plumb.now) := rfl
  have hx : x = openAccount w t := rfl
  rw [hv] at hw
  rw [hw] at hx
  change x = openAccount (domNew s t p.payload) t at hx
  rw [← hx]
  exact ⟨_, rfl⟩

theorem b2n_odd (b : Bool) : decide (b2n b % 2 = 1) = b := by
  cases b <;> rfl

theorem domCtl_opens (l : List Byte) (rt : Bool) (w : Word64) :
    (domCtl l rt true w).getLsbD 63 = true ∧ (domCtl l rt true w).getLsbD 61 = false ∧ (domCtl l rt true w).getLsbD 62 = rt ∧
    (domCtl l rt true w).extractLsb' 40 8 = w.extractLsb' 40 8 + 1 := by
  refine ⟨?_, ?_, ?_, BitVec.eq_of_toNat_eq ?_⟩
  · simp [-BitVec.getLsbD_eq_getElem, domCtl, openedCtl, getLsbD_fldSet]
  · simp [-BitVec.getLsbD_eq_getElem, domCtl, openedCtl, getLsbD_fldSet]
  · simp [-BitVec.getLsbD_eq_getElem, domCtl, openedCtl, getLsbD_fldSet, b2n_odd]
  · rw [BitVec.toNat_add]
    unfold domCtl openedCtl
    refine (fld_fldSet_same _ _ (by decide)).trans ((Nat.mod_mod _ _).trans ?_)
    rw [fld_fldSet_ne _ _ (by decide), fld_fldSet_ne _ _ (by decide)]
    rfl

theorem domCtl_keeps (l : List Byte) (rt : Bool) (w : Word64) :
    (domCtl l rt false w).getLsbD 63 = w.getLsbD 63 ∧ (domCtl l rt false w).getLsbD 62 = rt := by
  constructor
  · simp [-BitVec.getLsbD_eq_getElem, domCtl, getLsbD_fldSet]
  · simp [-BitVec.getLsbD_eq_getElem, domCtl, getLsbD_fldSet, b2n_odd]
section
variable {s : State} (hc : ∀ o, coreLast s o = false) (t : Nat) (l : List Byte)
include hc

theorem domRegsOpen_effect : (∃ ds bd wh cl, domRegsOpen s t l = { s with doms := ds, buds := bd, winHeld := wh, ctlLast := cl }) ∧
    (getDom (domRegsOpen s t l) t).ctl = domCtl l ((l.getD 3 0).getLsbD 0) true (getDom s t).ctl ∧
    ceilings (getBud (domRegsOpen s t l) t) = ceilingsOf l := by
  obtain ⟨h, hd, hb⟩ := domWrite_effect hc t l ((l.getD 3 0).getLsbD 0) true
  obtain ⟨h', hd', hb'⟩ := clearWindows_effect h.last t
  exact ⟨(h.trans h').tables, (hd' t).trans hd, (congrArg ceilings (getBud_of_buds hb' t)).trans hb⟩

theorem domNew_effect : (∃ ds bd wh cl, domNew s t l = { s with doms := ds, buds := bd, winHeld := wh, ctlLast := cl }) ∧
    (getDom (domNew s t l) t).ctl = domCtl l ((l.getD 3 0).getLsbD 0) true (getDom s t).ctl ∧ ceilings (getBud (domNew s t l) t) = ceilingsOf l := by
  obtain ⟨ht, hd, hb⟩ := domRegsOpen_effect hc t l
  unfold domNew
  generalize domRegsOpen s t l = u at ht hd hb
  refine ⟨?_, (congrArg Dom.ctl ((getDom_modDom ..).trans (if_pos rfl))).trans hd, hb⟩
  obtain ⟨_, _, _, _, e⟩ := ht
  rw [e]
  exact ⟨_, _, _, _, rfl⟩

/-- An opening changes no byte of DRAM, and of the Keystone only its alerts; the domain is open, its ceilings are those given, and before
the next boundary no core changes (R60, R291, R433). -/
theorem opening_effect {u : State} (hu : u = openAccount (domNew s t l) t) : u.mem = s.mem ∧ { u.ks with pending := 0 } = { s.ks with pending := 0 } ∧
    (getDom u t).ctl = domCtl l ((l.getD 3 0).getLsbD 0) true (getDom s t).ctl ∧ ceilings (getBud u t) = ceilingsOf l ∧
    (s.plumb.now < nextBoundary s → u.cores = s.cores) := by
  obtain ⟨⟨ds, bd, wh, cl, e⟩, hd, hb⟩ := domNew_effect hc t l
  have h : beyondBooks (openAccount (domNew s t l) t) = beyondBooks (domNew s t l) := openAccount_beyond _ t
  have ho : s.plumb.now < nextBoundary s → BooksOnly (domNew s t l) (openAccount (domNew s t l) t) := fun he => openAccount_early (by rw [e]; exact he) t
  rw [← hu] at h ho
  generalize domNew s t l = v at e hd hb h ho
  clear hu
  have hm : u.mem = v.mem := congrArg Prod.fst h
  have hdm : u.doms = v.doms := congrArg (fun x => x.2.1) h
  have hk : { u.ks with pending := 0 } = { v.ks with pending := 0 } := congrArg (fun x => x.2.2.1) h
  have hcl : ceilings (getBud u t) = ceilings (getBud v t) := congrArg (fun x => x.2.2.2 t) h
  refine ⟨hm.trans (by rw [e]), hk.trans (by rw [e]), ?_, hcl.trans hb, fun he => ?_⟩
  · exact (congrArg Dom.ctl (getDom_of_doms hdm t)).trans hd
  · obtain ⟨⟨_, _, _, ho⟩, -⟩ := ho he
    rw [ho, e]

end

/-! ### What the Keystone's own answers leave (R412, R413, R417) -/

/-- The state without the paths' packets and replies, alerts and stamps. -/
def offPaths (s : State) : State :=
  { s with agents := [], jrn := { s.jrn with qDrop := 0 }, ks := { s.ks with serial := {}, mailbox := {}, queue := [], mbReply := [], pending := 0 } }

theorem offPaths_jrn (s : State) (a c : Nat) (t : Tdid) (b : List Byte) : offPaths (jrn s a c t b) = offPaths s := by
  obtain ⟨_, _, e⟩ := jrn_eq s a c t b
  rw [e]
  rfl

theorem offPaths_queue (s : State) (q : List Packet) : offPaths { s with ks := { s.ks with queue := q } } = offPaths s := rfl

theorem offPaths_setPath (s : State) (p : KPath) (x : PathSt) : offPaths (setPath s p x) = offPaths s := by
  obtain ⟨_, _, e, -⟩ := setPath_eq s p x
  rw [e]
  rfl

theorem offPaths_replyReady (s : State) (p : KPath) (r : List Byte) : offPaths (replyReady s p r) = offPaths s := by
  obtain ⟨_, _, _, _, e, -⟩ := replyReady_eq s p r
  rw [e]
  rfl

theorem offPaths_ksCmdRecord (s : State) (p : Packet) (st : Nat) : offPaths (ksCmdRecord s p st) = offPaths s := offPaths_jrn ..

theorem offPaths_rxErr (s : State) (p : KPath) (k : Nat) : offPaths (rxErr s p k) = offPaths s := offPaths_jrn ..

theorem offPaths_autoAnswer (k : Nat) (s : State) : offPaths (autoAnswer k s) = offPaths s := by
  induction k generalizing s with
  | zero => rfl
  | succ k ih =>
    unfold autoAnswer
    grind [offPaths_queue, offPaths_setPath, offPaths_replyReady, offPaths_ksCmdRecord, offPaths_rxErr]

theorem offPaths_ksGoOn (s : State) : offPaths (ksGoOn s) = offPaths s := offPaths_autoAnswer 4 s

/-- What an answer leaves of the state in which it is given. -/
theorem finish_offPaths (s : State) (p : Packet) (st : Nat) (b : List Byte) :
    offPaths (finish s p st b) = offPaths { s with ks := { s.ks with running := false } } := by
  obtain ⟨ag, q, sr, mb, mr, pe, e, -⟩ := finish_eq s p st b
  rw [e, offPaths_ksGoOn]
  rfl

/-- A held opening that need wait no longer is made (R76). -/
theorem account_goesOn {s : State} {t : BitVec 12} {p : Packet} (hp : s.ks.heldOpen = some p) (ht : le p.payload 0 2 = t.toNat)
    (ha : accountHeld s t.toNat = false) (hc : ∀ o, coreLast s o = false)
    (hr : (p.payload.getD 3 0).getLsbD 0 = true → rtOthers s t.toNat < 12) : ∃ u, exec (.rebindDelayExpiry (.account t)) s = .next u ∧
      (∀ a, memRead u a = memRead s a) ∧ domValid u t.toNat = true ∧ domAcct u t.toNat = domAcct s t.toNat + 1 ∧ u.ks.heldOpen = none := by
  have hx : exec (.rebindDelayExpiry (.account t)) s = .next (domOpened { s with ks := { s.ks with heldOpen := none } } p) := by
    change execRebindDelayExpiry (.account t) s = _
    unfold execRebindDelayExpiry
    dsimp only
    rw [hp]
    refine (if_pos (by rw [ha, ht]; simp)).trans (congrArg _ (if_neg ?_))
    rw [Bool.and_eq_true, decide_eq_true_eq]
    exact fun h => absurd (hr h.1) (Nat.not_lt.2 h.2)
  obtain ⟨b, e⟩ := domOpened_eq { s with ks := { s.ks with heldOpen := none } } p
  generalize hu : openAccount (domNew _ _ _) _ = u at e
  obtain ⟨hm, hk, hd, -, -⟩ := opening_effect (s := { s with ks := { s.ks with heldOpen := none } }) hc _ p.payload hu.symm
  have hf := finish_offPaths u p 0 b
  rw [← e] at hf
  refine ⟨_, hx, ?_⟩
  generalize domOpened { s with ks := { s.ks with heldOpen := none } } p = v at hf
  have hvm : v.mem = u.mem := (congrArg State.mem hf :)
  have hvd : v.doms = u.doms := (congrArg State.doms hf :)
  have hvk : v.ks.heldOpen = u.ks.heldOpen := (congrArg (fun s => s.ks.heldOpen) hf :)
  rw [ht] at hd
  obtain ⟨h63, -, -, hac⟩ := domCtl_opens p.payload ((p.payload.getD 3 0).getLsbD 0) (getDom s t.toNat).ctl
  have hct : (getDom v t.toNat).ctl = _ := (congrArg Dom.ctl (getDom_of_doms hvd _)).trans hd
  refine ⟨fun a => memRead_congr (hvm.trans hm) a, ?_, ?_, hvk.trans (congrArg Ks.heldOpen hk :)⟩
  · unfold domValid
    rw [hct]
    exact h63
  · unfold domAcct
    rw [hct]
    exact hac

end Sys2Proof.Tenant
end

section
/-! PROOF. Function contexts bind, resume and invalidate; the rebinding delay ends (R76, R390, R391, R396, R398). -/
namespace Sys2Proof.Tenant
open Sys2Proof Sys2Proof.Machine Sys2Proof.Timing


/-- Settles O48: a store that reaches its context or IOINV is performed as `ctx_taken`, `ctx_refused`, `ctx_held` and `ioinv_starts` say, and
what waited for the rebinding delay goes on. -/
theorem contextsBindAndWait : Obligations.ContextsBindAndWait := by
  refine ⟨fun st k s => ⟨fun h hk hb hg hr => ctxBind_taken h hk hb hg (ctxRefuses_eq_false hr), fun h hk hb hg hr => ctxBind_refused h hk hb hg
    (ctxRefuses_eq_true hr), fun h hk hb hg => ctxBind_held h hk hb hg, fun h hk hb hg hr => ctxResume_taken h hk hb hg (ctxRefuses_eq_false hr),
    fun h hb => ⟨ioinv_starts rfl h hb, ioinv_waits rfl h hb⟩, fun h hb => ⟨ioinv_starts rfl h hb, ioinv_waits rfl h hb⟩,
    fun h hb => ⟨ioinv_starts rfl h hb, ioinv_waits rfl h hb⟩, fun h hb => ⟨ioinv_starts rfl h hb, ioinv_waits rfl h hb⟩,
    ioinvDone_ends, ioinvDone_waits⟩, fun n k t c s => ⟨core_goesOn, core_tooSoon, fun st r h hw => context_waits h hw,
    fun st h hw => context_goesOn h hw, fun st r h hw => channel_waits h hw, fun st h hw => channel_goesOn h hw, account_waits,
    fun p hp ht ha _ hc hr => ?_⟩⟩
  obtain ⟨u, he, hm, hv, ha', ho⟩ := account_goesOn hp ht ha hc hr
  exact ⟨u, he, hm, hv, ha', ho⟩

end Sys2Proof.Tenant
end

section
/-! SUPPORT. What an agent's death leaves, and the alerts that an answer leaves set (R277, R281, R399, R439, R466, R471). -/
namespace Sys2Proof.Tenant
open Sys2Proof Sys2Proof.Machine Sys2Proof.Timing

/-- Memory, the dead agents, the packets that wait and the alerts: what the loss of a course or of a port does not change. -/
def fate (s : State) : List Host.Cell × Word64 × List Packet × BitVec 32 := (s.mem, s.cohDead, s.ks.queue, s.ks.pending)

theorem fate_of_aside {s u : State} (h : aside u = aside s) : fate u = fate s := (congrArg fate h :)

theorem fate_foldl {α : Type} {f : State → α → State} {l : List α} (hf : ∀ s, ∀ a ∈ l, fate (f s a) = fate s) (s : State) : fate (l.foldl f s) = fate s := by
  induction l generalizing s with
  | nil => rfl
  | cons a r ih => exact (ih (fun s x hx => hf s x (List.mem_cons_of_mem a hx)) _).trans (hf s a List.mem_cons_self)

theorem jrn_fate (s : State) (a c : Nat) (d : Tdid) (l : List Byte) : fate (jrn s a c d l) = fate s := fate_of_aside (aside_jrn ..)

/-- A rotation that no packet waits for fails (R463). -/
theorem rotFail_fate (s : State) {r : Rotation} (h : r.packet = none) : fate (rotFail s r) = fate s := by
  unfold rotFail
  extract_lets ks s1 s2
  have h2 : fate s2 = fate s1 := jrn_fate ..
  have h1 : fate s1 = fate s := rfl
  rw [h]
  exact h2.trans h1

theorem setPhys_fate (s : State) (p : Nat) (x : PhysCore) : fate (setPhys s p x) = fate s := rfl

theorem setVote_fate (s : State) (d b : Nat) (v : Bool) : fate (setVote s d b v) = fate s := rfl

theorem setPd_fate (s : State) (d k : Nat) : fate (setPd s d k) = fate s := rfl

theorem modCourse_fate (s : State) (c : Nat) (f : Course → Course) : fate (modCourse s c f) = fate s := rfl

theorem courseLost_fate {s : State} (h : ∀ r ∈ s.ks.rots, r.packet = none) (c : Nat) : fate (courseLost s c) = fate s := by
  unfold courseLost
  extract_lets ns s1 s2 s3
  have h1 : fate s1 = fate s := fate_foldl (fun t r hr => rotFail_fate t (h r (List.mem_filter.1 hr).1)) s
  have h2 : fate s2 = fate s1 := fate_foldl (fun t n _ => (fate_of_aside (aside_setCore ..)).trans (fate_of_aside (aside_dropResv t n))) s1
  have h3 : fate s3 = fate s2 := fate_foldl (fun t p _ => (setPd_fate ..).trans ((setVote_fate ..).trans ((setVote_fate ..).trans (setPhys_fate t p _)))) s2
  exact (modCourse_fate s3 c _).trans (h3.trans (h2.trans h1))

theorem haltCtx_fate (s : State) (k c : Nat) : fate (haltCtx s k c) = fate s := by
  unfold haltCtx
  extract_lets x s1
  have h1 : fate s1 = fate s := rfl
  split
  · rfl
  · exact (jrn_fate ..).trans h1

theorem portLost_fate (s : State) (p : Nat) : fate (portLost s p) = fate s := by
  unfold portLost
  extract_lets s1 s2 w s3 s4
  have h1 : aside s1 = aside s := aside_endOutst ..
  have h2 : aside s2 = aside s1 := aside_foldl (fun s g => aside_dropResv s _) _ s1
  have h4 : aside s4 = aside s3 := aside_foldl (fun s r => aside_unreached s r false) _ s3
  have h5 : fate (haltPort s4 p (fun _ => true)) = fate s4 := fate_foldl (fun s e _ => by
    split
    · exact haltCtx_fate s e.1 3
    · rfl) s4
  exact h5.trans (fate_of_aside (h4.trans (h2.trans h1)))

/-- An alert that is set stays set. -/
theorem alert_keeps (s : State) (b : Nat) {i : Nat} (h : s.ks.pending.getLsbD i = true) : (alert s b).ks.pending.getLsbD i = true := by
  unfold alert
  dsimp only
  rw [BitVec.getLsbD_or, h, Bool.true_or]

theorem setDev_keeps (s : State) (d : DevState) (c : Nat) {i : Nat} (h : s.ks.pending.getLsbD i = true) : (setDev s d c).ks.pending.getLsbD i = true := by
  unfold setDev
  split
  · exact h
  · refine alert_keeps _ 1 ?_
    obtain ⟨_, _, e⟩ := jrn_eq s agKs 0x71 0 (bytesOf 1 (devCode s.ks.st) ++ bytesOf 1 (devCode d) ++ bytesOf 1 c)
    dsimp only
    rw [e]
    exact h

/-- What follows a change of the faults: memory, the dead agents and the packets that wait are as they were, and no alert is cleared. -/
structure Alerted (s u : State) : Prop where
  mem : u.mem = s.mem
  dead : u.cohDead = s.cohDead
  queue : u.ks.queue = s.ks.queue
  alerts : ∀ i, s.ks.pending.getLsbD i = true → u.ks.pending.getLsbD i = true

theorem Alerted.trans {s t u : State} (h : Alerted s t) (k : Alerted t u) : Alerted s u :=
  ⟨k.mem.trans h.mem, k.dead.trans h.dead, k.queue.trans h.queue, fun i hi => k.alerts i (h.alerts i hi)⟩

theorem alerted_of_fate {s u : State} (h : fate u = fate s) : Alerted s u :=
  ⟨congrArg Prod.fst h, congrArg (fun x => x.2.1) h, congrArg (fun x => x.2.2.1) h, fun i hi => (congrArg (fun x => x.2.2.2.getLsbD i) h).trans hi⟩

theorem setDev_alerted (s : State) (d : DevState) (c : Nat) : Alerted s (setDev s d c) := by
  have h := fun i => setDev_keeps s d c (i := i)
  obtain ⟨_, _, _, e⟩ := setDev_eq s d c
  rw [e] at h ⊢
  exact ⟨rfl, rfl, rfl, h⟩

theorem syncFault_alerted (s : State) : Alerted s (syncFault s) := by
  unfold syncFault
  extract_lets now was s1 s2
  have h1 : fate s1 = fate s := fate_foldl (fun s b _ => by
    split
    · exact fate_of_aside (aside_jrn ..)
    · rfl) s
  have h2 : Alerted s s2 := alerted_of_fate h1
  split
  · exact h2.trans (setDev_alerted ..)
  · split
    · exact h2.trans (setDev_alerted ..)
    · exact h2

theorem alert_alerted (s : State) (b : Nat) : Alerted s (alert s b) := ⟨rfl, rfl, rfl, fun _ => alert_keeps s b⟩

theorem setPath_fate (s : State) (p : KPath) (x : PathSt) : fate (setPath s p x) = fate s := by
  obtain ⟨_, _, e, -⟩ := setPath_eq s p x
  rw [e]
  rfl

theorem replyReady_alerted (s : State) (p : KPath) (r : List Byte) : Alerted s (replyReady s p r) := by
  have h := alerted_of_fate (setPath_fate s p { pathOf s p with reply := some r, busy := false })
  cases p
  · exact h.trans (alert_alerted _ 0)
  · exact h.trans (alerted_of_fate rfl)

/-- A packet's answer: the state that has it, from which the Keystone goes on; the alerts that were set stay set. -/
theorem finish_alerted (s : State) (p : Packet) (st : Nat) (b : List Byte) : ∃ u, finish s p st b = ksGoOn u ∧ u.ks.running = false ∧
    (pathOf u p.path).reply = some (replyBytes u p st b) ∧ Alerted s u := by
  unfold finish
  extract_lets rep s1 _ s2 s3
  have h1 : aside s1 = aside s := by
    by_cases hq : isQuery p.opcode.toNat = true
    · exact congrArg aside (if_pos hq)
    · exact (congrArg aside (if_neg hq)).trans (aside_jrn ..)
  have hb : ∀ {u t : State}, u.ks.st = t.ks.st → u.ks.phase = t.ks.phase → replyBytes u p st b = replyBytes t p st b := fun {u t} e1 e2 => by
    unfold replyBytes phaseCode
    rw [e1, e2]
  obtain ⟨_, _, h2, -⟩ := setPath_eq s1 p.path { pathOf s1 p.path with last := some (p.seq, p.crc, rep) }
  obtain ⟨_, _, _, _, h3, hr⟩ := replyReady_eq s2 p.path rep
  have h2s : fate s2 = fate s1 := setPath_fate ..
  have h3s : Alerted s2 s3 := replyReady_alerted ..
  change s2 = _ at h2
  change s3 = _ at h3
  change (pathOf s3 p.path).reply = some rep at hr
  clear_value s3 s2 s1
  have hk : s1.ks = s.ks := (congrArg State.ks h1 :)
  have e2 : s2.ks.st = s1.ks.st ∧ s2.ks.phase = s1.ks.phase := by
    rw [h2]
    exact ⟨rfl, rfl⟩
  have e3 : s3.ks.st = s2.ks.st ∧ s3.ks.phase = s2.ks.phase := by
    rw [h3]
    exact ⟨rfl, rfl⟩
  have h4 : Alerted s3 { s3 with ks := { s3.ks with running := false } } := alerted_of_fate rfl
  refine ⟨_, rfl, rfl, hr.trans (congrArg some ((hb ?_ ?_).symm.trans rfl)), ((alerted_of_fate (h2s.trans (fate_of_aside h1))).trans h3s).trans h4⟩
  · exact e3.1.trans (e2.1.trans (congrArg Ks.st hk))
  · exact e3.2.trans (e2.2.trans (congrArg Ks.phase hk))

theorem alert_rots (s : State) (b : Nat) : (alert s b).ks.rots = s.ks.rots := rfl

theorem jrn_ks (s : State) (a c : Nat) (d : Tdid) (l : List Byte) : (jrn s a c d l).ks = s.ks :=
  (congrArg State.ks (aside_jrn s a c d l) :)

theorem operationDone_alerted (s : State) (p : Packet) (st : Nat) : Alerted s (operationDone s p st) ∧ (operationDone s p st).ks.rots = s.ks.rots := by
  unfold operationDone
  have hr : (ksCmdRecord s p st).ks = s.ks := jrn_ks ..
  have hf : fate (ksCmdRecord s p st) = fate s := jrn_fate ..
  generalize ksCmdRecord s p st = u at hr hf ⊢
  exact ⟨(alerted_of_fate hf).trans (alert_alerted u 2), (alert_rots u 2).trans (congrArg Ks.rots hr)⟩

/-- The return of an agent declared dead again is abandoned (R437). -/
theorem abandonReturn_alerted (s : State) (a : Nat) : Alerted s (abandonReturn s a) ∧ (abandonReturn s a).ks.rots = s.ks.rots := by
  unfold abandonReturn
  split
  · exact ⟨alerted_of_fate rfl, rfl⟩
  · next p _ =>
    extract_lets ks s1 s2
    have hr : s2.ks = s1.ks := jrn_ks ..
    have hf : fate s2 = fate s := (jrn_fate ..).trans rfl
    obtain ⟨h, k⟩ := operationDone_alerted s2 p 0x0D
    exact ⟨(alerted_of_fate hf).trans h, k.trans ((congrArg Ks.rots hr).trans rfl)⟩

/-- The bit of COH_DEAD for an agent (R281). -/
def deadBit (a : Nat) : Nat := if a < 32 then a else a - 48

theorem isDead_eq (s : State) (a : Nat) : isDead s a = s.cohDead.getLsbD (deadBit a) := by
  unfold isDead deadBit
  split <;> rfl

theorem deadBit_lt {a : Nat} (h : deadable a = true) : deadBit a < 64 := by
  unfold deadable at h
  unfold deadBit
  simp only [Bool.or_eq_true, Bool.and_eq_true, decide_eq_true_iff] at h
  split <;> omega

/-- Agent `a` marked dead, with its record and alert 7 (R281). -/
def deathNoted (s : State) (a r : Nat) : State :=
  alert (jrn { s with cohDead := s.cohDead ||| BitVec.ofNat 64 (2 ^ deadBit a) } agKs 0x23 0 (bytesOf 1 a ++ bytesOf 1 r)) 7

theorem declareDead_eq {s : State} {a : Nat} (hi : isDead s a = false) (r : Nat) : declareDead s a (some r) =
    syncFault (if a < 32 then courseLost (deathNoted (abandonReturn s a) a r) a else portLost (deathNoted (abandonReturn s a) a r) (a - 80)) := by
  rw [isDead_eq] at hi
  unfold declareDead
  refine if_neg ?_
  rw [show (s.cohDead.getLsbD (if a < 32 then a else a - 48)) = false from hi, Bool.false_and]
  exact Bool.false_ne_true

/-- An agent's death (R281, R466): its course or its port is lost, the packets that wait stay, and alert 7 is set. -/
theorem declareDead_effect {s : State} {a : Nat} (hd : deadable a = true) (hi : isDead s a = false) (hp : ∀ r ∈ s.ks.rots, r.packet = none) (r : Nat) :
    (declareDead s a (some r)).mem = s.mem ∧ isDead (declareDead s a (some r)) a = true ∧ (declareDead s a (some r)).ks.queue = s.ks.queue ∧
    (declareDead s a (some r)).ks.pending.getLsbD 7 = true := by
  obtain ⟨⟨am, -, aq, -⟩, ar⟩ := abandonReturn_alerted s a
  rw [declareDead_eq hi r]
  generalize abandonReturn s a = v at am aq ar ⊢
  have hj : aside (jrn { v with cohDead := v.cohDead ||| BitVec.ofNat 64 (2 ^ deadBit a) } agKs 0x23 0 (bytesOf 1 a ++ bytesOf 1 r)) =
    aside { v with cohDead := v.cohDead ||| BitVec.ofNat 64 (2 ^ deadBit a) } := aside_jrn ..
  have h7 : (deathNoted v a r).ks.pending.getLsbD 7 = true := alert_pending _ (by decide)
  have hm : (deathNoted v a r).mem = v.mem := (congrArg State.mem hj :)
  have hq : (deathNoted v a r).ks.queue = v.ks.queue := (congrArg (fun t => t.ks.queue) hj :)
  have hr : (deathNoted v a r).ks.rots = v.ks.rots := (congrArg (fun t => t.ks.rots) hj :)
  have hc : (deathNoted v a r).cohDead = v.cohDead ||| BitVec.ofNat 64 (2 ^ deadBit a) := (congrArg State.cohDead hj :)
  generalize deathNoted v a r = w at h7 hm hq hr hc ⊢
  have hw : Alerted w (if a < 32 then courseLost w a else portLost w (a - 80)) := by
    split
    · exact alerted_of_fate (courseLost_fate (by rw [hr, ar]; exact hp) a)
    · exact alerted_of_fate (portLost_fate w (a - 80))
  obtain ⟨bm, bd, bq, ba⟩ := hw.trans (syncFault_alerted _)
  refine ⟨bm.trans (hm.trans am), ?_, bq.trans (hq.trans aq), ba 7 h7⟩
  rw [isDead_eq, bd, hc, BitVec.getLsbD_or, BitVec.getLsbD_ofNat, Nat.testBit_two_pow_self, decide_eq_true (deadBit_lt hd)]
  exact Bool.or_true _

end Sys2Proof.Tenant
end

section
/-! PROOF. The Keystone opens and closes domains, declares agents and marks devices (R60, R373, R379, R433, R436, R437). -/
namespace Sys2Proof.Tenant
open Sys2Proof Sys2Proof.Machine Sys2Proof.Timing

theorem illegal_served {s : State} (h : devServes s) {g : Legal} (hs : g.s = true) : illegal s g = none := by
  unfold illegal
  rcases h with h | h <;> rw [h] <;> dsimp only <;> rw [hs] <;> rfl

theorem taken_regsKept (s : State) : RegsKept s (taken s) := regsKept_of_tables rfl rfl

theorem TenantSets.regsKept {s u : State} (h : TenantSets s u) : RegsKept s u := by
  obtain ⟨⟨_, _, _, _, rfl⟩, -⟩ := h
  exact regsKept_of_tables rfl rfl

theorem TenantSets.queue {s u : State} (h : TenantSets s u) : u.ks.queue = s.ks.queue := by
  obtain ⟨⟨_, _, _, _, rfl⟩, -⟩ := h
  rfl

theorem ceilings_eq {b : Bud} {l : List Byte} (h : ceilings b = ceilingsOf l) : b.c0 = BitVec.ofNat 64 (le l 4 8) ∧ b.c1 = BitVec.ofNat 64 (le l 12 8) ∧
    b.c2 = BitVec.ofNat 64 (le l 20 8) ∧ b.c3 = BitVec.ofNat 64 (le l 28 8) :=
  ⟨congrArg (·.1) h, congrArg (·.2.1) h, congrArg (·.2.2.1) h, congrArg (·.2.2.2) h⟩

theorem powerOn_eq (s : State) (d : Nat) : ∃ ag q vs os, powerOn s d = { s with agents := ag, jrn := { s.jrn with qDrop := q }, votes := vs, offStep := os } := by
  unfold powerOn
  split_ifs
  · exact ⟨s.agents, s.jrn.qDrop, s.votes, s.offStep, rfl⟩
  · unfold pdRecord
    split_ifs
    · exact ⟨s.agents, s.jrn.qDrop, _, _, rfl⟩
    · obtain ⟨ag, q, e⟩ := jrn_eq (setPd s d 2) agKs 0x78 0 (bytesOf 2 d ++ bytesOf 1 2 ++ bytesOf 1 0)
      exact ⟨ag, q, _, _, e⟩

/-- A channel whose sparing enters state `k` (R379). -/
def spareAs (k : Nat) (x : Mc) : Mc := { x with spare := fldSet (fldSet x.spare 57 3 k) 0 32 0, spareAt := 0 }

theorem setSpare_eq (s : State) (m k : Nat) : ∃ ag q, setSpare s m k = { modMc s m (spareAs k) with agents := ag, jrn := { s.jrn with qDrop := q } } := by
  obtain ⟨ag, q, e⟩ := jrn_eq (modMc s m (spareAs k)) (64 + m) 0x54 0 (bytesOf 1 m ++ bytesOf 1 (fld (getMc (modMc s m (spareAs k)) m).spare 48 5) ++
    bytesOf 1 (fld (getMc (modMc s m (spareAs k)) m).spare 40 5) ++ bytesOf 1 k)
  exact ⟨ag, q, e⟩

theorem spareState_spareAs (k : Nat) (x : Mc) : spareState (spareAs k x) = k % 8 := by
  unfold spareState spareAs
  exact (fld_fldSet_ne _ _ (by decide)).trans (fld_fldSet_same _ _ (by decide))

theorem spareAs_src (k : Nat) (x : Mc) : fld (spareAs k x).spare 48 5 = fld x.spare 48 5 := by
  unfold spareAs
  exact (fld_fldSet_ne _ _ (by decide)).trans (fld_fldSet_ne _ _ (by decide))

theorem getMc_modMc (s : State) (m k : Nat) (f : Mc → Mc) : getMc (modMc s m f) k = if k = m then f (getMc s m) else getMc s k := getMc_setMc ..

/-- SPARE with the source, the copy's bandwidth and the spare of a sparing that starts (R437). -/
def spareFields (src bw : Nat) (x : Mc) : Mc := { x with spare := fldSet (fldSet (fldSet x.spare 48 5 src) 32 8 bw) 40 5 (fld x.cfg 17 5) }

theorem spareFields_src {src : Nat} (h : src < 32) (bw : Nat) (x : Mc) : fld (spareFields src bw x).spare 48 5 = src := by
  unfold spareFields
  exact (fld_fldSet_ne _ _ (by decide)).trans ((fld_fldSet_ne _ _ (by decide)).trans ((fld_fldSet_same _ _ (by decide)).trans (Nat.mod_eq_of_lt h)))

theorem logicalRank_lt {x : Mc} {r : Nat} (h : (logicalRank x r).isSome = true) : r < 16 := by
  obtain ⟨lr, e⟩ := Option.isSome_iff_exists.1 h
  have he : physRank x lr = r := beq_iff_eq.1 (List.find?_some e :)
  rw [← he]
  exact (x.rankmap.extractLsb' _ 4).isLt

/-- A sparing of channel `m` starts, and its packet waits for the end (R437). -/
def spareBegun (s : State) (m src bw : Nat) (p : Packet) : State :=
  { modMc s m (spareFields src bw) with ks := { s.ks with spares := s.ks.spares ++ [(BitVec.ofNat 4 m, p)] } }

/-- A channel with a device of a rank marked, or with none (R373). -/
def marked (r sc : Nat) (d : Option Nat) (x : Mc) : Mc :=
  { x with rank := tset (fun _ => 0) x.rank r (fldSet (tget (fun _ => 0) x.rank r) (8 * sc) 8 (match d with | some k => 128 + k | none => 0)) }

/-- A channel whose mark has been journaled (R373). -/
def markJournaled (x : Mc) : Mc := { x with status := x.status ||| 16 }

theorem markRecord_eq (s : State) (ch r sc d cause : Nat) :
    ∃ ag q, markRecord s ch r sc d cause = { modMc s ch markJournaled with agents := ag, jrn := { s.jrn with qDrop := q } } := by
  obtain ⟨ag, q, e⟩ := jrn_eq (modMc s ch markJournaled) (64 + ch) 0x51 0 (bytesOf 1 ch ++ bytesOf 1 r ++ bytesOf 1 sc ++ bytesOf 1 d ++ bytesOf 1 cause)
  exact ⟨ag, q, e⟩

/-- The low bits of a field written. -/
theorem fld_fldSet_low (x : Word64) {lo n m : Nat} (v : Nat) (h : lo + n ≤ 64) (hm : m ≤ n) : fld (fldSet x lo n v) lo m = v % 2 ^ m := by
  refine Nat.eq_of_testBit_eq fun i => ?_
  rw [testBit_fld, Nat.testBit_mod_two_pow]
  by_cases hi : i < m
  · rw [getLsbD_fldSet _ _ _ _ _ (by omega), if_pos ⟨by omega, by omega⟩, Nat.add_sub_cancel_left]
  · rw [decide_eq_false hi, Bool.false_and, Bool.false_and]

/-- The entry of a mark: bit 7, and the device (R373). -/
def markBits : Option Nat → Nat
  | some k => 128 + k
  | none => 0

theorem markOf_marked (r : Nat) {sc : Nat} (d : Option Nat) (x : Mc) (h : sc ≤ 1) :
    markOf (marked r sc d x) r sc = if (markBits d).testBit 7 then some (markBits d % 2 ^ 4) else none := by
  have hw : tget (fun _ => 0) (marked r sc d x).rank r = fldSet (tget (fun _ => 0) x.rank r) (8 * sc) 8 (markBits d) :=
    (tget_tset ..).trans ((if_pos rfl).trans (by cases d <;> rfl))
  have hb : (fldSet (tget (fun _ => 0) x.rank r) (8 * sc) 8 (markBits d)).getLsbD (7 + 8 * sc) = (markBits d).testBit 7 := by
    rw [getLsbD_fldSet _ _ _ _ _ (by omega), if_pos (by omega), Nat.add_sub_cancel]
  unfold markOf
  rw [hw]
  dsimp only
  rw [hb, fld_fldSet_low _ _ (by omega) (by decide)]

theorem markOf_marked_some (r : Nat) {sc d : Nat} (x : Mc) (h : sc ≤ 1) (hd : d ≤ 9) : markOf (marked r sc (some d) x) r sc = some d := by
  rw [markOf_marked r _ x h]
  unfold markBits
  interval_cases d <;> rfl

theorem markOf_marked_none (r : Nat) {sc : Nat} (x : Mc) (h : sc ≤ 1) : markOf (marked r sc none x) r sc = none := markOf_marked r none x h

section
variable {p : Packet} {s : State} (h : atFront s p = true) (hc : ∀ o, coreLast s o = false) (hs : devServes s)
include h hs

/-! ### Domains (R60, R76, R433) -/

/-- A DOM_OPEN with good parameters of a domain that is not open, whose close has been sealed, comes to its account's delay (R76). -/
theorem domOpen_run (ho : p.opcode.toNat = 0x301) (hn : p.payload.length = 40) (hp : domParam p.payload = none)
    (hv : domValid s (le p.payload 0 2) = false) (hu : unsealedClose s (le p.payload 0 2) = none)
    (hr : (p.payload.getD 3 0).getLsbD 0 = true → rtOthers s (le p.payload 0 2) < 12) : exec .domOpen s = .next (
      if accountHeld s (le p.payload 0 2) then { taken s with ks := { (taken s).ks with heldOpen := some p } } else domOpened (taken s) p) := by
  refine congrArg Host.Outcome.next ((ksRun_legal h ho (by rw [hn]; rfl) (illegal_served hs rfl)).trans ?_)
  dsimp only
  rw [hp]
  dsimp only
  rw [show domValid (taken s) (le p.payload 0 2) = false from hv, show unsealedClose (taken s) (le p.payload 0 2) = none from hu, if_neg (by decide)]
  refine if_neg ?_
  rw [Bool.and_eq_true, decide_eq_true_eq]
  exact fun h => absurd (hr h.1) (Nat.not_lt.2 h.2)

theorem domOpen_held (ho : p.opcode.toNat = 0x301) (hn : p.payload.length = 40) (hp : domParam p.payload = none)
    (hv : domValid s (le p.payload 0 2) = false) (hu : unsealedClose s (le p.payload 0 2) = none)
    (hr : (p.payload.getD 3 0).getLsbD 0 = true → rtOthers s (le p.payload 0 2) < 12) (ha : accountHeld s (le p.payload 0 2) = true) :
    Completes .domOpen s (fun u => u.ks.heldOpen = some p ∧ u.ks.running = true ∧ u.doms = s.doms) :=
  ⟨_, (domOpen_run h hs ho hn hp hv hu hr).trans (congrArg _ (if_pos ha)), regsKept_of_tables rfl rfl, rfl, rfl, rfl⟩

include hc in
theorem domOpen_opens (ho : p.opcode.toNat = 0x301) (hn : p.payload.length = 40) (hp : domParam p.payload = none)
    (hv : domValid s (le p.payload 0 2) = false) (hu : unsealedClose s (le p.payload 0 2) = none)
    (hr : (p.payload.getD 3 0).getLsbD 0 = true → rtOthers s (le p.payload 0 2) < 12) (ha : accountHeld s (le p.payload 0 2) = false) :
    KsAnswers .domOpen s p s.ks.queue.tail 0 (fun u _ => (∀ a, memRead u a = memRead s a) ∧ (s.plumb.now < nextBoundary s → RegsKept s u) ∧
      domValid u (le p.payload 0 2) = true ∧ domPaused u (le p.payload 0 2) = false ∧ domAcct u (le p.payload 0 2) = domAcct s (le p.payload 0 2) + 1 ∧
      (getBud u (le p.payload 0 2)).c0 = BitVec.ofNat 64 (le p.payload 4 8) ∧ (getBud u (le p.payload 0 2)).c1 = BitVec.ofNat 64 (le p.payload 12 8) ∧
      (getBud u (le p.payload 0 2)).c2 = BitVec.ofNat 64 (le p.payload 20 8) ∧ (getBud u (le p.payload 0 2)).c3 = BitVec.ofNat 64 (le p.payload 28 8) ∧
      domRt u (le p.payload 0 2) = (p.payload.getD 3 0).getLsbD 0) := by
  obtain ⟨b, e⟩ := domOpened_eq (taken s) p
  generalize hx : openAccount (domNew _ _ _) _ = u at e
  obtain ⟨hm, hk, hd, hb, hcs⟩ := opening_effect (s := taken s) hc _ p.payload hx.symm
  obtain ⟨h63, h61, h62, hac⟩ := domCtl_opens p.payload ((p.payload.getD 3 0).getLsbD 0) (getDom s (le p.payload 0 2)).ctl
  obtain ⟨b0, b1, b2, b3⟩ := ceilings_eq hb
  refine ksAnswers_of_finish ((domOpen_run h hs ho hn hp hv hu hr).trans (congrArg _ ((if_neg (Bool.eq_false_iff.1 ha)).trans e)))
    (congrArg Ks.queue hk :) fun _ _ _ _ _ _ => ⟨fun a => memRead_congr hm a, fun hnow => regsKept_of_tables (hcs hnow) hm, ?_, ?_, ?_, b0, b1, b2, b3, ?_⟩
  · exact (congrArg (·.getLsbD 63) hd).trans h63
  · exact (congrArg (·.getLsbD 61) hd).trans h61
  · exact (congrArg (·.extractLsb' 40 8) hd).trans hac
  · exact (congrArg (·.getLsbD 62) hd).trans h62

include hc in
theorem domClose_closes (ho : p.opcode.toNat = 0x302) (hn : p.payload.length = 2) (h0 : 0 < le p.payload 0 2) (h1 : le p.payload 0 2 ≤ 4095)
    (hv : domValid s (le p.payload 0 2) = true) (hco : domCores s (le p.payload 0 2) = 0) (hun : domUnits s (le p.payload 0 2) = 0)
    (hf : classFTargets s (le p.payload 0 2) = false) : KsAnswers .domClose s p s.ks.queue.tail 0 (fun u _ => RegsKept s u ∧
      domValid u (le p.payload 0 2) = false ∧ domRt u (le p.payload 0 2) = false ∧ domPaused u (le p.payload 0 2) = false) := by
  obtain ⟨ht, hd⟩ := ksSet_dom (s := modDom (taken s) (le p.payload 0 2)
    (fun d => { d with mPaused := d.mPaused || d.ctl.getLsbD 61, mClosed := true, closed := some (thisMinute (taken s)) })) hc (domOff (le p.payload 0 2))
    (le p.payload 0 2) (fun d => { d with ctl := fldSet d.ctl 61 3 0 })
  have hr : RegsKept s (modDom (taken s) (le p.payload 0 2)
    (fun d => { d with mPaused := d.mPaused || d.ctl.getLsbD 61, mClosed := true, closed := some (thisMinute (taken s)) })) :=
    regsKept_trans (taken_regsKept s) (regsKept_modDom _ _ _)
  have hbit : ∀ (w : Word64) (i : Nat), 61 ≤ i → i < 64 → (fldSet w 61 3 0).getLsbD i = false := fun w i h1 h2 => by
    rw [getLsbD_fldSet _ _ _ _ _ h2, if_pos ⟨h1, h2⟩, Nat.zero_testBit]
  refine ksAnswers_of_run h rfl ho (by rw [hn]; rfl) (illegal_served hs rfl) ((if_neg ?_).trans (if_neg ?_)) ht.queue
    fun _ _ _ _ _ _ => ⟨replied_regsKept (regsKept_trans hr ht.regsKept) _ _ _ _ _ _, ?_, ?_, ?_⟩
  · simp only [Bool.or_eq_true, decide_eq_true_iff]
    omega
  · rw [show domValid (taken s) _ = _ from hv, show domCores (taken s) _ = _ from hco, show domUnits (taken s) _ = _ from hun,
      show classFTargets (taken s) _ = _ from hf]
    decide
  · exact (congrArg (fun d : Dom => d.ctl.getLsbD 63) hd).trans (hbit _ 63 (by decide) (by decide))
  · exact (congrArg (fun d : Dom => d.ctl.getLsbD 62) hd).trans (hbit _ 62 (by decide) (by decide))
  · exact (congrArg (fun d : Dom => d.ctl.getLsbD 61) hd).trans (hbit _ 61 (by decide) (by decide))

theorem domClose_refused (ho : p.opcode.toNat = 0x302) (hn : p.payload.length = 2) (h0 : 0 < le p.payload 0 2) (h1 : le p.payload 0 2 ≤ 4095)
    (hco : domCores s (le p.payload 0 2) ≠ 0) : KsAnswers .domClose s p s.ks.queue.tail 7 (fun u _ => RegsKept s u ∧ u.doms = s.doms) := by
  refine ksAnswers_of_run h rfl ho (by rw [hn]; rfl) (illegal_served hs rfl) ((if_neg ?_).trans (if_pos ?_)) rfl
    fun _ _ _ _ _ _ => ⟨replied_regsKept (by exact regsKept_of_tables rfl rfl) _ _ _ _ _ _, rfl⟩
  · simp only [Bool.or_eq_true, decide_eq_true_iff]
    omega
  · rw [show decide (domCores (taken s) (le p.payload 0 2) ≠ 0) = true from decide_eq_true hco]
    simp

include hc in
theorem domBudget_effect (ho : p.opcode.toNat = 0x303) (hn : p.payload.length = 40) (hp : domParam p.payload = none)
    (hv : domValid s (le p.payload 0 2) = true) (hr : (p.payload.getD 3 0).getLsbD 0 = true → rtOthers s (le p.payload 0 2) < 12)
    (hf : (p.payload.getD 3 0).getLsbD 0 = false → domRt s (le p.payload 0 2) = true → classFTargets s (le p.payload 0 2) = false) :
    KsAnswers .domBudget s p s.ks.queue.tail 0 (fun u _ => RegsKept s u ∧
      ((getBud u (le p.payload 0 2)).c0 = BitVec.ofNat 64 (le p.payload 4 8) ∧ (getBud u (le p.payload 0 2)).c1 = BitVec.ofNat 64 (le p.payload 12 8) ∧
      (getBud u (le p.payload 0 2)).c2 = BitVec.ofNat 64 (le p.payload 20 8) ∧ (getBud u (le p.payload 0 2)).c3 = BitVec.ofNat 64 (le p.payload 28 8) ∧
      domRt u (le p.payload 0 2) = (p.payload.getD 3 0).getLsbD 0) ∧ domValid u (le p.payload 0 2) = true) := by
  obtain ⟨ht, hd, hb⟩ := domWrite_effect (s := taken s) hc (le p.payload 0 2) p.payload ((p.payload.getD 3 0).getLsbD 0) false
  generalize hw : domWrite (taken s) _ _ _ _ = w at ht hd hb
  obtain ⟨b0, b1, b2, b3⟩ := ceilings_eq hb
  obtain ⟨h63, h62⟩ := domCtl_keeps p.payload ((p.payload.getD 3 0).getLsbD 0) (getDom s (le p.payload 0 2)).ctl
  refine ksAnswers_of_run (t := w) (b := []) h rfl ho (by rw [hn]; rfl) (illegal_served hs rfl) ?_ ht.queue
    fun _ _ _ _ _ _ => ⟨replied_regsKept (regsKept_trans (taken_regsKept s) ht.regsKept) _ _ _ _ _ _, ⟨b0, b1, b2, b3, ?_⟩, ?_⟩
  · dsimp only
    rw [hp]
    dsimp only
    rw [show domValid (taken s) (le p.payload 0 2) = true from hv, if_neg (by decide), if_neg, if_neg]
    · rw [hw]
      rfl
    · simp only [Bool.and_eq_true, Bool.not_eq_true']
      exact fun h => Bool.eq_false_iff.1 (hf h.1.1 h.1.2) h.2
    · rw [Bool.and_eq_true, decide_eq_true_eq]
      exact fun h => absurd (hr h.1) (Nat.not_lt.2 h.2)
  · exact (congrArg (·.getLsbD 62) hd).trans h62
  · exact (congrArg (·.getLsbD 63) hd).trans (h63.trans hv)

/-! ### Channels (R373, R379, R437) -/

theorem agentDead_declares (ho : p.opcode.toNat = 0x504) (hn : p.payload.length = 1) (hd : deadable (le p.payload 0 1) = true)
    (hi : isDead s (le p.payload 0 1) = false) (hp : ∀ r ∈ s.ks.rots, r.packet = none) : KsAnswers .agentDead s p s.ks.queue.tail 0 (fun u _ =>
      (le p.payload 0 1 < 32 → ∀ b, memRead u b = memRead s b) ∧ isDead u (le p.payload 0 1) = true ∧ u.ks.pending.getLsbD 7 = true) := by
  obtain ⟨dm, dd, dq, da⟩ := declareDead_effect (s := taken s) hd hi hp 1
  obtain ⟨u, e, hr, hu, ⟨um, ud, uq, ua⟩⟩ := finish_alerted (declareDead (taken s) (le p.payload 0 1) (some 1)) p 0 []
  refine ⟨u, [], congrArg Host.Outcome.next ((ksRun_legal h ho (by rw [hn]; rfl) (illegal_served hs rfl)).trans ?_), hr, uq.trans dq, hu,
    fun _ b => memRead_congr (um.trans dm) b, ?_, ua 7 da⟩
  · refine (if_neg (by rw [hd]; decide)).trans ((if_neg ?_).trans e)
    rw [show isDead (taken s) (le p.payload 0 1) = false from hi, Bool.false_and]
    exact Bool.false_ne_true
  · rw [isDead_eq, ud, ← isDead_eq]
    exact dd

theorem agentReturn_accepted (ho : p.opcode.toNat = 0x505) (hn : p.payload.length = 1) (hd : deadable (le p.payload 0 1) = true)
    (hi : isDead s (le p.payload 0 1) = true) (hr : s.ks.agentRet.any (fun e => e.1.toNat == le p.payload 0 1) = false) :
    KsAnswers .agentReturn s p s.ks.queue.tail 1 (fun u _ => RegsKept s u ∧
      u.ks.agentRet = s.ks.agentRet ++ [(BitVec.ofNat 7 (le p.payload 0 1), p)] ∧ isDead u (le p.payload 0 1) = true) := by
  obtain ⟨ag, q, vs, os, e⟩ := powerOn_eq (setVote (taken s) (288 + le p.payload 0 1) 1 true) (288 + le p.payload 0 1)
  refine ksAnswers_of_run (b := []) h rfl ho (by rw [hn]; rfl) (illegal_served hs rfl) ((if_neg (by rw [hd]; decide)).trans ((if_neg (Bool.eq_false_iff.1 hr)).trans
    (if_neg (by rw [show isDead (taken s) _ = _ from hi]; decide)))) ?_ fun _ _ _ _ _ _ => ⟨replied_regsKept ?_ _ _ _ _ _ _, ?_, ?_⟩
  · rw [e]
    rfl
  · rw [e]
    exact regsKept_of_tables rfl rfl
  · rw [e]
    rfl
  · rw [e]
    exact hi

theorem spareStart_accepted (ho : p.opcode.toNat = 0x506) (hn : p.payload.length = 4) (ha : le p.payload 0 1 ≤ 15)
    (hl : (logicalRank (getMc s (le p.payload 0 1)) (le p.payload 1 1)).isSome = true) (h1 : 1 ≤ le p.payload 2 1) (h25 : le p.payload 2 1 ≤ 25)
    (hz : le p.payload 3 1 = 0) (hr : spareRefuses s (le p.payload 0 1) = none) :
    KsAnswers .spareStart s p s.ks.queue.tail 1 (fun u _ => RegsKept s u ∧ spareState (getMc u (le p.payload 0 1)) = 1 ∧
      (getMc u (le p.payload 0 1)).spareAt = 0 ∧ fld (getMc u (le p.payload 0 1)).spare 48 5 = le p.payload 1 1) := by
  obtain ⟨ag, q, e⟩ := setSpare_eq (spareBegun (taken s) (le p.payload 0 1) (le p.payload 1 1) (le p.payload 2 1) p) (le p.payload 0 1) 1
  have hx : getMc (setSpare (spareBegun (taken s) (le p.payload 0 1) (le p.payload 1 1) (le p.payload 2 1) p) (le p.payload 0 1) 1) (le p.payload 0 1) =
      spareAs 1 (spareFields (le p.payload 1 1) (le p.payload 2 1) (getMc s (le p.payload 0 1))) := by
    rw [e]
    refine (getMc_modMc _ _ _ _).trans ((if_pos rfl).trans (congrArg (spareAs 1) ?_))
    exact (getMc_modMc (taken s) _ _ _).trans (if_pos rfl)
  generalize hw : setSpare _ _ _ = w at e hx
  have hff : le p.payload 0 1 ≠ 0xFF := by omega
  refine ksAnswers_of_run (b := []) (t := w) h rfl ho (by rw [hn]; rfl) (illegal_served hs rfl) ?_ (by rw [e]; rfl) fun _ _ _ _ _ _ => ⟨replied_regsKept ?_ _ _ _ _ _ _, ?_, ?_, ?_⟩
  · dsimp only
    rw [if_neg hff, if_neg, if_neg, if_neg, if_neg (not_not_intro (getD_of_le_one hz))]
    · simp only [List.findSome?_cons, List.findSome?_nil]
      rw [show spareRefuses (taken s) (le p.payload 0 1) = none from hr, ← hw]
      rfl
    · simp only [Bool.or_eq_true, decide_eq_true_iff]
      omega
    · rw [List.any_cons, List.any_nil, Bool.or_false, Option.isNone_iff_eq_none]
      exact Option.isSome_iff_ne_none.1 hl
    · simp only [Bool.and_eq_true, decide_eq_true_iff]
      omega
  · rw [e]
    exact regsKept_of_tables rfl rfl
  · exact (congrArg spareState hx).trans (spareState_spareAs _ _)
  · exact congrArg Mc.spareAt hx
  · exact (congrArg (fun x : Mc => fld x.spare 48 5) hx).trans ((spareAs_src _ _).trans (spareFields_src (by have := logicalRank_lt hl; omega) _ _))

theorem spareAck_done (ho : p.opcode.toNat = 0x507) (hn : p.payload.length = 1) (ha : le p.payload 0 1 ≤ 15)
    (h4 : spareState (getMc s (le p.payload 0 1)) = 4) : KsAnswers .spareAck s p s.ks.queue.tail 0 (fun u _ => RegsKept s u ∧
      spareState (getMc u (le p.payload 0 1)) = 0) := by
  obtain ⟨ag, q, e⟩ := setSpare_eq (taken s) (le p.payload 0 1) 0
  have hx : getMc (modMc (setSpare (taken s) (le p.payload 0 1) 0) (le p.payload 0 1) (fun x => { x with spare := fldSet x.spare 40 5 0x1F }))
      (le p.payload 0 1) = { spareAs 0 (getMc s (le p.payload 0 1)) with spare := fldSet (spareAs 0 (getMc s (le p.payload 0 1))).spare 40 5 0x1F } := by
    rw [getMc_modMc, if_pos rfl, e]
    exact congrArg (fun x : Mc => { x with spare := fldSet x.spare 40 5 0x1F }) ((getMc_modMc (taken s) _ _ _).trans (if_pos rfl))
  generalize hw : setSpare _ _ _ = w at e hx
  refine ksAnswers_of_run (b := []) (t := modMc w (le p.payload 0 1) (fun x => { x with spare := fldSet x.spare 40 5 0x1F })) h rfl ho (by rw [hn]; rfl)
    (illegal_served hs rfl) ((if_neg (Nat.not_lt.2 ha)).trans ((if_neg (not_not_intro h4)).trans (by rw [hw]; rfl))) (by rw [e]; rfl)
    fun _ _ _ _ _ _ => ⟨replied_regsKept ?_ _ _ _ _ _ _, ?_⟩
  · rw [e]
    exact regsKept_of_tables rfl rfl
  · exact (congrArg spareState hx).trans ((fld_fldSet_ne _ _ (by decide)).trans (spareState_spareAs 0 _))

theorem spareAck_refused (ho : p.opcode.toNat = 0x507) (hn : p.payload.length = 1) (ha : le p.payload 0 1 ≤ 15)
    (h4 : spareState (getMc s (le p.payload 0 1)) ≠ 4) : KsAnswers .spareAck s p s.ks.queue.tail 7 (fun u _ => RegsKept s u ∧ u.mcs = s.mcs) :=
  ksAnswers_of_run h rfl ho (by rw [hn]; rfl) (illegal_served hs rfl) ((if_neg (Nat.not_lt.2 ha)).trans (if_pos h4)) rfl
    fun _ _ _ _ _ _ => ⟨replied_regsKept (taken_regsKept s) _ _ _ _ _ _, rfl⟩

theorem devMark_marks (ho : p.opcode.toNat = 0x508) (hn : p.payload.length = 4) (ha : le p.payload 0 1 ≤ 15) (hr : le p.payload 1 1 ≤ 15)
    (hsc : le p.payload 2 1 ≤ 1) (hd : le p.payload 3 1 ≤ 9) (hm : markOf (getMc s (le p.payload 0 1)) (le p.payload 1 1) (le p.payload 2 1) = none) :
    KsAnswers .devMark s p s.ks.queue.tail 0 (fun u _ => RegsKept s u ∧
      markOf (getMc u (le p.payload 0 1)) (le p.payload 1 1) (le p.payload 2 1) = some (le p.payload 3 1) ∧
      (getMc u (le p.payload 0 1)).status.getLsbD 4 = true) := by
  obtain ⟨ag, q, e⟩ := markRecord_eq (setMark (taken s) (le p.payload 0 1) (le p.payload 1 1) (le p.payload 2 1) (some (le p.payload 3 1))) (le p.payload 0 1)
    (le p.payload 1 1) (le p.payload 2 1) (le p.payload 3 1) 1
  have hx : getMc (markRecord (setMark (taken s) (le p.payload 0 1) (le p.payload 1 1) (le p.payload 2 1) (some (le p.payload 3 1))) (le p.payload 0 1)
      (le p.payload 1 1) (le p.payload 2 1) (le p.payload 3 1) 1) (le p.payload 0 1) =
      markJournaled (marked (le p.payload 1 1) (le p.payload 2 1) (some (le p.payload 3 1)) (getMc s (le p.payload 0 1))) := by
    rw [e]
    exact (getMc_modMc _ _ _ _).trans ((if_pos rfl).trans (congrArg markJournaled ((getMc_modMc (taken s) _ _ _).trans (if_pos rfl))))
  generalize hw : markRecord _ _ _ _ _ _ = w at e hx
  refine ksAnswers_of_run (b := []) (t := w) h rfl ho (by rw [hn]; rfl) (illegal_served hs rfl) ?_ (by rw [e]; rfl)
    fun _ _ _ _ _ _ => ⟨replied_regsKept ?_ _ _ _ _ _ _, (congrArg (markOf · _ _) hx).trans ?_, (congrArg (fun x : Mc => x.status.getLsbD 4) hx).trans ?_⟩
  · dsimp only
    rw [if_neg (Nat.not_lt.2 ha), if_neg (Nat.not_lt.2 hr), if_neg (Nat.not_lt.2 hsc), if_neg, if_neg (by omega),
      show markOf (getMc (taken s) _) _ _ = none from hm, ← hw]
    · rfl
    · simp only [Bool.and_eq_true, decide_eq_true_iff]
      omega
  · rw [e]
    exact regsKept_of_tables rfl rfl
  · exact markOf_marked_some _ _ hsc hd
  · unfold markJournaled
    rw [BitVec.getLsbD_or]
    exact Bool.or_true _

theorem devMark_clears (ho : p.opcode.toNat = 0x508) (hn : p.payload.length = 4) (ha : le p.payload 0 1 ≤ 15) (hr : le p.payload 1 1 ≤ 15)
    (hsc : le p.payload 2 1 ≤ 1) (hd : le p.payload 3 1 = 0xFF) : KsAnswers .devMark s p s.ks.queue.tail 0 (fun u _ => RegsKept s u ∧
      markOf (getMc u (le p.payload 0 1)) (le p.payload 1 1) (le p.payload 2 1) = none) := by
  refine ksAnswers_of_run (b := []) (t := setMark (taken s) (le p.payload 0 1) (le p.payload 1 1) (le p.payload 2 1) none) h rfl ho (by rw [hn]; rfl)
    (illegal_served hs rfl) ?_ rfl fun _ _ _ _ _ _ => ⟨replied_regsKept (by exact regsKept_of_tables rfl rfl) _ _ _ _ _ _, ?_⟩
  · dsimp only
    rw [if_neg (Nat.not_lt.2 ha), if_neg (Nat.not_lt.2 hr), if_neg (Nat.not_lt.2 hsc), if_neg, if_pos hd]
    · rfl
    · rw [hd]
      decide
  · have hx : getMc (setMark (taken s) (le p.payload 0 1) (le p.payload 1 1) (le p.payload 2 1) none) (le p.payload 0 1) =
        marked (le p.payload 1 1) (le p.payload 2 1) none (getMc s (le p.payload 0 1)) := (getMc_modMc (taken s) _ _ _).trans (if_pos rfl)
    exact (congrArg (markOf · _ _) hx).trans (markOf_marked_none _ _ hsc)

end

/-- Settles O54, a theorem for each command: what each leaves of the domains, the channels and the agents, and its packet's answer. -/
theorem keystoneOpensAndDeclares : Obligations.KeystoneOpensAndDeclares := by
  intro p s h hc hs
  exact ⟨domOpen_opens h hc hs, domOpen_held h hs, domClose_closes h hc hs, domClose_refused h hs, domBudget_effect h hc hs, agentDead_declares h hs,
    agentReturn_accepted h hs, spareStart_accepted h hs, spareAck_done h hs, spareAck_refused h hs, devMark_marks h hs, devMark_clears h hs⟩

end Sys2Proof.Tenant
end

section
/-! SUPPORT. What every syllable of `sylOf` has in common (R88, R90), and the words at DE through fetch and the token (R227, R285). -/
namespace Sys2Proof.Words
open Sys2Proof Sys2Proof.Machine Sys2Proof.Timing Sys2Proof.Tenant

theorem exec_of_sylOf {i : Instr} {y : Syl} {f : Syl → Core → Staged} (h : sylOf i = some (y, f)) (s : State) : exec i s = .next (stage i y s) := by
  unfold sylOf at h
  split at h <;> cases h <;> rfl

/-- A staged syllable has the stop bit and the length of its encoding, and breaks no formation rule by what it is. -/
def FormOf (y : Syl) (g : Staged) : Prop := g.stop = y.s ∧ g.len = sylLen y ∧ g.illegal = false

theorem mfsSyl_form (y : Syl) (c : Core) (k : Nat) : FormOf y (mfsSyl y c k) := by
  unfold mfsSyl
  split <;> exact ⟨rfl, rfl, rfl⟩

theorem mtsSyl_form (y : Syl) (c : Core) (k : Nat) : FormOf y (mtsSyl y c k) := by
  unfold mtsSyl
  split <;> exact ⟨rfl, rfl, rfl⟩

theorem sylOf_form {i : Instr} {y : Syl} {f : Syl → Core → Staged} (h : sylOf i = some (y, f)) (c : Core) : FormOf y (f y c) := by
  cases i <;> cases h
  case mfs => exact mfsSyl_form ..
  case mts | mtsTdid | mtsRein | mtsLockheld | mtsTmode | mtsPctl | mtsEvmask | sThreshold | sClaim | sEoi => exact mtsSyl_form ..
  all_goals exact ⟨rfl, rfl, rfl⟩

theorem sylOf_word {i : Instr} {y : Syl} {f : Syl → Core → Staged} (h : sylOf i = some (y, f)) (c : Core) (w : List Instr) :
    f y { c with word := w } = f y c := by
  unfold sylOf at h
  split at h <;> cases h <;> rfl

/-! ### How words are cut from the syllables at DE (R90) -/

theorem stagedOf_form {i : Instr} {y : Syl} {f : Syl → Core → Staged} (h : sylOf i = some (y, f)) (c d : Core) :
    (Machine.stagedOf i y f c).stop = (Machine.stagedOf i y f d).stop ∧ (Machine.stagedOf i y f c).len = (Machine.stagedOf i y f d).len := by
  unfold Machine.stagedOf
  split
  · exact ⟨rfl, rfl⟩
  · exact ⟨(sylOf_form h c).1.trans (sylOf_form h d).1.symm, (sylOf_form h c).2.1.trans (sylOf_form h d).2.1.symm⟩

/-- Where a word ends depends on its syllables alone, not on the registers of the core. -/
theorem takeWord_rest (c d : Core) (l : List Instr) {h k : HeadWord} (hl : h.len = k.len) (hr : h.rest = k.rest) :
    (takeWord c l h).rest = (takeWord d l k).rest := by
  induction l generalizing h k with
  | nil => exact hr
  | cons i r ih =>
    unfold takeWord
    cases hs : sylOf i with
    | none => exact ih hl hr
    | some e =>
      obtain ⟨hst, hln⟩ := stagedOf_form (y := e.1) (f := e.2) hs c d
      dsimp only
      rw [hst, hln, hl]
      split
      · rfl
      · exact ih rfl hr

theorem headWord_rest {c d : Core} (h : c.word = d.word) : (headWord c).rest = (headWord d).rest := by
  unfold headWord
  rw [h]
  exact takeWord_rest c d d.word rfl rfl

/-! ### The words at DE through fetch and the token (R227, R285) -/

theorem setPend_core (s : State) (k n : Nat) : getCore (setPend s k) n = getCore s n := by
  unfold setPend
  split
  · exact (hubEvalSrc_offersOnly _ k).core n
  · rfl

theorem pmBump_word (s : State) (n i k : Nat) : (getCore (pmBump s n i k) n).word = (getCore s n).word := by
  unfold pmBump
  dsimp only
  split
  · split
    · rw [setPend_core, getCore_setCore, if_pos rfl]
      rfl
    · rw [getCore_setCore, if_pos rfl]
      rfl
  · rw [getCore_setCore, if_pos rfl]
    rfl

theorem word_foldl {α : Type} {n : Nat} {f : State → α → State} (hf : ∀ s a, (getCore (f s a) n).word = (getCore s n).word) (l : List α) (s : State) :
    (getCore (l.foldl f s) n).word = (getCore s n).word := by
  induction l generalizing s with
  | nil => rfl
  | cons a r ih => exact (ih _).trans (hf s a)

theorem coreEv_word (s : State) (n ev k : Nat) (l : Option LineNo) : (getCore (coreEv s n ev k l) n).word = (getCore s n).word := by
  unfold coreEv
  dsimp only
  split
  · rfl
  · refine word_foldl (fun s i => ?_) _ _
    split
    · exact pmBump_word s n i k
    · rfl

theorem spend_word (c : Core) (now : Nat) : (spend c now).word = c.word := by
  unfold spend
  grind

theorem plIssue_word (c : Core) (now : Nat) : (plIssue c now).word = c.word := by
  unfold plIssue
  split <;> rfl

theorem charge_core (s : State) (a t e n : Nat) : getCore (charge s a t e) n = getCore s n := by
  unfold charge
  dsimp only
  split <;> rfl

theorem useToken_word (s : State) (n : Nat) (k : Option Nat) : (getCore (useToken s n k) n).word = (getCore s n).word := by
  unfold useToken
  extract_lets c a t now x s1 s2 s3 s4 s5
  have h1 : (getCore s1 n).word = c.word := by
    rw [getCore_setCore, if_pos rfl]
    split
    · exact (plIssue_word ..).trans (spend_word ..)
    · exact spend_word ..
  have h3 : (getCore s3 n).word = c.word := (congrArg Core.word (charge_core ..)).trans h1
  have h4 : (getCore s4 n).word = c.word := by
    unfold s4
    split
    · exact h3
    · split
      · exact (coreEv_word ..).trans h3
      · exact h3
  have h5 : (getCore s5 n).word = c.word := (coreEv_word ..).trans h4
  split
  · exact (coreEv_word ..).trans ((coreEv_word ..).trans h5)
  · exact (coreEv_word ..).trans h5

theorem l1tlbInstall_word (s : State) (n : Nat) (b : Bool) (e : TlbEnt) : (getCore (l1tlbInstall s n b e) n).word = (getCore s n).word := by
  unfold l1tlbInstall modCore
  dsimp only
  rw [getCore_setCore, if_pos rfl]
  split <;> rfl

theorem xlate_word (s : State) (n : Nat) (k : Kind) (l : Level) (lin : Nat) : (getCore (xlate s n k l lin).2 n).word = (getCore s n).word := by
  have he : ∀ b : Bool, (getCore (if b then s else coreEv s n 0x0D 1) n).word = (getCore s n).word := fun b => by
    split
    · rfl
    · exact coreEv_word ..
  unfold xlate
  split
  · rfl
  · extract_lets c r fetch l1 s1 c1
    split
    · split <;> rw [getCore_setCore, if_pos rfl]
      · split <;> rfl
      · rfl
    · split
      · rw [l1tlbInstall_word, getCore_setCore, if_pos rfl]
        exact he fetch
      · rw [getCore_setCore, if_pos rfl]
        exact he fetch
    · exact he fetch

theorem checkPart_word (s : State) (n : Nat) (k : Kind) (l : Level) (b : Bool) (lin len : Nat) :
    (getCore (checkPart s n k l b lin len).2 n).word = (getCore s n).word := by
  rw [← xlate_word s n k l lin]
  unfold checkPart
  grind

theorem checkLin_word (s : State) (n : Nat) (k : Kind) (l : Level) (b : Bool) (lin w : Nat) :
    (getCore (checkLin s n k l b lin w).2 n).word = (getCore s n).word := by
  unfold checkLin
  grind [checkPart_word]

/-- A syllable that is fetched without a wait or a fault leaves the words at DE. -/
theorem fetchSyl_word {s t : State} {n pos : Nat} {u : Unit} (e : fetchSyl s n pos = (.ok u, t)) : (getCore t n).word = (getCore s n).word := by
  unfold fetchSyl at e
  extract_lets c off at e
  split_ifs at e
  · cases e
    rfl
  split at e
  · cases e
  · rename_i lin _
    have h1 := checkLin_word s n .fetch c.level false lin 4
    generalize checkLin s n .fetch c.level false lin 4 = x at h1 e
    split at e
    · cases e
    · cases e
    · rename_i ps s1
      have hc := l1iChecks_cases n ps s1
      dsimp only at e
      generalize ps.foldl (fun s p => l1iCheck s n (lineOfPa p.pa)) s1 = s2 at hc e
      split at e
      · cases e
      split at e
      · cases e
      · rename_i hn
        obtain rfl | ⟨p, hp, hq⟩ := hc
        · split at e <;> cases e
          exact h1
        · exact absurd (by rw [hq]; rfl) (List.find?_eq_none.1 hn p hp)

theorem fetchWord_word {n k pos : Nat} {u : Unit} {s t : State} (e : fetchWord n k pos s = (.ok u, t)) : (getCore t n).word = (getCore s n).word := by
  induction k generalizing s pos with
  | zero => cases e; rfl
  | succ k ih =>
    unfold fetchWord at e
    split at e
    · exact (ih e).trans (fetchSyl_word ‹_›)
    · rename_i hne
      exact (hne _ _ e).elim

end Sys2Proof.Words
end

section
/-! PROOF. Words form and commit (R90, R93, R96); a recorded trap, and the words that break rows 2 to 6 of R97 (R97, R99, R161). -/
namespace Sys2Proof.Words
open Sys2Proof Sys2Proof.Machine Sys2Proof.Timing Sys2Proof.Tenant

/-! ### A word that is not complete (R90) -/

theorem advanceN_idle {s : State} {n : Nat} (h : mayTry s n = false) (k : Nat) : advanceN k s n = s := by
  cases k with
  | zero => rfl
  | succ k =>
    unfold advanceN tryIssue
    rw [h]
    rfl

theorem mayTry_incomplete {s : State} {n : Nat} (h : (headWord (getCore s n)).complete = false) : mayTry s n = false := by
  unfold mayTry
  simp only [h, Bool.and_false]

theorem lookAhead_incomplete {s : State} {n : Nat} (h : (headWord (getCore s n)).complete = false) : lookAhead s n = s := by
  unfold lookAhead
  exact if_pos (by rw [h]; rfl)

/-- DE takes the syllable: it joins the words there, and they go on. -/
theorem stage_taken {i : Instr} {y : Syl} {s : State} (h : takesSyl y s = true) :
    stage i y s = lookAhead (advance (reached i y s) y.n.toNat) y.n.toNat := by
  unfold takesSyl at h
  rw [Bool.and_eq_true, decide_eq_true_eq] at h
  unfold stage
  exact if_neg (by rw [h.1]; simpa using h.2)

/-- Settles O7: the words at DE are tried when a syllable has joined them, and a word that is not complete is left there. -/
theorem wordsFormAndCommit : Obligations.WordsFormAndCommit := by
  refine ⟨fun i y f s hs hi => ?_, fun i y f s hs ht _ hw => ?_⟩
  · rw [exec_of_sylOf hs, stage_issues hi]
  · rw [exec_of_sylOf hs, stage_taken ht, advance, advanceN_idle (mayTry_incomplete hw), lookAhead_incomplete hw]

/-! ### A path found wrong (R161) -/

theorem regsKept_foldl {α : Type} {f : State → α → State} (hf : ∀ s a, RegsKept s (f s a)) (l : List α) (s : State) : RegsKept s (l.foldl f s) := by
  induction l generalizing s with
  | nil => exact regsKept_refl s
  | cons a r ih => exact regsKept_trans (hf s a) (ih _)

theorem regsKept_modCore {s : State} {n : Nat} {f : Core → Core} (hf : ∀ c, regsOf (f c) = regsOf c) : RegsKept s (modCore s n f) := by
  refine ⟨fun k => ?_, fun _ => rfl⟩
  unfold modCore
  rw [getCore_setCore]
  split
  · subst k
    exact hf _
  · rfl

theorem ghostWord_regsKept (s : State) (n : Nat) : RegsKept s (ghostWord s n) := by
  unfold ghostWord
  extract_lets h
  have hf : RegsKept s (free s).2 := regsKept_of_tables rfl rfl
  split
  · exact regsKept_refl s
  · generalize free s = e at hf
    obtain ⟨r, u⟩ := e
    have hm : RegsKept s (modCore u n (fun c => { c with word := h.rest })) := regsKept_trans hf (regsKept_modCore fun _ => rfl)
    dsimp only
    split
    · exact hm
    · exact regsKept_trans hm (regsKept_foldl (fun s e => regsKept_of_seen (ghostLoad_seen seen_refl)) _ _)

theorem wrongPath_regsKept (s : State) (n k : Nat) : RegsKept s (wrongPath s n k) :=
  regsKept_trans (regsKept_foldl (fun s _ => ghostWord_regsKept s n) _ s) (regsKept_modCore fun _ => rfl)

/-- With no word behind it, a wrong path has no ghost words. -/
theorem wrongPath_empty {s : State} {n : Nat} (h : (getCore s n).word = []) (k : Nat) : wrongPath s n k = dropQueue s n := by
  have hg : ghostWord s n = s := by
    have hc : (headWord (getCore s n)).complete = false := by
      unfold headWord
      rw [h]
      rfl
    unfold ghostWord
    exact if_pos (by rw [hc]; rfl)
  have hf : (List.range k).foldl (fun s _ => ghostWord s n) s = s := by
    induction List.range k with
    | nil => rfl
    | cons _ _ ih => rw [List.foldl_cons, hg, ih]
  unfold wrongPath
  rw [hf]
  rfl

theorem dropQueue_quiet {n : Nat} {A : Core} {s0 s : State} (h : Quiet n A s0 s) : Quiet n A s0 (dropQueue s n) := modCore_quiet (fun _ => rfl) h

theorem regsSame_of_else {n : Nat} {s t : State} (h : ElseSame n s t) : RegsSame n s t := ⟨fun k hk => congrArg regsOf (h.cores k hk), h.bytes⟩

theorem regsOf_of_arch {c d : Core} (h : archOf c = archOf d) : regsOf c = regsOf d := by
  show regsOf (archOf c) = regsOf (archOf d)
  rw [h]

theorem pc_archOf {c d : Core} (h : archOf c = archOf d) : c.pc = d.pc := by
  show (archOf c).pc = (archOf d).pc
  rw [h]

theorem level_archOf {c d : Core} (h : archOf c = archOf d) : c.level = d.level := by
  show (archOf c).level = (archOf d).level
  rw [h]

/-! ### A recorded trap (R99, R151) -/

/-- The state with a trap recorded, before the words behind it go. -/
def trapMarked (s : State) (n : Nat) (t : Trap) (len : Nat) : State :=
  modCore (if (getCore s n).atX2 then s else useToken s n (some len)) n
    (fun c => { c with trap := some t, atX2 := false, uaddr := none, word := (headWord c).rest })

theorem recordTrap_eq (s : State) (n : Nat) (t : Trap) (len : Nat) : recordTrap s n t len = wrongPath (trapMarked s n t len) n 2 := rfl

theorem trapMarked_quiet {n : Nat} {A : Core} {s0 s : State} (h : Quiet n A s0 s) (t : Trap) (len : Nat) :
    Quiet n { A with trap := some t } s0 (trapMarked s n t len) := by
  have hu : Quiet n A s0 (if (getCore s n).atX2 then s else useToken s n (some len)) := quiet_ite (fun _ => h) (fun _ => useToken_quiet h)
  obtain ⟨hc, he⟩ := hu
  unfold trapMarked
  refine ⟨?_, he.trans (elseSame_setCore _ _ _)⟩
  unfold modCore
  rw [getCore_setCore, if_pos rfl, ← hc]
  rfl

theorem trapMarked_word {s : State} {n : Nat} {w : List Instr} (h : (getCore s n).word = w) (t : Trap) (len : Nat) :
    (getCore (trapMarked s n t len) n).word = (headWord { getCore s n with word := w }).rest := by
  unfold trapMarked modCore
  rw [getCore_setCore, if_pos rfl]
  refine headWord_rest ?_
  split
  · exact h
  · exact (useToken_word ..).trans h

theorem wrongPath_word (s : State) (n k : Nat) : (getCore (wrongPath s n k) n).word = [] := by
  unfold wrongPath modCore
  rw [getCore_setCore, if_pos rfl]

theorem recordTrap_word (s : State) (n : Nat) (t : Trap) (len : Nat) : (getCore (recordTrap s n t len) n).word = [] := wrongPath_word _ n 2

/-- A recorded trap changes no register: the core holds it, and the words behind it go. -/
theorem recordTrap_regs {n : Nat} {A : Core} {s0 s : State} (h : Quiet n (archOf A) s0 s) (t : Trap) (len : Nat) :
    RegsSame n s0 (recordTrap s n t len) ∧ regsOf (getCore (recordTrap s n t len) n) = regsOf { A with trap := some t } := by
  obtain ⟨hc, he⟩ := trapMarked_quiet h t len
  have hw := wrongPath_regsKept (trapMarked s n t len) n 2
  have hs := regsSame_of_else he
  exact ⟨⟨fun k hk => (hw.cores k).trans (hs.cores k hk), fun a => (hw.bytes a).trans (hs.bytes a)⟩,
    (hw.cores n).trans (regsOf_of_arch (d := { A with trap := some t }) hc)⟩

/-- With no word behind the one at DE, nothing else changes. -/
theorem recordTrap_alone {n : Nat} {A : Core} {s0 s : State} (h : Quiet n (archOf A) s0 s) (hr : (headWord (getCore s n)).rest = []) (t : Trap) (len : Nat) :
    Quiet n (archOf { A with trap := some t }) s0 (recordTrap s n t len) := by
  rw [recordTrap_eq, wrongPath_empty ((trapMarked_word rfl t len).trans hr)]
  exact dropQueue_quiet (trapMarked_quiet h t len)

/-! ### The word that breaks a check (R97, R99) -/

theorem trapFound_cases {i : Instr} {y : Syl} {s : State} {p : Trap} (h : trapFound i y s = some p) :
    readyAt i y s = true ∧ (∃ u, (fetchAt i y s).1 = .ok u) ∧ encTrap (getCore (fetchAt i y s).2 y.n.toNat) (wordAt i y s) = some p := by
  unfold trapFound at h
  obtain ⟨hf, he⟩ := Option.ite_none_right_eq_some.1 h
  unfold fetchesWord at hf
  obtain ⟨hq, hg⟩ := (Bool.and_eq_true _ _).mp hf
  refine ⟨hq, ?_, he⟩
  revert hg
  cases (fetchAt i y s).1 <;> simp

theorem fetchAt_fetched {i : Instr} {y : Syl} {s : State} {u : Unit} (h : (fetchAt i y s).1 = .ok u) :
    Quiet y.n.toNat (archOf (getCore s y.n.toNat)) s (fetchAt i y s).2 ∧
      (getCore (fetchAt i y s).2 y.n.toNat).word = (getCore (reached i y s) y.n.toNat).word := by
  have e : fetchWord y.n.toNat (extent (wordAt i y s)) 0 (reached i y s) = (.ok u, (fetchAt i y s).2) := by
    rw [← h]
    rfl
  exact ⟨fetchWord_quiet (reached_quiet i y s) e, fetchWord_word e⟩

theorem encTrap_pc {c : Core} {h : HeadWord} {p : Trap} (e : encTrap c h = some p) : p.pc = c.pc := by
  unfold encTrap at e
  split at e
  · cases e
    rfl
  split at e
  · cases e
    rfl
  split at e
  · cases e
    rfl
  split at e
  · cases e
    rfl
  · obtain ⟨_, -, rfl⟩ := Option.map_eq_some_iff.1 e
    rfl

theorem payHold_none {s : State} {n : Nat} (h : pendHold (getCore s n) (headWord (getCore s n)) = 0) (k : Nat) : payHold k s n = s := by
  cases k with
  | zero => rfl
  | succ k => exact if_pos (by rw [h]; rfl)

/-- A word that may be tried, is owed nothing and is fetched breaks a check of rows 2 to 5 of R97: it records its trap. No operand
holds it (R99). -/
theorem tryIssue_traps {s t : State} {n : Nat} {u : Unit} {p : Trap} (hm : mayTry s n = true) (hx : (getCore s n).atX2 = false)
    (ho : (getCore s n).owe = 0) (hd : pendHold (getCore s n) (headWord (getCore s n)) = 0) (ht : tokenReady (getCore s n) (coreTime s n) = true)
    (hf : fetchWord n (extent (headWord (getCore s n))) 0 s = (.ok u, t)) (he : encTrap (getCore t n) (headWord (getCore s n)) = some p)
    (hp : p.code ≠ 0x20) : tryIssue s n = (false, recordTrap t n p (extent (headWord (getCore s n)))) := by
  have hk : ∀ h : HeadWord, held t n { h with ops := h.ops.filter (fun _ => p.code == 0x20) } = false := fun h => by
    rw [beq_false_of_ne hp]
    simp [held]
  unfold tryIssue
  rw [hm]
  dsimp only [Bool.not_true]
  rw [if_neg (by decide), ho]
  unfold payOwed
  rw [payHold_none hd, ho, hd, ht, hx, if_neg (by decide), hf]
  dsimp only
  rw [he]
  exact if_neg (by rw [hk]; decide)

/-- A word at DE that breaks a check leaves its trap there, and nothing behind it (R97, R99). -/
theorem stage_traps {i : Instr} {y : Syl} {s : State} {p : Trap} (h : trapFound i y s = some p) (hp : p.code ≠ 0x20) :
    stage i y s = recordTrap (fetchAt i y s).2 y.n.toNat p (extent (wordAt i y s)) := by
  obtain ⟨hq, ⟨u, hf⟩, he⟩ := trapFound_cases h
  obtain ⟨hs, hm, hx, ho, hd, ht⟩ := ready_cases hq
  have hc := reached_core i y s
  have e : tryIssue (reached i y s) y.n.toNat = (false, recordTrap (fetchAt i y s).2 y.n.toNat p (extent (wordAt i y s))) :=
    tryIssue_traps (u := u) hm (by rw [hc]; exact hx) (by rw [hc]; exact ho) (by rw [← hd]; unfold pendHold wordAt; rw [hc]) (by rw [hc]; exact ht)
      (by rw [← hf]; rfl) he hp
  have ha : advance (reached i y s) y.n.toNat = recordTrap (fetchAt i y s).2 y.n.toNat p (extent (wordAt i y s)) := by
    unfold advance advanceN
    rw [e]
  rw [stage_taken hs, ha]
  exact lookAhead_empty (recordTrap_word _ _ _ _)

/-! ### A word of one syllable (R90) -/

/-- One syllable with its stop bit breaks no formation rule, but for an X syllable that it may not carry. -/
theorem breach_alone {g : Staged} {y : Syl} (h : FormOf y g) (hs : y.s = true) (hx : g.badX = false) :
    breach { ops := [(0, g)], len := g.len, complete := true, rest := [] } = none := by
  obtain ⟨hst, hln, hi⟩ := h
  have hl : ¬8 < sylLen y := by
    unfold sylLen
    split <;> decide
  unfold breach
  simp [breachAt, hi, hx, hst, hs, hln, hl]

/-- Settles O8: the trap that the checks find is recorded; of a privileged syllable alone, below its level, it is row 4's. -/
theorem faultsRecordTheirTrap : Obligations.FaultsRecordTheirTrap := by
  refine ⟨fun i y f s p hs h hp => ?_, fun i y f s p hs ho hy he h hx hr hl => ?_⟩
  · obtain ⟨-, ⟨u, hf⟩, hn⟩ := trapFound_cases h
    obtain ⟨hq, hw⟩ := fetchAt_fetched hf
    obtain ⟨hk, hc⟩ := recordTrap_regs hq p (extent (wordAt i y s))
    have hpc : p.pc = (getCore s y.n.toNat).pc := (encTrap_pc hn).trans (pc_archOf hq.1)
    exact ⟨_, (exec_of_sylOf hs s).trans (congrArg _ (stage_traps h hp)), hpc, hk, hc,
      fun hr => recordTrap_alone hq ((headWord_rest hw).trans hr) p _⟩
  · obtain ⟨-, ⟨u, hf⟩, hn⟩ := trapFound_cases h
    have hv : (getCore (fetchAt i y s).2 y.n.toNat).level = (getCore s y.n.toNat).level := level_archOf (fetchAt_fetched hf).1.1
    have hg : f y (getCore (reached i y s) y.n.toNat) = f y (getCore s y.n.toNat) := by rw [reached_core, sylOf_word hs]
    have hform := sylOf_form hs (getCore s y.n.toNat)
    rw [wordAt_alone hs (fun c => (sylOf_form hs c).1) ho hy he, hg] at hn
    have hb := breach_alone (g := { f y (getCore s y.n.toNat) with lat := latency i }) hform hy hx
    unfold encTrap at hn
    rw [hb] at hn
    simp [hr, hv, hl] at hn
    rw [← hn]
    rfl

end Sys2Proof.Words
end

section
/-! PROOF. Branches and calls (R92, R104, R142). -/
namespace Sys2Proof.Words
open Sys2Proof Sys2Proof.Machine Sys2Proof.Timing Sys2Proof.Tenant

/-! ### A word of one syllable that issues (R90, R93) -/

theorem began_word (s : State) (n : Nat) (h : HeadWord) : (getCore (began s n h) n).word = h.rest := by
  unfold began modCore
  rw [getCore_setCore, if_pos rfl]

/-- The word of one syllable without checks at X2: the state before its effect, with no words at DE, and its effect. -/
theorem issued_began {i : Instr} {y : Syl} {s : State} {f : Syl → Core → Staged} (hs : sylOf i = some (y, f))
    (hu : (f y (getCore s y.n.toNat)).unit ≠ 2) (h : issuesAlone i y s = true) :
    ∃ c0 u, archOf c0 = archOf (getCore s y.n.toNat) ∧ Quiet y.n.toNat (archOf (pastWord y (getCore s y.n.toNat))) s u ∧
      (getCore u y.n.toNat).word = [] ∧
      issued i y s = doAct y.n.toNat c0 (sylLen y) (x2Res i y s) none u (f y (getCore s y.n.toNat)).act := by
  obtain ⟨ho, hy, he, hi⟩ := issuesAlone_cases h
  obtain ⟨-, hr, ⟨u, hf⟩, -⟩ := passes_cases (Bool.and_eq_true _ _ ▸ hi : _ ∧ _).1
  have hst : ∀ c, (f y c).stop = y.s := fun c => (sylOf_form hs c).1
  have hx : (x2At i y s).2 = (fetchAt i y s).2 := by
    rw [x2At_alone hs hst (sylOf_word hs) h, if_neg (by simpa using hu)]
  have hq := (fetchAt_fetched hf).1
  have hw : wordAt i y s = _ := wordAt_alone hs hst ho hy he
  rw [reached_core, sylOf_word hs, (sylOf_form hs _).2.1] at hw
  refine ⟨getCore (fetchAt i y s).2 y.n.toNat, began (fetchAt i y s).2 y.n.toNat (wordAt i y s), hq.1, ?_, (began_word ..).trans hr, ?_⟩
  · have hb := began_quiet (wordAt i y s) hq
    rw [hw] at hb ⊢
    exact hb
  · unfold issued
    rw [commitWord_began, hx, hw]
    rfl

theorem encTrap_unreserved {c : Core} {h : HeadWord} (e : encTrap c h = none) {g : Nat × Staged} (hg : g ∈ h.ops) : g.2.reserved = false := by
  unfold encTrap at e
  split at e
  · cases e
  split at e
  · cases e
  · rename_i hn
    simpa using List.find?_eq_none.1 hn g hg

/-- A syllable that issues alone has no reserved encoding (R97, R100). -/
theorem issuesAlone_unreserved {i : Instr} {y : Syl} {s : State} {f : Syl → Core → Staged} (hs : sylOf i = some (y, f)) (h : issuesAlone i y s = true) :
    (f y (getCore s y.n.toNat)).reserved = false := by
  obtain ⟨ho, hy, he, hi⟩ := issuesAlone_cases h
  obtain ⟨-, -, -, hn, -⟩ := passes_cases (Bool.and_eq_true _ _ ▸ hi : _ ∧ _).1
  rw [wordAt_alone hs (fun c => (sylOf_form hs c).1) ho hy he, reached_core, sylOf_word hs] at hn
  exact encTrap_unreserved hn (List.mem_singleton.2 rfl)

/-! ### A transfer (R104, R142, R160) -/

/-- Where a taken transfer goes: one through a register ignores the two lowest bits of the address (R142). -/
def landing (k : XferKind) (target : Word64) : Word64 := if k = .cond || k = .direct then target else target &&& ~~~3

/-- The core after a transfer, whose PC has moved past its word: the link, and the PC. -/
def transferred (k : XferKind) (taken : Bool) (target : Word64) (link : Option (BitVec 6)) (c : Core) : Core :=
  { (match link with | some r => writeG c r { v := c.pc } | none => c) with pc := if taken then landing k target else c.pc }

theorem transferred_arch {c d : Core} (h : archOf c = archOf d) (k : XferKind) (taken : Bool) (target : Word64) (link : Option (BitVec 6)) :
    archOf (transferred k taken target link c) = archOf (transferred k taken target link d) := by
  have hp := pc_archOf h
  unfold transferred
  rw [hp]
  cases link with
  | none =>
    show archOf { archOf c with pc := _ } = archOf { archOf d with pc := _ }
    rw [h]
  | some r =>
    show archOf { archOf (writeG c r { v := d.pc }) with pc := _ } = archOf { archOf (writeG d r { v := d.pc }) with pc := _ }
    rw [writeG_arch, h, ← writeG_arch]

/-- A core with other prediction state, and other issue opportunities to lose. -/
def repredicted (p : Pred) (o : Nat) (c : Core) : Core := { c with pred := p, owe := o }

theorem repredicted_arch {c d : Core} (h : archOf c = archOf d) (p : Pred) (o : Nat) : archOf (repredicted p o c) = archOf (repredicted p o d) := by
  show archOf (repredicted p o (archOf c)) = archOf (repredicted p o (archOf d))
  rw [h]

theorem repredicted_self {c d : Core} {p : Pred} {o : Nat} (h : archOf c = archOf (repredicted p o d)) : archOf c = archOf (repredicted c.pred c.owe d) := by
  have hp : c.pred = p := congrArg Core.pred h
  have ho : c.owe = o := congrArg Core.owe h
  rw [hp, ho]
  exact h

/-- A transfer with no words behind it changes its core's link and PC, and otherwise its prediction and owed opportunities alone. -/
theorem doXfer_quiet {n : Nat} {s0 s : State} {c0 d : Core} {len : Nat} (hs : Quiet n (archOf d) s0 s) (hw : (getCore s n).word = [])
    (hn : d.pc = c0.pc + BitVec.ofNat 64 (4 * len)) (k : XferKind) (taken hint : Bool) (target : Word64) (link : Option (BitVec 6)) :
    ∃ p o, Quiet n (archOf (repredicted p o (transferred k taken target link d))) s0 (doXfer s n c0 len k taken hint target link) := by
  have hc : (getCore s n).pc = c0.pc + BitVec.ofNat 64 (4 * len) := (pc_archOf hs.1).trans hn
  unfold doXfer
  extract_lets next tgt0 tgt base x pl
  split
  rename_i lost wrong _
  extract_lets s1 s2 s3
  have e1 : ∃ p o, getCore s1 n = repredicted p o (transferred k taken target link (getCore s n)) := by
    unfold s1 modCore
    rw [getCore_setCore, if_pos rfl]
    unfold transferred
    rw [hc]
    cases link <;> exact ⟨_, _, rfl⟩
  obtain ⟨p, o, e1⟩ := e1
  have h1 : Quiet n (archOf (repredicted p o (transferred k taken target link d))) s0 s1 :=
    ⟨e1 ▸ repredicted_arch (transferred_arch hs.1 k taken target link) p o, hs.2.trans (elseSame_setCore _ _ _)⟩
  have hw1 : (getCore s1 n).word = [] := by
    rw [e1, ← hw]
    cases link with
    | none => rfl
    | some r => exact writeG_word (getCore s n) r { v := (getCore s n).pc }
  clear_value s1
  have h2 : Quiet n (archOf (repredicted p o (transferred k taken target link d))) s0 s2 :=
    quiet_ite (fun _ => h1) (fun _ => wrongPath_empty hw1 _ ▸ dropQueue_quiet h1)
  have h3 : Quiet n (archOf (repredicted p o (transferred k taken target link d))) s0 s3 := quiet_ite (fun _ => coreEv_quiet h2) (fun _ => h2)
  exact ⟨p, o, quiet_ite (fun _ => coreEv_quiet h3) (fun _ => h3)⟩

/-- A transfer, alone in its word, turns its core as `transferred` says. -/
theorem turns_of_xfer {i : Instr} {y : Syl} {s : State} {f : Syl → Core → Staged} {g : Core → Core} {k : XferKind} {taken hint : Bool} {target : Word64}
    {link : Option (BitVec 6)} (hs : sylOf i = some (y, f)) (hu : (f y (getCore s y.n.toNat)).unit = 4)
    (ha : (f y (getCore s y.n.toNat)).act = .xfer k taken hint target link)
    (hg : issuesAlone i y s = true →
      transferred k taken target link (pastWord y (getCore s y.n.toNat)) = g (pastWord y (getCore s y.n.toNat))) : Turns i y s g := by
  intro h
  obtain ⟨c0, u, h0, hq, hw, e⟩ := issued_began hs (by rw [hu]; decide) h
  rw [ha] at e
  obtain ⟨p, o, ht⟩ := doXfer_quiet (len := sylLen y) hq hw (by rw [pc_archOf h0]; rfl) k taken hint target link
  rw [hg h] at ht
  exact ⟨_, (exec_of_sylOf hs s).trans (congrArg _ ((stage_issues (issuesAlone_cases h).2.2.2).trans e)), ht.2, repredicted_self ht.1⟩

/-! ### The conditions of BR (R104) -/

theorem condHolds_iff {q : BitVec 3} (hq : q.toNat ≠ 7) (a b : Word64) : condHolds q a b = true ↔
    (q.toNat = 0 ∧ a = b) ∨ (q.toNat = 1 ∧ a ≠ b) ∨ (q.toNat = 2 ∧ a.toInt < b.toInt) ∨ (q.toNat = 3 ∧ b.toInt ≤ a.toInt) ∨
      (q.toNat = 4 ∧ a.toNat < b.toNat) ∨ (q.toNat = 5 ∧ b.toNat ≤ a.toNat) ∨ q.toNat = 6 := by
  have hlt := q.isLt
  unfold condHolds
  generalize q.toNat = k at hq hlt
  interval_cases k <;> simp [BitVec.slt, BitVec.ult] at hq ⊢

theorem relTarget_eq (y : Syl) (c : Core) : relTarget y c = c.pc + 4 * immOf y y.d := congrArg (c.pc + ·) (BitVec.mul_comm ..)

/-- BR's condition is not the reserved one where BR issues. -/
theorem br_cond {y : Syl} {s : State} (h : issuesAlone (.br y) y s = true) : (y.q.extractLsb' 0 3).toNat ≠ 7 := by
  have hr : (y.q.extractLsb' 0 3 == 7) = false := issuesAlone_unreserved (f := sylBr) rfl h
  exact fun e => beq_eq_false_iff_ne.1 hr (BitVec.eq_of_toNat_eq e)

theorem br_landing (q : BitVec 3) (t : Word64) : landing (if q = 6 then .direct else .cond) t = t := by
  unfold landing
  split <;> rfl

/-- Settles O15: each transfer is `turns_of_xfer` with its operands. -/
theorem branchResults : Obligations.BranchResults := by
  intro y s c a b rel next code holds
  refine ⟨fun hh => ?_, fun hh => ?_, ?_, ?_, ?_, ?_⟩
  · refine turns_of_xfer (f := sylBr) rfl rfl rfl fun h => ?_
    rw [(condHolds_iff (br_cond h) a b).2 hh, relTarget_eq]
    simp only [transferred, br_landing, if_true]
    rfl
  · refine turns_of_xfer (f := sylBr) rfl rfl rfl fun h => ?_
    rw [Bool.eq_false_iff.2 fun e => hh ((condHolds_iff (br_cond h) a b).1 e)]
    rfl
  · exact turns_of_xfer (f := sylJr) rfl rfl rfl fun _ => rfl
  · refine turns_of_xfer (f := sylCall) rfl rfl rfl fun _ => ?_
    rw [relTarget_eq]
    rfl
  · exact turns_of_xfer (f := sylCallr) rfl rfl rfl fun _ => rfl
  · exact turns_of_xfer (f := sylRet) rfl rfl rfl fun _ => rfl

end Sys2Proof.Words
end

section
/-! PROOF. A core table that lists a core twice: the frame of an RFE that reads FAULT_STATUS (R205, R206, R471). -/
namespace Sys2Proof.Words
open Sys2Proof Sys2Proof.Machine Sys2Proof.Timing Sys2Proof.Tenant

/-! ### A core that does not run (R150) -/

theorem mayTry_notRun {s : State} {n : Nat} (h : (getCore s n).run ≠ .run) : mayTry s n = false := by
  unfold mayTry
  simp only [beq_eq_false_iff_ne.2 h, Bool.false_and]

/-! ### The state -/

/-- A core at H that waits with an RFE for its frame; the frame, which is the whole of segment 7, begins at
FAULT_STATUS in the control region (R27, R471), which the direct map reaches (R229). -/
def framedCore : Core := { run := .wfe, word := [.rfe { n := 0 }], busy := .rfe, hbusy := true, sg := [(7, 0x000000000000001F8003FF0000000038)],
                           trapH := { cause := 0, trapPc := 0x4100, trapSt := 0x23, tAddr := 0 } }

/-- The device after reset with core 0 listed twice: only the first entry is core 0, but FAULT_STATUS sees that the second is halted. -/
def listedTwice : State := { State.reset with cores := [(0, framedCore), (0, { run := .halted })] }

theorem listedTwice_frame : frameRead listedTwice 0 = some (1, 0) := by decide

/-- The micro-routine holds its microaddress in the core, and to write the core removes the second entry: the frame reads as 0. -/
theorem listedTwice_returns :
    (getCore (rfeFrame listedTwice 0) 0).sg = [(0, 0), (7, 0)] ∧ (getCore (rfeFrame listedTwice 0) 0).run = .wfe := by decide

/-- Refutes O24: its third clause takes the frame as it reads before the micro-routine runs, and at `listedTwice` it reads otherwise
once that holds its microaddress. The clause asks nothing of the table of cores, which here is not in its canonical form (a core
listed once). -/
theorem not_entriesAndReturnsCommit : ¬Obligations.EntriesAndReturnsCommit := by
  intro h
  obtain ⟨t, he, -, hr⟩ := h.2.2 { n := 0 } listedTwice 1 0 .h rfl rfl rfl rfl rfl rfl rfl rfl rfl listedTwice_frame (by decide) (by decide) (by decide)
  obtain ⟨hs, hw⟩ := listedTwice_returns
  have hrun : (getCore t 0).run = .wfe := congrArg Core.run hr
  have hsg : (getCore t 0).sg = [(0, 1), (7, 0)] := (congrArg Core.sg hr).trans (by decide)
  have ht : rfeFrame listedTwice 0 = t := by
    have e : advance (rfeFrame listedTwice 0) 0 = advance t 0 := Host.Outcome.next.inj he
    unfold advance at e
    rwa [advanceN_idle (mayTry_notRun (by rw [hw]; decide)), advanceN_idle (mayTry_notRun (by rw [hrun]; decide))] at e
  rw [ht, hsg] at hs
  exact absurd hs (by decide)

end Sys2Proof.Words
end

section
/-! SUPPORT. The address map and the ICINV broadcasts on their way, through fetch, the checks of an access and the token; checks at X2 that
read no data themselves (R24, R116, R135, R227, R285). -/
namespace Sys2Proof.Operations
open Sys2Proof Sys2Proof.Machine Sys2Proof.Timing Sys2Proof.Tenant Sys2Proof.Words

/-! ### The address map and the broadcasts (R24, R135) -/

/-- What tells the regions of physical addresses apart, and the ICINV broadcasts on their way. -/
def chart (s : State) : Word64 × List (Logical × BitVec 5 × LineNo × BitVec 24) := (s.dramTop, s.icNet)

theorem region_of_chart {s t : State} (h : chart t = chart s) (pa : Nat) : region t pa = region s pa := by
  unfold region
  rw [show t.dramTop = s.dramTop from congrArg Prod.fst h]

theorem icNet_of_chart {s t : State} (h : chart t = chart s) : t.icNet = s.icNet := congrArg Prod.snd h

theorem chart_foldl {α : Type} {f : State → α → State} (hf : ∀ s a, chart (f s a) = chart s) (l : List α) (s : State) : chart (l.foldl f s) = chart s := by
  induction l generalizing s with
  | nil => rfl
  | cons a r ih => exact (ih _).trans (hf s a)

theorem setPend_chart (s : State) (k : Nat) : chart (setPend s k) = chart s := by
  unfold setPend
  split
  · obtain ⟨⟨_, _, _, e⟩, -⟩ := hubEvalSrc_offersOnly (modSrc s k fun x => { x with pend := true }) k
    rw [e]
    rfl
  · rfl

theorem pmBump_chart (s : State) (n i k : Nat) : chart (pmBump s n i k) = chart s := by
  unfold pmBump
  dsimp only
  split
  · split
    · exact setPend_chart ..
    · rfl
  · rfl

theorem coreEv_chart (s : State) (n ev k : Nat) (l : Option LineNo) : chart (coreEv s n ev k l) = chart s := by
  unfold coreEv
  dsimp only
  split
  · rfl
  · refine chart_foldl (fun s i => ?_) _ _
    split
    · exact pmBump_chart s n i k
    · rfl

theorem charge_chart (s : State) (a t e : Nat) : chart (charge s a t e) = chart s := by
  unfold charge
  dsimp only
  split <;> rfl

theorem useToken_chart (s : State) (n : Nat) (k : Option Nat) : chart (useToken s n k) = chart s := by
  unfold useToken
  extract_lets c a t now x s1 s2 s3 s4 s5
  have h3 : chart s3 = chart s := charge_chart ..
  have h4 : chart s4 = chart s := by
    unfold s4
    split
    · exact h3
    · split
      · exact (coreEv_chart ..).trans h3
      · exact h3
  have h5 : chart s5 = chart s := (coreEv_chart ..).trans h4
  split
  · exact (coreEv_chart ..).trans ((coreEv_chart ..).trans h5)
  · exact (coreEv_chart ..).trans h5

theorem xlate_chart (s : State) (n : Nat) (k : Kind) (l : Level) (lin : Nat) : chart (xlate s n k l lin).2 = chart s := by
  have he : ∀ b : Bool, chart (if b then s else coreEv s n 0x0D 1) = chart s := fun b => by
    split
    · rfl
    · exact coreEv_chart ..
  unfold xlate
  split
  · rfl
  · extract_lets c r fetch l1 s1 c1
    split
    · split <;> rfl
    · split <;> exact he fetch
    · exact he fetch

theorem checkPart_chart (s : State) (n : Nat) (k : Kind) (l : Level) (b : Bool) (lin len : Nat) :
    chart (checkPart s n k l b lin len).2 = chart s := by
  rw [← xlate_chart s n k l lin]
  unfold checkPart
  grind

theorem checkLin_chart (s : State) (n : Nat) (k : Kind) (l : Level) (b : Bool) (lin w : Nat) : chart (checkLin s n k l b lin w).2 = chart s := by
  unfold checkLin
  grind [checkPart_chart]

theorem checkAcc_chart (s : State) (n : Nat) (sg : BitVec 3) (off : Word64) (w : Nat) (k : Kind) (al b : Bool) :
    chart (checkAcc s n sg off w k al b).2 = chart s := by
  unfold checkAcc
  dsimp only
  split
  · rfl
  · split
    · rfl
    · exact checkLin_chart ..

theorem l1iCheck_chart (s : State) (n : Nat) (l : LineNo) : chart (l1iCheck s n l) = chart s := by
  unfold l1iCheck
  dsimp only
  split <;> rfl

theorem fetchSyl_chart {s t : State} {n pos : Nat} {u : Unit} (e : fetchSyl s n pos = (.ok u, t)) : chart t = chart s := by
  unfold fetchSyl at e
  extract_lets c off at e
  split_ifs at e
  · cases e
    rfl
  split at e
  · cases e
  · rename_i lin _
    have h1 := checkLin_chart s n .fetch c.level false lin 4
    generalize checkLin s n .fetch c.level false lin 4 = x at h1 e
    split at e
    · cases e
    · cases e
    · rename_i ps s1
      have hf : chart (ps.foldl (fun s p => l1iCheck s n (lineOfPa p.pa)) s1) = chart s1 := by
        refine chart_foldl (fun s p => ?_) ps s1
        exact l1iCheck_chart ..
      have h2 := hf.trans h1
      dsimp only at e
      generalize ps.foldl (fun s p => l1iCheck s n (lineOfPa p.pa)) s1 = s2 at h2 e
      split at e
      · cases e
      split at e
      · cases e
      · split at e <;> cases e
        exact h2

theorem fetchWord_chart {n k pos : Nat} {u : Unit} {s t : State} (e : fetchWord n k pos s = (.ok u, t)) : chart t = chart s := by
  induction k generalizing s pos with
  | zero => cases e; rfl
  | succ k ih =>
    unfold fetchWord at e
    split at e
    · exact (ih e).trans (fetchSyl_chart ‹_›)
    · rename_i hne
      exact (hne _ _ e).elim

theorem began_chart (s : State) (n : Nat) (h : HeadWord) : chart (began s n h) = chart s := by
  show chart (if (getCore s n).atX2 then s else useToken s n (some (extent h))) = chart s
  split
  · rfl
  · exact useToken_chart ..

/-! ### Checks at X2 that read no data (R116, R137) -/

/-- The checks of the syllable read no data of their own: it is no LSEG, and no split load whose halves are read together (R117, R223). -/
def readsNothing (a : Act) (m : MRes) : Prop :=
  match a with
  | .load _ _ _ _ _ => m.data = none
  | .lseg _ _ _ => False
  | _ => True

/-- What the checks of an access leave of the core, and of all else. -/
structure ChecksOnly (n : Nat) (s t : State) : Prop where
  quiet : Quiet n (archOf (getCore s n)) s t
  chart : chart t = chart s

theorem ChecksOnly.trans {n : Nat} {s t u : State} (h : ChecksOnly n s t) (k : ChecksOnly n t u) : ChecksOnly n s u :=
  ⟨⟨k.quiet.1.trans h.quiet.1, h.quiet.2.trans k.quiet.2⟩, k.chart.trans h.chart⟩

theorem ChecksOnly.refl (n : Nat) (s : State) : ChecksOnly n s s := ⟨quiet_refl, rfl⟩

theorem checkAcc_only (s : State) (n : Nat) (sg : BitVec 3) (off : Word64) (w : Nat) (k : Kind) (al b : Bool) :
    ChecksOnly n s (checkAcc s n sg off w k al b).2 := ⟨checkAcc_quiet quiet_refl, checkAcc_chart ..⟩

theorem checkLin_only (s : State) (n : Nat) (k : Kind) (l : Level) (b : Bool) (lin w : Nat) :
    ChecksOnly n s (checkLin s n k l b lin w).2 := ⟨checkLin_quiet quiet_refl, checkLin_chart ..⟩

/-- An access as a syllable of unit M asks for it: its checks, and a walk where they miss. -/
def accGot (s : State) (n : Nat) (seg : BitVec 3) (off : Word64) (w : Nat) (k : Kind) (al at_ : Bool) : Got MRes × State :=
  match checkAcc s n seg off w k al at_ with
  | (.fault code x, s) => (.fault code x, s)
  | (.miss x, t) => (.wait, startWalk t n .data k (getCore s n).level x)
  | (.ok lin ps, s) => (.ok { lin := lin, parts := ps }, s)

theorem accGot_ok {s t : State} {n : Nat} {sg : BitVec 3} {off : Word64} {w : Nat} {k : Kind} {al b : Bool} {m : MRes}
    (e : accGot s n sg off w k al b = (.ok m, t)) : ∃ lin ps, m = { lin := lin, parts := ps } ∧ checkAcc s n sg off w k al b = (.ok lin ps, t) := by
  unfold accGot at e
  split at e
  · cases e
  · cases e
  · cases e
    exact ⟨_, _, rfl, ‹_›⟩

theorem accGot_only {s t : State} {n : Nat} {sg : BitVec 3} {off : Word64} {w : Nat} {k : Kind} {al b : Bool} {m : MRes}
    (e : accGot s n sg off w k al b = (.ok m, t)) : ChecksOnly n s t := by
  obtain ⟨_, _, -, h⟩ := accGot_ok e
  have ho := checkAcc_only s n sg off w k al b
  rwa [h] at ho

theorem mCheck_load_ok {s t : State} {n w : Nat} {d : Dst} {sg : Bool} {seg : BitVec 3} {off : Word64} {m : MRes}
    (e : mCheck s n (.load d w sg seg off) = (.ok m, t)) : ∃ v, checkAcc s n seg off w .read false false = (.ok m.lin m.parts, v) ∧
      ((m.data = none ∧ t = v) ∨ ∃ b, m.data = some b ∧
        microRead n .load (tagOf (getCore s n)) (epochTag (getCore s n)) ((getCore s n).level == .h) m.parts v = (some b, t)) := by
  replace e : (match accGot s n seg off w .read false false with
    | (.ok r, u) =>
      if 16 < missCount (getCore s n) + missNeed (getCore s n) r.parts then (.wait, u)
      else if r.parts.length < 2 || r.parts.any (fun p => p.mt == .device) then (.ok r, u)
      else match microRead n .load (tagOf (getCore s n)) (epochTag (getCore s n)) ((getCore s n).level == .h) r.parts u with
        | (none, u) => (.wait, u)
        | (some b, u) => (.ok { r with data := some b }, u)
    | r => r) = (Got.ok m, t) := e
  cases hg : accGot s n seg off w .read false false with
  | mk r v =>
    rw [hg] at e
    cases r with
    | wait => cases e
    | fault _ _ => cases e
    | ok r =>
      obtain ⟨lin, ps, rfl, hc⟩ := accGot_ok hg
      dsimp only at e
      split at e
      · cases e
      split at e
      · cases e
        exact ⟨_, hc, .inl ⟨rfl, rfl⟩⟩
      split at e
      · cases e
      · cases e
        exact ⟨_, hc, .inr ⟨_, rfl, ‹_›⟩⟩

theorem mCheck_lseg_ok {s t : State} {n : Nat} {r : BitVec 3} {seg : BitVec 3} {off : Word64} {m : MRes} (e : mCheck s n (.lseg r seg off) = (.ok m, t)) :
    sgBad m.desc = false ∧ ∃ v lin ps, checkAcc s n seg off 16 .read false false = (.ok lin ps, v) ∧
      t = (microRead n .load (tagOf (getCore s n)) (epochTag (getCore s n)) ((getCore s n).level == .h) ps v).2 := by
  replace e : (match accGot s n seg off 16 .read false false with
    | (.ok r, u) =>
      match microRead n .load (tagOf (getCore s n)) (epochTag (getCore s n)) ((getCore s n).level == .h) r.parts u with
        | (none, u) => (.wait, u)
        | (some b, u) =>
          if pany b then (.fault 0x20 r.lin, u) else if sgBad (BitVec.ofNat 128 (pnat b)) then (.fault 0x09 r.lin, u)
          else (.ok { r with desc := BitVec.ofNat 128 (pnat b) }, u)
    | r => r) = (Got.ok m, t) := e
  cases hg : accGot s n seg off 16 .read false false with
  | mk r v =>
    rw [hg] at e
    cases r with
    | wait => cases e
    | fault _ _ => cases e
    | ok r =>
      obtain ⟨lin, ps, rfl, hc⟩ := accGot_ok hg
      dsimp only at e
      split at e
      · cases e
      · rename_i hm
        split at e
        · cases e
        split at e
        · cases e
        · rename_i hb
          cases e
          exact ⟨Bool.eq_false_iff.2 hb, v, lin, ps, hc, by rw [hm]⟩

theorem maintCheck_only {s t : State} {n : Nat} {op : MaintOp} {seg : BitVec 3} {off : Word64} {m : MRes}
    (e : maintCheck s n op seg off = (.ok m, t)) : ChecksOnly n s t := by
  have hg : ∀ k, accGot s n seg off 1 k false false = (.ok m, t) → ChecksOnly n s t := fun k => accGot_only
  cases op
  case cflush | cclean => exact hg .read e
  case cinv => exact hg .write e
  case icinv =>
    replace e : (match accGot s n seg off 1 .read false false with
      | (.fault code a, s1) => (match accGot s n seg off 1 .fetch false false with | (.fault _ _, _) => (.fault code a, s1) | r => r)
      | r => r) = (Got.ok m, t) := e
    split at e
    · split at e
      · cases e
      · exact hg .fetch e
    · exact hg .read e
  case pref =>
    unfold maintCheck at e
    dsimp only at e
    split at e
    · cases e
      exact .refl n s
    · split at e
      · cases e
        exact .refl n s
      · split at e
        · split at e <;> cases e
          exact .refl n s
        · cases e
          exact .refl n s
  case tlbi | tlbulk =>
    unfold maintCheck at e
    dsimp only at e
    split at e <;> cases e
    exact .refl n s
  case tlblk =>
    unfold maintCheck at e
    dsimp only at e
    split at e
    · cases e
    · rename_i lin _
      split at e
      · cases e
        exact .refl n s
      · have ho := checkLin_only s n .read (getCore s n).level false lin 1
        generalize checkLin s n .read (getCore s n).level false lin 1 = x at ho e
        split at e <;> cases e
        exact ho

/-- Checks that read no data leave everything but the core's TLBs and counts. -/
theorem mCheck_only {s t : State} {n : Nat} {a : Act} {m : MRes} (e : mCheck s n a = (.ok m, t)) (h : readsNothing a m) : ChecksOnly n s t := by
  cases a
  case load d w sg seg off =>
    obtain ⟨v, hc, ⟨-, rfl⟩ | ⟨b, hb, -⟩⟩ := mCheck_load_ok e
    · have ho := checkAcc_only s n seg off w .read false false
      rwa [hc] at ho
    · exact absurd (hb.symm.trans h) nofun
  case store b seg off => exact accGot_only (k := .write) e
  case atomic o d w sg x seg off => exact accGot_only (k := .atomic) e
  case lr d seg off => exact accGot_only (k := .read) e
  case sc d x seg off => exact accGot_only (k := .sc) e
  case maint op seg off => exact maintCheck_only e
  case lseg => exact h.elim
  all_goals
    cases e
    exact .refl n s

end Sys2Proof.Operations
end

section
/-! SUPPORT. A word of one syllable that passes its checks: the state in which its effect begins, and that effect (R90, R93, R151). -/
namespace Sys2Proof.Operations
open Sys2Proof Sys2Proof.Machine Sys2Proof.Timing Sys2Proof.Tenant Sys2Proof.Words

/-! ### The word -/

/-- DE holds no syllable, and this one forms a word by itself. -/
structure Alone (i : Instr) (y : Syl) (f : Syl → Core → Staged) (s : State) : Prop where
  syl : sylOf i = some (y, f)
  odd : y.odd = none
  stop : y.s = true
  word : (getCore s y.n.toNat).word = []

/-- That word passes its checks. -/
structure Passes (i : Instr) (y : Syl) (f : Syl → Core → Staged) (s : State) : Prop extends Alone i y f s where
  passes : passesChecks i y s = true

theorem passes_of_issuesAlone {i : Instr} {y : Syl} {f : Syl → Core → Staged} {s : State} (hs : sylOf i = some (y, f)) (h : issuesAlone i y s = true) :
    Passes i y f s := by
  obtain ⟨ho, hy, hw, hi⟩ := issuesAlone_cases h
  exact ⟨⟨hs, ho, hy, hw⟩, (Bool.and_eq_true _ _ ▸ hi : _ ∧ _).1⟩

/-- A syllable as its word holds it, with the latency of its result (R109). -/
def timed (i : Instr) (g : Staged) : Staged := { g with lat := latency i }

/-- The state after the word's checks at X2. -/
def checked (i : Instr) (y : Syl) (s : State) : State := (x2At i y s).2

/-- The state in which the word's effect begins. -/
def begun (i : Instr) (y : Syl) (s : State) : State := began (checked i y s) y.n.toNat (wordAt i y s)

variable {i : Instr} {y : Syl} {f : Syl → Core → Staged} {s : State}

theorem Alone.wordAt_eq (h : Alone i y f s) : wordAt i y s =
    { ops := [(0, timed i (f y (getCore s y.n.toNat)))], len := sylLen y, complete := true, rest := [] } := by
  rw [wordAt_alone h.syl (fun c => (sylOf_form h.syl c).1) h.odd h.stop h.word, reached_core, sylOf_word h.syl, (sylOf_form h.syl _).2.1]
  rfl

theorem Passes.x2At_ok (h : Passes i y f s) : x2At i y s = (.ok (x2Res i y s), checked i y s) := by
  obtain ⟨-, -, -, -, -, -, hx, -⟩ := passes_cases h.passes
  unfold checked
  rw [← hx]

/-- The checks of the word are those of its syllable, if that is one of unit M. -/
theorem Alone.x2At_eq (h : Alone i y f s) : x2At i y s =
    if (f y (getCore s y.n.toNat)).unit == 2 then mCheck (fetchAt i y s).2 y.n.toNat (f y (getCore s y.n.toNat)).act else (.ok {}, (fetchAt i y s).2) := by
  unfold x2At wordM
  rw [h.wordAt_eq]
  simp only [List.find?, timed]
  by_cases hu : ((f y (getCore s y.n.toNat)).unit == 2) = true
  · simp only [hu, if_true]
  · rw [Bool.not_eq_true] at hu
    simp only [hu, Bool.false_eq_true, if_false]

theorem Passes.mCheck_ok (h : Passes i y f s) (hu : (f y (getCore s y.n.toNat)).unit = 2) :
    mCheck (fetchAt i y s).2 y.n.toNat (f y (getCore s y.n.toNat)).act = (.ok (x2Res i y s), checked i y s) := by
  rw [← h.x2At_ok, h.toAlone.x2At_eq, hu]
  rfl

theorem Alone.checked_other (h : Alone i y f s) (hu : (f y (getCore s y.n.toNat)).unit ≠ 2) : checked i y s = (fetchAt i y s).2 := by
  unfold checked
  rw [h.x2At_eq, if_neg (by simpa using hu)]

theorem Alone.commitWord_eq (h : Alone i y f s) (m : MRes) : commitWord (checked i y s) y.n.toNat (wordAt i y s) m none =
    doAct y.n.toNat (getCore (checked i y s) y.n.toNat) (sylLen y) m none (begun i y s) (f y (getCore s y.n.toNat)).act := by
  rw [commitWord_began]
  unfold begun
  rw [h.wordAt_eq]
  rfl

/-- A syllable that issues alone has its effect in the state in which that begins (R93, R96). -/
theorem exec_alone (hs : sylOf i = some (y, f)) (h : issuesAlone i y s = true) : exec i s = .next
    (doAct y.n.toNat (getCore (checked i y s) y.n.toNat) (sylLen y) (x2Res i y s) none (begun i y s) (f y (getCore s y.n.toNat)).act) := by
  rw [exec_of_sylOf hs, stage_issues (issuesAlone_cases h).2.2.2, ← (passes_of_issuesAlone hs h).commitWord_eq]
  rfl

theorem begun_word (h : Alone i y f s) : (getCore (begun i y s) y.n.toNat).word = [] := by
  unfold begun
  rw [began_word, h.wordAt_eq]

theorem Passes.fetchAt_only (h : Passes i y f s) : ChecksOnly y.n.toNat s (fetchAt i y s).2 := by
  obtain ⟨-, -, ⟨u, hf⟩, -⟩ := passes_cases h.passes
  refine ⟨fetchAt_quiet h.passes, ?_⟩
  have e : fetchWord y.n.toNat (extent (wordAt i y s)) 0 (reached i y s) = (.ok u, (fetchAt i y s).2) := by
    show fetchAt i y s = _
    rw [← hf]
  exact (fetchWord_chart e).trans rfl

/-- The word's checks read no data: they leave the core, and all else. -/
theorem Passes.checked_only (h : Passes i y f s) (hr : readsNothing (f y (getCore s y.n.toNat)).act (x2Res i y s)) :
    ChecksOnly y.n.toNat s (checked i y s) := by
  by_cases hu : (f y (getCore s y.n.toNat)).unit = 2
  · exact h.fetchAt_only.trans (mCheck_only (h.mCheck_ok hu) hr)
  · rw [h.toAlone.checked_other hu]
    exact h.fetchAt_only

/-- The state in which the effect of the syllable's word begins: the PC has moved on, no word is at DE, and nothing holds issue (R143). -/
structure Begins (y : Syl) (s u : State) : Prop where
  quiet : Quiet y.n.toNat (archOf (pastWord y (getCore s y.n.toNat))) s u
  chart : chart u = chart s
  word  : (getCore u y.n.toNat).word = []
  busy  : (getCore u y.n.toNat).busy = .none

theorem Passes.begins (h : Passes i y f s) (hr : readsNothing (f y (getCore s y.n.toNat)).act (x2Res i y s)) : Begins y s (begun i y s) := by
  obtain ⟨hq, hc⟩ := h.checked_only hr
  refine ⟨?_, (began_chart ..).trans hc, begun_word h.toAlone, ?_⟩
  · have hb := began_quiet (wordAt i y s) hq
    rw [h.wordAt_eq] at hb
    unfold begun
    rw [h.wordAt_eq]
    exact hb
  · unfold begun began modCore
    rw [getCore_setCore, if_pos rfl]

/-- A syllable that issues alone, and whose checks read no data, has its effect where `Begins` says; that reads the core before the
word (R93). -/
theorem exec_begins (hs : sylOf i = some (y, f)) (h : issuesAlone i y s = true) (hr : readsNothing (f y (getCore s y.n.toNat)).act (x2Res i y s)) :
    ∃ c0 u, archOf c0 = archOf (getCore s y.n.toNat) ∧ Begins y s u ∧
      exec i s = .next (doAct y.n.toNat c0 (sylLen y) (x2Res i y s) none u (f y (getCore s y.n.toNat)).act) := by
  have hp := passes_of_issuesAlone hs h
  exact ⟨_, _, (hp.checked_only hr).quiet.1, hp.begins hr, exec_alone hs h⟩

/-! ### What a syllable does to its core (R93) -/

/-- A syllable whose checks and whose effect leave everything but its core. -/
theorem does_of_quiet {g : Core → Core} (hs : sylOf i = some (y, f)) (hr : readsNothing (f y (getCore s y.n.toNat)).act (x2Res i y s))
    (ha : ∀ c0 u, archOf c0 = archOf (getCore s y.n.toNat) → Begins y s u → Quiet y.n.toNat (archOf (g (pastWord y (getCore s y.n.toNat)))) s
      (doAct y.n.toNat c0 (sylLen y) (x2Res i y s) none u (f y (getCore s y.n.toNat)).act)) : Does i y s g := by
  intro h
  obtain ⟨c0, u, h0, hb, e⟩ := exec_begins hs h hr
  exact ⟨_, e, ha c0 u h0 hb⟩

/-- The effect of a syllable that acts on its own core alone. -/
theorem does_of_modCore {g : Core → Core} (hs : sylOf i = some (y, f)) (hr : readsNothing (f y (getCore s y.n.toNat)).act (x2Res i y s))
    (ha : ∀ c0 u, archOf c0 = archOf (getCore s y.n.toNat) → Begins y s u →
      doAct y.n.toNat c0 (sylLen y) (x2Res i y s) none u (f y (getCore s y.n.toNat)).act = modCore u y.n.toNat g)
    (hg : ∀ c, archOf (g c) = archOf (g (archOf c))) : Does i y s g := by
  refine does_of_quiet hs hr fun c0 u h0 hb => ?_
  rw [ha c0 u h0 hb, hg]
  exact modCore_does hg hb.quiet

theorem writesG_of_act {v : Word64} (hs : sylOf i = some (y, f)) (ha : (f y (getCore s y.n.toNat)).act = .wG y.d v) : WritesG i y s v :=
  does_of_modCore hs (ha ▸ trivial) (fun _ _ _ _ => by rw [ha]; rfl) (writeG_arch y.d { v := v })

theorem writesLater_of_act {v : Word64} (hs : sylOf i = some (y, f)) (ha : (f y (getCore s y.n.toNat)).act = .longG y.d v) :
    WritesLater i y s (fun c => { idx := c.nextIdx, dst := gDst c y.d, g := v }) :=
  does_of_modCore hs (ha ▸ trivial) (fun _ _ _ _ => by rw [ha]; rfl) fun _ => rfl

/-- A syllable without effect. -/
theorem does_nothing (hs : sylOf i = some (y, f)) (ha : ∀ n c0 k m u, doAct n c0 k m none u (f y (getCore s y.n.toNat)).act = u)
    (hr : readsNothing (f y (getCore s y.n.toNat)).act (x2Res i y s)) : Does i y s (fun c => c) :=
  does_of_quiet hs hr fun _ _ _ hb => by rw [ha]; exact hb.quiet

end Sys2Proof.Operations
end

section
/-! PROOF. The integer operations (R92, R110, R112 to R114). -/
namespace Sys2Proof.Operations
open Sys2Proof Sys2Proof.Machine Sys2Proof.Timing Sys2Proof.Tenant Sys2Proof.Words

section
variable {i : Instr} {y : Syl} {f : Syl → Core → Staged} {s : State} {g h : (w : Nat) → BitVec w → BitVec w → BitVec w} {a b : Word64}

/-- An integer syllable writes what its operation gives at the width of its qualifier (R101, R113). -/
theorem writesG_atWidth (hs : sylOf i = some (y, f))
    (ha : (f y (getCore s y.n.toNat)).act = .wG y.d (atWidth y.q g a b)) (hg : ∀ w x z, g w x z = h w x z) : WritesG i y s (atWidth y.q h a b) := by
  rw [show g = h from funext fun w => funext fun x => funext (hg w x)] at ha
  exact writesG_of_act hs ha

/-- The same of an operation without a second operand (R105). -/
theorem writesG_atWidth_un {g : (w : Nat) → BitVec w → BitVec w} (hs : sylOf i = some (y, f))
    (ha : (f y (getCore s y.n.toNat)).act = .wG y.d (atWidth y.q (fun w x _ => g w x) a 0)) : WritesG i y s (atWidth y.q (fun w x _ => g w x) a b) :=
  writesG_of_act hs ha

/-- A division gives its unit what its operation gives at the width of its qualifier (R110). -/
theorem writesLater_atWidth (hs : sylOf i = some (y, f))
    (ha : (f y (getCore s y.n.toNat)).act = .longG y.d (atWidth y.q g a b)) (hg : ∀ w x z, g w x z = h w x z) :
    WritesLater i y s (fun c => { idx := c.nextIdx, dst := gDst c y.d, g := atWidth y.q h a b }) := by
  rw [show g = h from funext fun w => funext fun x => funext (hg w x)] at ha
  exact writesLater_of_act hs ha

end

/-! ### Comparison and division on bit vectors (R112, R114) -/

theorem flagBit_eq (w : Nat) (a b : BitVec w) : flagBit w (a == b) = if a = b then 1 else 0 := by
  unfold flagBit
  simp only [beq_iff_eq]

theorem flagBit_slt (w : Nat) (a b : BitVec w) : flagBit w (a.slt b) = if a.toInt < b.toInt then 1 else 0 := by
  unfold flagBit
  simp only [BitVec.slt_iff_toInt_lt]

theorem flagBit_ult (w : Nat) (a b : BitVec w) : flagBit w (a.ult b) = if a.toNat < b.toNat then 1 else 0 := by
  unfold flagBit
  simp only [BitVec.ult_iff_lt, BitVec.lt_def]

theorem ite_slt {α : Type} {w : Nat} (a b : BitVec w) (x z : α) : (if a.slt b then x else z) = if a.toInt < b.toInt then x else z := by
  simp only [BitVec.slt_iff_toInt_lt]

theorem ite_ult {α : Type} {w : Nat} (a b : BitVec w) (x z : α) : (if a.ult b then x else z) = if a.toNat < b.toNat then x else z := by
  simp only [BitVec.ult_iff_lt, BitVec.lt_def]

/-- The quotient is rounded toward zero; that of the least number by -1 wraps (R114). -/
theorem divS_eq (w : Nat) (a b : BitVec w) : divS w a b = if b = 0 then BitVec.allOnes w else BitVec.ofInt w (a.toInt.tdiv b.toInt) := by
  have h : a.sdiv b = BitVec.ofInt w (a.toInt.tdiv b.toInt) := BitVec.eq_of_toInt_eq (by rw [BitVec.toInt_sdiv, BitVec.toInt_ofInt])
  unfold divS
  rw [h]

theorem divU_eq (w : Nat) (a b : BitVec w) : divU w a b = if b = 0 then BitVec.allOnes w else BitVec.ofNat w (a.toNat / b.toNat) := by
  unfold divU
  rw [← BitVec.toNat_udiv, BitVec.ofNat_toNat, BitVec.setWidth_eq]

theorem remS_eq (w : Nat) (a b : BitVec w) : remS w a b = if b = 0 then a else BitVec.ofInt w (a.toInt.tmod b.toInt) := by
  unfold remS
  rw [← BitVec.toInt_srem, BitVec.ofInt_toInt]

theorem remU_eq (w : Nat) (a b : BitVec w) : remU w a b = if b = 0 then a else BitVec.ofNat w (a.toNat % b.toNat) := by
  unfold remU
  rw [← BitVec.toNat_umod, BitVec.ofNat_toNat, BitVec.setWidth_eq]

/-- Settles O9: each operation is its syllable's, at the width of its qualifier. -/
theorem integerResults : Obligations.IntegerResults := by
  refine ⟨fun y s => ?_, fun y s => ?_, fun y s => ?_⟩
  · refine ⟨?nop, ?add, ?sub, ?and, ?or, ?xor, ?andn, ?shl, ?shr, ?sar, ?ror, ?cmpeq, ?cmplt, ?cmpltu, ?min, ?max, ?minu, ?maxu, ?clz, ?ctz,
      ?popc, ?ldi, ?ldhi⟩
    case nop => exact does_nothing (f := sylNop) rfl (fun _ _ _ _ _ => rfl) trivial
    case cmpeq => exact writesG_atWidth (f := sylCmpeq) rfl rfl flagBit_eq
    case cmplt => exact writesG_atWidth (f := sylCmplt) rfl rfl flagBit_slt
    case cmpltu => exact writesG_atWidth (f := sylCmpltu) rfl rfl flagBit_ult
    case min => exact writesG_atWidth (f := sylMin) rfl rfl fun _ x z => ite_slt x z x z
    case max => exact writesG_atWidth (f := sylMax) rfl rfl fun _ x z => ite_slt x z z x
    case minu => exact writesG_atWidth (f := sylMinu) rfl rfl fun _ x z => ite_ult x z x z
    case maxu => exact writesG_atWidth (f := sylMaxu) rfl rfl fun _ x z => ite_ult x z z x
    case clz => exact writesG_atWidth_un (f := sylClz) rfl rfl
    case ctz => exact writesG_atWidth_un (f := sylCtz) rfl rfl
    case popc => exact writesG_atWidth_un (f := sylPopc) rfl rfl
    case ldi => exact writesG_of_act (f := sylLdi) rfl rfl
    case ldhi => exact writesG_of_act (f := sylLdhi) rfl rfl
    all_goals exact writesG_atWidth rfl rfl fun _ _ _ => rfl
  · exact ⟨writesG_atWidth (f := sylMul) rfl rfl fun _ _ _ => rfl, writesG_atWidth (f := sylMulh) rfl rfl fun _ _ _ => rfl,
      writesG_atWidth (f := sylMulhu) rfl rfl fun _ _ _ => rfl⟩
  · exact ⟨writesLater_atWidth (f := sylDiv) rfl rfl divS_eq, writesLater_atWidth (f := sylDivu) rfl rfl divU_eq,
      writesLater_atWidth (f := sylRem) rfl rfl remS_eq, writesLater_atWidth (f := sylRemu) rfl rfl remU_eq⟩

end Sys2Proof.Operations
end

section
/-! PROOF. What CLZ, CTZ and POPC count (R112). -/
namespace Sys2Proof.Operations
open Sys2Proof Sys2Proof.Machine

/-- The significant bits of a number that fits its fuel are the least that it fits. -/
theorem bitLen_le_iff {k n : Nat} (h : n < 2 ^ k) (m : Nat) : bitLen k n ≤ m ↔ n < 2 ^ m := by
  induction k generalizing n m with
  | zero =>
    have h0 : n = 0 := by simpa using h
    simp [bitLen, h0]
  | succ k ih =>
    unfold bitLen
    split
    · rename_i h0
      simp [h0]
    · rename_i h0
      cases m with
      | zero => simpa using h0
      | succ m =>
        have hd : n / 2 < 2 ^ k := by omega
        have hi := ih hd m
        omega

theorem clzOf_top {w : Nat} (a : BitVec w) : w - clzOf w a = bitLen w a.toNat := by
  have h : bitLen w a.toNat ≤ w := (bitLen_le_iff a.isLt w).2 a.isLt
  unfold clzOf
  omega

theorem getLsbD_above_clzOf {w : Nat} (a : BitVec w) (j : Nat) (hj : w - clzOf w a ≤ j) : a.getLsbD j = false := by
  rw [clzOf_top] at hj
  exact Nat.testBit_lt_two_pow ((bitLen_le_iff a.isLt j).1 hj)

theorem getLsbD_at_clzOf {w : Nat} (a : BitVec w) (h : clzOf w a < w) : a.getLsbD (w - 1 - clzOf w a) = true := by
  have ht := clzOf_top a
  have hn : 2 ^ (w - 1 - clzOf w a) ≤ a.toNat := by
    rw [← Nat.not_lt, ← bitLen_le_iff a.isLt]
    omega
  obtain ⟨i, hi, hb⟩ := Nat.exists_ge_and_testBit_of_ge_two_pow hn
  have hlt : i < w - clzOf w a := by
    by_contra hc
    exact Bool.false_ne_true ((getLsbD_above_clzOf a i (by omega)).symm.trans hb)
  rwa [show w - 1 - clzOf w a = i by omega]

/-- The trailing zeros end at the lowest one, or there is no one. -/
theorem ctzOf_cases {w : Nat} (a : BitVec w) : (ctzOf w a = w ∧ ∀ j, j < w → a.getLsbD j = false) ∨
    (ctzOf w a < w ∧ a.getLsbD (ctzOf w a) = true ∧ ∀ j, j < ctzOf w a → a.getLsbD j = false) := by
  unfold ctzOf
  cases h : (List.range w).find? (fun i => a.getLsbD i) with
  | none => exact .inl ⟨rfl, by simpa using h⟩
  | some i =>
    obtain ⟨hb, hi, hz⟩ := List.find?_range_eq_some.1 h
    exact .inr ⟨List.mem_range.1 hi, hb, by simpa using hz⟩

theorem popOf_eq_sum {w : Nat} (a : BitVec w) : popOf w a = ((List.range w).map (fun j => if a.getLsbD j then 1 else 0)).sum := by
  unfold popOf
  induction List.range w with
  | nil => rfl
  | cons j r ih =>
    rw [List.map_cons, List.sum_cons, ← ih, List.filter_cons]
    split
    · exact Nat.add_comm ..
    · exact (Nat.zero_add _).symm

/-- Settles O10: the leading zeros by the significant bits, the trailing ones by the lowest one. -/
theorem bitCountsCount : Obligations.BitCountsCount := by
  intro w a
  refine ⟨Nat.sub_le .., getLsbD_above_clzOf a, getLsbD_at_clzOf a, ?_⟩
  obtain ⟨he, hz⟩ | ⟨hl, hb, hz⟩ := ctzOf_cases a
  · exact ⟨he.le, fun j hj => hz j (he ▸ hj), fun hl => absurd he hl.ne, popOf_eq_sum a⟩
  · exact ⟨hl.le, hz, fun _ => hb, popOf_eq_sum a⟩

end Sys2Proof.Operations
end

section
/-! PROOF. SYSCALL, HYPERCALL, BREAK, and RFE of a plain frame (R142, R205). -/
namespace Sys2Proof.Operations
open Sys2Proof Sys2Proof.Machine Sys2Proof.Timing Sys2Proof.Tenant Sys2Proof.Words

/-! ### The trapping operations (R142) -/

/-- A core that records a trap with its own PC. -/
def trapNoted (code : BitVec 8) (arg : Word64) (c : Core) : Core := { c with trap := some { code := code, addr := arg, pc := c.pc } }

theorem does_of_trapOp {i : Instr} {y : Syl} {f : Syl → Core → Staged} {s : State} {code : Nat} {arg : Word64} (hs : sylOf i = some (y, f))
    (ha : (f y (getCore s y.n.toNat)).act = .trapOp code arg) :
    Does i y s (trapNoted (BitVec.ofNat 8 code) arg) := by
  refine does_of_quiet hs (ha ▸ trivial) fun c0 u h0 hb => ?_
  rw [ha]
  unfold doAct
  rw [pc_archOf h0]
  exact modCore_does (A := archOf (pastWord y (getCore s y.n.toNat)))
    (g := fun c => { c with trap := some { code := BitVec.ofNat 8 code, addr := arg, pc := (getCore s y.n.toNat).pc + BitVec.ofNat 64 (4 * sylLen y) } })
    (fun _ => rfl) hb.quiet

/-- BREAK with no reserved field is found at row 5 of R97, at every level. -/
theorem trapFound_brk {y : Syl} {s : State} (h : Alone (.brk y) y sylBreak s) (hx : y.x = none) (hq : y.q = 0) (ha : y.a = 0) (hd : y.d = 0)
    (hf : fetchesWord (.brk y) y s = true) :
    trapFound (.brk y) y s = some { code := 0x38, addr := y.b.setWidth 64, pc := (getCore (fetchAt (.brk y) y s).2 y.n.toNat).pc } := by
  have hb : breach { ops := [(0, timed (.brk y) (sylBreak y (getCore s y.n.toNat)))], len := sylLen y, complete := true, rest := [] } = none :=
    breach_alone (sylOf_form h.syl (getCore s y.n.toNat)) h.stop (show y.x.isSome = false by rw [hx]; rfl)
  unfold trapFound
  rw [if_pos hf, h.wordAt_eq]
  unfold encTrap
  rw [hb]
  simp [timed, sylBreak, bOp, lvlNum, hq, ha, hd]

/-- A syllable alone in its word that breaks a check records its trap, and nothing else changes. -/
theorem exec_traps {i : Instr} {y : Syl} {f : Syl → Core → Staged} {s : State} {p : Trap} (h : Alone i y f s) (ht : trapFound i y s = some p)
    (hp : p.code ≠ 0x20) : ∃ t, exec i s = .next t ∧ Quiet y.n.toNat (archOf { getCore s y.n.toNat with trap := some p }) s t := by
  obtain ⟨-, ⟨u, hf⟩, -⟩ := trapFound_cases ht
  obtain ⟨hc, hv⟩ := fetchAt_fetched hf
  have hr : (wordAt i y s).rest = [] := by rw [h.wordAt_eq]
  exact ⟨_, (exec_of_sylOf h.syl s).trans (congrArg _ (stage_traps ht hp)), recordTrap_alone hc ((headWord_rest hv).trans hr) p _⟩

/-! ### RFE (R205) -/

/-- An RFE whose level is one that TRAPST may name, of a plain frame, commits with its word. -/
theorem tryIssue_rfe {s t v : State} {n : Nat} {u : Unit} {m : MRes} {h : HeadWord} {l : Level} (hm : mayTry s n = true) (hx : (getCore s n).atX2 = false)
    (ho : (getCore s n).owe = 0) (hh : headWord (getCore s n) = h) (hd : pendHold (getCore s n) h = 0)
    (ht : tokenReady (getCore s n) (coreTime s n) = true) (hf : fetchWord n (extent h) 0 s = (.ok u, t)) (he : encTrap (getCore t n) h = none)
    (hk : held t n h = false) (hb : (bindWord h && bindTooSoon t n) = false) (hw : wordM t n h = (.ok m, v)) (hp : wordParity v n h m = false)
    (hr : rfeWord h = true) (hl : lvlOf (fld (bankOf (getCore v n) (getCore v n).level).trapSt 0 2) = some l) (hle : lvlNum l ≤ lvlNum (getCore v n).level)
    (hs : (bankOf (getCore v n) (getCore v n).level).trapSt.getLsbD 5 = false) : tryIssue s n = (true, commitWord v n h m none) := by
  unfold tryIssue
  rw [hm]
  dsimp only [Bool.not_true]
  rw [if_neg (by decide), ho]
  unfold payOwed
  rw [payHold_none (by rw [hh]; exact hd), ho, hh, hd, ht, hx, if_neg (by decide), hf]
  dsimp only
  rw [he]
  dsimp only
  rw [hk, if_neg (by decide), hb, if_neg (by decide), hw]
  dsimp only
  rw [hp, if_neg (by decide), hr, if_pos rfl, hl, hs]
  dsimp only
  rw [if_neg (by simpa using hle), if_neg (by decide)]

/-- The core after the return of an RFE, which comes back to the level, the IE and the PC of its level's trap registers. -/
def returned (l : Level) (c : Core) : Core :=
  { c with level := l, ie := (bankOf c c.level).trapSt.getLsbD 2, pc := (bankOf c c.level).trapPc, pred := {},
           sbusy := c.sbusy && c.level == .h, hbusy := c.hbusy && c.level != .h }

/-- A core that holds no reservation and no words. -/
def unheld (c : Core) : Core := { c with resv := none, word := [] }

theorem doRfe_eq (s : State) (n : Nat) : doRfe s n none = modCore (dropQueue (dropResv s n) n) n
    (fun c => returned ((lvlOf (fld (bankOf c c.level).trapSt 0 2)).getD c.level) c) := rfl

theorem bank_unheld (c : Core) : bankOf (unheld c) (unheld c).level = bankOf c c.level := by
  unfold bankOf
  rfl

theorem doRfe_core {s : State} {n : Nat} {l : Level} (h : lvlOf (fld (bankOf (getCore s n) (getCore s n).level).trapSt 0 2) = some l) :
    CoreBecomes n (returned l (unheld (getCore s n))) s (doRfe s n none) := by
  have hb := (dropQueue_core (dropResv_core s n)).modCore (fun c => returned ((lvlOf (fld (bankOf c c.level).trapSt 0 2)).getD c.level) c)
  rw [doRfe_eq]
  have hl : (lvlOf (fld (bankOf (unheld (getCore s n)) (unheld (getCore s n)).level).trapSt 0 2)).getD (unheld (getCore s n)).level = l := by
    rw [bank_unheld, h]
    rfl
  rw [← hl]
  exact hb

theorem regsOf_returned {c d : Core} {l : Level} (h : archOf c = archOf d) :
    regsOf (returned l (unheld c)) = regsOf (returned l d) := by
  show regsOf (returned l (archOf c)) = regsOf (returned l (archOf d))
  rw [h]

theorem trapSt_archOf {c d : Core} (h : archOf c = archOf d) : (bankOf c c.level).trapSt = (bankOf d d.level).trapSt := by
  show (bankOf (archOf c) (archOf c).level).trapSt = (bankOf (archOf d) (archOf d).level).trapSt
  rw [h]

/-- A word with an RFE that passes its checks commits, if it may return to the level that TRAPST names, by a plain frame. -/
theorem stage_rfe {i : Instr} {y : Syl} {s : State} {l : Level} (h : passesChecks i y s = true) (hr : rfeWord (wordAt i y s) = true)
    (ha : archOf (getCore (checked i y s) y.n.toNat) = archOf (getCore s y.n.toNat))
    (hl : lvlOf (fld (bankOf (getCore s y.n.toNat) (getCore s y.n.toNat).level).trapSt 0 2) = some l) (hle : lvlNum l ≤ lvlNum (getCore s y.n.toNat).level)
    (h5 : (bankOf (getCore s y.n.toNat) (getCore s y.n.toNat).level).trapSt.getLsbD 5 = false) :
    stage i y s = commitWord (checked i y s) y.n.toNat (wordAt i y s) (x2Res i y s) none := by
  obtain ⟨hq, hn, ⟨u, hf⟩, he, hk, hb, hx2, hp⟩ := passes_cases h
  obtain ⟨hs, hm, hx, ho, hd, ht⟩ := ready_cases hq
  have hc := reached_core i y s
  have hfe : fetchWord y.n.toNat (extent (wordAt i y s)) 0 (reached i y s) = (.ok u, (fetchAt i y s).2) := by
    rw [← hf]
    rfl
  have hxe : wordM (fetchAt i y s).2 y.n.toNat (wordAt i y s) = (.ok (x2Res i y s), checked i y s) := by
    rw [← hx2]
    rfl
  have e : tryIssue (reached i y s) y.n.toNat = (true, commitWord (checked i y s) y.n.toNat (wordAt i y s) (x2Res i y s) none) :=
    tryIssue_rfe (t := (fetchAt i y s).2) (v := checked i y s) (m := x2Res i y s) (h := wordAt i y s) (u := u) (l := l)
      hm (by rw [hc]; exact hx) (by rw [hc]; exact ho) rfl (by rw [← hd]; unfold pendHold; rw [hc])
      (by rw [hc]; exact ht) hfe he hk hb hxe hp hr (by rw [trapSt_archOf ha]; exact hl)
      (by rw [level_archOf ha]; exact hle) (by rw [trapSt_archOf ha]; exact h5)
  have hw : (getCore (commitWord (checked i y s) y.n.toNat (wordAt i y s) (x2Res i y s) none) y.n.toNat).word = [] := commitWord_word hn
  have ha : advance (reached i y s) y.n.toNat = commitWord (checked i y s) y.n.toNat (wordAt i y s) (x2Res i y s) none := by
    unfold advance advanceN
    rw [e]
    exact advanceN_empty hw 5
  rw [stage_taken hs, ha]
  exact lookAhead_empty hw

/-- RFE, alone in its word, returns. -/
theorem exec_rfe {y : Syl} {s : State} {l : Level} (h : Passes (.rfe y) y sylRfe s)
    (hl : lvlOf (fld (bankOf (getCore s y.n.toNat) (getCore s y.n.toNat).level).trapSt 0 2) = some l) (hle : lvlNum l ≤ lvlNum (getCore s y.n.toNat).level)
    (h5 : (bankOf (getCore s y.n.toNat) (getCore s y.n.toNat).level).trapSt.getLsbD 5 = false) :
    exec (.rfe y) s = .next (doRfe (begun (.rfe y) y s) y.n.toNat none) := by
  have hq := (h.checked_only trivial).quiet
  rw [exec_of_sylOf h.syl, stage_rfe h.passes (by rw [h.wordAt_eq]; rfl) hq.1 hl hle h5, h.commitWord_eq]
  rfl

/-- Settles O16: the trapping operations by their recorded trap, RFE by `exec_rfe`. -/
theorem systemCallsAndReturns : Obligations.SystemCallsAndReturns := by
  refine ⟨fun y s => ?_, fun y s hy hw hx hq ha hd h => ?_, ?_⟩
  · exact ⟨does_of_trapOp (f := sylSyscall) rfl rfl, does_of_trapOp (f := sylHypercall) rfl rfl⟩
  · unfold fetchesAlone at h
    simp only [Bool.and_eq_true, Option.isNone_iff_eq_none] at h
    obtain ⟨⟨⟨ho, -⟩, -⟩, hf⟩ := h
    have hal : Alone (.brk y) y sylBreak s := ⟨rfl, ho, hy, hw⟩
    have ht := trapFound_brk hal hx hq ha hd hf
    rw [pc_archOf (fetchAt_fetched (trapFound_cases ht).2.1.choose_spec).1.1] at ht
    obtain ⟨t, e, hr, he⟩ := exec_traps hal ht (show (0x38 : BitVec 8) ≠ 0x20 by decide)
    exact ⟨t, e, he, hr⟩
  · intro y s l n c b ho hy hw hp hl hle h5
    have h : Passes (.rfe y) y sylRfe s := ⟨⟨rfl, ho, hy, hw⟩, hp⟩
    have hq := (h.begins trivial).quiet
    have hb := doRfe_core (s := begun (.rfe y) y s) (n := n) (l := l) (by rw [trapSt_archOf hq.1]; exact hl)
    refine ⟨_, exec_rfe h hl hle h5, regsSame_of_coreBecomes hq.2 hb, ?_, ?_, ?_⟩
    · rw [hb.core]; rfl
    · rw [hb.core]; rfl
    · rw [hb.core, regsOf_returned hq.1]
      rfl

end Sys2Proof.Operations
end

section
/-! SUPPORT. Effects that leave the registers (R119, R135), and reads that checks make of their own (R117, R208, R223). -/
namespace Sys2Proof.Operations
open Sys2Proof Sys2Proof.Machine Sys2Proof.Timing Sys2Proof.Tenant Sys2Proof.Words

theorem readG_archOf {c d : Core} (h : archOf c = archOf d) (r : BitVec 6) : readG c r = readG d r := by
  show readG (archOf c) r = readG (archOf d) r
  rw [h]

theorem tagOf_archOf {c d : Core} (h : archOf c = archOf d) : tagOf c = tagOf d := by
  show tagOf (archOf c) = tagOf (archOf d)
  rw [h]

theorem epochTag_archOf {c d : Core} (h : archOf c = archOf d) : epochTag c = epochTag d := by
  show epochTag (archOf c) = epochTag (archOf d)
  rw [h]

/-- What leaves the registers leaves what a core's own change left of the others. -/
theorem regs_of_kept {n : Nat} {A : Core} {s u t : State} (hq : Quiet n (archOf A) s u) (hk : RegsKept u t) :
    RegsSame n s t ∧ regsOf (getCore t n) = regsOf A :=
  ⟨⟨fun k hn => (hk.cores k).trans (congrArg regsOf (hq.2.cores k hn)), fun a => (hk.bytes a).trans (hq.2.bytes a)⟩,
    (hk.cores n).trans (regsOf_of_arch hq.1)⟩

theorem regsKept_of_quiet {n : Nat} {s t : State} (h : Quiet n (archOf (getCore s n)) s t) : RegsKept s t := by
  refine ⟨fun k => ?_, h.2.bytes⟩
  by_cases hk : k = n
  · subst hk
    exact regsOf_of_arch h.1
  · rw [h.2.cores k hk]

/-! ### Reads that a micro-routine makes (R208) -/

section
variable {F : Nat → Core} {M : List Host.Cell}

/-- A load of configuration space takes at most a free value. -/
theorem cfgLoad_state (s : State) (o : Nat) : (cfgLoad s o).2 = s ∨ (cfgLoad s o).2 = (free s).2 := by
  unfold cfgLoad
  extract_lets bus dev reg ones open_
  split
  · split
    · split
      · exact .inr rfl
      · exact .inl rfl
    · exact .inl rfl
  · split
    · split
      · exact .inl rfl
      · exact .inr rfl
    · exact .inl rfl

/-- A load of the control region takes at most a free value, or makes the record of a bad access (R29). -/
theorem ctlLoad_state (s : State) (n off w : Nat) :
    (ctlLoad s n off w).2 = s ∨ (ctlLoad s n off w).2 = (free s).2 ∨ (ctlLoad s n off w).2 = ctlAccess s n w off := by
  have hr : (ctlRead s n off w).2 = s ∨ (ctlRead s n off w).2 = (free s).2 := by
    unfold ctlRead
    split
    · split
      · exact cfgLoad_state ..
      · exact .inl rfl
    · exact .inl rfl
  unfold ctlLoad
  split
  · split
    · exact .inr (.inl rfl)
    · exact hr.imp_right .inl
  · exact .inr (.inr rfl)

theorem ctlAccess_seen {s : State} (n w off : Nat) (hk : Seen F M s) : Seen F M (ctlAccess s n w off) := jrn_seen hk

theorem ctlLoad_seen {s : State} (n off w : Nat) (hk : Seen F M s) : Seen F M (ctlLoad s n off w).2 := by
  obtain e | e | e := ctlLoad_state s n off w <;> rw [e]
  · exact hk
  · exact free_seen' hk
  · exact ctlAccess_seen n w off hk

theorem microPart_seen {s : State} (n : Nat) (u : ReqUse) (t : Tdid) (ep : BitVec 8) (b : Bool) (p : Part) (hk : Seen F M s) :
    Seen F M (microPart s n u t ep b p).2 := by
  unfold microPart
  extract_lets c l off x a
  split
  · exact hk
  split
  · exact ctlLoad_seen _ _ _ hk
  · exact hk
  · split
    · exact hk
    · split
      · exact hk
      · exact sendOut_seen hk
  · split
    · have h2 := l2Read_seen' (n := n) (l := l) (i := x.gen) (u := u) (t := t) (ep := ep) (atH := b) hk
      split <;> rename_i e <;> rw [e] at h2 <;> exact h2
    · split
      · exact hk
      · split
        · exact hk
        · exact openReq_seen hk

theorem microParts_seen {s : State} (n : Nat) (u : ReqUse) (t : Tdid) (ep : BitVec 8) (b : Bool) (l : List Part) (hk : Seen F M s) :
    Seen F M (microParts n u t ep b l s).2 := by
  induction l generalizing s with
  | nil => exact hk
  | cons p r ih =>
    have h1 := microPart_seen n u t ep b p hk
    unfold microParts
    split
    · rename_i e
      rwa [e] at h1
    · rename_i q v e
      rw [e] at h1
      have h2 := ih h1
      split <;> rename_i e <;> rw [e] at h2 <;> exact h2

theorem microRead_seen {s : State} (n : Nat) (u : ReqUse) (t : Tdid) (ep : BitVec 8) (b : Bool) (l : List Part) (hk : Seen F M s) :
    Seen F M (microRead n u t ep b l s).2 := by
  have h1 := microParts_seen n u t ep b l hk
  unfold microRead
  split
  · rename_i e
    rwa [e] at h1
  · rename_i q v e
    rw [e] at h1
    exact modCore_seen (fun _ => ⟨rfl, fun h => h⟩) h1

end

theorem microRead_regsKept (n : Nat) (u : ReqUse) (t : Tdid) (ep : BitVec 8) (b : Bool) (l : List Part) (s : State) :
    RegsKept s (microRead n u t ep b l s).2 := regsKept_of_seen (microRead_seen n u t ep b l seen_refl)

/-! ### A word whose checks read data (R117, R223) -/

/-- Checks at X2 leave every register and every byte of DRAM, whatever they read. -/
theorem mCheck_regsKept {s t : State} {n : Nat} {a : Act} {m : MRes} (e : mCheck s n a = (.ok m, t)) : RegsKept s t := by
  by_cases hr : readsNothing a m
  · exact regsKept_of_quiet (mCheck_only e hr).quiet
  cases a
  case load d w sg seg off =>
    obtain ⟨v, hc, ⟨hd, -⟩ | ⟨b, -, hm⟩⟩ := mCheck_load_ok e
    · exact absurd hd hr
    · have ho := regsKept_of_quiet (checkAcc_only s n seg off w .read false false).quiet
      have hk := microRead_regsKept n .load (tagOf (getCore s n)) (epochTag (getCore s n)) ((getCore s n).level == .h) m.parts v
      rw [hc] at ho
      rw [hm] at hk
      exact regsKept_trans ho hk
  case lseg r seg off =>
    obtain ⟨-, v, lin, ps, hc, rfl⟩ := mCheck_lseg_ok e
    have ho := regsKept_of_quiet (checkAcc_only s n seg off 16 .read false false).quiet
    rw [hc] at ho
    exact regsKept_trans ho (microRead_regsKept ..)
  all_goals exact absurd trivial hr

theorem regsOf_movedPc {c d : Core} (h : regsOf c = regsOf d) (k : Nat) : regsOf (movedPc c k) = regsOf (movedPc d k) := by
  show regsOf (movedPc (regsOf c) k) = regsOf (movedPc (regsOf d) k)
  rw [h]

theorem archOf_movedPc (c : Core) (k : Nat) : movedPc (archOf c) k = archOf (movedPc c k) := rfl

theorem pastWord_eq (y : Syl) (c : Core) : pastWord y c = movedPc c (sylLen y) := rfl

theorem began_regs (s : State) (n : Nat) (h : HeadWord) :
    RegsSame n s (began s n h) ∧ regsOf (getCore (began s n h) n) = regsOf (movedPc (getCore s n) h.len) := by
  obtain ⟨hc, hs⟩ := began_quiet (n := n) (s := s) h quiet_refl
  rw [archOf_movedPc] at hc
  exact ⟨regsSame_of_else hs, regsOf_of_arch hc⟩

section
variable {i : Instr} {y : Syl} {f : Syl → Core → Staged} {s : State}

theorem Passes.checked_regsKept (h : Passes i y f s) : RegsKept s (checked i y s) := by
  by_cases hu : (f y (getCore s y.n.toNat)).unit = 2
  · exact regsKept_trans (regsKept_of_quiet h.fetchAt_only.quiet) (mCheck_regsKept (h.mCheck_ok hu))
  · rw [h.toAlone.checked_other hu]
    exact regsKept_of_quiet h.fetchAt_only.quiet

/-- Where the word's effect begins, no register has changed but the PC. -/
theorem Passes.begun_regs (h : Passes i y f s) :
    RegsSame y.n.toNat s (begun i y s) ∧ regsOf (getCore (begun i y s) y.n.toNat) = regsOf (pastWord y (getCore s y.n.toNat)) := by
  have hk := h.checked_regsKept
  obtain ⟨hs, hc⟩ := began_regs (checked i y s) y.n.toNat (wordAt i y s)
  unfold begun
  rw [h.wordAt_eq] at hs hc ⊢
  rw [pastWord_eq]
  exact ⟨⟨fun k hn => (hs.cores k hn).trans (hk.cores k), fun a => (hs.bytes a).trans (hk.bytes a)⟩,
    hc.trans (regsOf_movedPc (hk.cores y.n.toNat) (sylLen y))⟩

end

end Sys2Proof.Operations
end

section
/-! PROOF. FENCE, the begin of a block-repeat operation, PREF, TLBLK, TLBULK and LSEG (R122, R130 to R139, R223, R240). -/
namespace Sys2Proof.Operations
open Sys2Proof Sys2Proof.Machine Sys2Proof.Timing Sys2Proof.Tenant Sys2Proof.Words

section
variable {i : Instr} {y : Syl} {f : Syl → Core → Staged} {s : State}

/-- The core once a block-repeat operation has begun, its PC that of the core before its word (R131, R134). -/
def blockBegun (b : Blk) (c x : Core) : Core := if (readG c 4).v = 0 then x else { x with blk := some b, pc := c.pc, owe := x.owe + 10 }

theorem does_of_block {b : Blk} (hs : sylOf i = some (y, f)) (ha : (f y (getCore s y.n.toNat)).act = .block b) :
    Does i y s (blockBegun b (getCore s y.n.toNat)) := by
  refine does_of_quiet hs (ha ▸ trivial) fun c0 u h0 hb => ?_
  rw [ha]
  unfold doAct blockBegun
  rw [readG_archOf h0, pc_archOf h0]
  split
  · exact hb.quiet
  · exact modCore_does (A := archOf (pastWord y (getCore s y.n.toNat)))
      (g := fun c => { c with blk := some b, pc := (getCore s y.n.toNat).pc, owe := c.owe + 10 }) (fun _ => rfl) hb.quiet

/-- A maintenance operation changes no register but the PC (R135, R137). -/
theorem maint_regs {op : MaintOp} {seg : BitVec 3} {off : Word64} (hs : sylOf i = some (y, f)) (ha : (f y (getCore s y.n.toNat)).act = .maint op seg off)
    (h : issuesAlone i y s = true) : ∃ t, exec i s = .next t ∧ RegsSame y.n.toNat s t ∧
      regsOf (getCore t y.n.toNat) = regsOf (pastWord y (getCore s y.n.toNat)) := by
  obtain ⟨c0, u, -, hb, e⟩ := exec_begins hs h (ha ▸ trivial)
  rw [ha, doAct] at e
  exact ⟨_, e, regs_of_kept hb.quiet (regsKept_of_seen (doMaint_seen seen_refl))⟩

end

theorem regsOf_writeSg {c d : Core} (h : regsOf c = regsOf d) (r : BitVec 3) (x : Word128) : regsOf (writeSg c r x) = regsOf (writeSg d r x) := by
  show regsOf (writeSg (regsOf c) r x) = regsOf (writeSg (regsOf d) r x)
  rw [h]

/-- LSEG writes its segment register with the descriptor that its checks have read (R223). -/
theorem lseg_regs {i : Instr} {y : Syl} {f : Syl → Core → Staged} {s : State} {r seg : BitVec 3} {off : Word64} (hs : sylOf i = some (y, f))
    (hu : (f y (getCore s y.n.toNat)).unit = 2) (ha : (f y (getCore s y.n.toNat)).act = .lseg r seg off) (h : issuesAlone i y s = true) :
    ∃ t, exec i s = .next t ∧ RegsSame y.n.toNat s t ∧ sgBad (x2Res i y s).desc = false ∧
      regsOf (getCore t y.n.toNat) = regsOf (writeSg (pastWord y (getCore s y.n.toNat)) r (x2Res i y s).desc) := by
  have hp := passes_of_issuesAlone hs h
  obtain ⟨hk, hc⟩ := hp.begun_regs
  have e := exec_alone hs h
  have hm := hp.mCheck_ok hu
  rw [ha] at e hm
  unfold doAct modCore at e
  refine ⟨_, e, ⟨fun k hn => ?_, fun a => (memRead_setCore ..).trans (hk.bytes a)⟩, (mCheck_lseg_ok hm).1, ?_⟩
  · rw [getCore_setCore, if_neg hn, hk.cores k hn]
  · rw [getCore_setCore, if_pos rfl]
    exact regsOf_writeSg hc ..

/-- Settles O13, by the effect of each syllable where its word begins it. -/
theorem fencesBlocksAndSegments : Obligations.FencesBlocksAndSegments := by
  constructor
  · intro y s c begins
    refine ⟨does_nothing (f := sylFence) rfl (fun _ _ _ _ _ => rfl) trivial, ?_, ?_, ?_, ?_⟩
    · exact does_of_block (f := sylMovb) rfl rfl
    · exact does_of_block (f := sylSetb) rfl rfl
    · exact does_of_block (f := sylCmpb) rfl rfl
    · exact does_of_block (f := sylScanb) rfl rfl
  · intro y s n quiet
    exact ⟨maint_regs (f := sylPref) rfl rfl, maint_regs (f := sylTlblk) rfl rfl, maint_regs (f := sylTlbulk) rfl rfl, lseg_regs (f := sylLseg) rfl rfl rfl⟩

end Sys2Proof.Operations
end

section
/-! PROOF. WFE, WAITT, NAP, SEV, RDTIME, PFLUSH and PBAR (R142, R145 to R148, R171). -/
namespace Sys2Proof.Operations
open Sys2Proof Sys2Proof.Machine Sys2Proof.Timing Sys2Proof.Tenant Sys2Proof.Words

theorem evflag_archOf {c d : Core} (h : archOf c = archOf d) : c.evflag = d.evflag := by
  show (archOf c).evflag = (archOf d).evflag
  rw [h]

theorem offer_archOf {c d : Core} (h : archOf c = archOf d) : c.offer = d.offer := by
  show (archOf c).offer = (archOf d).offer
  rw [h]

theorem coreTime_of_else {n : Nat} {s t : State} (h : ElseSame n s t) : coreTime t n = coreTime s n := by
  unfold coreTime courseOf physOf plumbOf plumbAt
  rw [h.phys, h.plumb]

section
variable {i : Instr} {y : Syl} {f : Syl → Core → Staged} {s : State}

/-- What two changes of a core have in common is what `archOf` sees. -/
theorem does_congr {g h : Core → Core} (hd : Does i y s g) (hg : ∀ c, archOf (g c) = archOf (h c)) : Does i y s h := by
  intro hi
  obtain ⟨t, e, hc, he⟩ := hd hi
  exact ⟨t, e, hc.trans (hg _), he⟩

/-! ### A wait (R146 to R148) -/

/-- A core that waits, its reservation gone (R127). -/
def waited (r : Run) (c : Core) : Core := { c with resv := none, run := r }

/-- With no delivery on offer, a wait that begins goes on. -/
theorem beginWait_core {s : State} {n : Nat} (h : (getCore s n).offer = none) (r : Run) : CoreBecomes n (waited r (getCore s n)) s (beginWait s n r) := by
  have hc := (dropResv_core s n).modCore (fun c => { c with run := r })
  have ho : (getCore (modCore (dropResv s n) n (fun c => { c with run := r })) n).offer = none := by
    rw [hc.core]
    exact h
  unfold beginWait
  dsimp only
  rw [ho]
  exact hc

/-- A core that has the registers of the one in which its word's effect began, but for the time of its NAP, and then waits. -/
theorem beginWait_regs {u v : State} {d : Core} (hb : Begins y s u) (hd : CoreBecomes y.n.toNat d u v) (ho : (getCore s y.n.toNat).offer = none)
    (hr : ∀ k, regsOf { d with napAt := k } = regsOf { getCore u y.n.toNat with napAt := k }) (hdo : d.offer = (getCore u y.n.toNat).offer) (r : Run) :
    RegsSame y.n.toNat s (beginWait v y.n.toNat r) ∧ CoreBecomes y.n.toNat (waited r d) u (beginWait v y.n.toNat r) ∧
      regsOf (getCore (beginWait v y.n.toNat r) y.n.toNat) =
        regsOf { pastWord y (getCore s y.n.toNat) with run := r, napAt := (getCore (beginWait v y.n.toNat r) y.n.toNat).napAt } := by
  have hvo : (getCore v y.n.toNat).offer = none := by
    rw [hd.core, hdo, offer_archOf hb.quiet.1]
    exact ho
  have hw := beginWait_core hvo r
  rw [hd.core] at hw
  refine ⟨regsSame_of_coreBecomes hb.quiet.2 (hd.trans hw), hd.trans hw, ?_⟩
  rw [hw.core]
  exact congrArg (fun c : Core => { c with run := r }) ((hr d.napAt).trans (congrArg (fun c : Core => { c with napAt := d.napAt }) (regsOf_of_arch hb.quiet.1)))

/-- WFE and the WAITT of a deadline to come, without an event held. -/
theorem waits_of_act {r : Run} (hs : sylOf i = some (y, f)) (hr : readsNothing (f y (getCore s y.n.toNat)).act (x2Res i y s)) (hn : r ≠ .nap)
    (ha : ∀ c0 u, archOf c0 = archOf (getCore s y.n.toNat) → Begins y s u →
      doAct y.n.toNat c0 (sylLen y) (x2Res i y s) none u (f y (getCore s y.n.toNat)).act = beginWait u y.n.toNat r)
    (h : issuesAlone i y s = true) (ho : (getCore s y.n.toNat).offer = none) : ∃ t, exec i s = .next t ∧ RegsSame y.n.toNat s t ∧
      (getCore t y.n.toNat).resv = none ∧
      regsOf (getCore t y.n.toNat) = regsOf { pastWord y (getCore s y.n.toNat) with run := r, napAt := (getCore t y.n.toNat).napAt } ∧
      (r = .nap → (getCore t y.n.toNat).l1i = [] ∧ (getCore t y.n.toNat).l1d = []) := by
  obtain ⟨c0, u, h0, hb, e⟩ := exec_begins hs h hr
  rw [ha c0 u h0 hb] at e
  obtain ⟨h1, h2, h3⟩ := beginWait_regs hb ⟨rfl, fun _ _ => rfl, rfl, rfl⟩ ho (fun _ => rfl) rfl r
  exact ⟨_, e, h1, congrArg Core.resv h2.core, h3, fun hr => absurd hr hn⟩

/-- A core whose L1 caches NAP has emptied, from the time `k` on (R148, R450). -/
def napped (k : Nat) (c : Core) : Core := { c with l1i := [], l1d := [], napAt := k }

theorem naps_of_act (hs : sylOf i = some (y, f)) (ha : (f y (getCore s y.n.toNat)).act = .nap) (h : issuesAlone i y s = true)
    (ho : (getCore s y.n.toNat).offer = none) : ∃ t, exec i s = .next t ∧ RegsSame y.n.toNat s t ∧ (getCore t y.n.toNat).resv = none ∧
      regsOf (getCore t y.n.toNat) = regsOf { pastWord y (getCore s y.n.toNat) with run := .nap, napAt := (getCore t y.n.toNat).napAt } ∧
      (Run.nap = .nap → (getCore t y.n.toNat).l1i = [] ∧ (getCore t y.n.toNat).l1d = []) := by
  obtain ⟨c0, u, -, hb, e⟩ := exec_begins hs h (ha ▸ trivial)
  rw [ha, doAct] at e
  have hd : CoreBecomes y.n.toNat (napped (coreTime u y.n.toNat) (getCore u y.n.toNat)) u
      (modCore u y.n.toNat (fun c => { c with l1i := [], l1d := [], napAt := coreTime u y.n.toNat })) := coreBecomes_setCore rfl rfl rfl
  obtain ⟨h1, h2, h3⟩ := beginWait_regs hb hd ho (fun _ => rfl) rfl .nap
  exact ⟨_, e, h1, congrArg Core.resv h2.core, h3, fun _ => ⟨congrArg Core.l1i h2.core, congrArg Core.l1d h2.core⟩⟩

/-! ### The other syllables (R142, R145, R171) -/

/-- The core's event flag is taken, and a register written with its reason (R147). -/
def flagTaken (r : BitVec 6) (c : Core) : Core := writeG { c with evflag := false } r { v := 1 }

theorem flagTaken_arch (r : BitVec 6) (c : Core) : archOf (flagTaken r c) = archOf (flagTaken r (archOf c)) := by
  unfold flagTaken
  rw [writeG_arch, show archOf { c with evflag := false } = archOf { archOf c with evflag := false } from rfl, ← writeG_arch]

theorem sev_sends {g : Bool} {v : Word64} (hs : sylOf i = some (y, f)) (ha : (f y (getCore s y.n.toNat)).act = .sev g v) :
    SendsWord i y s (fun st t => archOf (getCore t y.n.toNat) = archOf (pastWord y (getCore s y.n.toNat)) ∧
      t.sevs = s.sevs ++ [(tagOf (getCore s y.n.toNat), g, v.setWidth 8, st)]) := by
  intro h
  obtain ⟨c0, u, h0, hb, e⟩ := exec_begins hs h (ha ▸ trivial)
  rw [ha, doAct, tagOf_archOf h0] at e
  obtain ⟨h1, h2⟩ := regs_of_kept (t := { stamped u (courseOf u y.n.toNat) with
    sevs := u.sevs ++ [(tagOf (getCore s y.n.toNat), g, v.setWidth 8, BitVec.ofNat 24 (stampOf u (courseOf u y.n.toNat)))] })
    hb.quiet (regsKept_of_tables rfl rfl)
  exact ⟨_, _, e, h1, h2, hb.quiet.1, by rw [← hb.quiet.2.sevs]; rfl⟩

end

/-- Settles O21: the waits by `beginWait_core`, the others by what each does to its core. -/
theorem waitingAndEventSyllables : Obligations.WaitingAndEventSyllables := by
  constructor
  · intro y s n c d waits
    have hf : ∀ {c0}, archOf c0 = archOf c → c0.evflag = c.evflag := evflag_archOf
    refine ⟨fun he => ?_, fun he => ?_, fun he => ?_, fun he hd => ?_, fun he hd => ?_, naps_of_act (f := sylNap) rfl rfl⟩
    · refine does_of_modCore (f := sylWfe) (g := fun c => { c with evflag := false }) rfl trivial (fun c0 u h0 _ => ?_) fun _ => rfl
      exact if_pos ((hf h0).trans he)
    · refine waits_of_act (f := sylWfe) rfl trivial nofun fun c0 u h0 _ => ?_
      exact if_neg (by rw [hf h0, he]; decide)
    · refine does_of_modCore (f := sylWaitt) (g := flagTaken y.d) rfl trivial (fun c0 u h0 _ => ?_) (flagTaken_arch y.d)
      exact if_pos ((hf h0).trans he)
    · refine does_of_modCore (f := sylWaitt) (g := fun c => writeG c y.d { v := 0 }) rfl trivial (fun c0 u h0 hb => ?_) (writeG_arch y.d { v := 0 })
      exact (if_neg (by rw [hf h0, he]; decide)).trans (if_pos (by rw [coreTime_of_else hb.quiet.2]; exact hd))
    · refine waits_of_act (f := sylWaitt) rfl trivial nofun fun c0 u h0 hb => ?_
      exact (if_neg (by rw [hf h0, he]; decide)).trans (if_neg (by rw [coreTime_of_else hb.quiet.2]; exact Nat.not_le.2 hd))
  · intro y s n c
    refine ⟨sev_sends (f := sylSev) rfl rfl, ?_, ?_, ?_⟩
    · refine does_of_modCore (f := sylRdtime) rfl trivial (fun c0 u _ hb => ?_) (writeG_arch y.d { v := BitVec.ofNat 64 (coreTime s n) })
      rw [← coreTime_of_else hb.quiet.2]
      rfl
    · refine does_congr (g := fun c => { c with pred := {}, word := [] }) ?_ fun _ => rfl
      exact does_of_modCore (f := sylPflush) rfl trivial (fun _ _ _ _ => rfl) fun _ => rfl
    · refine does_congr (g := fun c => { c with word := [], pctl := if y.b.getLsbD 0 then c.pctl &&& 0xEF else c.pctl ||| 0x10 }) ?_ fun _ => rfl
      exact does_of_modCore (f := sylPbar) rfl trivial (fun _ _ _ _ => rfl) fun _ => rfl

end Sys2Proof.Operations
end

section
/-! PROOF. Cache maintenance and the invalidations of TLBs and instruction caches that a core sends (R135 to R137, R242). -/
namespace Sys2Proof.Operations
open Sys2Proof Sys2Proof.Machine Sys2Proof.Timing Sys2Proof.Tenant Sys2Proof.Words

/-! ### What the core's own checks leave of the targets -/

theorem inService_archOf {c d : Core} (h : archOf c = archOf d) : inService c = inService d := by
  show inService (archOf c) = inService (archOf d)
  rw [h]

theorem holdsTlb_archOf {c d : Core} (h : archOf c = archOf d) : holdsTlb c = holdsTlb d := by
  show holdsTlb (archOf c) = holdsTlb (archOf d)
  rw [h]

section
variable {y : Syl} {s u : State}

theorem Begins.holdsTlb (h : Begins y s u) (k : Nat) : holdsTlb (getCore u k) = holdsTlb (getCore s k) := by
  by_cases hk : k = y.n.toNat
  · subst hk
    exact holdsTlb_archOf (d := pastWord y (getCore s y.n.toNat)) h.quiet.1
  · rw [h.quiet.2.cores k hk]

theorem Begins.inService (h : Begins y s u) (k : Nat) : inService (getCore u k) = inService (getCore s k) := by
  by_cases hk : k = y.n.toNat
  · subst hk
    exact inService_archOf (d := pastWord y (getCore s y.n.toNat)) h.quiet.1
  · rw [h.quiet.2.cores k hk]

theorem Begins.tag (h : Begins y s u) : tagOf (getCore u y.n.toNat) = tagOf (getCore s y.n.toNat) :=
  tagOf_archOf (d := pastWord y (getCore s y.n.toNat)) h.quiet.1

theorem Begins.epochTag (h : Begins y s u) : epochTag (getCore u y.n.toNat) = epochTag (getCore s y.n.toNat) :=
  epochTag_archOf (d := pastWord y (getCore s y.n.toNat)) h.quiet.1

theorem Begins.level (h : Begins y s u) : (getCore u y.n.toNat).level = (getCore s y.n.toNat).level :=
  level_archOf (d := pastWord y (getCore s y.n.toNat)) h.quiet.1

/-- The courses with a core in service (R135). -/
theorem Begins.courses (h : Begins y s u) : (List.range 32).filter (fun k => (coresOf u k).any (fun j => Machine.inService (getCore u j))) =
    (List.range 32).filter (fun k => (coresOf s k).any (fun j => Machine.inService (getCore s j))) := by
  have hc : coresOf u = coresOf s := by
    unfold coresOf
    rw [h.quiet.2.phys]
  rw [hc]
  simp only [h.inService]

end

theorem ofNat_logical (n : Logical) : BitVec.ofNat 8 n.toNat = n := BitVec.ofNat_toNat .. ▸ BitVec.setWidth_eq n

/-! ### Requests to a line's home (R135, R136) -/

section
variable {i : Instr} {y : Syl} {f : Syl → Core → Staged} {s : State} {op : MaintOp} {seg : BitVec 3} {off : Word64}

/-- The request of a maintenance operation to the home of its line, if that is DRAM. -/
def asked (s : State) (n : Nat) (k : MsgKind) (p : Part) : State :=
  if region s p.pa.toNat ≠ .dram then s
  else modCore (send s { mkReq (courseOf s n) k (lineOfPa p.pa) (tagOf (getCore s n)) (epochTag (getCore s n)) n 0 .maint with
      aclass := domClass s (tagOf (getCore s n)).toNat }) n (fun c => { c with busy := .maint (lineOfPa p.pa) })

theorem asked_dram {n : Nat} {k : MsgKind} {p : Part} (h : region s p.pa.toNat = .dram) :
    (getCore (asked s n k p) n).busy = .maint (lineOfPa p.pa) ∧ ∃ m, (asked s n k p).net = s.net ++ [m] ∧ m.kind = k ∧
      m.line = lineOfPa p.pa ∧ m.core = some (BitVec.ofNat 8 n) ∧ m.tdid = tagOf (getCore s n) := by
  unfold asked
  rw [if_neg (not_not_intro h)]
  refine ⟨?_, _, rfl, rfl, rfl, rfl, rfl⟩
  unfold modCore
  rw [getCore_setCore, if_pos rfl]

theorem asks_of_act {k : MsgKind} {p : Part} {r : List Part} (hs : sylOf i = some (y, f)) (ha : (f y (getCore s y.n.toNat)).act = .maint op seg off)
    (hop : ∀ u n m, m.parts = p :: r → doMaint u n op m = asked u n k p) (h : issuesAlone i y s = true) (hp : (x2Res i y s).parts = p :: r) :
    ∃ t, exec i s = .next t ∧ RegsSame y.n.toNat s t ∧ regsOf (getCore t y.n.toNat) = regsOf (pastWord y (getCore s y.n.toNat)) ∧
      (region s p.pa.toNat = .dram → (getCore t y.n.toNat).busy = .maint (lineOfPa p.pa) ∧
        ∃ m, t.net = s.net ++ [m] ∧ m.kind = k ∧ m.line = lineOfPa p.pa ∧ m.core = some y.n ∧ m.tdid = tagOf (getCore s y.n.toNat)) ∧
      (region s p.pa.toNat ≠ .dram → (getCore t y.n.toNat).busy = .none ∧ t.net = s.net) := by
  obtain ⟨c0, u, -, hb, e⟩ := exec_begins hs h (ha ▸ trivial)
  rw [ha, doAct] at e
  obtain ⟨h1, h2⟩ := regs_of_kept hb.quiet (regsKept_of_seen (doMaint_seen (n := y.n.toNat) (op := op) (m := x2Res i y s) seen_refl))
  rw [hop _ _ _ hp] at e h1 h2
  have hr : region u p.pa.toNat = region s p.pa.toNat := region_of_chart hb.chart _
  refine ⟨_, e, h1, h2, fun hd => ?_, fun hd => ?_⟩
  · have ho := asked_dram (n := y.n.toNat) (k := k) (hr.trans hd)
    rwa [hb.quiet.2.net, hb.tag, ofNat_logical] at ho
  · unfold asked
    rw [if_pos (hr ▸ hd)]
    exact ⟨hb.busy, hb.quiet.2.net⟩

/-! ### Removals from TLBs and from instruction caches (R135, R137, R242) -/

theorem doInvAll_sends (s : State) (n : Nat) (sc : InvScope) : ∃ st, (doInvAll s n sc).invNet =
    s.invNet ++ ((List.range 256).filter (fun k => holdsTlb (getCore s k))).map
      (fun k => (BitVec.ofNat 8 k, { from_ := BitVec.ofNat 8 n, scope := sc, tdid := tagOf (getCore s n), epoch := epochTag (getCore s n), short := st })) ∧
    ∃ w, (getCore (doInvAll s n sc) n).busy = .tlb w := by
  refine ⟨_, rfl, ?_⟩
  unfold doInvAll modCore
  dsimp only
  rw [getCore_setCore, if_pos rfl]
  exact ⟨_, rfl⟩

/-- An effect that sends a removal to every core that holds TLBs. -/
theorem sends_of_invAll {sc : InvScope} (hs : sylOf i = some (y, f)) (hr : readsNothing (f y (getCore s y.n.toNat)).act (x2Res i y s))
    (ha : ∀ c0 u, Begins y s u → doAct y.n.toNat c0 (sylLen y) (x2Res i y s) none u (f y (getCore s y.n.toNat)).act = doInvAll u y.n.toNat sc) :
    SendsWord i y s (fun st t => t.invNet = s.invNet ++ ((List.range 256).filter (fun k => holdsTlb (getCore s k))).map
        (fun k => (BitVec.ofNat 8 k, { from_ := y.n, scope := sc, tdid := tagOf (getCore s y.n.toNat), epoch := epochTag (getCore s y.n.toNat), short := st })) ∧
      ∃ w, (getCore t y.n.toNat).busy = .tlb w) := by
  intro h
  obtain ⟨c0, u, -, hb, e⟩ := exec_begins hs h hr
  rw [ha c0 u hb] at e
  obtain ⟨h1, h2⟩ := regs_of_kept hb.quiet (regsKept_of_seen (doInvAll_seen (n := y.n.toNat) (sc := sc) seen_refl))
  obtain ⟨st, hn, hw⟩ := doInvAll_sends u y.n.toNat sc
  refine ⟨_, st, e, h1, h2, ?_, hw⟩
  rw [hn, hb.quiet.2.invNet, hb.tag, hb.epochTag, ofNat_logical]
  simp only [hb.holdsTlb]

/-- The broadcast of an ICINV to the courses with a core in service, if its line is DRAM. -/
theorem doMaint_icinv (s : State) (n : Nat) (m : MRes) {p : Part} {r : List Part} (h : m.parts = p :: r) : ∃ st,
    (region s p.pa.toNat = .dram → (∃ w, (getCore (doMaint s n .icinv m) n).busy = .icinv w) ∧ (doMaint s n .icinv m).icNet =
      s.icNet ++ ((List.range 32).filter (fun k => (coresOf s k).any (fun j => inService (getCore s j)))).map
        (fun k => (BitVec.ofNat 8 n, BitVec.ofNat 5 k, lineOfPa p.pa, st))) ∧
    (region s p.pa.toNat ≠ .dram → doMaint s n .icinv m = s) := by
  unfold doMaint
  simp only [h]
  refine ⟨BitVec.ofNat 24 (stampOf s (courseOf s n)), fun hd => ?_, fun hd => if_pos hd⟩
  rw [if_neg (not_not_intro hd)]
  refine ⟨?_, rfl⟩
  unfold modCore
  rw [getCore_setCore, if_pos rfl]
  exact ⟨_, rfl⟩

theorem sends_icinv {p : Part} {r : List Part} (hs : sylOf i = some (y, f)) (ha : (f y (getCore s y.n.toNat)).act = .maint .icinv seg off)
    (hp : (x2Res i y s).parts = p :: r) : SendsWord i y s (fun st t =>
      (region s p.pa.toNat = .dram → (∃ w, (getCore t y.n.toNat).busy = .icinv w) ∧
        t.icNet = s.icNet ++ ((List.range 32).filter (fun k => (coresOf s k).any (fun j => inService (getCore s j)))).map
          (fun k => (y.n, BitVec.ofNat 5 k, lineOfPa p.pa, st))) ∧
      (region s p.pa.toNat ≠ .dram → (getCore t y.n.toNat).busy = .none ∧ t.icNet = s.icNet)) := by
  intro h
  obtain ⟨c0, u, -, hb, e⟩ := exec_begins hs h (ha ▸ trivial)
  rw [ha, doAct] at e
  obtain ⟨h1, h2⟩ := regs_of_kept hb.quiet (regsKept_of_seen (doMaint_seen (n := y.n.toNat) (op := .icinv) (m := x2Res i y s) seen_refl))
  obtain ⟨st, hd, ho⟩ := doMaint_icinv u y.n.toNat _ hp
  have hr : region u p.pa.toNat = region s p.pa.toNat := region_of_chart hb.chart _
  refine ⟨_, st, e, h1, h2, fun hdram => ?_, fun hother => ?_⟩
  · obtain ⟨hw, hn⟩ := hd (hr.trans hdram)
    rw [icNet_of_chart hb.chart, hb.courses, ofNat_logical] at hn
    exact ⟨hw, hn⟩
  · rw [ho (hr ▸ hother)]
    exact ⟨hb.busy, icNet_of_chart hb.chart⟩

end

/-- Settles O14: each operation sends from the state in which its word's effect begins. -/
theorem maintenanceAndInvalidations : Obligations.MaintenanceAndInvalidations := by
  constructor
  · intro y s p r n asks
    have hop : ∀ (op : MaintOp) (k : MsgKind), (∀ u n m, doMaint u n op m = match m.parts with | p :: _ => asked u n k p | [] => u) →
        ∀ u n m, m.parts = p :: r → doMaint u n op m = asked u n k p := fun op k ho u n m hm => by rw [ho, hm]
    exact ⟨asks_of_act (f := sylCflush) rfl rfl (hop _ _ fun _ _ _ => rfl), asks_of_act (f := sylCclean) rfl rfl (hop _ _ fun _ _ _ => rfl),
      asks_of_act (f := sylCinv) rfl rfl (hop _ _ fun _ _ _ => rfl)⟩
  · intro y s n c sends
    refine ⟨?_, ?_, ?_, fun p r hp => sends_icinv (f := sylIcinv) rfl rfl hp⟩
    · refine sends_of_invAll (f := sylTlbi) rfl trivial fun c0 u hb => ?_
      rw [← hb.tag, ← hb.level]
      rfl
    · exact sends_of_invAll (f := sylTlbid) rfl trivial fun c0 u hb => rfl
    · exact sends_of_invAll (f := sylTlbia) rfl trivial fun c0 u hb => rfl

end Sys2Proof.Operations
end

section
/-! SUPPORT. What the accesses of cores, and their reads of lines, leave of every core: all but its caches, what they have brought it, and
its reservation (R118, R120, R127, R251, R260). One lemma for each operation that they use. -/
namespace Sys2Proof.Operations
open Sys2Proof Sys2Proof.Machine Sys2Proof.Timing Sys2Proof.Tenant Sys2Proof.Words

/-- A core but for its caches, the lines read for it alone and its reservation, and for what `archOf` leaves out. -/
def stillOf (c : Core) : Core := { archOf c with resv := none, l1d := [], l1i := [], l1dBad := [], l1iBad := [], nf := [] }

/-- Every core, without what reads and stores of lines can change. -/
def still (s : State) : Nat → Core := fun k => stillOf (getCore s k)

theorem stillOf_of_arch {c d : Core} (h : archOf c = archOf d) : stillOf c = stillOf d := by
  unfold stillOf
  rw [h]

theorem still_core {s t : State} (h : still t = still s) (n : Nat) : stillOf (getCore t n) = stillOf (getCore s n) := congrFun h n

theorem still_of_getCore {s t : State} (h : ∀ k, getCore t k = getCore s k) : still t = still s := funext fun k => congrArg stillOf (h k)

theorem still_of_quiet {n : Nat} {s t : State} (h : Quiet n (archOf (getCore s n)) s t) : still t = still s := by
  funext k
  by_cases hk : k = n
  · subst hk
    exact stillOf_of_arch h.1
  · exact congrArg stillOf (h.2.cores k hk)

theorem still_setCore {s : State} {n : Nat} {c : Core} (h : stillOf c = stillOf (getCore s n)) : still (setCore s n c) = still s := by
  funext k
  unfold still
  rw [getCore_setCore]
  split
  · subst k
    exact h
  · rfl

theorem still_modCore {s : State} {n : Nat} {f : Core → Core} (h : ∀ c, stillOf (f c) = stillOf c) : still (modCore s n f) = still s := still_setCore (h _)

theorem stillOf_tmapv {f : Nat → Core → Core} (hf : ∀ n c, stillOf (f n c) = stillOf c) (l t : Tbl Core) (k : Nat) :
    stillOf (tget coreInit (l.foldl (fun a e => tset coreInit a e.1 (f e.1 (tget coreInit a e.1))) t) k) = stillOf (tget coreInit t k) := by
  induction l generalizing t with
  | nil => rfl
  | cons a r ih =>
    refine (ih _).trans ?_
    rw [tget_tset]
    split
    · subst k
      exact hf ..
    · rfl

theorem still_mapCores {s : State} {f : Nat → Core → Core} (hf : ∀ n c, stillOf (f n c) = stillOf c) : still (mapCores s f) = still s :=
  funext fun k => stillOf_tmapv hf s.cores s.cores k

theorem still_foldl {α : Type} {f : State → α → State} (hf : ∀ s a, still (f s a) = still s) (l : List α) (s : State) : still (l.foldl f s) = still s := by
  induction l generalizing s with
  | nil => rfl
  | cons a r ih => exact (ih _).trans (hf s a)

section
variable (s : State)

@[simp] theorem still_modCourse (n : Nat) (f : Course → Course) : still (modCourse s n f) = still s := rfl

@[simp] theorem still_modSlice (n : Nat) (f : Slice → Slice) : still (modSlice s n f) = still s := rfl

@[simp] theorem still_send (m : Msg) : still (send s m) = still s := rfl

@[simp] theorem still_sendOut (p : Nat) (r : OutReq) : still (sendOut s p r) = still s := rfl

@[simp] theorem still_openReq (c : Nat) (m : Msg) : still (openReq s c m) = still s := rfl

@[simp] theorem still_setL2 (c k : Nat) (v : L2Line) : still (setL2 s c k v) = still s := rfl

@[simp] theorem still_l1Par (n : Nat) : still (l1Par s n) = still s := rfl

@[simp] theorem still_bkSet (b r : Nat) (v : Word64) : still (bkSet s b r v) = still s := rfl

@[simp] theorem still_free : still (free s).2 = still s := rfl

@[simp] theorem still_charge (a t e : Nat) : still (charge s a t e) = still s := still_of_getCore fun k => charge_core s a t e k

@[simp] theorem still_coreEv (n ev k : Nat) (l : Option LineNo) : still (coreEv s n ev k l) = still s := still_of_quiet (n := n) (coreEv_quiet quiet_refl)

@[simp] theorem still_jrn (a c : Nat) (t : Tdid) (p : List Byte) : still (jrn s a c t p) = still s := by
  obtain ⟨_, _, e⟩ := jrn_eq s a c t p
  rw [e]
  rfl

@[simp] theorem still_bankEv (b ev k : Nat) (a : EvAttr) : still (bankEv s b ev k a) = still s := by
  unfold bankEv
  split
  · rfl
  · refine still_foldl (fun s i => ?_) _ s
    grind [still_bkSet]

@[simp] theorem still_releaseGrant (p n : Nat) (l : LineNo) : still (releaseGrant s p n l) = still s := by
  unfold releaseGrant
  dsimp only
  split_ifs <;> rfl

@[simp] theorem still_dropResv (n : Nat) : still (dropResv s n) = still s := by
  have h : still (modCore s n (fun c => { c with resv := none })) = still s := still_modCore fun _ => rfl
  unfold dropResv
  grind [still_modSlice, still_releaseGrant]

@[simp] theorem still_setResv (n : Nat) (pa : PAddr) (lin : BitVec 48) (w : ResvAt) : still (setResv s n pa lin w) = still s := by
  refine (still_modCore fun c => ?_).trans (still_dropResv s n)
  rfl

@[simp] theorem still_clearResv (l : LineNo) (p : Nat → Bool) : still (clearResv s l p) = still s := by
  refine still_mapCores fun n c => ?_
  split
  · split <;> rfl
  · rfl

@[simp] theorem still_dropL1d (c : Nat) (l : LineNo) (k : Nat → Bool) : still (dropL1d s c l k) = still s := by
  refine still_foldl (fun s n => ?_) _ s
  split
  · rfl
  · exact still_modCore fun _ => rfl

@[simp] theorem still_l2Drop (c : Nat) (l : LineNo) : still (l2Drop s c l) = still s := by
  unfold l2Drop
  grind [still_setL2, still_clearResv, still_dropL1d]

@[simp] theorem still_evictFor (c : Nat) (e : L2Line) (t : Tdid) (k : Nat) : still (evictFor s c e t k) = still s := by
  unfold evictFor
  grind [still_bankEv, still_charge, still_send, still_modCourse, still_l2Drop]

@[simp] theorem still_l2Sound (c : Nat) (e : L2Line) : still (l2Sound s c e).2 = still s := by
  unfold l2Sound
  grind [still_jrn, still_modCourse]

@[simp] theorem still_l2Check (c : Nat) (l : LineNo) : still (l2Check s c l) = still s := by
  unfold l2Check
  grind [still_l2Sound, still_setL2, still_evictFor]

@[simp] theorem still_l1dFill (n : Nat) (l : LineNo) : still (l1dFill s n l) = still s := by
  unfold l1dFill
  dsimp only
  split
  · rfl
  · split
    · exact still_setCore rfl
    · refine (still_setCore ?_).trans (still_free s)
      rfl

@[simp] theorem still_l1dCheck (n : Nat) (l : LineNo) : still (l1dCheck s n l) = still s := by
  unfold l1dCheck
  dsimp only
  split
  · exact (still_l1Par ..).trans (still_setCore rfl)
  · rfl

@[simp] theorem still_l2Store (c n k : Nat) (e : L2Line) (o : Nat) (b : List PByte) : still (l2Store s c n k e o b) = still s :=
  (still_setL2 ..).trans ((still_clearResv ..).trans (still_dropL1d ..))

@[simp] theorem still_l2Read (n : Nat) (l : LineNo) (i : Nat) (u : ReqUse) (t : Tdid) (ep : BitVec 8) (h : Bool) :
    still (l2Read s n l i u t ep h).2 = still s := by
  unfold l2Read
  grind [still_l2Check, still_charge, still_bankEv, still_openReq]

/-! ### Accesses that go on (R119, R120, R123 to R126) -/

@[simp] theorem still_fillCached (n : Nat) (a : OutAcc) (p : Part) : still (fillCached s n a p).2.2 = still s := by
  unfold fillCached
  grind [still_l2Check, still_l1dCheck, still_coreEv, still_l1dFill, still_l2Read, still_setResv, still_openReq, still_dropResv, still_l2Store]

@[simp] theorem still_fillHome (n : Nat) (a : OutAcc) (p : Part) : still (fillHome s n a p).2.2 = still s := by
  unfold fillHome
  grind [still_send, still_dropResv]

@[simp] theorem still_fillPort (n port : Nat) (a : OutAcc) (p : Part) : still (fillPort s n port a p).2.2 = still s := by
  unfold fillPort
  grind [still_sendOut, still_dropResv]

@[simp] theorem still_fillPart (n : Nat) (a : OutAcc) (p : Part) : still (fillPart s n a p).2.2 = still s := by
  unfold fillPart
  grind [still_fillPort, still_fillCached, still_fillHome]

@[simp] theorem still_fillParts (n : Nat) (a : OutAcc) (l : List Part) : still (fillParts n a l s).2.2 = still s := by
  induction l generalizing s with
  | nil => rfl
  | cons p r ih => exact (ih (fillPart s n a p).2.2).trans (still_fillPart s n a p)

/-! ### Reads of micro-routines (R208) -/

@[simp] theorem still_ctlLoad (n off w : Nat) : still (ctlLoad s n off w).2 = still s := by
  obtain e | e | e := ctlLoad_state s n off w <;> rw [e]
  · rfl
  · exact (still_jrn ..).trans rfl

@[simp] theorem still_microPart (n : Nat) (u : ReqUse) (t : Tdid) (ep : BitVec 8) (h : Bool) (p : Part) :
    still (microPart s n u t ep h p).2 = still s := by
  unfold microPart
  grind [still_ctlLoad, still_sendOut, still_l2Read, still_openReq]

@[simp] theorem still_microParts (n : Nat) (u : ReqUse) (t : Tdid) (ep : BitVec 8) (h : Bool) (l : List Part) :
    still (microParts n u t ep h l s).2 = still s := by
  induction l generalizing s with
  | nil => rfl
  | cons p r ih =>
    unfold microParts
    grind [still_microPart]

@[simp] theorem still_microRead (n : Nat) (u : ReqUse) (t : Tdid) (ep : BitVec 8) (h : Bool) (l : List Part) :
    still (microRead n u t ep h l s).2 = still s := by
  have hp := still_microParts s n u t ep h l
  unfold microRead
  generalize microParts n u t ep h l s = x at hp ⊢
  split
  · exact hp
  · refine (still_modCore fun c => ?_).trans hp
    rfl

end

end Sys2Proof.Operations
end

section
/-! SUPPORT. The outstanding accesses of a core, as they go on (R119, R120, R152). -/
namespace Sys2Proof.Operations
open Sys2Proof Sys2Proof.Machine Sys2Proof.Timing Sys2Proof.Tenant Sys2Proof.Words

/-- Where a part of an access lies. -/
def place (p : Part) : PAddr × Nat × MemType := (p.pa, p.len, p.mt)

/-- A part that goes on stays where it is. -/
theorem fillCached_place (s : State) (n : Nat) (a : OutAcc) (p : Part) : place (fillCached s n a p).2.1 = place p := by
  unfold fillCached
  grind [place]

theorem fillHome_place (s : State) (n : Nat) (a : OutAcc) (p : Part) : place (fillHome s n a p).2.1 = place p := by
  unfold fillHome
  grind [place]

theorem fillPort_place (s : State) (n port : Nat) (a : OutAcc) (p : Part) : place (fillPort s n port a p).2.1 = place p := by
  unfold fillPort
  grind [place]

theorem fillPart_place (s : State) (n : Nat) (a : OutAcc) (p : Part) : place (fillPart s n a p).2.1 = place p := by
  unfold fillPart
  grind [fillCached_place, fillHome_place, fillPort_place]

theorem fillParts_place (n : Nat) (a : OutAcc) (l : List Part) (s : State) : (fillParts n a l s).2.1.map place = l.map place := by
  induction l generalizing s with
  | nil => rfl
  | cons p r ih => exact congrArg₂ List.cons (fillPart_place s n a p) (ih _)

theorem accs_of_still {s t : State} (h : still t = still s) (n : Nat) : (getCore t n).accs = (getCore s n).accs := (congrArg Core.accs (still_core h n) :)

/-- An access as `kickList` puts it back. -/
def accOn (a : OutAcc) (ps : List Part) (o : Option Bool) : OutAcc := { a with parts := ps, scOk := (match o with | some b => some b | none => a.scOk) }

theorem putAcc_accs (s : State) (n : Nat) (a : OutAcc) : (getCore (putAcc s n a) n).accs = (getCore s n).accs.map (fun x => if x.idx = a.idx then a else x) := by
  unfold putAcc modCore
  rw [getCore_setCore, if_pos rfl]

/-- The state once an access has gone on. -/
def accMoved (s : State) (n : Nat) (a : OutAcc) : State :=
  putAcc (fillParts n a a.parts s).2.2 n (accOn a (fillParts n a a.parts s).2.1 (fillParts n a a.parts s).1)

/-- One access goes on, if it is still there, or waits for an older device access. -/
theorem kickList_cons (n i : Nat) (r : List Nat) (dev : Bool) (s : State) : ∃ d, kickList n (i :: r) dev s = kickList n r d s ∨
    ∃ a, (getCore s n).accs.find? (fun a => a.idx == i) = some a ∧ kickList n (i :: r) dev s = kickList n r d (accMoved s n a) := by
  cases h : (getCore s n).accs.find? (fun a => a.idx == i) with
  | none =>
    refine ⟨dev, .inl ?_⟩
    rw [kickList, h]
  | some a =>
    by_cases hd : (dev && accDevice a) = true
    · refine ⟨true, .inl ?_⟩
      rw [kickList, h]
      exact if_pos hd
    · refine ⟨dev || accDevice (accOn a (fillParts n a a.parts s).2.1 (fillParts n a a.parts s).1), .inr ⟨a, rfl, ?_⟩⟩
      rw [kickList, h]
      exact if_neg hd

theorem accMoved_accs (s : State) (n : Nat) (a : OutAcc) : (getCore (accMoved s n a) n).accs =
    (getCore s n).accs.map (fun x => if x.idx = a.idx then accOn a (fillParts n a a.parts s).2.1 (fillParts n a a.parts s).1 else x) := by
  unfold accMoved
  rw [putAcc_accs, accs_of_still (still_fillParts ..)]
  rfl

/-- The numbers of the accesses stay. -/
theorem kickList_idx (n : Nat) (l : List Nat) (dev : Bool) (s : State) :
    (getCore (kickList n l dev s) n).accs.map (·.idx) = (getCore s n).accs.map (·.idx) := by
  induction l generalizing s dev with
  | nil => rfl
  | cons i r ih =>
    obtain ⟨d, e | ⟨a, -, e⟩⟩ := kickList_cons n i r dev s <;> rw [e, ih]
    rw [accMoved_accs, List.map_map]
    refine List.map_congr_left fun x _ => ?_
    dsimp only [Function.comp_apply]
    split
    · exact Eq.symm ‹_›
    · rfl

theorem kick_idx (s : State) (n : Nat) : (getCore (kick s n) n).accs.map (·.idx) = (getCore s n).accs.map (·.idx) := kickList_idx ..

/-- An access that another becomes as it goes on: only what its parts have brought has changed. -/
structure GoneOn (a b : OutAcc) : Prop where
  rest  : { b with parts := a.parts, scOk := a.scOk } = a
  parts : b.parts.map place = a.parts.map place

/-- A core's only access goes on. -/
theorem kick_one {s : State} {n : Nat} {a : OutAcc} (h : (getCore s n).accs = [a]) : ∃ b, (getCore (kick s n) n).accs = [b] ∧ GoneOn a b := by
  unfold kick
  rw [h]
  obtain ⟨d, e | ⟨x, hx, e⟩⟩ := kickList_cons n a.idx [] false s <;> rw [List.map_singleton, e]
  · exact ⟨a, h, rfl, rfl⟩
  · rw [h] at hx
    obtain rfl : a = x := by simpa using hx
    refine ⟨accOn a (fillParts n a a.parts s).2.1 (fillParts n a a.parts s).1, ?_, rfl, fillParts_place ..⟩
    rw [kickList, accMoved_accs, h]
    exact congrArg (fun x => [x]) (if_pos rfl)

end Sys2Proof.Operations
end

section
/-! SUPPORT. Reads of lines that a course's L2 holds and can read (R208, R251, R260). -/
namespace Sys2Proof.Operations
open Sys2Proof Sys2Proof.Machine Sys2Proof.Timing Sys2Proof.Tenant Sys2Proof.Words

/-- A line of a course L2 with its single-bit errors corrected (R251). -/
def corrected (e : L2Line) : L2Line := { e with ce := 0 }

/-- A line as a course L2 holds it, but for single-bit errors. -/
def l2Sees (x : Course) (l : LineNo) : Option L2Line := (l2Find x l).map (fun e => corrected e.2)

theorem l2Sees_eq (x : Course) (l : LineNo) : l2Sees x l =
    ((List.range 16).find? (fun w => (corrected (tget (fun _ => {}) x.l2 (16 * l2Set l + w))).st ≠ .i &&
      (corrected (tget (fun _ => {}) x.l2 (16 * l2Set l + w))).line == l)).map (fun w => corrected (tget (fun _ => {}) x.l2 (16 * l2Set l + w))) := by
  unfold l2Sees l2Find
  rw [List.find?_map, Option.map_map]
  rfl

theorem l2Sees_congr {x z : Course} (h : ∀ k, corrected (tget (fun _ => {}) z.l2 k) = corrected (tget (fun _ => {}) x.l2 k)) (l : LineNo) :
    l2Sees z l = l2Sees x l := by
  simp only [l2Sees_eq, h]

theorem l2Find_slot {x : Course} {l : LineNo} {k : Nat} {e : L2Line} (h : l2Find x l = some (k, e)) : tget (fun _ => {}) x.l2 k = e := by
  obtain ⟨w, -, he⟩ := List.mem_map.1 (List.mem_of_find?_eq_some h)
  cases he
  rfl

/-- What reads for core `n` see of its course's L2, and of the address map. -/
structure L2Like (n : Nat) (s t : State) : Prop where
  course : courseOf t n = courseOf s n
  region : ∀ a, region t a = region s a
  lines  : ∀ l, l2Sees (getCourse t (courseOf s n)) l = l2Sees (getCourse s (courseOf s n)) l

theorem courseOf_of_phys {s t : State} (h : t.phys = s.phys) (n : Nat) : courseOf t n = courseOf s n := by
  unfold courseOf physOf
  rw [h]

theorem region_of_dramTop {s t : State} (h : t.dramTop = s.dramTop) (a : Nat) : region t a = region s a := by
  unfold region
  rw [h]

theorem l2Like_of_aside {n : Nat} {s t : State} (h : aside t = aside s)
    (hl : ∀ l, l2Sees (getCourse t (courseOf s n)) l = l2Sees (getCourse s (courseOf s n)) l) : L2Like n s t :=
  ⟨courseOf_of_phys (congrArg State.phys h :) n, region_of_dramTop (congrArg State.dramTop h :), hl⟩

theorem ChecksOnly.l2Like {n : Nat} {s t : State} (h : ChecksOnly n s t) : L2Like n s t := by
  refine ⟨courseOf_of_phys h.quiet.2.phys n, region_of_chart h.chart, fun l => ?_⟩
  unfold getCourse
  rw [h.quiet.2.courses]

theorem charge_courses (s : State) (a t e : Nat) : (charge s a t e).courses = s.courses := by
  unfold charge
  dsimp only
  split <;> rfl

theorem bankEv_courses (s : State) (b ev k : Nat) (a : EvAttr) : (bankEv s b ev k a).courses = s.courses := by
  have hf : ∀ (f : State → Nat → State) (l : List Nat), (∀ s i, (f s i).courses = s.courses) → ∀ s, (l.foldl f s).courses = s.courses := by
    intro f l hf
    induction l with
    | nil => exact fun _ => rfl
    | cons i r ih => exact fun s => (ih _).trans (hf s i)
  unfold bankEv
  split
  · rfl
  · refine hf _ _ (fun s i => ?_) s
    dsimp only
    split_ifs <;> rfl

/-- A line without an uncorrectable error is read as it stands, once corrected (R251). -/
theorem l2Sound_good (s : State) (c : Nat) {e : L2Line} (hc : e.ce ≠ 0) (hu : e.ue = 0) : (l2Sound s c e).1 = corrected e ∧ ∃ f : Course → Course,
    (∀ x, (f x).l2 = x.l2) ∧ (l2Sound s c e).2 = modCourse s c f := by
  unfold l2Sound
  rw [if_pos (show ({ e with ce := 0 } : L2Line).ue = 0 from hu)]
  exact ⟨rfl, fun x => { x with err := fldSat x.err 32 16 (badWords e.ce) }, fun _ => rfl, if_neg hc⟩

theorem getCourse_modCourse (s : State) (c : Nat) (f : Course → Course) : getCourse (modCourse s c f) c = f (getCourse s c) := by
  unfold modCourse
  rw [getCourse_setCourse, if_pos rfl]

/-- The check of a line without an uncorrectable error corrects it in its place. -/
theorem l2Check_good {s : State} {c k : Nat} {l : LineNo} {e : L2Line} (h : l2Find (getCourse s c) l = some (k, e)) (hu : e.ue = 0) (l' : LineNo) :
    l2Sees (getCourse (l2Check s c l) c) l' = l2Sees (getCourse s c) l' := by
  unfold l2Check
  rw [h]
  dsimp only
  by_cases hc : e.ce = 0
  · rw [if_pos (by simp [hc, hu])]
  · rw [if_neg fun hb => hc (of_decide_eq_true (Bool.and_eq_true _ _ ▸ hb : _ ∧ _).1), if_neg (by simp [hu])]
    obtain ⟨he, f, hf, hs⟩ := l2Sound_good s c hc hu
    rw [he, hs, if_pos (show (corrected e).ue = 0 from hu)]
    refine l2Sees_congr (fun j => ?_) l'
    unfold setL2
    rw [getCourse_modCourse, getCourse_modCourse]
    dsimp only
    rw [tget_tset, hf]
    split
    · subst j
      rw [l2Find_slot h]
      rfl
    · rfl

theorem l2Find_of_sees {x : Course} {l : LineNo} {e : L2Line} (h : l2Sees x l = some e) : ∃ k d, l2Find x l = some (k, d) ∧ corrected d = e := by
  obtain ⟨⟨k, d⟩, hd, he⟩ := Option.map_eq_some_iff.1 h
  exact ⟨k, d, hd, he⟩

/-- A read of a line that the course's L2 can read gives its bytes, and leaves what the next read sees (R251, R260). -/
theorem l2Read_good {s t : State} {n i k : Nat} {u : ReqUse} {d : Tdid} {ep : BitVec 8} {h : Bool} {l : LineNo} {e : L2Line} {b : Option LineData}
    (hl : l2Find (getCourse s (courseOf s n)) l = some (k, e)) (hu : e.ue = 0) (hr : l2Read s n l i u d ep h = (b, t)) :
    b = some e.data ∧ L2Like n s t := by
  have hs := l2Check_good hl hu
  have hd := hs l
  rw [show l2Sees (getCourse s (courseOf s n)) l = some (corrected e) by rw [l2Sees, hl]; rfl] at hd
  obtain ⟨j, x, hx, hxe⟩ := l2Find_of_sees hd
  have hxd : x.data = e.data := (congrArg L2Line.data hxe :)
  have hg : l2Good (l2Check s (courseOf s n) l) (courseOf s n) l = some (j, x) := by
    unfold l2Good
    rw [hx, Option.filter_some, if_pos (by rw [show x.ue = e.ue from (congrArg L2Line.ue hxe :), hu]; rfl)]
  have ha : aside t = aside s := by
    rw [← aside_l2Read s n l i u d ep h, hr]
  unfold l2Read at hr
  dsimp only at hr
  rw [hg] at hr
  cases hr
  refine ⟨congrArg some hxd, l2Like_of_aside ha fun l' => ?_⟩
  unfold getCourse
  rw [bankEv_courses, charge_courses]
  exact hs l'

/-! ### Parts of cached lines that the L2 holds (R208) -/

section
variable {s t : State} {n : Nat} {u : ReqUse} {d : Tdid} {ep : BitVec 8} {h : Bool}

theorem inL2_of_like (hl : L2Like n s t) {p : Part} (hp : inL2 s n p) : inL2 t n p ∧ l2Bytes t n p = l2Bytes s n p := by
  obtain ⟨hm, hr, w, x, hx, hu⟩ := hp
  have hd := hl.lines (lineOfPa p.pa)
  rw [show l2Sees (getCourse s (courseOf s n)) (lineOfPa p.pa) = some (corrected x) by rw [l2Sees, hx]; rfl] at hd
  obtain ⟨j, z, hz, hze⟩ := l2Find_of_sees hd
  refine ⟨⟨hm, (hl.region _).trans hr, j, z, by rw [hl.course]; exact hz, (congrArg L2Line.ue hze :).trans hu⟩, ?_⟩
  unfold l2Bytes
  rw [hl.course, hz, hx]
  exact congrArg (fun b => lineRead b (p.pa.toNat % 64) p.len) (congrArg L2Line.data hze :)

theorem microPart_inL2 {p : Part} {b : List PByte} (hp : inL2 s n p) (e : microPart s n u d ep h p = (some b, t)) :
    b = l2Bytes s n p ∧ L2Like n s t := by
  obtain ⟨hm, hr, w, x, hx, hu⟩ := hp
  unfold microPart at e
  dsimp only at e
  rw [hr, hm] at e
  split at e
  · cases e
  · dsimp only at e
    rw [if_pos rfl] at e
    cases hl : l2Read s n (lineOfPa p.pa) (getCore s n).gen u d ep h with
    | mk r v =>
      obtain ⟨rfl, hlike⟩ := l2Read_good hx hu hl
      rw [hl] at e
      cases e
      refine ⟨?_, hlike⟩
      unfold l2Bytes
      rw [hx]

theorem microParts_inL2 {ps : List Part} {b : List PByte} (hp : ∀ p ∈ ps, inL2 s n p) (e : microParts n u d ep h ps s = (some b, t)) :
    b = ps.flatMap (l2Bytes s n) := by
  induction ps generalizing s b with
  | nil =>
    cases e
    rfl
  | cons p r ih =>
    unfold microParts at e
    cases h1 : microPart s n u d ep h p with
    | mk o v =>
      rw [h1] at e
      cases o with
      | none => cases e
      | some q =>
        obtain ⟨rfl, hl⟩ := microPart_inL2 (hp p (.head _)) h1
        have hr : ∀ x ∈ r, inL2 v n x ∧ l2Bytes v n x = l2Bytes s n x := fun x hx => inL2_of_like hl (hp x (.tail _ hx))
        dsimp only at e
        cases h2 : microParts n u d ep h r v with
        | mk o w =>
          rw [h2] at e
          cases o with
          | none => cases e
          | some z =>
            cases e
            rw [ih (fun x hx => (hr x hx).1) h2, List.flatMap_cons]
            exact congrArg (l2Bytes s n p ++ ·) (List.flatMap_congr fun x hx => (hr x hx).2)

theorem microRead_inL2 {ps : List Part} {b : List PByte} (hp : ∀ p ∈ ps, inL2 s n p) (e : microRead n u d ep h ps s = (some b, t)) :
    b = ps.flatMap (l2Bytes s n) := by
  unfold microRead at e
  split at e
  · cases e
  · cases e
    exact microParts_inL2 hp ‹_›

end

end Sys2Proof.Operations
end

section
/-! SUPPORT. A load, an atomic, an LR and an SC as they enter the machine (R118 to R126, R152, R157). -/
namespace Sys2Proof.Operations
open Sys2Proof Sys2Proof.Machine Sys2Proof.Timing Sys2Proof.Tenant Sys2Proof.Words

/-! ### What the checks of an access find (R116, R117) -/

theorem checkPart_fresh {s t : State} {n : Nat} {k : Kind} {l : Level} {at_ : Bool} {lin len a : Nat} {ps : List Part}
    (e : checkPart s n k l at_ lin len = (.ok a ps, t)) : ∀ p ∈ ps, p.data = none := by
  unfold checkPart at e
  grind

theorem checkLin_fresh {s t : State} {n : Nat} {k : Kind} {l : Level} {at_ : Bool} {lin w a : Nat} {ps : List Part}
    (e : checkLin s n k l at_ lin w = (.ok a ps, t)) : ∀ p ∈ ps, p.data = none := by
  unfold checkLin at e
  grind [checkPart_fresh]

/-- The parts that the checks of an access find have brought nothing yet. -/
theorem checkAcc_fresh {s t : State} {n : Nat} {sg : BitVec 3} {off : Word64} {w : Nat} {k : Kind} {al at_ : Bool} {a : Nat} {ps : List Part}
    (e : checkAcc s n sg off w k al at_ = (.ok a ps, t)) : ∀ p ∈ ps, p.data = none := by
  unfold checkAcc at e
  dsimp only at e
  split at e
  · cases e
  · split at e
    · cases e
    · exact checkLin_fresh e

/-! ### The parts of a load (R118, R120, R157) -/

/-- A part of a load, with what the store buffer does for it; with its bytes, if they are there at once. -/
def loadPart (c : Core) (x : Course) (w : Nat) (e : Part × Fwd) : Part :=
  match e.2 with
  | .data b => { e.1 with data := some b }
  | .wait _ => e.1
  | .read =>
    if e.1.mt = .cached && w = 0 && c.l1d.contains (lineOfPa e.1.pa) && !c.l1dBad.contains (lineOfPa e.1.pa) && !olderSame c c.nextIdx e.1 then
      match l2Find x (lineOfPa e.1.pa) with
      | some (_, z) => { e.1 with data := some (lineRead z.data (e.1.pa.toNat % 64) e.1.len) }
      | none => e.1
    else e.1

/-- The longest wait that the store buffer asks of the parts of a load. -/
def fwdWait (fw : List (Part × Fwd)) : Nat := fw.foldl (fun a e => match e.2 with | .wait j => Nat.max a j | _ => a) 0

/-- The stores that a load waits for. -/
def loadWait (c : Core) (ps : List Part) (fw : List (Part × Fwd)) : Nat := if ps.any (fun p => p.mt == .device) then c.sb.length else fwdWait fw

/-- The parts of a load, with what the store buffer does for each. -/
def loadFwd (s : State) (n : Nat) (ps : List Part) : List (Part × Fwd) := ps.map (fun p => (p, partFwd s n p))

/-- The access that a load makes. -/
def loadAcc (s : State) (n : Nat) (x : Course) (dst : Dst) (w : Nat) (sg : Bool) (m : MRes) : OutAcc :=
  { idx := (getCore s n).nextIdx, kind := .load, dst := dst, width := w, signed := sg, lin := BitVec.ofNat 48 m.lin
    parts := (loadFwd s n m.parts).map (loadPart (getCore s n) x (loadWait (getCore s n) m.parts (loadFwd s n m.parts)))
    wait := loadWait (getCore s n) m.parts (loadFwd s n m.parts), tdid := tagOf (getCore s n), epoch := epochTag (getCore s n)
    atH := (getCore s n).level == .h }

/-- An access enters the core's list. -/
def withAcc (a : OutAcc) (c : Core) : Core := { c with accs := c.accs ++ [a], nextIdx := c.nextIdx + 1 }

/-- A load whose parts are all there writes its register. -/
def withLoad (a : OutAcc) (c : Core) : Core := writeDst c a.dst (accValue a).1 (accValue a).2

/-- A load writes its register or becomes an access, after counts of events. -/
theorem doLoad_none {s : State} {n : Nat} {dst : Dst} {w : Nat} {sg : Bool} {m : MRes} (h : m.data = none) :
    ∃ u, Quiet n (archOf (getCore s n)) s u ∧ doLoad s n dst w sg m =
      if accDone (loadAcc s n (getCourse s (courseOf s n)) dst w sg m) && (loadAcc s n (getCourse s (courseOf s n)) dst w sg m).wait = 0 then
        modCore u n (withLoad (loadAcc s n (getCourse s (courseOf s n)) dst w sg m))
      else kick (modCore u n (withAcc (loadAcc s n (getCourse s (courseOf s n)) dst w sg m))) n := by
  have hq : ∀ (b : Bool) (ev : Nat) {u}, Quiet n (archOf (getCore s n)) s u → Quiet n (archOf (getCore s n)) s (if b then coreEv u n ev 1 else u) := by
    intro b ev u hu
    split
    · exact coreEv_quiet hu
    · exact hu
  have h1 := hq (decide (2 ≤ m.parts.length)) 0x1A quiet_refl
  have hx : getCourse s (courseOf s n) = getCourse (if decide (2 ≤ m.parts.length) then coreEv s n 0x1A 1 else s) (courseOf s n) := by
    unfold getCourse
    rw [h1.2.courses]
  rw [hx]
  refine ⟨_, hq (decide (loadWait (getCore s n) m.parts (loadFwd s n m.parts) ≠ 0)) 0x0B
    (hq ((loadFwd s n m.parts).any (fun e => match e.2 with | .data _ => true | _ => false)) 0x0A h1), ?_⟩
  unfold doLoad
  rw [h]
  simp only [decide_eq_true_eq]
  rfl

/-! ### Loads answered at once (R118, R157) -/

section
variable {s : State} {n : Nat}

theorem not_device_of_atHand {p : Part} (h : partAtHand s n p = true) : (p.mt == .device) = false := by
  cases hm : p.mt
  case device =>
    unfold partAtHand partFwd at h
    rw [hm] at h
    cases h
  all_goals rfl

theorem not_wait_of_atHand {p : Part} (h : partAtHand s n p = true) (j : Nat) : partFwd s n p ≠ .wait j := by
  intro e
  unfold partAtHand at h
  rw [e] at h
  cases h

theorem fwdWait_eq_zero {fw : List (Part × Fwd)} (h : ∀ e ∈ fw, ∀ j, e.2 ≠ .wait j) : fwdWait fw = 0 := by
  unfold fwdWait
  induction fw with
  | nil => rfl
  | cons e r ih =>
    obtain ⟨p, f⟩ := e
    rw [List.foldl_cons]
    cases f with
    | wait j => exact absurd rfl (h _ (.head _) j)
    | data b => exact ih fun e he => h e (.tail _ he)
    | read => exact ih fun e he => h e (.tail _ he)

/-- A load whose parts are at hand waits for no store. -/
theorem loadWait_atHand {ps : List Part} (h : ∀ p ∈ ps, partAtHand s n p = true) : loadWait (getCore s n) ps (loadFwd s n ps) = 0 := by
  unfold loadWait
  rw [if_neg]
  · refine fwdWait_eq_zero fun e he j => ?_
    obtain ⟨p, hp, rfl⟩ := List.mem_map.1 he
    exact not_wait_of_atHand (h p hp) j
  · rw [List.any_eq_true]
    rintro ⟨p, hp, hd⟩
    rw [not_device_of_atHand (h p hp)] at hd
    cases hd

theorem loadPart_atHand {p : Part} (h : partAtHand s n p = true) :
    (loadPart (getCore s n) (getCourse s (courseOf s n)) 0 (p, partFwd s n p)).data = some (partBytes s n p) := by
  unfold partAtHand at h
  unfold loadPart partBytes
  generalize partFwd s n p = q at h ⊢
  cases q with
  | data b => rfl
  | wait j => cases h
  | read =>
    dsimp only at h ⊢
    rw [Bool.and_eq_true] at h
    obtain ⟨hc, hs⟩ := h
    obtain ⟨⟨j, z⟩, hz⟩ := Option.isSome_iff_exists.1 hs
    rw [if_pos (by simpa using hc), hz]
    unfold l2Bytes
    rw [hz]

theorem loadPart_notAtHand {p : Part} (h : partAtHand s n p = false) (hd : p.data = none) (w : Nat) :
    (loadPart (getCore s n) (getCourse s (courseOf s n)) w (p, partFwd s n p)).data = none := by
  unfold partAtHand at h
  unfold loadPart
  generalize partFwd s n p = q at h ⊢
  cases q with
  | data b => cases h
  | wait j => exact hd
  | read =>
    dsimp only at h ⊢
    split
    · rename_i hc
      cases hl : l2Find (getCourse s (courseOf s n)) (lineOfPa p.pa) with
      | none => exact hd
      | some z =>
        rw [hl] at h
        simp_all
    · exact hd

theorem loadPart_place (c : Core) (x : Course) (w : Nat) (e : Part × Fwd) : place (loadPart c x w e) = place e.1 := by
  unfold loadPart
  split
  · rfl
  · rfl
  · split
    · split <;> rfl
    · rfl

variable {dst : Dst} {w : Nat} {sg : Bool} {m : MRes}

/-- A load whose parts are all at hand is done, with their bytes. -/
theorem loadAcc_atHand (h : m.parts.all (partAtHand s n) = true) : (loadAcc s n (getCourse s (courseOf s n)) dst w sg m).wait = 0 ∧
    (loadAcc s n (getCourse s (courseOf s n)) dst w sg m).parts.map (·.data) = m.parts.map (fun p => some (partBytes s n p)) := by
  have hw := loadWait_atHand (List.all_eq_true.1 h)
  refine ⟨hw, ?_⟩
  unfold loadAcc loadFwd
  dsimp only
  unfold loadFwd at hw
  rw [hw, List.map_map, List.map_map]
  exact List.map_congr_left fun p hp => loadPart_atHand (List.all_eq_true.1 h p hp)

theorem accDone_loadAcc (h : m.parts.all (partAtHand s n) = true) : accDone (loadAcc s n (getCourse s (courseOf s n)) dst w sg m) = true := by
  have hd := (loadAcc_atHand (dst := dst) (w := w) (sg := sg) h).2
  unfold accDone
  refine List.all_eq_true.2 fun p hp => ?_
  obtain ⟨q, -, hq⟩ := List.mem_map.1 (hd ▸ List.mem_map_of_mem hp)
  rw [← hq]
  rfl

theorem accValue_loadAcc (h : m.parts.all (partAtHand s n) = true) : accValue (loadAcc s n (getCourse s (courseOf s n)) dst w sg m) =
    (loadedValue w sg (m.parts.flatMap (partBytes s n)), pany (m.parts.flatMap (partBytes s n))) := by
  have hd := (loadAcc_atHand (dst := dst) (w := w) (sg := sg) h).2
  have hb : (loadAcc s n (getCourse s (courseOf s n)) dst w sg m).parts.flatMap (fun p => p.data.getD []) = m.parts.flatMap (partBytes s n) := by
    have hm := congrArg (List.flatMap (fun d : Option (List PByte) => d.getD [])) hd
    rwa [List.flatMap_map, List.flatMap_map] at hm
  unfold accValue
  rw [hb]
  rfl

/-- A load with a part that is not at hand is not done. -/
theorem accDone_loadAcc_not (h : m.parts.all (partAtHand s n) = false) (hd : ∀ p ∈ m.parts, p.data = none) :
    accDone (loadAcc s n (getCourse s (courseOf s n)) dst w sg m) = false := by
  obtain ⟨p, hp, hn⟩ := List.all_eq_false.1 h
  unfold accDone
  refine List.all_eq_false.2 ⟨_, List.mem_map_of_mem (List.mem_map_of_mem hp), ?_⟩
  rw [loadPart_notAtHand (Bool.eq_false_iff.2 hn) (hd p hp)]
  exact Bool.false_ne_true

theorem loadAcc_place (x : Course) : (loadAcc s n x dst w sg m).parts.map place = m.parts.map place := by
  unfold loadAcc loadFwd
  rw [List.map_map, List.map_map]
  exact List.map_congr_left fun p _ => loadPart_place ..

end

/-! ### Accesses that enter the machine (R123, R152) -/

theorem regsOf_withAcc (a : OutAcc) (c : Core) : regsOf (withAcc a c) = regsOf c := rfl

/-- An access that enters the machine leaves the registers, takes the core's next number, and if it is the only one it goes on. -/
theorem enters {s : State} {n : Nat} (a : OutAcc) : RegsKept s (kick (modCore s n (withAcc a)) n) ∧
    (getCore (kick (modCore s n (withAcc a)) n) n).accs.map (·.idx) = (getCore s n).accs.map (·.idx) ++ [a.idx] ∧
    ((getCore s n).accs = [] → ∃ b, (getCore (kick (modCore s n (withAcc a)) n) n).accs = [b] ∧ GoneOn a b) := by
  have hc : (getCore (modCore s n (withAcc a)) n).accs = (getCore s n).accs ++ [a] := by
    unfold modCore
    rw [getCore_setCore, if_pos rfl]
    rfl
  refine ⟨regsKept_trans (regsKept_modCore (regsOf_withAcc a)) (regsKept_of_seen (kick_seen seen_refl)), ?_, fun h => kick_one ?_⟩
  · rw [kick_idx, hc, List.map_append]
    rfl
  · rw [hc, h]
    rfl

end Sys2Proof.Operations
end

section
/-! PROOF. Loads, stores, atomics, LR and SC at issue (R117 to R126, R152, R155, R157). -/
namespace Sys2Proof.Operations
open Sys2Proof Sys2Proof.Machine Sys2Proof.Timing Sys2Proof.Tenant Sys2Proof.Words

section
variable {i : Instr} {y : Syl} {f : Syl → Core → Staged} {s : State}

/-! ### Accesses (R119, R123, R152) -/

/-- A word whose effect is that an access enters the machine sends it. -/
theorem sends_of_enters {k : AccKind} {dst : Dst} {w : Nat} {sg : Bool} {opnd : Word64} {u : State} {a : OutAcc}
    (hq : Quiet y.n.toNat (archOf (pastWord y (getCore s y.n.toNat))) s u)
    (he : exec i s = .next (kick (modCore u y.n.toNat (withAcc a)) y.n.toNat)) (hi : a.idx = (getCore s y.n.toNat).nextIdx)
    (ha : a.kind = k ∧ a.dst = dst ∧ a.width = w ∧ a.signed = sg ∧ a.opnd = opnd) (hp : a.parts.map place = (x2Res i y s).parts.map place) :
    SendsAcc i y s k dst w sg opnd := by
  intro _
  obtain ⟨hk, hl, h1⟩ := enters (s := u) (n := y.n.toNat) a
  obtain ⟨hs, hc⟩ := regs_of_kept hq hk
  have hacc : (getCore u y.n.toNat).accs = (getCore s y.n.toNat).accs := (congrArg Core.accs hq.1 :)
  rw [hacc] at hl h1
  refine ⟨_, he, hs, hc, hi ▸ hl, fun h0 => ?_⟩
  obtain ⟨b, hb, hr, hpl⟩ := h1 h0
  rw [← hr] at ha
  exact ⟨b, hb, ha.1, ha.2.1, ha.2.2.1, ha.2.2.2.1, ha.2.2.2.2, hpl.trans hp⟩

/-- An atomic, LR or SC. -/
theorem sends_of_serial {k : AccKind} {dst : Dst} {w : Nat} {sg : Bool} {opnd : Word64} (hs : sylOf i = some (y, f))
    (hr : readsNothing (f y (getCore s y.n.toNat)).act (x2Res i y s))
    (ha : ∀ c0 u, doAct y.n.toNat c0 (sylLen y) (x2Res i y s) none u (f y (getCore s y.n.toNat)).act =
      doSerial u y.n.toNat k dst w sg opnd (x2Res i y s)) : SendsAcc i y s k dst w sg opnd := by
  intro h
  obtain ⟨c0, u, -, hb, e⟩ := exec_begins hs h hr
  rw [ha] at e
  exact sends_of_enters hb.quiet e (congrArg Core.nextIdx hb.quiet.1 :) ⟨rfl, rfl, rfl, rfl, rfl⟩ rfl h

/-! ### Stores (R118, R155) -/

theorem storeHalves_congr {c d : Core} (ht : tagOf c = tagOf d) (he : epochTag c = epochTag d) (m : Nat) (k : Bool) (ps : List Part) (b : List PByte) :
    storeHalves c m k ps b = storeHalves d m k ps b := by
  induction ps generalizing k b with
  | nil => rfl
  | cons p r ih =>
    unfold storeHalves
    dsimp only
    rw [ht, he, ih]

/-- A core with entries added to its store buffer. -/
def withEntries (es : List SbEntry) (c : Core) : Core := { c with sb := c.sb ++ es }

/-- A core with a store in its store buffer. -/
def withStore (ps : List Part) (b : List PByte) (c : Core) : Core := withEntries (storeEntries c ps b) c

theorem withStore_of_tags {c d : Core} (ht : tagOf c = tagOf d) (he : epochTag c = epochTag d) (ps : List Part) (b : List PByte) :
    withStore ps b c = withEntries (storeEntries d ps b) c := congrArg (fun es => withEntries es c) (storeHalves_congr ht he ..)

theorem stores_of_act {b : List PByte} {seg : BitVec 3} {off : Word64} (hs : sylOf i = some (y, f))
    (ha : (f y (getCore s y.n.toNat)).act = .store b seg off) : Stores i y s b := by
  refine does_of_quiet (g := withStore (x2Res i y s).parts b) hs (ha ▸ trivial) fun c0 u h0 hb => ?_
  rw [ha, doAct, withStore_of_tags (c := pastWord y (getCore s y.n.toNat)) (d := c0) (tagOf_archOf h0).symm (epochTag_archOf h0).symm]
  exact modCore_does (A := archOf (pastWord y (getCore s y.n.toNat))) (g := withEntries (storeEntries c0 (x2Res i y s).parts b)) (fun _ => rfl)
    (quiet_ite (fun _ => coreEv_quiet hb.quiet) fun _ => hb.quiet)

/-! ### Loads (R118, R152, R157) -/

section
variable {dst : Dst} {w : Nat} {sg : Bool} {seg : BitVec 3} {off : Word64}

/-- What the answer to a load depends on has not changed where its word's effect begins. -/
theorem Begins.partFwd_eq {u : State} (h : Begins y s u) (p : Part) : partFwd u y.n.toNat p = partFwd s y.n.toNat p := by
  unfold partFwd
  rw [show (getCore u y.n.toNat).sb = (getCore s y.n.toNat).sb from (congrArg Core.sb h.quiet.1 :)]

theorem Begins.l2Bytes_eq {u : State} (h : Begins y s u) (p : Part) : l2Bytes u y.n.toNat p = l2Bytes s y.n.toNat p := by
  unfold l2Bytes getCourse
  rw [courseOf_of_phys h.quiet.2.phys, h.quiet.2.courses]

theorem Begins.partAtHand_eq {u : State} (h : Begins y s u) (p : Part) : partAtHand u y.n.toNat p = partAtHand s y.n.toNat p := by
  unfold partAtHand olderSame getCourse
  dsimp only
  rw [h.partFwd_eq, courseOf_of_phys h.quiet.2.phys, h.quiet.2.courses,
    show (getCore u y.n.toNat).l1d = (getCore s y.n.toNat).l1d from (congrArg Core.l1d h.quiet.1 :),
    show (getCore u y.n.toNat).l1dBad = (getCore s y.n.toNat).l1dBad from (congrArg Core.l1dBad h.quiet.1 :),
    show (getCore u y.n.toNat).accs = (getCore s y.n.toNat).accs from (congrArg Core.accs h.quiet.1 :),
    show (getCore u y.n.toNat).nextIdx = (getCore s y.n.toNat).nextIdx from (congrArg Core.nextIdx h.quiet.1 :)]

theorem Begins.partBytes_eq {u : State} (h : Begins y s u) (p : Part) : partBytes u y.n.toNat p = partBytes s y.n.toNat p := by
  unfold partBytes
  rw [h.partFwd_eq, h.l2Bytes_eq]

/-- A load whose checks have read nothing, where its word's effect begins. -/
theorem load_begins (hs : sylOf i = some (y, f)) (ha : (f y (getCore s y.n.toNat)).act = .load dst w sg seg off) (hd : (x2Res i y s).data = none)
    (h : issuesAlone i y s = true) : ∃ u v, Begins y s u ∧ Quiet y.n.toNat (archOf (pastWord y (getCore s y.n.toNat))) s v ∧ exec i s = .next
      (if accDone (loadAcc u y.n.toNat (getCourse u (courseOf u y.n.toNat)) dst w sg (x2Res i y s)) &&
          (loadAcc u y.n.toNat (getCourse u (courseOf u y.n.toNat)) dst w sg (x2Res i y s)).wait = 0 then
        modCore v y.n.toNat (withLoad (loadAcc u y.n.toNat (getCourse u (courseOf u y.n.toNat)) dst w sg (x2Res i y s)))
      else kick (modCore v y.n.toNat (withAcc (loadAcc u y.n.toNat (getCourse u (courseOf u y.n.toNat)) dst w sg (x2Res i y s)))) y.n.toNat) := by
  obtain ⟨c0, u, -, hb, e⟩ := exec_begins hs h (ha ▸ hd)
  rw [ha, doAct] at e
  obtain ⟨v, hv, hl⟩ := doLoad_none (s := u) (n := y.n.toNat) (dst := dst) (w := w) (sg := sg) hd
  rw [hl] at e
  exact ⟨u, v, hb, ⟨hv.1.trans hb.quiet.1, hb.quiet.2.trans hv.2⟩, e⟩

theorem loads_atHand (hs : sylOf i = some (y, f)) (ha : (f y (getCore s y.n.toNat)).act = .load dst w sg seg off) (hd : (x2Res i y s).data = none)
    (hp : (x2Res i y s).parts.all (partAtHand s y.n.toNat) = true) :
    Does i y s (fun c => writeDst c dst (loadedValue w sg ((x2Res i y s).parts.flatMap (partBytes s y.n.toNat)))
      (pany ((x2Res i y s).parts.flatMap (partBytes s y.n.toNat)))) := by
  intro h
  obtain ⟨u, v, hb, hv, e⟩ := load_begins hs ha hd h
  rw [← List.flatMap_congr fun p _ => hb.partBytes_eq p]
  replace hp : (x2Res i y s).parts.all (partAtHand u y.n.toNat) = true := by rw [funext hb.partAtHand_eq, hp]
  rw [accDone_loadAcc hp, (loadAcc_atHand hp).1, if_pos (by rfl)] at e
  refine ⟨_, e, ?_⟩
  have hq := modCore_does (writeDst_arch dst (loadedValue w sg ((x2Res i y s).parts.flatMap (partBytes u y.n.toNat)))
    (pany ((x2Res i y s).parts.flatMap (partBytes u y.n.toNat)))) hv
  unfold withLoad
  rw [accValue_loadAcc hp, writeDst_arch]
  exact hq

/-- The parts that the word's checks have found. -/
theorem load_fresh (hs : sylOf i = some (y, f)) (hu : (f y (getCore s y.n.toNat)).unit = 2)
    (ha : (f y (getCore s y.n.toNat)).act = .load dst w sg seg off) (h : issuesAlone i y s = true) : ∀ p ∈ (x2Res i y s).parts, p.data = none := by
  have hm := (passes_of_issuesAlone hs h).mCheck_ok hu
  rw [ha] at hm
  obtain ⟨v, hc, -⟩ := mCheck_load_ok hm
  exact checkAcc_fresh hc

theorem loads_sent (hs : sylOf i = some (y, f)) (hu : (f y (getCore s y.n.toNat)).unit = 2)
    (ha : (f y (getCore s y.n.toNat)).act = .load dst w sg seg off) (hd : (x2Res i y s).data = none)
    (hp : (x2Res i y s).parts.all (partAtHand s y.n.toNat) = false) : SendsAcc i y s .load dst w sg 0 := by
  intro h
  obtain ⟨u, v, hb, hv, e⟩ := load_begins hs ha hd h
  replace hp : (x2Res i y s).parts.all (partAtHand u y.n.toNat) = false := by rw [funext hb.partAtHand_eq, hp]
  rw [accDone_loadAcc_not hp (load_fresh hs hu ha h), if_neg (by simp)] at e
  exact sends_of_enters hv e (congrArg Core.nextIdx hb.quiet.1 :) ⟨rfl, rfl, rfl, rfl, rfl⟩ (loadAcc_place _) h

theorem regsOf_writeDst {c d : Core} (h : regsOf c = regsOf d) (r : Dst) (v : Nat) (p : Bool) : regsOf (writeDst c r v p) = regsOf (writeDst d r v p) := by
  have hw : ∀ c, regsOf (writeDst c r v p) = regsOf (writeDst (regsOf c) r v p) := fun c => by
    cases r
    case g r b =>
      show regsOf (writeGb c r b _) = regsOf (writeGb (regsOf c) r b _)
      unfold writeGb
      dsimp only
      split
      · rfl
      split
      · rfl
      · split <;> rfl
    all_goals rfl
  rw [hw c, hw d, h]

/-- A split load whose halves have been read together (R117, R208). -/
theorem doLoad_some {u : State} {n : Nat} {m : MRes} {b : List PByte} (hd : m.data = some b) : ∃ v, RegsKept u v ∧
    doLoad u n dst w sg m = modCore v n (fun c => writeDst c dst (loadedValue w sg b) (pany b)) := by
  have hv : accValue { idx := 0, kind := .load, dst := dst, parts := [{ pa := 0, len := w, data := some b }], width := w, signed := sg } =
      (loadedValue w sg b, pany b) := by
    unfold accValue
    simp only [List.flatMap_cons, List.flatMap_nil, List.append_nil, Option.getD_some]
    rfl
  unfold doLoad
  rw [hd]
  dsimp only
  rw [hv]
  refine ⟨_, regsKept_trans (?_ : RegsKept u _) (regsKept_foldl (fun s p => ?_) _ _), rfl⟩
  · split
    · exact regsKept_of_seen (coreEv_seen seen_refl)
    · exact regsKept_refl u
  · split
    · exact regsKept_of_seen (l1dFill_seen seen_refl)
    · exact regsKept_refl s

theorem loads_split (hs : sylOf i = some (y, f)) (ha : (f y (getCore s y.n.toNat)).act = .load dst w sg seg off) {b : List PByte}
    (hd : (x2Res i y s).data = some b) (h : issuesAlone i y s = true) : ∃ t, exec i s = .next t ∧ RegsSame y.n.toNat s t ∧
      regsOf (getCore t y.n.toNat) = regsOf (writeDst (pastWord y (getCore s y.n.toNat)) dst (loadedValue w sg b) (pany b)) := by
  obtain ⟨hk, hc⟩ := (passes_of_issuesAlone hs h).begun_regs
  have e := exec_alone hs h
  rw [ha, doAct] at e
  obtain ⟨v, hv, hl⟩ := doLoad_some (u := begun i y s) (n := y.n.toNat) (dst := dst) (w := w) (sg := sg) hd
  unfold modCore at hl
  refine ⟨_, e.trans (congrArg _ hl), ⟨fun k hn => ?_, fun a => (memRead_setCore ..).trans ((hv.bytes a).trans (hk.bytes a))⟩, ?_⟩
  · rw [getCore_setCore, if_neg hn, hv.cores, hk.cores k hn]
  · rw [getCore_setCore, if_pos rfl]
    exact regsOf_writeDst ((hv.cores _).trans hc) ..

/-- The halves of a split load come from the course's L2 where that holds both lines. -/
theorem loads_fromL2 (hs : sylOf i = some (y, f)) (hu : (f y (getCore s y.n.toNat)).unit = 2)
    (ha : (f y (getCore s y.n.toNat)).act = .load dst w sg seg off) {b : List PByte} (hd : (x2Res i y s).data = some b) (h : issuesAlone i y s = true)
    (hp : ∀ p ∈ (x2Res i y s).parts, inL2 s y.n.toNat p) : b = (x2Res i y s).parts.flatMap (l2Bytes s y.n.toNat) := by
  have hpass := passes_of_issuesAlone hs h
  have hm := hpass.mCheck_ok hu
  rw [ha] at hm
  obtain ⟨v, hc, ⟨hn, -⟩ | ⟨b', hb, hr⟩⟩ := mCheck_load_ok hm
  · rw [hd] at hn
    cases hn
  · rw [hd] at hb
    cases hb
    have ho := checkAcc_only (fetchAt i y s).2 y.n.toNat seg off w .read false false
    rw [hc] at ho
    have hl := (hpass.fetchAt_only.trans ho).l2Like
    rw [microRead_inL2 (fun p q => (inL2_of_like hl (hp p q)).1) hr]
    exact List.flatMap_congr fun p q => (inL2_of_like hl (hp p q)).2

theorem loads_of_act (hs : sylOf i = some (y, f)) (hu : (f y (getCore s y.n.toNat)).unit = 2)
    (ha : (f y (getCore s y.n.toNat)).act = .load dst w sg seg off) : Loads i y s dst w sg :=
  ⟨loads_atHand hs ha, loads_sent hs hu ha, fun _ hd h => ⟨loads_split hs ha hd h, loads_fromL2 hs hu ha hd h⟩⟩

end

end

/-- Settles O12: each syllable by what its action does where the word's effect begins. -/
theorem loadsStoresAndAtomics : Obligations.LoadsStoresAndAtomics := by
  refine ⟨fun y s => ?_, fun y s => ?_, fun y s => ?_⟩
  · exact ⟨loads_of_act (f := sylLd8s) rfl rfl rfl, loads_of_act (f := sylLd8u) rfl rfl rfl, loads_of_act (f := sylLd16s) rfl rfl rfl,
      loads_of_act (f := sylLd16u) rfl rfl rfl, loads_of_act (f := sylLd32s) rfl rfl rfl, loads_of_act (f := sylLd32u) rfl rfl rfl,
      loads_of_act (f := sylLd64) rfl rfl rfl, loads_of_act (f := sylLdv) rfl rfl rfl⟩
  · exact ⟨stores_of_act (f := sylSt8) rfl rfl, stores_of_act (f := sylSt16) rfl rfl, stores_of_act (f := sylSt32) rfl rfl,
      stores_of_act (f := sylSt64) rfl rfl, stores_of_act (f := sylStv) rfl rfl⟩
  · exact ⟨sends_of_serial (f := sylAswap) rfl trivial fun _ _ => rfl, sends_of_serial (f := sylAadd) rfl trivial fun _ _ => rfl,
      sends_of_serial (f := sylAmin) rfl trivial fun _ _ => rfl, sends_of_serial (f := sylAmax) rfl trivial fun _ _ => rfl,
      sends_of_serial (f := sylAminu) rfl trivial fun _ _ => rfl, sends_of_serial (f := sylAmaxu) rfl trivial fun _ _ => rfl,
      sends_of_serial (f := sylAswapw) rfl trivial fun _ _ => rfl, sends_of_serial (f := sylAaddw) rfl trivial fun _ _ => rfl,
      sends_of_serial (f := sylAminw) rfl trivial fun _ _ => rfl, sends_of_serial (f := sylAmaxw) rfl trivial fun _ _ => rfl,
      sends_of_serial (f := sylAminuw) rfl trivial fun _ _ => rfl, sends_of_serial (f := sylAmaxuw) rfl trivial fun _ _ => rfl,
      sends_of_serial (f := sylLr) rfl trivial fun _ _ => rfl, sends_of_serial (f := sylSc) rfl trivial fun _ _ => rfl⟩

end Sys2Proof.Operations
end

section
/-! SUPPORT. The general registers through a chunk of a block-repeat operation (R130 to R132, R221). -/
namespace Sys2Proof.Operations
open Sys2Proof Sys2Proof.Machine Sys2Proof.Timing Sys2Proof.Tenant Sys2Proof.Words

/-! ### General registers of one bank only (R81, R83) -/

theorem readG_writeG {r : BitVec 6} (h0 : r ≠ 0) (h : r.toNat < 56) (c : Core) (x : Reg) (q : BitVec 6) :
    readG (writeG c r x) q = if q = r then x else readG c q := by
  have hw : writeG c r x = { c with g := tset (fun _ => {}) c.g r.toNat x } := by
    unfold writeG writeGb
    rw [if_neg h0]
    exact if_pos h
  have hq : (q.toNat = r.toNat) = (q = r) := propext BitVec.toNat_inj
  rw [hw]
  unfold readG readGb
  dsimp only [activeBank]
  by_cases hqr : q = r
  · subst hqr
    rw [if_neg h0, if_pos h, if_pos rfl, tget_tset, if_pos rfl]
  · simp only [tget_tset, hq, if_neg hqr]

/-! ### What leaves the general registers -/

/-- The general registers of a core, every register of the others, and every byte of DRAM are as they were. -/
structure GKept (n : Nat) (s t : State) : Prop where
  cores : ∀ j, j ≠ n → regsOf (getCore t j) = regsOf (getCore s j)
  bytes : ∀ a, memRead t a = memRead s a
  regs  : ∀ r, readG (getCore t n) r = readG (getCore s n) r

theorem GKept.refl (n : Nat) (s : State) : GKept n s s := ⟨fun _ _ => rfl, fun _ => rfl, fun _ => rfl⟩

theorem GKept.trans {n : Nat} {s t u : State} (h : GKept n s t) (k : GKept n t u) : GKept n s u :=
  ⟨fun j hj => (k.cores j hj).trans (h.cores j hj), fun a => (k.bytes a).trans (h.bytes a), fun r => (k.regs r).trans (h.regs r)⟩

theorem readG_regsOf {c d : Core} (h : regsOf c = regsOf d) (r : BitVec 6) : readG c r = readG d r := by
  show readG (regsOf c) r = readG (regsOf d) r
  rw [h]

theorem gKept_of_regsKept {n : Nat} {s t : State} (h : RegsKept s t) : GKept n s t := ⟨fun j _ => h.cores j, h.bytes, fun r => readG_regsOf (h.cores n) r⟩

theorem gKept_setCore {n : Nat} {s : State} {c : Core} (h : ∀ r, readG c r = readG (getCore s n) r) : GKept n s (setCore s n c) := by
  refine ⟨fun j hj => ?_, fun _ => rfl, fun r => ?_⟩
  · rw [getCore_setCore, if_neg hj]
  · rw [getCore_setCore, if_pos rfl, h]

theorem gKept_modCore {n : Nat} {s : State} {f : Core → Core} (h : ∀ c r, readG (f c) r = readG c r) : GKept n s (modCore s n f) := gKept_setCore (h _)

theorem coreEv_regsKept (s : State) (n ev k : Nat) (l : Option LineNo) : RegsKept s (coreEv s n ev k l) := regsKept_of_seen (coreEv_seen seen_refl)

theorem blkFault_gKept (s : State) (n code a : Nat) : GKept n s (blkFault s n code a) :=
  (gKept_of_regsKept (coreEv_regsKept ..)).trans (gKept_modCore fun _ _ => rfl)

theorem blkUse_gKept (s : State) (n : Nat) (b : Blk) (ps : List Part) : GKept n s (blkUse s n b ps) := gKept_modCore fun _ _ => rfl

theorem blkStop_gKept (s : State) (n : Nat) : GKept n s (blkStop s n) := by
  unfold blkStop
  dsimp only
  split
  · split
    · exact gKept_setCore fun _ => rfl
    · exact .refl n s
  · exact .refl n s

theorem payOwed_regsKept (k : Nat) (s : State) (n : Nat) : RegsKept s (payOwed k s n) := by
  induction k generalizing s with
  | zero => exact regsKept_refl s
  | succ k ih =>
    unfold payOwed
    dsimp only
    split
    · exact regsKept_refl s
    · refine regsKept_trans (regsKept_of_quiet (useToken_quiet quiet_refl)) (regsKept_trans (regsKept_modCore fun c => ?_) (ih _))
      rfl

/-! ### A parity error of patch memory (R221) -/

/-- A core stopped by it. -/
def parityStopped (t : Trap) (c : Core) : Core :=
  { c with dead := some t.code, trap := some t, entry := none, word := [], walk := none, blk := none, busy := .none, fresh := none, owe := 0
           atX2 := false, uaddr := none, fcode := none }

/-- A refused delivery leaves the core but for its offer. -/
theorem refuseOffer_core (s : State) (n : Nat) : GKept n s (refuseOffer s n) ∧
    ∃ o, archOf (getCore (refuseOffer s n) n) = archOf { getCore s n with offer := o } := by
  unfold refuseOffer
  split
  · rename_i o _
    have hq : Quiet n (archOf { getCore s n with offer := none }) (answer (modCore s n (fun c => { c with offer := none })) n o.id .refuse)
        (coreEv (answer (modCore s n (fun c => { c with offer := none })) n o.id .refuse) n 0x13 1) := by
      refine coreEv_quiet ⟨?_, .refl ..⟩
      show archOf (getCore (setCore s n _) n) = _
      rw [getCore_setCore, if_pos rfl]
    refine ⟨GKept.trans ?_ (gKept_of_regsKept (coreEv_regsKept ..)), none, hq.1⟩
    exact (gKept_modCore (s := s) (n := n) (f := fun c => { c with offer := none }) fun _ _ => rfl).trans (gKept_of_regsKept (regsKept_of_tables rfl rfl))
  · exact ⟨.refl n s, (getCore s n).offer, rfl⟩

theorem upatch_regsOf {c d : Core} (h : regsOf c = regsOf d) : c.upatch = d.upatch := (congrArg Core.upatch h :)

theorem dead_of_parityStopped {c d : Core} {t : Trap} {o : Option Offer} (h : archOf c = archOf { parityStopped t d with offer := o }) :
    c.dead = some t.code ∧ c.upatch = d.upatch := ⟨(congrArg Core.dead h :), (congrArg Core.upatch h :)⟩

/-- The error marked on the core. -/
def parityMarked (c : Core) : Core := { c with upatch := c.upatch ||| 4 }

/-- The state with that mark and the error's record. -/
def parityNoted (s : State) (n : Nat) : State :=
  jrn (setCore s n (parityMarked (getCore s n))) (courseOf s n) 0x1C (getCore s n).dom (bytesOf 1 n)

theorem parityNoted_core (s : State) (n : Nat) : GKept n s (parityNoted s n) ∧ (getCore (parityNoted s n) n).upatch = (getCore s n).upatch ||| 4 := by
  have hj : RegsKept (setCore s n (parityMarked (getCore s n))) (parityNoted s n) := jrn_regsKept ..
  have hm : GKept n s (setCore s n (parityMarked (getCore s n))) := gKept_setCore fun _ => rfl
  refine ⟨hm.trans (gKept_of_regsKept hj), (upatch_regsOf (hj.cores n)).trans ?_⟩
  rw [getCore_setCore, if_pos rfl]
  rfl

theorem patchParity_eq (s : State) (n : Nat) : patchParity s n =
    refuseOffer (modCore (parityNoted s n) n (parityStopped { code := 0, addr := 0, pc := (getCore s n).pc })) n := rfl

/-- The core that a parity error has stopped. -/
theorem patchParity_core (s : State) (n : Nat) : GKept n s (patchParity s n) ∧ (getCore (patchParity s n) n).dead = some 0 ∧
    (getCore (patchParity s n) n).upatch = (getCore s n).upatch ||| 4 := by
  obtain ⟨hk, hu⟩ := parityNoted_core s n
  rw [patchParity_eq]
  obtain ⟨hr, o, hc⟩ := refuseOffer_core (modCore (parityNoted s n) n (parityStopped { code := 0, addr := 0, pc := (getCore s n).pc })) n
  have hs : GKept n (parityNoted s n) (modCore (parityNoted s n) n (parityStopped { code := 0, addr := 0, pc := (getCore s n).pc })) :=
    gKept_modCore fun _ _ => rfl
  unfold modCore at hc
  rw [getCore_setCore, if_pos rfl] at hc
  obtain ⟨hd, hp⟩ := dead_of_parityStopped hc
  exact ⟨(hk.trans hs).trans hr, hd, hp.trans hu⟩

/-! ### The checks of a chunk (R131) -/

/-- One element of a region, checked as `blkCheck` does it. -/
def blkOne (n : Nat) (b : Blk) (i : Nat) (l : Level) (use : Bool) (seg : BitVec 3) (g : Nat) (kd : Kind) (s : State) : Got (List Part) × State :=
  if !use then (Got.ok [], s) else
  match checkAcc s n seg (BitVec.ofNat 64 (g + i * b.esz)) b.esz kd false false with
  | (.fault code a, s) => (Got.fault code a, s)
  | (.miss a, s) => (Got.wait, startWalk s n .data kd l a)
  | (.ok _ ps, s) => (Got.ok ps, s)

theorem blkOne_regsKept (n : Nat) (b : Blk) (i : Nat) (l : Level) (use : Bool) (seg : BitVec 3) (g : Nat) (kd : Kind) (s : State) :
    RegsKept s (blkOne n b i l use seg g kd s).2 := by
  have hc := regsKept_of_quiet (checkAcc_only s n seg (BitVec.ofNat 64 (g + i * b.esz)) b.esz kd false false).quiet
  unfold blkOne
  split
  · exact regsKept_refl s
  · generalize checkAcc s n seg _ b.esz kd false false = x at hc ⊢
    split
    · exact hc
    · exact regsKept_trans hc (regsKept_of_seen (startWalk_seen seen_refl))
    · exact hc

theorem blkOne_only {n : Nat} {b : Blk} {i : Nat} {l : Level} {use : Bool} {seg : BitVec 3} {g : Nat} {kd : Kind} {s t : State} {ps : List Part}
    (e : blkOne n b i l use seg g kd s = (.ok ps, t)) : ChecksOnly n s t := by
  have hc := checkAcc_only s n seg (BitVec.ofNat 64 (g + i * b.esz)) b.esz kd false false
  unfold blkOne at e
  split at e
  · cases e
    exact .refl n s
  · generalize checkAcc s n seg _ b.esz kd false false = x at hc e
    split at e <;> cases e
    exact hc

theorem blkCheck_succ (n : Nat) (b : Blk) (r5 r6 : Bool) (k6 : Kind) (g5 g6 k i : Nat) (p5 p6 : List Part) (s : State) :
    blkCheck n b r5 r6 k6 g5 g6 (k + 1) i p5 p6 s = match blkOne n b i (getCore s n).level r5 b.seg5 g5 .read s with
      | (.wait, s) => (.wait, s)
      | (.fault code a, s) => (.fault code a, s)
      | (.ok q5, t) => match blkOne n b i (getCore s n).level r6 b.seg6 g6 k6 t with
        | (.wait, s) => (.wait, s)
        | (.fault code a, s) => (.fault code a, s)
        | (.ok q6, s) => blkCheck n b r5 r6 k6 g5 g6 k (i + 1) (p5 ++ q5) (p6 ++ q6) s := by
  rfl

section
variable {n : Nat} {b : Blk} {r5 r6 : Bool} {k6 : Kind} {g5 g6 : Nat}

theorem blkCheck_regsKept (k i : Nat) (p5 p6 : List Part) (s : State) : RegsKept s (blkCheck n b r5 r6 k6 g5 g6 k i p5 p6 s).2 := by
  induction k generalizing i p5 p6 s with
  | zero => exact regsKept_refl s
  | succ k ih =>
    have h5 := blkOne_regsKept n b i (getCore s n).level r5 b.seg5 g5 .read s
    rw [blkCheck_succ]
    generalize blkOne n b i (getCore s n).level r5 b.seg5 g5 .read s = x at h5 ⊢
    split
    · exact h5
    · exact h5
    · rename_i q5 t
      have h6 := regsKept_trans h5 (blkOne_regsKept n b i (getCore s n).level r6 b.seg6 g6 k6 t)
      generalize blkOne n b i (getCore s n).level r6 b.seg6 g6 k6 t = x at h6 ⊢
      split
      · exact h6
      · exact h6
      · exact regsKept_trans h6 (ih ..)

theorem blkCheck_only {k i : Nat} {p5 p6 : List Part} {s t : State} {r : List Part × List Part}
    (e : blkCheck n b r5 r6 k6 g5 g6 k i p5 p6 s = (.ok r, t)) : ChecksOnly n s t := by
  induction k generalizing i p5 p6 s with
  | zero =>
    cases e
    exact .refl n _
  | succ k ih =>
    rw [blkCheck_succ] at e
    split at e
    · cases e
    · cases e
    · rename_i q5 u h5
      split at e
      · cases e
      · cases e
      · rename_i q6 v h6
        exact ((blkOne_only h5).trans (blkOne_only h6)).trans (ih e)

end

/-- A chunk has at most 64 elements (R131). -/
theorem blkCount_le (b : Blk) (lin g4 : Nat) : blkCount b lin g4 ≤ 64 := by
  refine (Nat.min_le_right _ _).trans (Nat.le_of_lt_succ ?_)
  obtain h | h := Nat.eq_zero_or_pos b.esz
  · rw [h, Nat.div_zero]
    decide
  · rw [Nat.div_lt_iff_lt_mul h]
    omega

theorem blkParts_regsKept (s : State) (n : Nat) (b : Blk) : RegsKept s (blkParts s n b).2 := by
  unfold blkParts
  extract_lets c g main6 lin full
  have h1 := blkCheck_regsKept (n := n) (b := b) (r5 := (blkUses b.op).1) (r6 := (blkUses b.op).2.1) (k6 := (blkUses b.op).2.2)
    (g5 := g 5) (g6 := g 6) 1 0 [] [] s
  dsimp only
  generalize blkCheck n b _ _ _ (g 5) (g 6) 1 0 [] [] s = x at h1 ⊢
  split
  · exact h1
  · exact h1
  · rename_i q5 q6 u
    have h2 := fun k => regsKept_trans h1 (blkCheck_regsKept (n := n) (b := b) (r5 := (blkUses b.op).1) (r6 := (blkUses b.op).2.1)
      (k6 := (blkUses b.op).2.2) (g5 := g 5) (g6 := g 6) k 0 [] [] u)
    replace h2 := h2 (if ((q5 ++ q6).any fun p => p.mt != MemType.cached) = true then 1 else full)
    generalize blkCheck n b _ _ _ (g 5) (g 6) _ 0 [] [] u = x at h2 ⊢
    split
    · exact h2
    · exact h2
    · simp only [apply_ite Prod.snd, ite_self]
      exact h2

/-- The checks of a chunk that pass leave all but the core's TLBs and counts, and find at most 64 elements. -/
theorem blkParts_only {s t : State} {n : Nat} {b : Blk} {cnt : Nat} {p5 p6 : List Part} (e : blkParts s n b = (.ok (cnt, p5, p6), t)) :
    ChecksOnly n s t ∧ cnt ≤ 64 := by
  unfold blkParts at e
  extract_lets c g main6 lin full at e
  have hf : full ≤ 64 := blkCount_le ..
  dsimp only at e
  split at e
  · cases e
  · cases e
  · rename_i q5 q6 u h1
    have hc : (if ((q5 ++ q6).any fun p => p.mt != MemType.cached) = true then 1 else full) ≤ 64 := by
      split
      · decide
      · exact hf
    generalize (if ((q5 ++ q6).any fun p => p.mt != MemType.cached) = true then 1 else full) = k at hc e
    split at e
    · cases e
    · cases e
    · rename_i p5 p6 v h2
      have ho := (blkCheck_only h1).trans (blkCheck_only h2)
      split at e <;> cases e
      · exact ⟨ho, by decide⟩
      · exact ⟨ho, hc⟩

end Sys2Proof.Operations
end

section
/-! SUPPORT. What a chunk of a block-repeat operation does to its core (R130 to R132). -/
namespace Sys2Proof.Operations
open Sys2Proof Sys2Proof.Machine Sys2Proof.Timing Sys2Proof.Tenant Sys2Proof.Words

/-- The registers after `done` elements of a chunk: G4 has fallen, and the regions in use have moved up. -/
structure Moved (n : Nat) (b : Blk) (done : Nat) (s t : State) : Prop where
  cores : ∀ j, j ≠ n → regsOf (getCore t j) = regsOf (getCore s j)
  bytes : ∀ a, memRead t a = memRead s a
  left  : (readG (getCore t n) 4).v = (readG (getCore s n) 4).v - BitVec.ofNat 64 done
  from5 : (readG (getCore t n) 5).v = (readG (getCore s n) 5).v + (if b.op = .setb then 0 else BitVec.ofNat 64 (done * b.esz))
  from6 : (readG (getCore t n) 6).v = (readG (getCore s n) 6).v + (if b.op = .scanb then 0 else BitVec.ofNat 64 (done * b.esz))
  rest  : ∀ r, r ≠ 4 → r ≠ 5 → r ≠ 6 → readG (getCore t n) r = readG (getCore s n) r

section
variable {n done : Nat} {b : Blk} {s t u : State}

theorem GKept.moved (h : GKept n s t) (b : Blk) : Moved n b 0 s t := by
  have hz : BitVec.ofNat 64 (0 * b.esz) = 0 := by rw [Nat.zero_mul]; rfl
  refine ⟨h.cores, h.bytes, ?_, ?_, ?_, fun r _ _ _ => h.regs r⟩
  · rw [h.regs]
    exact (BitVec.sub_zero _).symm
  · rw [h.regs, hz, ite_self]
    exact (BitVec.add_zero _).symm
  · rw [h.regs, hz, ite_self]
    exact (BitVec.add_zero _).symm

theorem Moved.after (h : Moved n b done t u) (k : GKept n s t) : Moved n b done s u :=
  ⟨fun j hj => (h.cores j hj).trans (k.cores j hj), fun a => (h.bytes a).trans (k.bytes a), k.regs 4 ▸ h.left, k.regs 5 ▸ h.from5, k.regs 6 ▸ h.from6,
    fun r h4 h5 h6 => (h.rest r h4 h5 h6).trans (k.regs r)⟩

theorem Moved.before (h : Moved n b done s t) (k : GKept n t u) : Moved n b done s u :=
  ⟨fun j hj => (k.cores j hj).trans (h.cores j hj), fun a => (k.bytes a).trans (h.bytes a), (k.regs 4).symm ▸ h.left, (k.regs 5).symm ▸ h.from5,
    (k.regs 6).symm ▸ h.from6, fun r h4 h5 h6 => (k.regs r).trans (h.rest r h4 h5 h6)⟩

end

/-! ### A chunk commits (R131) -/

/-- Whether an operation uses a region: G5's, or G6's (R130). -/
def uses5 (b : Blk) : Bool := decide (b.op ≠ .setb)

def uses6 (b : Blk) : Bool := decide (b.op ≠ .scanb)

/-- A register moved up where its region is in use. -/
def movedUp (use : Bool) (r : BitVec 6) (d : Word64) (c : Core) : Core := if use then writeG c r { v := (readG c r).v + d } else c

theorem readG_movedUp {r : BitVec 6} (h0 : r ≠ 0) (h : r.toNat < 56) (use : Bool) (d : Word64) (c : Core) (q : BitVec 6) :
    (q = r → (readG (movedUp use r d c) q).v = (readG c q).v + if use then d else 0) ∧ (q ≠ r → readG (movedUp use r d c) q = readG c q) := by
  unfold movedUp
  cases use
  · exact ⟨fun _ => (BitVec.add_zero _).symm, fun _ => rfl⟩
  · refine ⟨fun hq => ?_, fun hq => ?_⟩
    · subst hq
      rw [if_pos rfl, readG_writeG h0 h, if_pos rfl]
      rfl
    · rw [if_pos rfl, readG_writeG h0 h, if_neg hq]

/-- The core with the registers of a committing chunk. -/
def blkMoved (b : Blk) (done : Nat) (c : Core) : Core :=
  movedUp (uses6 b) 6 (BitVec.ofNat 64 (done * b.esz)) (movedUp (uses5 b) 5 (BitVec.ofNat 64 (done * b.esz))
    (writeG c 4 { v := (readG c 4).v - BitVec.ofNat 64 done }))

/-- Its stores in the store buffer, and its cost (R134). -/
def blkStored (st : List SbEntry) (cost : Nat) (c : Core) : Core := { c with sb := c.sb ++ st, owe := c.owe + cost }

/-- The operation ends. -/
def blkEnded (c : Core) : Core := { c with blk := none, pc := c.pc + 4, uaddr := none, warmLeft := c.warmLeft - 1 }

/-- It goes on. -/
def blkOn (b : Blk) (c : Core) : Core := { c with blk := some { b with lines := [] } }

theorem blkCommit_core (s : State) (n : Nat) (b : Blk) (done : Nat) (stop : Bool) (st : List SbEntry) (cost : Nat) :
    blkCommit s n b done stop (uses5 b) (uses6 b) st cost = setCore s n
      (if stop || (readG (getCore s n) 4).v - BitVec.ofNat 64 done = 0 then blkEnded (blkStored st cost (blkMoved b done (getCore s n)))
        else blkOn b (blkStored st cost (blkMoved b done (getCore s n)))) := rfl

theorem uses5_ite (b : Blk) (d : Word64) : (if uses5 b then d else 0) = if b.op = .setb then 0 else d := by
  unfold uses5
  by_cases h : b.op = .setb
  · rw [h]
    rfl
  · rw [if_neg h, if_pos (decide_eq_true h)]

theorem uses6_ite (b : Blk) (d : Word64) : (if uses6 b then d else 0) = if b.op = .scanb then 0 else d := by
  unfold uses6
  by_cases h : b.op = .scanb
  · rw [h]
    rfl
  · rw [if_neg h, if_pos (decide_eq_true h)]

theorem blkMoved_regs (b : Blk) (done : Nat) (c : Core) :
    (readG (blkMoved b done c) 4).v = (readG c 4).v - BitVec.ofNat 64 done ∧
    (readG (blkMoved b done c) 5).v = (readG c 5).v + (if b.op = .setb then 0 else BitVec.ofNat 64 (done * b.esz)) ∧
    (readG (blkMoved b done c) 6).v = (readG c 6).v + (if b.op = .scanb then 0 else BitVec.ofNat 64 (done * b.esz)) ∧
    ∀ r, r ≠ 4 → r ≠ 5 → r ≠ 6 → readG (blkMoved b done c) r = readG c r := by
  have h4 := readG_writeG (r := 4) (by decide) (by decide) c { v := (readG c 4).v - BitVec.ofNat 64 done }
  have h5 := fun q => readG_movedUp (r := 5) (by decide) (by decide) (uses5 b) (BitVec.ofNat 64 (done * b.esz))
    (writeG c 4 { v := (readG c 4).v - BitVec.ofNat 64 done }) q
  have h6 := fun q => readG_movedUp (r := 6) (by decide) (by decide) (uses6 b) (BitVec.ofNat 64 (done * b.esz))
    (movedUp (uses5 b) 5 (BitVec.ofNat 64 (done * b.esz)) (writeG c 4 { v := (readG c 4).v - BitVec.ofNat 64 done })) q
  unfold blkMoved
  refine ⟨?_, ?_, ?_, fun r n4 n5 n6 => ?_⟩
  · rw [(h6 4).2 (by decide), (h5 4).2 (by decide), h4, if_pos rfl]
  · rw [(h6 5).2 (by decide), (h5 5).1 rfl, h4, if_neg (by decide), uses5_ite]
  · rw [(h6 6).1 rfl, (h5 6).2 (by decide), h4, if_neg (by decide), uses6_ite]
  · rw [(h6 r).2 n6, (h5 r).2 n5, h4, if_neg n4]

theorem blkCommit_moved (s : State) (n : Nat) (b : Blk) (done : Nat) (stop : Bool) (st : List SbEntry) (cost : Nat) :
    Moved n b done s (blkCommit s n b done stop (uses5 b) (uses6 b) st cost) := by
  obtain ⟨h4, h5, h6, hr⟩ := blkMoved_regs b done (getCore s n)
  have hc : ∀ r, readG (getCore (blkCommit s n b done stop (uses5 b) (uses6 b) st cost) n) r = readG (blkMoved b done (getCore s n)) r := fun r => by
    rw [blkCommit_core, getCore_setCore, if_pos rfl]
    split <;> rfl
  refine ⟨fun j hj => ?_, fun a => ?_, (hc 4).symm ▸ h4, (hc 5).symm ▸ h5, (hc 6).symm ▸ h6, fun r n4 n5 n6 => (hc r).trans (hr r n4 n5 n6)⟩
  · rw [blkCommit_core, getCore_setCore, if_neg hj]
  · rw [blkCommit_core]
    exact memRead_setCore ..

/-! ### What a chunk does with its bytes (R131, R132) -/

theorem blkPass_le (e : Nat) (x : List PByte) (y : Nat → Nat) (k i : Nat) (same : Bool) : blkPass e x y k i same ≤ i + k := by
  induction k generalizing i with
  | zero => exact Nat.le_refl i
  | succ k ih =>
    unfold blkPass
    split
    · exact (ih (i + 1)).trans (by omega)
    · omega

theorem chunkDone_le (c : Core) (b : Blk) (cnt : Nat) (d : List PByte) : chunkDone c b cnt d ≤ cnt := by
  have hp := fun x y same => blkPass_le b.esz x y cnt 0 same
  simp only [Nat.zero_add] at hp
  unfold chunkDone
  dsimp only
  split
  · exact Nat.le_refl cnt
  · exact Nat.le_refl cnt
  · exact hp ..
  · exact hp ..

/-- The entries of a chunk's stores. -/
def chunkEntries (c : Core) (b : Blk) (cnt : Nat) (p6 : List Part) (d : List PByte) : List SbEntry :=
  if b.op = .movb ∨ b.op = .setb then blkEntries c 65 p6 (chunkStores c b cnt d) else []

/-- A chunk that has its bytes commits its elements, or meets a mark. -/
theorem blkEnd_cases (s : State) (n : Nat) (b : Blk) (cnt : Nat) (p5 p6 : List Part) (d : List PByte) :
    (∃ a, blkEnd s n b cnt p5 p6 d = blkFault s n 0x20 a ∧ pany d = true) ∨
    ∃ stop cost, blkEnd s n b cnt p5 p6 d =
      blkCommit s n b (chunkDone (getCore s n) b cnt d) stop (uses5 b) (uses6 b) (chunkEntries (getCore s n) b cnt p6 d) cost := by
  have hx : pany (d.take (cnt * b.esz)) = true → pany d = true := fun h => by
    obtain ⟨x, hx, hp⟩ := List.any_eq_true.1 h
    exact List.any_eq_true.2 ⟨x, List.mem_of_mem_take hx, hp⟩
  have hy : pany (d.drop (cnt * b.esz)) = true → pany d = true := fun h => by
    obtain ⟨x, hx, hp⟩ := List.any_eq_true.1 h
    exact List.any_eq_true.2 ⟨x, List.mem_of_mem_drop hx, hp⟩
  unfold blkEnd
  dsimp only
  split
  · rename_i h
    exact .inl ⟨_, rfl, hx (Bool.and_eq_true _ _ ▸ h : _ ∧ _).2⟩
  split
  · rename_i h
    exact .inl ⟨_, rfl, hy (Bool.and_eq_true _ _ ▸ h : _ ∧ _).2⟩
  · refine .inr ?_
    unfold chunkDone chunkEntries chunkStores uses5 uses6
    cases b.op <;> exact ⟨_, _, rfl⟩

/-! ### A chunk (R130 to R132) -/

theorem microRead_gKept {n : Nat} {s t : State} {u : ReqUse} {x : Tdid} {ep : BitVec 8} {h : Bool} {ps : List Part} {o : Option (List PByte)}
    (e : microRead n u x ep h ps s = (o, t)) : GKept n s t := by
  have hk := microRead_regsKept n u x ep h ps s
  rw [e] at hk
  exact gKept_of_regsKept hk

/-- A chunk does at most 64 elements, and moves the registers on by those. -/
theorem chunk_moved (s : State) (n : Nat) (b : Blk) : ∃ done, done ≤ 64 ∧ Moved n b done s (chunk s n b) := by
  have hp := gKept_of_regsKept (n := n) (blkParts_regsKept s n b)
  unfold chunk
  cases e : blkParts s n b with
  | mk r t =>
    rw [e] at hp
    dsimp only at hp ⊢
    cases r with
    | wait => exact ⟨0, by decide, hp.moved b⟩
    | fault code a => exact ⟨0, by decide, (hp.trans (blkFault_gKept ..)).moved b⟩
    | ok r =>
      obtain ⟨cnt, p5, p6⟩ := r
      have hu := hp.trans (blkUse_gKept t n b (p5 ++ p6))
      dsimp only
      split
      · exact ⟨0, by decide, (hu.trans (gKept_of_regsKept (coreEv_regsKept ..))).moved b⟩
      · split
        · exact ⟨0, by decide, (hu.trans (microRead_gKept ‹_›)).moved b⟩
        · rename_i d v hm
          have hv := hu.trans (microRead_gKept hm)
          obtain ⟨a, he, -⟩ | ⟨stop, cost, he⟩ := blkEnd_cases v n b cnt p5 p6 d <;> rw [he]
          · exact ⟨0, by decide, (hv.trans (blkFault_gKept ..)).moved b⟩
          · exact ⟨_, (chunkDone_le ..).trans (blkParts_only e).2, (blkCommit_moved ..).after hv⟩

theorem runRoutine_cases (s : State) (n k : Nat) (f : State → State) : runRoutine s n k f = patchParity s n ∨
    ∃ u, routineFetch s n k = some u ∧ runRoutine s n k f = f (modCore s n (fun c => { c with uaddr := some u })) := by
  unfold runRoutine
  split
  · exact .inl rfl
  · exact .inr ⟨_, ‹_›, rfl⟩

theorem blkStep_moved (s : State) (n : Nat) (b : Blk) : ∃ done, done ≤ 64 ∧ Moved n b done s (blkStep s n b) := by
  have hr : ∃ done, done ≤ 64 ∧ Moved n b done s (runRoutine s n (blkRoutine b) (fun s => chunk s n { b with stop := false })) := by
    obtain e | ⟨u, -, e⟩ := runRoutine_cases s n (blkRoutine b) (fun s => chunk s n { b with stop := false }) <;> rw [e]
    · exact ⟨0, by decide, (patchParity_core s n).1.moved b⟩
    · obtain ⟨done, hd, hm⟩ := chunk_moved (modCore s n (fun c => { c with uaddr := some u })) n { b with stop := false }
      have hk : GKept n s (modCore s n (fun c => { c with uaddr := some u })) := gKept_modCore fun _ _ => rfl
      have ha := hm.after hk
      exact ⟨done, hd, ha.cores, ha.bytes, ha.left, ha.from5, ha.from6, ha.rest⟩
  obtain ⟨done, hd, hm⟩ := hr
  unfold blkStep
  dsimp only
  split
  · exact ⟨done, hd, hm⟩
  · exact ⟨done, hd, hm.before (blkStop_gKept ..)⟩

end Sys2Proof.Operations
end

section
/-! SUPPORT. A chunk whose checks pass and whose data is there (R131). -/
namespace Sys2Proof.Operations
open Sys2Proof Sys2Proof.Machine Sys2Proof.Timing Sys2Proof.Tenant Sys2Proof.Words

/-- The core may not go on with its block-repeat operation (R99, R132). -/
def blkIdle (s : State) (n : Nat) (b : Blk) : Bool :=
  (getCore s n).run ≠ .run || (getCore s n).dead.isSome || (getCore s n).rot || (getCore s n).trap.isSome || (getCore s n).entry.isSome ||
    ((getCore s n).level ≠ .h && domPaused s (getCore s n).dom.toNat) ||
    (match (getCore s n).walk with | some w => w.why != .pref && w.why != .fill | none => false) || blkStopped s n b

theorem exec_blockChunk {n : BitVec 8} {s : State} {b : Blk} (h : (getCore s n.toNat).blk = some b) (e : Bool) : exec (.blockChunk n e) s =
    if blkIdle s n.toNat b then .next s else if e then .next (patchParity s n.toNat)
    else if (getCore (payOwed (getCore s n.toNat).owe s n.toNat) n.toNat).owe ≠ 0 then .next (payOwed (getCore s n.toNat).owe s n.toNat)
      else .next (advance (blkStep (payOwed (getCore s n.toNat).owe s n.toNat) n.toNat b) n.toNat) := by
  show execBlockChunk n e s = _
  unfold execBlockChunk
  dsimp only
  rw [h]
  rfl

theorem blkStopped_of_stop {s : State} {n : Nat} {b : Blk} (h : b.stop = false) : blkStopped s n b = false := by
  unfold blkStopped
  rw [h]
  rfl

theorem blkStopped_of_offer {s : State} {n : Nat} {b : Blk} (h : (getCore s n).offer = none) : blkStopped s n b = false := by
  unfold blkStopped
  rw [h]
  exact Bool.and_false _

theorem blkIdle_eq_false {s : State} {n : Nat} {b : Blk} (hr : (getCore s n).run = .run) (hd : (getCore s n).dead = none)
    (ho : (getCore s n).rot = false) (ht : (getCore s n).trap = none) (he : (getCore s n).entry = none) (hw : (getCore s n).walk = none)
    (hl : (getCore s n).level = .h ∨ domPaused s (getCore s n).dom.toNat = false) (hs : blkStopped s n b = false) : blkIdle s n b = false := by
  unfold blkIdle
  rw [hr, hd, ho, ht, he, hw, hs]
  obtain h | h := hl <;> simp [h]

/-! ### What its reads leave of the core (R131, R208) -/

/-- A core as it stands at the commit of a chunk: but for its operation and its caches, as it was before. -/
def SameButBlk (c x : Core) : Prop := ∃ o, stillOf x = { stillOf c with blk := o }

section
variable {c x : Core}

theorem SameButBlk.readG_eq (h : SameButBlk c x) (r : BitVec 6) : readG x r = readG c r := by
  obtain ⟨o, h⟩ := h
  show readG (stillOf x) r = readG { stillOf c with blk := o } r
  rw [h]

theorem SameButBlk.tag_eq (h : SameButBlk c x) : tagOf x = tagOf c := by
  obtain ⟨o, h⟩ := h
  show tagOf (stillOf x) = tagOf { stillOf c with blk := o }
  rw [h]

theorem SameButBlk.epochTag_eq (h : SameButBlk c x) : epochTag x = epochTag c := by
  obtain ⟨o, h⟩ := h
  show epochTag (stillOf x) = epochTag { stillOf c with blk := o }
  rw [h]

theorem SameButBlk.level_eq (h : SameButBlk c x) : x.level = c.level := by
  obtain ⟨o, h⟩ := h
  exact (congrArg Core.level h :)

theorem SameButBlk.sb_eq (h : SameButBlk c x) : x.sb = c.sb := by
  obtain ⟨o, h⟩ := h
  exact (congrArg Core.sb h :)

theorem SameButBlk.offer_eq (h : SameButBlk c x) : x.offer = c.offer := by
  obtain ⟨o, h⟩ := h
  exact (congrArg Core.offer h :)

theorem SameButBlk.pc_eq (h : SameButBlk c x) : x.pc = c.pc := by
  obtain ⟨o, h⟩ := h
  exact (congrArg Core.pc h :)

theorem SameButBlk.chunkDone_eq (h : SameButBlk c x) (b : Blk) (cnt : Nat) (d : List PByte) : chunkDone x b cnt d = chunkDone c b cnt d := by
  unfold chunkDone
  rw [h.readG_eq]

theorem blkEntries_congr (ht : tagOf x = tagOf c) (he : epochTag x = epochTag c) (k : Nat) (ps : List Part) (l : List PByte) :
    blkEntries x k ps l = blkEntries c k ps l := by
  induction k generalizing ps l with
  | zero => rfl
  | succ k ih =>
    cases ps with
    | nil => rfl
    | cons p r =>
      unfold blkEntries
      dsimp only
      rw [ht, he, ih]

theorem SameButBlk.entries_eq (h : SameButBlk c x) (b : Blk) (cnt : Nat) (p6 : List Part) (d : List PByte) :
    chunkEntries x b cnt p6 d = chunkEntries c b cnt p6 d := by
  unfold chunkEntries chunkStores
  rw [blkEntries_congr h.tag_eq h.epochTag_eq, h.readG_eq]

end

theorem sameButBlk_of_still {c x : Core} (h : stillOf x = stillOf c) (o : Option Blk) : SameButBlk c { x with blk := o } :=
  ⟨o, congrArg (fun c : Core => { c with blk := o }) h⟩

theorem sameButBlk_blkUse {s t : State} {n : Nat} (h : still t = still s) (b : Blk) (ps : List Part) :
    SameButBlk (getCore s n) (getCore (blkUse t n b ps) n) := by
  unfold blkUse modCore
  rw [getCore_setCore, if_pos rfl]
  exact sameButBlk_of_still (still_core h n) _

/-! ### The chunk (R131) -/

theorem blkFull_blkUse (s : State) (n : Nat) (b : Blk) (p6 ps : List Part) : blkFull (blkUse s n b ps) n b p6 = blkFull s n b p6 := by
  unfold blkFull blkUse modCore
  rw [getCore_setCore, if_pos rfl]

/-- A chunk that is ready commits its elements. -/
theorem chunk_ready {s s3 : State} {n : Nat} {b : Blk} {cnt : Nat} {p5 p6 : List Part} {d : List PByte} (h : chunkReady s n b cnt p5 p6 d s3) :
    SameButBlk (getCore s n) (getCore s3 n) ∧ ∃ u stop cost, routineFetch s n (blkRoutine b) = some u ∧
      chunk (modCore s n (fun c => { c with uaddr := some u })) n b = blkCommit s3 n b (chunkDone (getCore s n) b cnt d) stop (uses5 b) (uses6 b)
        (chunkEntries (getCore s n) b cnt p6 d) cost := by
  obtain ⟨u, s2, hf, hp, hb, hm, hd⟩ := h
  have hs : still s2 = still s := by
    have hu : still (modCore s n (fun c => { c with uaddr := some u })) = still s := still_modCore fun _ => rfl
    exact (still_of_quiet (blkParts_only hp).1.quiet).trans hu
  have hc := sameButBlk_blkUse (n := n) hs b (p5 ++ p6)
  have h3 : SameButBlk (getCore s n) (getCore s3 n) := by
    obtain ⟨o, ho⟩ := hc
    have hk := still_microRead (blkUse s2 n b (p5 ++ p6)) n .load (tagOf (getCore s n)) (epochTag (getCore s n)) ((getCore s n).level == .h)
      (p5 ++ (if b.op == .cmpb then p6 else []))
    rw [hm] at hk
    exact ⟨o, (still_core hk n).trans ho⟩
  refine ⟨h3, u, ?_⟩
  unfold chunk
  rw [hp]
  dsimp only
  rw [blkFull_blkUse, hb, hc.tag_eq, hc.epochTag_eq, hc.level_eq, hm]
  obtain ⟨a, -, ha⟩ | ⟨stop, cost, he⟩ := blkEnd_cases s3 n b cnt p5 p6 d
  · rw [hd] at ha
    cases ha
  · rw [h3.chunkDone_eq, h3.entries_eq] at he
    exact ⟨stop, cost, hf, he⟩

theorem blkStop_of_offer {s : State} {n : Nat} (h : (getCore s n).offer = none) : blkStop s n = s := by
  unfold blkStop
  dsimp only
  rw [h]
  cases (getCore s n).blk <;> rfl

theorem blk_unstopped {b : Blk} (h : b.stop = false) : { b with stop := false } = b := by
  cases b
  cases h
  rfl

theorem writeG_low {r : BitVec 6} (h0 : r ≠ 0) (h : r.toNat < 56) (c : Core) (x : Reg) : ∃ g, writeG c r x = { c with g := g } := by
  unfold writeG writeGb
  rw [if_neg h0]
  exact ⟨_, if_pos h⟩

theorem movedUp_low {r : BitVec 6} (h0 : r ≠ 0) (h : r.toNat < 56) (use : Bool) (d : Word64) (c : Core) : ∃ g, movedUp use r d c = { c with g := g } := by
  cases use
  · exact ⟨c.g, rfl⟩
  · exact writeG_low h0 h c _

/-- A commit writes no more than G4 to G6. -/
theorem blkMoved_rest (b : Blk) (done : Nat) (c : Core) : ∃ g, blkMoved b done c = { c with g := g } := by
  unfold blkMoved
  obtain ⟨g, hg⟩ := writeG_low (r := 4) (by decide) (by decide) c { v := (readG c 4).v - BitVec.ofNat 64 done }
  rw [hg]
  obtain ⟨g5, h5⟩ := movedUp_low (r := 5) (by decide) (by decide) (uses5 b) (BitVec.ofNat 64 (done * b.esz)) { c with g := g }
  rw [h5]
  obtain ⟨g6, h6⟩ := movedUp_low (r := 6) (by decide) (by decide) (uses6 b) (BitVec.ofNat 64 (done * b.esz)) { c with g := g5 }
  exact ⟨g6, h6⟩

/-- A core after the commit of a chunk. -/
theorem blkCommit_fields (s : State) (n : Nat) (b : Blk) (done : Nat) (stop : Bool) (st : List SbEntry) (cost : Nat) :
    (getCore (blkCommit s n b done stop (uses5 b) (uses6 b) st cost) n).sb = (getCore s n).sb ++ st ∧
    (getCore (blkCommit s n b done stop (uses5 b) (uses6 b) st cost) n).offer = (getCore s n).offer ∧
    ((readG (getCore s n) 4).v - BitVec.ofNat 64 done = 0 → (getCore (blkCommit s n b done stop (uses5 b) (uses6 b) st cost) n).blk = none ∧
      (getCore (blkCommit s n b done stop (uses5 b) (uses6 b) st cost) n).pc = (getCore s n).pc + 4) := by
  obtain ⟨g, hg⟩ := blkMoved_rest b done (getCore s n)
  rw [blkCommit_core, getCore_setCore, if_pos rfl, hg]
  refine ⟨?_, ?_, fun h0 => ?_⟩
  · split <;> rfl
  · split <;> rfl
  · rw [if_pos (by rw [Bool.or_eq_true]; exact .inr (decide_eq_true h0))]
    exact ⟨rfl, rfl⟩

/-- A ready chunk runs, and its elements commit. -/
theorem blkStep_ready {s s3 : State} {n : Nat} {b : Blk} {cnt : Nat} {p5 p6 : List Part} {d : List PByte} (h : chunkReady s n b cnt p5 p6 d s3)
    (hb : b.stop = false) (ho : (getCore s n).offer = none) : ∃ stop cost, blkStep s n b =
      blkCommit s3 n b (chunkDone (getCore s n) b cnt d) stop (uses5 b) (uses6 b) (chunkEntries (getCore s n) b cnt p6 d) cost := by
  obtain ⟨hc, u, stop, cost, hf, hk⟩ := chunk_ready h
  refine ⟨stop, cost, ?_⟩
  have hr : runRoutine s n (blkRoutine b) (fun s => chunk s n b) =
      blkCommit s3 n b (chunkDone (getCore s n) b cnt d) stop (uses5 b) (uses6 b) (chunkEntries (getCore s n) b cnt p6 d) cost := by
    unfold runRoutine
    rw [hf]
    exact hk
  unfold blkStep
  dsimp only
  rw [blk_unstopped hb, hr, blkStop_of_offer ((blkCommit_fields ..).2.1.trans (hc.offer_eq.trans ho)), ite_self]

end Sys2Proof.Operations
end

section
/-! PROOF. Chunks of block-repeat operations, and invalidations at a core (R130 to R135, R221, R242, R243). -/
namespace Sys2Proof.Operations
open Sys2Proof Sys2Proof.Machine Sys2Proof.Timing Sys2Proof.Tenant Sys2Proof.Words

/-! ### Chunks (R130 to R132, R134, R221) -/

theorem blockChunk_idle {n : BitVec 8} {s : State} (h : (getCore s n.toNat).blk = none) (e : Bool) : exec (.blockChunk n e) s = .next s := by
  show execBlockChunk n e s = _
  unfold execBlockChunk
  dsimp only
  rw [h]

/-- A command that runs no chunk, or one that does. -/
theorem blockChunk_moves {n : BitVec 8} {s : State} {b : Blk} (h : (getCore s n.toNat).blk = some b) :
    ∃ t u done, exec (.blockChunk n false) s = .next u ∧ (u = t ∨ u = advance t n.toNat) ∧ done ≤ 64 ∧ Moved n.toNat b done s t := by
  have hp := gKept_of_regsKept (n := n.toNat) (payOwed_regsKept (getCore s n.toNat).owe s n.toNat)
  rw [exec_blockChunk h]
  split
  · exact ⟨s, s, 0, rfl, .inl rfl, by decide, (GKept.refl ..).moved b⟩
  rw [if_neg Bool.false_ne_true]
  split
  · exact ⟨_, _, 0, rfl, .inl rfl, by decide, hp.moved b⟩
  · obtain ⟨done, hd, hm⟩ := blkStep_moved (payOwed (getCore s n.toNat).owe s n.toNat) n.toNat b
    exact ⟨_, _, done, rfl, .inr rfl, hd, hm.after hp⟩

theorem blockChunk_ready {n : BitVec 8} {s s3 : State} {b : Blk} {cnt : Nat} {p5 p6 : List Part} {d : List PByte}
    (hb : (getCore s n.toNat).blk = some b) (hi : blkIdle s n.toNat b = false) (hs : b.stop = false) (ho : (getCore s n.toNat).offer = none)
    (hw : (getCore s n.toNat).owe = 0) (h : chunkReady s n.toNat b cnt p5 p6 d s3) : ∃ u, exec (.blockChunk n false) s = .next (advance u n.toNat) ∧
      (readG (getCore u n.toNat) 4).v = (readG (getCore s n.toNat) 4).v - BitVec.ofNat 64 (chunkDone (getCore s n.toNat) b cnt d) ∧
      (getCore u n.toNat).sb = (getCore s n.toNat).sb ++ chunkEntries (getCore s n.toNat) b cnt p6 d ∧
      (b.op = .movb ∨ b.op = .setb → ((readG (getCore s n.toNat) 4).v = BitVec.ofNat 64 cnt →
        (getCore u n.toNat).blk = none ∧ (getCore u n.toNat).pc = (getCore s n.toNat).pc + 4)) := by
  obtain ⟨hc, -⟩ := chunk_ready h
  obtain ⟨stop, cost, hk⟩ := blkStep_ready h hs ho
  obtain ⟨hsb, -, hend⟩ := blkCommit_fields s3 n.toNat b (chunkDone (getCore s n.toNat) b cnt d) stop (chunkEntries (getCore s n.toNat) b cnt p6 d) cost
  have hm := blkCommit_moved s3 n.toNat b (chunkDone (getCore s n.toNat) b cnt d) stop (chunkEntries (getCore s n.toNat) b cnt p6 d) cost
  refine ⟨blkStep s n.toNat b, ?_, ?_, ?_, fun hop h4 => ?_⟩
  · rw [exec_blockChunk hb, hi, hw]
    exact if_neg (not_not_intro hw)
  · rw [hk, hm.left, hc.readG_eq]
  · rw [hk, hsb, hc.sb_eq]
  · have hd : chunkDone (getCore s n.toNat) b cnt d = cnt := by
      unfold chunkDone
      obtain h | h := hop <;> rw [h]
    rw [hk, ← hc.pc_eq]
    refine hend ?_
    rw [hc.readG_eq, hd, h4]
    exact BitVec.sub_self _

theorem blockChunk_parity {n : BitVec 8} {s : State} {b : Blk} (hb : (getCore s n.toNat).blk = some b) (hi : blkIdle s n.toNat b = false) :
    ∃ t, exec (.blockChunk n true) s = .next t ∧ (getCore t n.toNat).dead = some 0 ∧ (getCore t n.toNat).upatch.getLsbD 2 = true := by
  obtain ⟨-, hd, hu⟩ := patchParity_core s n.toNat
  refine ⟨patchParity s n.toNat, ?_, hd, ?_⟩
  · rw [exec_blockChunk hb, hi]
    rfl
  · rw [hu, BitVec.getLsbD_or, show (4 : Word64).getLsbD 2 = true from rfl, Bool.or_true]

/-! ### Invalidations of TLBs (R242, R243) -/

/-- A TLB entry that an invalidation does not cover. -/
def unhit (i : InvScope) (e : TlbEnt) : Bool := !invHits i e.guest e.tag e.lvl e.vpn

/-- The core's TLBs and walk cache without what an invalidation covers. -/
def purged (i : InvScope) (c : Core) : Core :=
  { c with itlb := c.itlb.filter (unhit i), dtlb := c.dtlb.filter (unhit i), l2tlb := c.l2tlb.filter (unhit i)
           wcache := c.wcache.filter (fun e => !invHits i e.guest e.tag e.lvl e.vpn) }

/-- The class F entry buffer emptied where it used a removed translation (R201). -/
def unready (i : InvScope) (c : Core) : Core :=
  match c.fbuf with
  | some f => if c.fready && invHitsF i f then { c with fready := false } else c
  | none => c

/-- A walk that the invalidation covers, begun again (R240, R244). -/
def rewalk (s : State) (n : Nat) (i : InvScope) (c : Core) : Core :=
  match c.walk with
  | some w =>
    if walkCovered i w then
      let (lv, tb, _) := walkStart (setCore s n c) n ⟨w.guest, w.tag, w.asn⟩ w.lin.toNat
      { dropMicro c with walk := some { w with lvl := lv, table := tb } }
    else c
  | none => c

theorem invalidate_eq (s : State) (n : Nat) (i : InvScope) : invalidate s n i =
    setCore (modCore s n (purged i)) n (rewalk (modCore s n (purged i)) n i (unready i (getCore (modCore s n (purged i)) n))) := rfl

/-- What an invalidation leaves of a core, beyond what it purges: its TLBs, its accesses and stores, and its registers. -/
structure KeepsTlb (c x : Core) : Prop where
  itlb : x.itlb = c.itlb
  dtlb : x.dtlb = c.dtlb
  l2tlb : x.l2tlb = c.l2tlb
  wcache : x.wcache = c.wcache
  accs : x.accs = c.accs
  sb : x.sb = c.sb
  ackWait : x.ackWait = c.ackWait
  regs : ∀ r b, readGb x r b = readGb c r b

theorem KeepsTlb.trans {c x z : Core} (h : KeepsTlb c x) (k : KeepsTlb x z) : KeepsTlb c z :=
  ⟨k.itlb.trans h.itlb, k.dtlb.trans h.dtlb, k.l2tlb.trans h.l2tlb, k.wcache.trans h.wcache, k.accs.trans h.accs, k.sb.trans h.sb,
    k.ackWait.trans h.ackWait, fun r b => (k.regs r b).trans (h.regs r b)⟩

theorem KeepsTlb.refl (c : Core) : KeepsTlb c c := ⟨rfl, rfl, rfl, rfl, rfl, rfl, rfl, fun _ _ => rfl⟩

theorem unready_keeps (i : InvScope) (c : Core) : KeepsTlb c (unready i c) := by
  unfold unready
  split
  · split
    · exact ⟨rfl, rfl, rfl, rfl, rfl, rfl, rfl, fun _ _ => rfl⟩
    · exact .refl c
  · exact .refl c

theorem rewalk_keeps (s : State) (n : Nat) (i : InvScope) (c : Core) : KeepsTlb c (rewalk s n i c) := by
  unfold rewalk
  split
  · split
    · exact ⟨rfl, rfl, rfl, rfl, rfl, rfl, rfl, fun _ _ => rfl⟩
    · exact .refl c
  · exact .refl c

theorem invalidate_core (s : State) (n : Nat) (i : InvScope) : KeepsTlb (purged i (getCore s n)) (getCore (invalidate s n i) n) := by
  have h := (unready_keeps i (getCore (modCore s n (purged i)) n)).trans (rewalk_keeps (modCore s n (purged i)) n i _)
  rw [invalidate_eq, getCore_setCore, if_pos rfl]
  rwa [show getCore (modCore s n (purged i)) n = purged i (getCore s n) by unfold modCore; rw [getCore_setCore, if_pos rfl]] at h ⊢

/-- The state in which an invalidation has arrived. -/
def invTaken (s : State) (n : BitVec 8) (v : TlbInv) : State :=
  received { s with invNet := s.invNet.erase (BitVec.ofNat 8 n.toNat, v) } (courseOf { s with invNet := s.invNet.erase (BitVec.ofNat 8 n.toNat, v) } n.toNat) v.short

theorem invTaken_eq (s : State) (n : BitVec 8) (v : TlbInv) : ∃ ag, invTaken s n v = { s with invNet := s.invNet.erase (n, v), agents := ag } := by
  obtain ⟨ag, e⟩ := received_eq { s with invNet := s.invNet.erase (BitVec.ofNat 8 n.toNat, v) }
    (courseOf { s with invNet := s.invNet.erase (BitVec.ofNat 8 n.toNat, v) } n.toNat) v.short
  refine ⟨ag, e.trans ?_⟩
  rw [ofNat_logical]

/-- The acknowledgement owed for an invalidation (R242, step 5). -/
def owing (v : TlbInv) (ls : List LineNo) (c : Core) : Core := { c with ackWait := c.ackWait ++ [(v.from_, c.accs.map (·.idx), c.sb.length, ls)] }

theorem tlbInvalidate_eq (s : State) (n : BitVec 8) (v : TlbInv) : tlbInvalidate s n.toNat v =
    modCore (invalidate (invTaken s n v) n.toNat v.scope) n.toNat (owing v (linesAsked (invTaken s n v) n.toNat)) := rfl

/-- The TLB_INVs on their way and the bytes of DRAM. -/
def offCore (s : State) : List (Logical × TlbInv) × List Host.Cell := (s.invNet, s.mem)

theorem offCore_setCore (s : State) (n : Nat) (c : Core) : offCore (setCore s n c) = offCore s := rfl

theorem offCore_tlbInvalidate (s : State) (n : BitVec 8) (v : TlbInv) : offCore (tlbInvalidate s n.toNat v) = (s.invNet.erase (n, v), s.mem) := by
  obtain ⟨ag, ht⟩ := invTaken_eq s n v
  rw [tlbInvalidate_eq, modCore, offCore_setCore, invalidate_eq, offCore_setCore, modCore, offCore_setCore, ht]
  rfl

/-- A core that owes an acknowledgement, its TLBs purged. -/
theorem owing_of_purged {c x : Core} {v : TlbInv} {ls : List LineNo} (hk : KeepsTlb (purged v.scope c) x) :
    (owing v ls x).ackWait = c.ackWait ++ [(v.from_, c.accs.map (·.idx), c.sb.length, ls)] ∧
    (owing v ls x).itlb = c.itlb.filter (unhit v.scope) ∧ (owing v ls x).dtlb = c.dtlb.filter (unhit v.scope) ∧
    (owing v ls x).l2tlb = c.l2tlb.filter (unhit v.scope) ∧
    (owing v ls x).wcache = c.wcache.filter (fun e => !invHits v.scope e.guest e.tag e.lvl e.vpn) ∧
    ∀ r b, readGb (owing v ls x) r b = readGb c r b := by
  refine ⟨?_, hk.itlb, hk.dtlb, hk.l2tlb, hk.wcache, hk.regs⟩
  unfold owing
  rw [hk.ackWait, hk.accs, hk.sb]
  rfl

theorem tlbInvalidate_core (n : BitVec 8) (v : TlbInv) (s : State) : ∃ x, KeepsTlb (purged v.scope (getCore s n.toNat)) x ∧
    getCore (tlbInvalidate s n.toNat v) n.toNat = owing v (linesAsked s n.toNat) x := by
  obtain ⟨ag, ht⟩ := invTaken_eq s n v
  have hk := invalidate_core (invTaken s n v) n.toNat v.scope
  have hl : linesAsked (invTaken s n v) n.toNat = linesAsked s n.toNat := by rw [ht]; rfl
  rw [show getCore (invTaken s n v) n.toNat = getCore s n.toNat by rw [ht]; rfl] at hk
  refine ⟨_, hk, ?_⟩
  rw [tlbInvalidate_eq, hl, modCore, getCore_setCore, if_pos rfl]

theorem not_hit_of_unhit {i : InvScope} {l : List TlbEnt} : ∀ e ∈ l.filter (unhit i), invHits i e.guest e.tag e.lvl e.vpn = false := fun e he => by
  have h := (List.mem_filter.1 he).2
  unfold unhit at h
  rwa [Bool.not_eq_true'] at h

/-! ### Acknowledgements (R135, R242) -/

/-- An acknowledgement of an invalidation at its executing core. -/
def tlbAcked (m : Nat) (c : Core) : Core :=
  match c.busy with
  | .tlb w => { c with busy := if w &&& ~~~(BitVec.ofNat 256 (2 ^ m)) = 0 then .none else .tlb (w &&& ~~~(BitVec.ofNat 256 (2 ^ m))) }
  | _ => c

/-- What is owed to a core, gone from another's list. -/
def ackSent (n : Nat) (c : Core) : Core := { c with ackWait := c.ackWait.filter (fun e => e.1.toNat != n) }

theorem ackSent_none {n : Nat} {c : Core} (h : c.ackWait = []) : ackSent n c = c := by
  cases c
  cases h
  rfl

theorem tlbAck_eq {s : State} {n m : Nat} (hi : s.invNet = []) (ha : (getCore s m).ackWait = []) :
    tlbAck s n m = modCore (modCore s m (ackSent n)) n (tlbAcked m) := by
  have hr : ackReady s m (BitVec.ofNat 8 n) = true := by
    unfold ackReady
    dsimp only
    rw [ha]
    rfl
  unfold tlbAck
  rw [hi, hr]
  rfl

theorem regsOf_tlbAcked (m : Nat) (c : Core) : regsOf (tlbAcked m c) = regsOf c := by
  unfold tlbAcked
  split <;> rfl

theorem tlbInvAck_effect {n m : BitVec 8} {s : State} {w : BitVec 256} (hb : (getCore s n.toNat).busy = .tlb w) (hi : s.invNet = [])
    (ha : (getCore s m.toNat).ackWait = []) : ∃ t, exec (.tlbInvAck n m) s = .next (advance t n.toNat) ∧ RegsKept s t ∧ (getCore t n.toNat).busy =
      (if w &&& ~~~(BitVec.ofNat 256 (2 ^ m.toNat)) = 0 then .none else .tlb (w &&& ~~~(BitVec.ofNat 256 (2 ^ m.toNat)))) := by
  have hs : RegsKept s (modCore s m.toNat (ackSent n.toNat)) := by
    unfold modCore
    refine ⟨fun k => ?_, fun a => memRead_setCore ..⟩
    rw [getCore_setCore]
    split
    · subst k
      rw [ackSent_none ha]
    · rfl
  refine ⟨_, rfl, ?_, ?_⟩
  · rw [tlbAck_eq hi ha]
    exact regsKept_trans hs (regsKept_modCore (regsOf_tlbAcked m.toNat))
  · have hn : (getCore (modCore s m.toNat (ackSent n.toNat)) n.toNat).busy = .tlb w := by
      unfold modCore
      rw [getCore_setCore]
      split
      · rename_i h
        rw [← h]
        exact hb
      · exact hb
    rw [tlbAck_eq hi ha]
    generalize modCore s m.toNat (ackSent n.toNat) = u at hn
    unfold modCore tlbAcked
    rw [getCore_setCore, if_pos rfl, hn]

/-! ### ICINV (R135) -/

/-- A core without a line in its L1I. -/
def icPurged (line : LineNo) (c : Core) : Core := { c with l1i := c.l1i.filter (fun e => e.1 != line) }

theorem regsOf_icPurged (line : LineNo) (c : Core) : regsOf (icPurged line c) = regsOf c := rfl

/-- The line gone from the L1I of the cores of a list. -/
def icPurge (line : LineNo) (l : List Nat) (s : State) : State := l.foldl (fun s j => modCore s j (icPurged line)) s

theorem icPurge_regsKept (line : LineNo) (l : List Nat) (s : State) : RegsKept s (icPurge line l s) :=
  regsKept_foldl (fun _ _ => regsKept_modCore (regsOf_icPurged line)) l s

theorem icPurged_clean (line : LineNo) (c : Core) : ∀ e ∈ (icPurged line c).l1i, e.1 ≠ line := fun e he => by
  have h := (List.mem_filter.1 he).2
  simpa using h

theorem icPurge_clean (line : LineNo) (l : List Nat) (s : State) (j : Nat)
    (h : j ∈ l ∨ ∀ e ∈ (getCore s j).l1i, e.1 ≠ line) : ∀ e ∈ (getCore (icPurge line l s) j).l1i, e.1 ≠ line := by
  induction l generalizing s with
  | nil => exact h.resolve_left List.not_mem_nil
  | cons i r ih =>
    refine ih _ ?_
    by_cases hji : j = i
    · subst hji
      refine .inr ?_
      unfold modCore
      rw [getCore_setCore, if_pos rfl]
      exact icPurged_clean line _
    · refine h.imp (fun hm => ?_) fun hc => ?_
      · exact (List.mem_cons.1 hm).resolve_left hji
      · unfold modCore
        rwa [getCore_setCore, if_neg hji]

theorem icinvAt_eq (s : State) (k : Nat) (n : Logical) (line : LineNo) : ∃ ag ic, icinvAt s k n line =
    icPurge line (coresOf s k) { s with icNet := ic, agents := ag } := by
  unfold icinvAt
  split
  · rename_i e _
    obtain ⟨ag, he⟩ := received_eq { s with icNet := s.icNet.erase e } k e.2.2.2
    refine ⟨ag, s.icNet.erase e, ?_⟩
    dsimp only
    rw [he]
    rfl
  · exact ⟨s.agents, s.icNet, rfl⟩

theorem icinvBroadcast_effect (n : BitVec 8) (course : BitVec 5) (line : LineNo) (s : State) : ∃ t, exec (.icinvBroadcast course n line) s = .next t ∧
    RegsKept s t ∧ ∀ j ∈ coresOf s course.toNat, ∀ e ∈ (getCore t j).l1i, e.1 ≠ line := by
  obtain ⟨ag, ic, e⟩ := icinvAt_eq s course.toNat n line
  refine ⟨_, rfl, ?_, fun j hj => ?_⟩ <;> rw [e]
  · exact regsKept_trans (regsKept_of_tables (t := { s with icNet := ic, agents := ag }) rfl rfl) (icPurge_regsKept ..)
  · exact icPurge_clean line _ _ j (.inl hj)

/-- An acknowledgement of an ICINV at its executing core. -/
def icAcked (k : Nat) (c : Core) : Core :=
  match c.busy with
  | .icinv w =>
    if w &&& ~~~(BitVec.ofNat 32 (2 ^ k)) = 0 then { c with busy := .none, word := [] } else { c with busy := .icinv (w &&& ~~~(BitVec.ofNat 32 (2 ^ k))) }
  | _ => c

theorem regsOf_icAcked (k : Nat) (c : Core) : regsOf (icAcked k c) = regsOf c := by
  unfold icAcked
  split
  · split <;> rfl
  · rfl

theorem icinvAck_effect {n : BitVec 8} {course : BitVec 5} {s : State} {w : BitVec 32} (hb : (getCore s n.toNat).busy = .icinv w) (hi : s.icNet = []) :
    ∃ t, exec (.icinvAck n course) s = .next (advance t n.toNat) ∧ RegsKept s t ∧ (getCore t n.toNat).busy =
      (if w &&& ~~~(BitVec.ofNat 32 (2 ^ course.toNat)) = 0 then .none else .icinv (w &&& ~~~(BitVec.ofNat 32 (2 ^ course.toNat)))) := by
  have e : icinvAck s n.toNat course.toNat = modCore s n.toNat (icAcked course.toNat) := by
    unfold icinvAck
    rw [hi]
    rfl
  refine ⟨_, rfl, ?_, ?_⟩ <;> rw [e]
  · exact regsKept_modCore (regsOf_icAcked course.toNat)
  · unfold modCore icAcked
    rw [getCore_setCore, if_pos rfl, hb]
    dsimp only
    split <;> rfl

/-- Settles O27: a chunk moves the registers by the elements that it has done; each message of an invalidation by what it leaves. -/
theorem chunksAndInvalidations : Obligations.ChunksAndInvalidations := by
  constructor
  · intro n s k c
    refine ⟨fun e h => blockChunk_idle h e, fun b h => ?_, fun b cnt p5 p6 d s3 hb hs hr hd ho ht he hof hw how hl hrdy => ?_,
      fun b hb hr hd ho ht he hof hw hl => ?_⟩
    · obtain ⟨t, u, done, hx, hu, hd, hm⟩ := blockChunk_moves h
      exact ⟨t, u, done, hx, hu, hd, hm.bytes, hm.cores, hm.left, hm.from5, hm.from6, hm.rest⟩
    · exact blockChunk_ready hb (blkIdle_eq_false hr hd ho ht he hw hl (blkStopped_of_stop hs)) hs hof how hrdy
    · exact blockChunk_parity hb (blkIdle_eq_false hr hd ho ht he hw hl (blkStopped_of_offer hof))
  · intro n m v course line s k c gone
    refine ⟨?_, fun w hb hi ha => tlbInvAck_effect hb hi ha, icinvBroadcast_effect n course line s, fun w hb hi => icinvAck_effect hb hi⟩
    obtain ⟨x, hk, hc⟩ := tlbInvalidate_core n v s
    obtain ⟨ha, hit, hdt, hl2, hwc, hr⟩ := owing_of_purged (ls := linesAsked s n.toNat) hk
    rw [← hc] at ha hit hdt hl2 hwc hr
    have ho := offCore_tlbInvalidate s n v
    refine ⟨_, rfl, congrArg Prod.fst ho, ?_, ?_, ?_, fun e he => ?_, ha, hr, memRead_congr (congrArg Prod.snd ho)⟩
    · rw [hit]
      exact not_hit_of_unhit
    · rw [hdt]
      exact not_hit_of_unhit
    · rw [hl2]
      exact not_hit_of_unhit
    · rw [hwc] at he
      simpa using (List.mem_filter.1 he).2

end Sys2Proof.Operations
end
